-- ==== Sys2Proof/Word.lean ====
section
/-! DEFINITION. The word types of the machine and their plainest arithmetic (R6, R11, R150). -/

namespace Sys2Proof

/-- One byte of memory (R6). -/
abbrev Byte := BitVec 8
/-- One vector register (R66). -/
abbrev Word := BitVec 32
/-- A 64-bit value: a register pair, a scalar register, a system register (R66). -/
abbrev Dword := BitVec 64
/-- A program counter in the form of R150. -/
abbrev Pc := BitVec 64

end Sys2Proof
end

