-- ==== Sys2Proof/Machine/Tab.lean ====
section
/-! DEFINITION. Sparse tables: lists of key and value pairs with strictly rising keys, as plain data. What an absent key
means is said where a table is used. Also the byte and bit helpers that every family uses. -/

namespace Sys2Proof.Machine

/-- A sparse table, keys strictly rising. -/
abbrev Tab (α : Type) := List (Nat × α)

/-- The entry at a key. -/
def Tab.look {α : Type} : Tab α → Nat → Option α
  | [], _ => none
  | (k, v) :: t, q => if k = q then some v else Tab.look t q

/-- The entry at a key, or what an absent key reads as. -/
def Tab.get {α : Type} (t : Tab α) (q : Nat) (d : α) : α := (Tab.look t q).getD d

/-- The table with one entry set. -/
def Tab.set {α : Type} : Tab α → Nat → α → Tab α
  | [], q, v => [(q, v)]
  | (k, w) :: t, q, v => if q < k then (q, v) :: (k, w) :: t else if q = k then (q, v) :: t else (k, w) :: Tab.set t q v

/-- The table without one entry. -/
def Tab.del {α : Type} : Tab α → Nat → Tab α
  | [], _ => []
  | (k, w) :: t, q => if k = q then t else (k, w) :: Tab.del t q

/-- The table with one entry changed, where it is present. -/
def Tab.upd {α : Type} : Tab α → Nat → (α → α) → Tab α
  | [], _, _ => []
  | (k, w) :: t, q, g => if k = q then (k, g w) :: t else (k, w) :: Tab.upd t q g

/-- Every entry changed. -/
def Tab.mapv {α : Type} (t : Tab α) (g : α → α) : Tab α := List.map (fun p => (p.1, g p.2)) t

/-- The values in rising order of key. -/
def Tab.vals {α : Type} (t : Tab α) : List α := List.map Prod.snd t

/-- The keys, rising. -/
def Tab.keys {α : Type} (t : Tab α) : List Nat := List.map Prod.fst t

/-- Every key of the list lies above `lo`, and the keys rise strictly. -/
def Tab.risesFrom {α : Type} : Option Nat → Tab α → Bool
  | _, [] => true
  | lo, (k, _) :: t => (match lo with | none => true | some l => decide (l < k)) && Tab.risesFrom (some k) t

/-- The lowest natural number below `n` that satisfies a test. -/
def lowest (n : Nat) (p : Nat → Bool) : Option Nat := List.find? p (List.range n)

/-- The first `n` naturals that satisfy a test, below a limit. -/
def lowestSome (limit n : Nat) (p : Nat → Bool) : List Nat := ((List.range limit).filter p).take n

/-- Insert a natural number into a rising list without repeats. -/
def insertNat : Nat → List Nat → List Nat
  | x, [] => [x]
  | x, y :: t => if x < y then x :: y :: t else if x = y then y :: t else y :: insertNat x t

/-- Bytes of a number, least significant first (R6: memory is little-endian). -/
def bytesOf : Nat → Nat → List Byte
  | 0, _ => []
  | n + 1, v => BitVec.ofNat 8 v :: bytesOf n (v / 256)

/-- The number that bytes hold, least significant first (R6). -/
def ofBytes : List Byte → Nat
  | [] => 0
  | b :: t => b.toNat + 256 * ofBytes t

/-- Bits [lo + len - 1 : lo] of a number. -/
def bits (v lo len : Nat) : Nat := (v >>> lo) % 2 ^ len

/-- Bit `i` of a number. -/
def bit (v i : Nat) : Bool := Nat.testBit v i

/-- Registers hold a value of `4 * n` bytes, the low word first (R66). -/
def wordsOf : Nat → Nat → List Word
  | 0, _ => []
  | n + 1, v => BitVec.ofNat 32 v :: wordsOf n (v / 4294967296)

/-- The number that consecutive registers hold, the low word first (R66). -/
def ofWords : List Word → Nat
  | [] => 0
  | w :: t => w.toNat + 4294967296 * ofWords t

/-- The two's-complement reading of the low `w` bits. -/
def signed (w v : Nat) : Int := let x := v % 2 ^ w; if 2 * x < 2 ^ w then (x : Int) else (x : Int) - (2 ^ w : Nat)

/-- The low `w` bits of an integer (R68: wrap). -/
def wrap (w : Nat) (x : Int) : Nat := (x % ((2 ^ w : Nat) : Int)).toNat

/-- Sext of a 32-bit field as an integer. -/
def sext32 (x : BitVec 32) : Int := signed 32 x.toNat

/-- Positions of the one bits of a mask of `n` bits, rising. -/
def onesOf (n v : Nat) : List Nat := (List.range n).filter (fun i => Nat.testBit v i)

/-- The number of one bits among the low `n` bits. -/
def popCount (n v : Nat) : Nat := (onesOf n v).length

/-- A mask with the given bits set. -/
def maskOf (l : List Nat) : Nat := l.foldl (fun m i => m ||| 2 ^ i) 0

/-- Smallest element of a list by a measure; the first of equals. -/
def minBy {α : Type} (g : α → Nat) : List α → Option α
  | [] => none
  | a :: t => match minBy g t with
    | none => some a
    | some b => if g b < g a then some b else some a

/-- Insert by a measure, after equals. -/
def insertBy {α : Type} (g : α → Nat) (a : α) : List α → List α
  | [] => [a]
  | b :: t => if g a < g b then a :: b :: t else b :: insertBy g a t

/-- A stable sort by a measure. -/
def sortBy {α : Type} (g : α → Nat) (l : List α) : List α := l.foldl (fun acc a => insertBy g a acc) []

end Sys2Proof.Machine
end

