-- ==== Sys2Proof/Config.lean ====
section
/-! DEFINITION. What an implementation fixes and the free values: opaque constants without a body, of which
nothing can be computed or proved. A statement that holds, holds for every value of them. -/

namespace Sys2Proof.Config

/-- A byte of which the spec gives no value (the bytes of a save image, R435; bytes that another package or a device
supplies). Applied to a counter of State, so that each use is a fresh value. Assumption log 2. -/
opaque freeByte : Nat → Byte

/-- A 64-bit value that the spec leaves open, applied to a counter of State. Assumption log 2. -/
opaque freeDword : Nat → Dword

/-- The bits written by a correctly rounded function (R292) for an input at which the model's interval arithmetic does
not settle the rounding at its last precision: unconstrained, so that no statement rests on a guess. Applied to the
opcode and the input bits. Assumption log 3. -/
opaque unsettled : Nat → Word → Word

/-- The payload of a management answer whose contents the cited standards, not the spec, fix (R482, R483): one byte
string for each request of a session. Assumption log 7. -/
opaque answer : Nat → List Byte

/-- SHA-384 of a byte string, which the spec names and does not define (R457, R482). Assumption log 7. -/
opaque sha384 : List Byte → BitVec 384

end Sys2Proof.Config
end

