-- ==== Sys2Proof/Syntax.lean ====
section
/-! DEFINITION. The syntax: one constructor for each row of the table of operations and events. Vector-core
instructions carry the fields of their slot (R162); host instructions their register numbers (R231, R348); the steps
of the machine and of its surroundings carry what the outside decides; those that only act on an object of the machine find its number in the state's `sel`
(the field-less constructors, which stand last). -/

namespace Sys2Proof

/-- The fields of an instruction slot other than OP (R162). `t` is split into SUB and TYPE. -/
structure Slot where
  /-- GP, the guard predicate. -/
  gp : BitVec 7
  /-- GS, the guard sense: true executes where the predicate is false. -/
  gs : Bool
  d : BitVec 8
  a : BitVec 8
  b : BitVec 8
  c : BitVec 8
  /-- M, the modifier field (R167), bit 0 here is slot bit 48. -/
  m : BitVec 8
  /-- TYPE (R166). -/
  ty : BitVec 5
  /-- SUB, the sub-operation. -/
  sub : BitVec 3
  i32 : BitVec 32
  deriving DecidableEq, Repr

/-- The type codes of R166. -/
inductive Ty where
  | none | s8 | s16 | s32 | s64 | n8 | n16 | n32 | n64 | b32 | b64 | f16 | bf16 | f32 | f64
  | f8e4 | f8e5 | xf4 | mxf4 | b128 | f16x2 | bf16x2
  deriving DecidableEq, Repr

/-- Who writes a device register (R454, R460): the world and whether it is the controller. -/
structure Writer where
  controller : Bool
  secure : Bool
  deriving DecidableEq, Repr

/-- A collective round's header, compared between members (R469): operation and type, length, root. -/
structure CollHeader where
  bcast : Bool
  op : Nat
  ty : Nat
  len : Nat
  root : Nat
  deriving DecidableEq, Repr

/-- What the controller's sensors report (R483). -/
inductive Sensor where
  | power | temperature | coolantFlow
  deriving DecidableEq, Repr

/-- What boot takes from outside the package (R457): fuses, straps, the retired-share table and the host firmware. -/
structure Boot where
  /-- Failed lane slices of each core, as fuses hold them (R53). -/
  fuses : List (Nat × List Nat)
  package : BitVec 3
  present : BitVec 8
  linkUp : BitVec 7
  retired : List Nat
  hostSecure : BitVec 64
  firmware : List Byte
  /-- The measurements that the controller records (R457 step 1, R482). -/
  measurements : List (Nat × Nat)
  /-- The controller's own image, and the host firmware's, pass their verification (R457 steps 1 and 4). -/
  ownVerified : Bool
  hostVerified : Bool
  /-- The controller's dynamic address on the management bus (R483). -/
  address : BitVec 7
  deriving DecidableEq, Repr

/-- The table of operations and events, a constructor for each row. -/
inductive Instr where
  /-- NOP (R172). All-zero slot that has no effect and writes nothing. -/
  | nop (f : Slot)
  /-- BRA (R195). Branches each executing lane to the PC at a signed instruction offset; the group diverges if the lanes' next PCs differ. -/
  | bra (f : Slot)
  /-- BRX (R198). Branches each executing lane through an in-memory table indexed by a register, with per-page fault records for the table reads. -/
  | brx (f : Slot)
  /-- CALL (R196). Writes NextPc to a link pair and branches to an instruction offset. -/
  | call (f : Slot)
  /-- CALLX (R198). Writes a link pair and branches through an indexed table. -/
  | callx (f : Slot)
  /-- RET (R199). Transfers each executing lane to the PC held in a link pair, checked by R152. -/
  | ret (f : Slot)
  /-- EXIT (R200). Each executing thread leaves its group and barrier counts; its slot is freed when its outstanding work completes. -/
  | exit (f : Slot)
  /-- TRAP (R201). Each executing lane takes USERTRAP with a 16-bit code. -/
  | trap (f : Slot)
  /-- REFORM (R202). Files every executing thread for NextPc after the flag wait and invalidates the group's scalars. -/
  | reform (f : Slot)
  /-- YIELD (R203). Acts as REFORM and sets a release condition on each cove it files into. -/
  | yield (f : Slot)
  /-- SPAWN (R206). Creates one child thread per executing lane from the block's spawn pool at an entry PC, copying v0 to v7. -/
  | spawn (f : Slot)
  /-- LAUNCH (R208). Each executing lane submits a 128-byte launch record and receives a handle. -/
  | launch (f : Slot)
  /-- LWAIT (R212). Waits until the launch named by a handle reaches a final state and returns its state word. -/
  | lwait (f : Slot)
  /-- LSTAT (R212). Returns the current state word of the launch named by a handle. -/
  | lstat (f : Slot)
  /-- SREG (R229). Writes a special value chosen by a selector to each executing lane. -/
  | sreg (f : Slot)
  /-- IADD (R216). Integer addition, wrapped or saturated. -/
  | iadd (f : Slot)
  /-- ISUB (R216). Integer subtraction, wrapped or saturated. -/
  | isub (f : Slot)
  /-- IMUL (R216). Integer multiplication, wrapped or saturated. -/
  | imul (f : Slot)
  /-- IMULH (R217). Writes the high 32 bits of the exact product. -/
  | imulh (f : Slot)
  /-- IMAD (R216). Integer multiply-add, clamped or wrapped once. -/
  | imad (f : Slot)
  /-- IDIV (R218). Variable-latency integer quotient or remainder with defined results for zero divisors and overflow. -/
  | idiv (f : Slot)
  /-- IMIN (R217). Writes the smaller operand as the type reads it. -/
  | imin (f : Slot)
  /-- IMAX (R217). Writes the larger operand as the type reads it. -/
  | imax (f : Slot)
  /-- IABS (R216). Writes the absolute value, wrapped or saturated. -/
  | iabs (f : Slot)
  /-- INEG (R216). Writes 0 minus the operand, wrapped or saturated. -/
  | ineg (f : Slot)
  /-- AND (R215). Bitwise AND. -/
  | and (f : Slot)
  /-- OR (R215). Bitwise OR. -/
  | or (f : Slot)
  /-- XOR (R215). Bitwise exclusive OR. -/
  | xor (f : Slot)
  /-- NOT (R215). Bitwise complement. -/
  | not (f : Slot)
  /-- SHL (R219). Logical shift left. -/
  | shl (f : Slot)
  /-- SHR (R219). Logical shift right. -/
  | shr (f : Slot)
  /-- SAR (R219). Arithmetic shift right. -/
  | sar (f : Slot)
  /-- ROT (R219). Rotate left by the count modulo the width. -/
  | rot (f : Slot)
  /-- BFE (R220). Extracts a bit field, zero- or sign-extended. -/
  | bfe (f : Slot)
  /-- BFI (R220). Inserts a bit field into C. -/
  | bfi (f : Slot)
  /-- POPC (R215). Counts one bits. -/
  | popc (f : Slot)
  /-- CLZ (R215). Counts leading zero bits. -/
  | clz (f : Slot)
  /-- BREV (R215). Reverses the bit order. -/
  | brev (f : Slot)
  /-- ISEL (R221). Selects A or B by a predicate. -/
  | isel (f : Slot)
  /-- ICMP (R221). Writes a predicate from an integer comparison ANDed with pC. -/
  | icmp (f : Slot)
  /-- IADD64 (R222). 64-bit addition of a pair and a pair or extended 32-bit value. -/
  | iadd64 (f : Slot)
  /-- IMAD64 (R222). 64-bit multiply-add of extended 32-bit operands and a pair. -/
  | imad64 (f : Slot)
  /-- LEA (R222). Adds an extended, shifted 32-bit index to a 64-bit address. -/
  | lea (f : Slot)
  /-- MOV (R223). Copies source bits unchanged. -/
  | mov (f : Slot)
  /-- MOVI (R223). Writes the immediate formed by R170. -/
  | movi (f : Slot)
  /-- PSET (R224). Sets a predicate to B not equal to zero. -/
  | pset (f : Slot)
  /-- PAND (R224). Predicate AND, optionally with B negated. -/
  | pand (f : Slot)
  /-- POR (R224). Predicate OR, optionally with B negated. -/
  | por (f : Slot)
  /-- PXOR (R224). Predicate XOR, optionally with B negated. -/
  | pxor (f : Slot)
  /-- PNOT (R224). Predicate NOT. -/
  | pnot (f : Slot)
  /-- PMOV (R224). Predicate copy. -/
  | pmov (f : Slot)
  /-- PBALLOT (R225). Writes a 64-bit mask of executing lanes whose predicate is true. -/
  | pballot (f : Slot)
  /-- PANY (R225). Writes true if the predicate is true in any executing lane. -/
  | pany (f : Slot)
  /-- PALL (R225). Writes true if the predicate is true in every executing lane. -/
  | pall (f : Slot)
  /-- SMOVI (R227). Writes an immediate, or its high half, to a scalar register. -/
  | smovi (f : Slot)
  /-- SGET (R227). Writes a scalar register to a vector register in every lane. -/
  | sget (f : Slot)
  /-- SPUT (R227). Copies one lane's vector register into a scalar register. -/
  | sput (f : Slot)
  /-- SALU (R228). Scalar 64-bit arithmetic or logic operation. -/
  | salu (f : Slot)
  /-- SCMP (R227). Writes a predicate in every lane from a scalar comparison. -/
  | scmp (f : Slot)
  /-- FADD (R283). Floating-point addition rounded once. -/
  | fadd (f : Slot)
  /-- FSUB (R283). Floating-point subtraction rounded once. -/
  | fsub (f : Slot)
  /-- FMUL (R283). Floating-point multiplication rounded once. -/
  | fmul (f : Slot)
  /-- FMA (R283). Fused multiply-add rounded once. -/
  | fma (f : Slot)
  /-- FMIN (R284). Writes the smaller value, with -0 below +0 and NaN handling. -/
  | fmin (f : Slot)
  /-- FMAX (R284). Writes the larger value, with -0 below +0 and NaN handling. -/
  | fmax (f : Slot)
  /-- FABS (R285). Clears the sign bit of each element. -/
  | fabs (f : Slot)
  /-- FNEG (R285). Inverts the sign bit of each element. -/
  | fneg (f : Slot)
  /-- FCMP (R286). Writes a predicate from a floating-point comparison ANDed with pC. -/
  | fcmp (f : Slot)
  /-- FSEL (R285). Selects A or B by a predicate without changing bits. -/
  | fsel (f : Slot)
  /-- FCLASS (R287). Writes a one-hot class mask of the value. -/
  | fclass (f : Slot)
  /-- FSCALE (R288). Writes a times 2 to the k, rounded once. -/
  | fscale (f : Slot)
  /-- FRND (R289). Rounds to an integral value in the same format. -/
  | frnd (f : Slot)
  /-- FDOT2 (R290). Two-term dot product of packed halves plus C, rounded once to F32. -/
  | fdot2 (f : Slot)
  /-- FRCP (R291). Variable-latency reciprocal rounded once. -/
  | frcp (f : Slot)
  /-- FRSQ (R292). Variable-latency reciprocal square root, correctly rounded with RN. -/
  | frsq (f : Slot)
  /-- FSQRT (R291). Variable-latency square root rounded once. -/
  | fsqrt (f : Slot)
  /-- FDIV (R291). Variable-latency division rounded once. -/
  | fdiv (f : Slot)
  /-- FEXP2 (R292). Variable-latency base-2 exponential, correctly rounded. -/
  | fexp2 (f : Slot)
  /-- FLOG2 (R292). Variable-latency base-2 logarithm, correctly rounded. -/
  | flog2 (f : Slot)
  /-- FSIN (R292). Variable-latency sine, correctly rounded. -/
  | fsin (f : Slot)
  /-- FCOS (R292). Variable-latency cosine, correctly rounded. -/
  | fcos (f : Slot)
  /-- FTANH (R292). Variable-latency hyperbolic tangent, correctly rounded. -/
  | ftanh (f : Slot)
  /-- CVT (R295). Converts between floating-point and integer types. -/
  | cvt (f : Slot)
  /-- CVTS (R296). Converts to or from a narrow format with block scales from B. -/
  | cvts (f : Slot)
  /-- PACK (R297). Converts two values into packed element positions of D. -/
  | pack (f : Slot)
  /-- UNPACK (R298). Decodes one packed element exactly. -/
  | unpack (f : Slot)
  /-- QSWAP (R300). Quad operation exchanging values between lanes of a quad. -/
  | qswap (f : Slot)
  /-- QBCAST (R300). Quad operation broadcasting one lane's value within its quad. -/
  | qbcast (f : Slot)
  /-- SHFL (R301). Indexed shuffle within segments. -/
  | shfl (f : Slot)
  /-- SHFLUP (R301). Shuffle from k lanes below within segments. -/
  | shflup (f : Slot)
  /-- SHFLDN (R301). Shuffle from k lanes above within segments. -/
  | shfldn (f : Slot)
  /-- SHFLX (R301). Butterfly shuffle by XOR of the lane index. -/
  | shflx (f : Slot)
  /-- VOTE_UNI (R302). Writes true when every executing lane holds the same value. -/
  | voteUni (f : Slot)
  /-- VOTE_MATCH (R302). Writes a mask of executing lanes holding the same value as each lane. -/
  | voteMatch (f : Slot)
  /-- REDUX (R303). Reduces over the executing lanes by a fixed tree. -/
  | redux (f : Slot)
  /-- SCAN (R304). Inclusive or exclusive prefix over the executing lanes. -/
  | scan (f : Slot)
  /-- LD (R248). Loads from global memory per lane. -/
  | ld (f : Slot)
  /-- ST (R248). Posts a store to global memory per lane. -/
  | st (f : Slot)
  /-- LDS (R248). Loads from the block's scratchpad. -/
  | lds (f : Slot)
  /-- STS (R248). Stores to the block's scratchpad. -/
  | sts (f : Slot)
  /-- LDF_W (R249). Waits for a full granule and reads it, leaving it full. -/
  | ldfW (f : Slot)
  /-- LDF_C (R249). Waits for a full granule, reads it and sets it empty. -/
  | ldfC (f : Slot)
  /-- STF_W (R249). Waits for an empty granule, writes it and sets it full. -/
  | stfW (f : Slot)
  /-- STF_S (R249). Writes a granule and sets it full without waiting. -/
  | stfS (f : Slot)
  /-- FEMARK_EMPTY (R251). Sets every granule of a scratchpad range empty. -/
  | femarkEmpty (f : Slot)
  /-- FEMARK_FULL (R251). Sets every granule of a scratchpad range full. -/
  | femarkFull (f : Slot)
  /-- PREF_L1 (R252). Brings a line into the core's L1, or is dropped. -/
  | prefL1 (f : Slot)
  /-- PREF_TARN (R252). Brings a line into its Tarn at its home, or is dropped. -/
  | prefTarn (f : Slot)
  /-- ATOM (R255). Atomic read-modify-write returning the old value. -/
  | atom (f : Slot)
  /-- CAS (R255). Compare-and-swap returning the old value. -/
  | cas (f : Slot)
  /-- RED (R261). Atomic reduction at memory returning nothing, possibly merged in the network. -/
  | red (f : Slot)
  /-- POLL (R262). Reads a location with back-off until it meets a condition or a limit elapses. -/
  | poll (f : Slot)
  /-- COPY (R266). Group-wide asynchronous copy between global memory and scratchpad under range locks. -/
  | copy (f : Slot)
  /-- COPYM (R269). Group-wide multicast copy into the scratchpads of selected gang members. -/
  | copym (f : Slot)
  /-- DISCARD (R271). Discards every whole page of a range. -/
  | discard (f : Slot)
  /-- CFLUSH_WB (R253). Writes every dirty copy of a line to memory, keeping copies. -/
  | cflushWb (f : Slot)
  /-- CFLUSH_INV (R253). Writes back and drops every copy of a line. -/
  | cflushInv (f : Slot)
  /-- CINV (R254). Drops the core's L1 copy of a line. -/
  | cinv (f : Slot)
  /-- TARN_DEF (R117). Defines a retired Tarn from a TDB image. -/
  | tarnDef (f : Slot)
  /-- TARN_GROW (R117). Enlarges a Tarn's mapping and starts migration. -/
  | tarnGrow (f : Slot)
  /-- TARN_SHRINK (R117). Reduces a Tarn's mapping and starts migration. -/
  | tarnShrink (f : Slot)
  /-- TARN_MOVE (R117). Moves a Tarn to another mapping. -/
  | tarnMove (f : Slot)
  /-- TARN_RETIRE (R116). Starts draining a Tarn to RETIRED. -/
  | tarnRetire (f : Slot)
  /-- XLATE_INV_ATTR (R104). Drops attribute and translation entries and upper copies for a range. -/
  | xlateInvAttr (f : Slot)
  /-- XLATE_INV_LINES (R104). As ATTR, and writes back and invalidates every Tarn line of the range. -/
  | xlateInvLines (f : Slot)
  /-- XLATE_INV_ATTRALL (R275). XLATE.INV.ATTR over every address of an ASID. -/
  | xlateInvAttrall (f : Slot)
  /-- XLATE_INV_LINESALL (R275). XLATE.INV.LINES over every address of an ASID. -/
  | xlateInvLinesall (f : Slot)
  /-- POISON_CLEAR (R276). Writes zero to a whole line and clears its poison. -/
  | poisonClear (f : Slot)
  /-- FENCE (R325). Orders the thread's earlier accesses before its later ones at a scope. -/
  | fence (f : Slot)
  /-- BAR_ARRIVE (R328). Records each lane's arrival at a block barrier. -/
  | barArrive (f : Slot)
  /-- BAR_WAIT (R328). Waits until the phase of each pending arrival has completed. -/
  | barWait (f : Slot)
  /-- SBAR_ARRIVE (R332). Adds arrivals to a scratchpad stage-barrier word, completing the phase at EXPECTED. -/
  | sbarArrive (f : Slot)
  /-- SBAR_TEST (R332). Tests whether a stage barrier's phase differs from a token. -/
  | sbarTest (f : Slot)
  /-- SBAR_WAIT (R332). Waits until a stage barrier's phase differs from a token. -/
  | sbarWait (f : Slot)
  /-- TBEGIN (R335). Opens or nests a lane transaction and takes a snapshot. -/
  | tbegin (f : Slot)
  /-- TCOMMIT (R340). Commits depth-1 transactions of the executing lanes, resolving within the group and taking tickets. -/
  | tcommit (f : Slot)
  /-- TABORT (R346). Aborts the lane's transaction with EXPLICIT and a code. -/
  | tabort (f : Slot)
  /-- TSTAT (R343). Writes the lane's live transaction status. -/
  | tstat (f : Slot)
  /-- MWIN_ALLOC (R362). Allocates and zeroes a block's accumulator window. -/
  | mwinAlloc (f : Slot)
  /-- MWIN_SUB (R362). Narrows the group's AWBASE and AWLIMIT within the window. -/
  | mwinSub (f : Slot)
  /-- MWIN_FREE (R362). Frees the block's window when nothing is pending. -/
  | mwinFree (f : Slot)
  /-- MWIN_QUERY (R362). Reports the group's and block's window geometry. -/
  | mwinQuery (f : Slot)
  /-- OBRES (R367). Reserves operand-buffer granules and a record for a block. -/
  | obres (f : Slot)
  /-- OBFREE (R368). Returns a reservation slot's record and granules in entry order. -/
  | obfree (f : Slot)
  /-- MLOAD (R371). Loads scratchpad bytes into reservations of the block or of gang receivers. -/
  | mload (f : Slot)
  /-- MLOAD_PEER (R371). MLOAD that reads another gang member's scratchpad. -/
  | mloadPeer (f : Slot)
  /-- MMA (R376). Matrix multiply-accumulate of unscaled operand regions into window rows. -/
  | mma (f : Slot)
  /-- MMAS (R376). Matrix multiply-accumulate of block-scaled operand regions. -/
  | mmas (f : Slot)
  /-- MTRANS (R376). Accumulates the transpose of an operand region. -/
  | mtrans (f : Slot)
  /-- MPERM (R376). Accumulates a column permutation of an operand region. -/
  | mperm (f : Slot)
  /-- MRSUM (R376). Accumulates row sums of an operand region. -/
  | mrsum (f : Slot)
  /-- MZERO (R378). Zeroes rows of the window. -/
  | mzero (f : Slot)
  /-- MREAD (R379). Reads two accumulator words per lane into registers. -/
  | mread (f : Slot)
  /-- MWRITE (R379). Writes two accumulator words per lane from registers. -/
  | mwrite (f : Slot)
  /-- WEIR_OPEN (R392). Opens a Weir context from a descriptor and returns a handle. -/
  | weirOpen (f : Slot)
  /-- WEIR_PUSH (R393). Appends constraint records to a stream, assigning tickets per body. -/
  | weirPush (f : Slot)
  /-- WEIR_TAKE (R396). Requests one releasable constraint per executing lane. -/
  | weirTake (f : Slot)
  /-- WEIR_TAKE_G (R397). WEIR.TAKE that also gathers body state into scratchpad. -/
  | weirTakeG (f : Slot)
  /-- WEIR_DONE (R398). Makes each lane's constraint in hand done, advancing its bodies' HEAD. -/
  | weirDone (f : Slot)
  /-- WEIR_DONE_S (R398). Scatters body state back, then makes the constraints done. -/
  | weirDoneS (f : Slot)
  /-- WEIR_CLOSE_END (R401). Moves an OPEN context to CLOSED. -/
  | weirCloseEnd (f : Slot)
  /-- WEIR_CLOSE_KILL (R401). Frees a context at once, dropping its constraints. -/
  | weirCloseKill (f : Slot)
  /-- INLET_ADD (R406). Appends items to an Inlet list. -/
  | inletAdd (f : Slot)
  /-- INLET_TAKE (R407). Hands the oldest items of a list to executing lanes without waiting. -/
  | inletTake (f : Slot)
  /-- INLET_DONE (R408). Lowers a list's in-hand count per executing lane. -/
  | inletDone (f : Slot)
  /-- STILL_WAIT (R411). Waits until a Stillwater domain is QUIET and returns its EPOCH. -/
  | stillWait (f : Slot)
  /-- STILL_WAIT_TEST (R411). Reports at once whether a domain is QUIET. -/
  | stillWaitTest (f : Slot)
  /-- STILL_WAIT_HOLD (R411). Raises a domain's hold count. -/
  | stillWaitHold (f : Slot)
  /-- STILL_WAIT_UNHOLD (R411). Lowers a domain's hold count. -/
  | stillWaitUnhold (f : Slot)
  /-- CHAN_SEND (R414). Waits for free slots and appends one message per executing lane to a gang channel. -/
  | chanSend (f : Slot)
  /-- CHAN_RECV (R414). Waits for messages and removes one per executing lane from a gang channel. -/
  | chanRecv (f : Slot)
  /-- CTX_SAVE_LAUNCH (R447). Suspends a launch and saves its resident blocks. -/
  | ctxSaveLaunch (f : Slot)
  /-- CTX_SAVE_ASID (R447). Suspends an ASID and saves its resident blocks. -/
  | ctxSaveAsid (f : Slot)
  /-- CTX_SAVE_DIE (R447). Closes a die to placement and saves its resident blocks. -/
  | ctxSaveDie (f : Slot)
  /-- CTX_LOAD_LAUNCH (R447). Clears a launch's suspension. -/
  | ctxLoadLaunch (f : Slot)
  /-- CTX_LOAD_ASID (R447). Clears an ASID's suspension. -/
  | ctxLoadAsid (f : Slot)
  /-- CTX_LOAD_DIE (R447). Reopens a closed die to placement. -/
  | ctxLoadDie (f : Slot)
  /-- TRAPRET (R448). Returns from the trap handler to the resume PC. -/
  | trapret (f : Slot)
  /-- TRAPRET_TO (R448). Returns from the trap handler to a given PC, checked as a transfer. -/
  | trapretTo (f : Slot)
  /-- TRAPRET_GETPC (R448). Writes TRAPPC. -/
  | trapretGetpc (f : Slot)
  /-- TRAPRET_GETCAUSE (R448). Writes TRAPCAUSE. -/
  | trapretGetcause (f : Slot)
  /-- TRAPRET_GETADDR (R448). Writes TRAPADDR. -/
  | trapretGetaddr (f : Slot)
  /-- PRIO (R449). Lowers or restores the block's priority class. -/
  | prio (f : Slot)
  /-- COLL_ALLRED (R469). Submits an all-reduce round over a collective slot's ring. -/
  | collAllred (f : Slot)
  /-- COLL_BCAST (R470). Submits a broadcast round from a root package. -/
  | collBcast (f : Slot)
  /-- COLL_WAIT (R473). Waits for a round's end; traps with PEERLOST unless DONE. -/
  | collWait (f : Slot)
  /-- COLL_WAIT_S (R473). Waits for a round's end and writes its status word. -/
  | collWaitS (f : Slot)
  /-- COLL_REFORM (R474). Rebuilds a collective slot's ring among agreeing live members. -/
  | collReform (f : Slot)
  /-- XLAUNCH (R232). Host core submits a launch record and receives a handle. -/
  | xlaunch (rd rs1 : BitVec 5)
  /-- XLWAIT (R233). Host core stalls until a launch reaches a final state. -/
  | xlwait (rd rs1 : BitVec 5)
  /-- XFENCE (R234). Host fence of a given order at package or system scope. -/
  | xfence (ord : BitVec 2) (scope : BitVec 3)
  /-- XPOLL (R235). Host core reads a word with back-off until it differs from rs2. -/
  | xpoll (rd rs1 rs2 : BitVec 5)
  /-- XDISCARD (R236). Host core discards the whole pages of a range. -/
  | xdiscard (rs1 rs2 : BitVec 5)
  /-- XTX_BEGIN (R349). Opens or nests a host transaction with a snapshot. -/
  | xtxBegin (rd : BitVec 5)
  /-- XTX_COMMIT (R350). Takes a ticket and commits the host transaction when served. -/
  | xtxCommit (rd : BitVec 5)
  /-- XTX_ABORT (R350). Aborts the host transaction with EXPLICIT and a code. -/
  | xtxAbort (code : BitVec 8)
  /-- XTX_STAT (R350). Writes the host transaction status. -/
  | xtxStat (rd : BitVec 5)
  /-- LANE_SLICE_FAILURE (R55). A lane slice fails a residue or ECC check; the core saves its blocks, updates SYS.LANEMAP and resumes eligible blocks. -/
  | laneSliceFailure (core slice : Nat) (unreadable : List Nat)
  /-- MEMORY_CONTROLLER_ACCESS (R101). A memory controller serves a forwarded read or write and returns data. -/
  | memoryControllerAccess (req : Nat) (remote : List Byte)
  /-- SNOOP_RECEIVED (R135). An agent receives a snoop or invalidation for a line. -/
  | snoopReceived (agent asid va : Nat) (invalidate : Bool)
  /-- SHARERET_WRITE (R127). Writing SYS.SHARERET starts retirement of a share. -/
  | shareretWrite (value : Dword)
  /-- SHARE_RETIREMENT_COMPLETE (R128). All lines of a retiring share are handled and it is recorded retired. -/
  | shareRetirementComplete (share : Nat) (unreadable : List Nat)
  /-- REFRESH_DUE (R143). A bank refresh falls due; it is postponed while class-3 requests wait, or forced on the ninth. -/
  | refreshDue (controller bank : Nat) (class3 : Bool)
  /-- INLET_ENABLE (R404). Writing SYS.INLETTAB.EN from 0 to 1 reads the list table; a disabling write is checked. -/
  | inletEnable (value : Dword)
  /-- FAULTACK_REPLAY (R444). Writing SYS.FAULTACK with REPLAY replays the faulted work from the operand log. -/
  | faultackReplay (seq : Word)
  /-- FAULTACK_DELIVER (R444). Writing SYS.FAULTACK with DELIVER makes the named lanes take PAGEFAULT. -/
  | faultackDeliver (seq : Word)
  /-- FAULTACK_KILL (R444). Writing SYS.FAULTACK with KILL kills the launch. -/
  | faultackKill (seq : Word)
  /-- FAULTQ_WRITE (R443). Writing SYS.FAULTQ BASE, SIZE or EN resets the fault-ring write index. -/
  | faultqWrite (value : Dword)
  /-- RECLAIM_WRITE (R443). Writing SYS.RECLAIM BASE, SIZE or EN resets the reclaim-ring write index. -/
  | reclaimWrite (value : Dword)
  /-- TDBBASE_WRITE (R109). The first write to SYS.TDBBASE sets the TDB table base; later writes are ignored. -/
  | tdbbaseWrite (value : Dword)
  /-- HOSTSTART_WRITE (R455). Writing SYS.HOSTSTART starts a stopped hart in machine mode at a PC. -/
  | hoststartWrite (hart : Nat) (value : Dword)
  /-- CTXCMD_SAVE_LAUNCH (R456). SYS.CTXCMD write that acts as CTX.SAVE.LAUNCH. -/
  | ctxcmdSaveLaunch (target : Word)
  /-- CTXCMD_SAVE_ASID (R456). SYS.CTXCMD write that acts as CTX.SAVE.ASID. -/
  | ctxcmdSaveAsid (target : Word)
  /-- CTXCMD_SAVE_DIE (R456). SYS.CTXCMD write that acts as CTX.SAVE.DIE. -/
  | ctxcmdSaveDie (target : Word)
  /-- CTXCMD_LOAD_LAUNCH (R456). SYS.CTXCMD write that acts as CTX.LOAD.LAUNCH. -/
  | ctxcmdLoadLaunch (target : Word)
  /-- CTXCMD_LOAD_ASID (R456). SYS.CTXCMD write that acts as CTX.LOAD.ASID. -/
  | ctxcmdLoadAsid (target : Word)
  /-- CTXCMD_LOAD_DIE (R456). SYS.CTXCMD write that acts as CTX.LOAD.DIE. -/
  | ctxcmdLoadDie (target : Word)
  /-- NODE_LOSE_WRITE (R464). Writing SYS.NODE.LOSE declares packages lost. -/
  | nodeLoseWrite (packages : BitVec 8)
  /-- COMM_MEMBERS_WRITE (R466). Writing SYS.COMM MEMBERS resets a collective slot's ring, epoch and sequence. -/
  | commMembersWrite (slot : Nat) (value : Dword)
  /-- REGISTER_WRITE (R454). An 8-byte store to a device register without behaviour of its own updates its writable fields. -/
  | registerWrite (offset : Nat) (value : Dword) (who : Writer)
  /-- HOST_ACCESS (R493). A host core's ordinary load or store is translated, checked and performed, split per granule if misaligned. -/
  | hostAccess (store : Bool) (funct3 : BitVec 3) (reg rs1 : BitVec 5) (imm : BitVec 12)
  /-- XANKOR_FLIT_RECEIVED (R461). A link flit arrives; a CRC failure causes a replay from the sender's buffer. -/
  | xankorFlitReceived (port cls : Nat) (crcOk : Bool) (flit : List Byte)
  /-- REMOTE_LINE_REQUEST (R462). A controller receives a request for a line of its frame from a package and grants it after recalls. -/
  | remoteLineRequest (package pa : Nat) (exclusive : Bool)
  /-- RECALL_RECEIVED (R463). A recall from another package is applied by name through the remote-frame table. -/
  | recallReceived (pa : Nat) (invalidate : Bool)
  /-- COLL_PART_RECEIVED (R469). A collective segment or result part arrives from a member. -/
  | collPartReceived (slot seq sender : Nat) (header : CollHeader) (result : Bool) (part : List Byte)
  /-- COLL_ABORT_RECEIVED (R472). A member receives ABORT and ends the round with PEERLOST, updating SUSPECT. -/
  | collAbortReceived (slot seq : Nat) (silent : BitVec 8) (fault : Bool)
  /-- REFORM_EXCHANGE (R474). A reform exchange round collects member sets and narrows the ring until agreement. -/
  | reformExchange (slot sender : Nat) (set : BitVec 8)
  /-- PCIE_INBOUND_REQUEST (R480). An inbound PCIe memory request is made as an access to name (0, A). -/
  | pcieInboundRequest (port : Nat) (addr : Dword) (write : Bool) (len : Nat) (payload : List Byte)
  /-- PCIE_MSI_WRITE (R480). An inbound write to the MSI address sets the port's interrupt source. -/
  | pcieMsiWrite (port : Nat) (addr : Dword)
  /-- ETH_ENABLE (R481). Writing SYS.ETH.EN starts the port's rings from descriptor 0. -/
  | ethEnable (port : Nat) (value : Dword)
  /-- ETH_RECEIVE (R481). A received frame is written into an owned receive descriptor's buffer and OWN is cleared. -/
  | ethReceive (port : Nat) (prio : BitVec 3) (fcsOk : Bool) (frame : List Byte)
  /-- PLDM_SENSOR_READ (R483). A PLDM platform-monitoring request returns power, temperature or coolant-flow readings. -/
  | pldmSensorRead (sensor : Sensor) (reading : Nat)
  /-- POWER_GOOD (R457). At power-good the controller boots the package and starts host core 0. -/
  | powerGood (boot : Boot)
  /-- FIRMWARE_ACTIVATION (R484). A verified staged firmware image is activated when its controller is quiet. -/
  | firmwareActivation (controller : Nat) (measurement : BitVec 384) (verified : Bool)
  /-- POWER_CAP_EXCEEDED (R488). Each millisecond that DRAW exceeds CAP or a junction reaches 105 °C, the clock drops 0.1 GHz. -/
  | powerCapExceeded (draw : BitVec 16) (hot : Bool)
  /-- UNASSIGNED_OPCODE (R172). A slot whose opcode is unassigned, or 0xFF, issues and the group takes ILLEGAL. -/
  | unassignedOpcode (op : BitVec 8)
  /-- HOST_ILLEGAL_INSTRUCTION (R175). An unlisted encoding in custom-0 or custom-1 raises the RISC-V illegal-instruction exception on a host core. -/
  | hostIllegalInstruction (word : BitVec 32)
  /-- HOST_ASID_CSR_WRITE (R451). Privileged host code writes CSR 0x5C0, changing the hart's SYS.ASID and so its translation. -/
  | hostAsidCsrWrite (funct3 : BitVec 3) (rd rs1 : BitVec 5)
  /-- HOST_FENCE (R309). A host core executes a RISC-V FENCE, ordering its accesses at scope .DIE. -/
  | hostFence (fm pred succ : BitVec 4)
  /-- HOST_ATOMIC (R309). A host core executes an AMO or LR/SC, an atomic access with its aq and rl order at scope .DIE, or a misalignment exception. -/
  | hostAtomic (funct5 : BitVec 5) (aq rl : Bool) (wide : Bool) (rd rs1 rs2 : BitVec 5)
  /-- LINE_ENTRY (R154). A group enters a fetch line once its WAIT flags are zero, checking parity and the line word and clearing owed tags. Acts on group = `sel.x`. -/
  | lineEntry
  /-- PARITY_REFETCH (R148). A refetched line arrives after a parity error; issue proceeds or PARITY is taken. Acts on group = `sel.x`. -/
  | parityRefetch
  /-- REGROUP_FLAG_WAIT_END (R35). A group waiting at a regrouping point finds its flags zero and files its departing threads. Acts on group = `sel.x`. -/
  | regroupFlagWaitEnd
  /-- COVE_AGE_TIMEOUT (R41). A cove's age timer reaches its timeout and the cove is issued. Acts on group = `sel.x`. -/
  | coveAgeTimeout
  /-- YIELD_RELEASE_TIMEOUT (R203). 64 cycles after a YIELD its release condition is met and the cove may enter READY. Acts on group = `sel.x`. -/
  | yieldReleaseTimeout
  /-- HELD_THREAD_AGE_TIMEOUT (R39). A held thread's age count reaches its timeout, making its PC eligible at the next regrouping point. Acts on thread = `sel.x`. -/
  | heldThreadAgeTimeout
  /-- VARIABLE_LATENCY_COMPLETE (R153). A variable-latency instruction completes, writing its result and subtracting its flag. Acts on op = `sel.x`. -/
  | variableLatencyComplete
  /-- ATTRIBUTE_REQUEST (R96). A shard receives an attribute request, walks the table and returns attributes or a fault. Acts on op = `sel.x`. -/
  | attributeRequest
  /-- SHARD_WALK_COMPLETE (R100). A shard's table walk finishes and the request is forwarded or faults. Acts on req = `sel.x`. -/
  | shardWalkComplete
  /-- HOME_SLICE_REQUEST (R101). A request reaches its home slice, is ordered and served or sent on to the shard. Acts on req = `sel.x`. -/
  | homeSliceRequest
  /-- DIRECTORY_MERGE (R133). Two quiet, agreeing sibling entries merge after 65,536 cycles. Acts on slice = `sel.x`, asid = `sel.y`, base = `sel.z`. -/
  | directoryMerge
  /-- LINE_FILL_RETURN (R101). Data returns to the home or requester, is installed and replied. Acts on req = `sel.x`. -/
  | lineFillReturn
  /-- STORE_ACK (R248). A posted store is acknowledged by its home, controller or L1. Acts on op = `sel.x`. -/
  | storeAck
  /-- WRITE_BACK (R102). A write-back is translated again by the owning shard and sent to memory, or dropped and logged. Acts on index = `sel.x`. -/
  | writeBack
  /-- XLATE_INV_COMPLETE (R105). XLATE.INV completes once copies are gone and old requests and write-backs have arrived. Acts on op = `sel.x`. -/
  | xlateInvComplete
  /-- TARN_LINE_MOVE (R123). A line of a resizing Tarn moves from its old home to its new home with its state. Acts on tarn = `sel.x`, asid = `sel.y`, va = `sel.z`. -/
  | tarnLineMove
  /-- TARN_RESIZE_COMPLETE (R116). The last line is placed under the new mapping; the Tarn becomes ACTIVE and the TARN instruction completes. Acts on tarn = `sel.x`. -/
  | tarnResizeComplete
  /-- TARN_DRAIN_COMPLETE (R116). The last line of a draining Tarn is handled; it becomes RETIRED and the instruction completes. Acts on tarn = `sel.x`. -/
  | tarnDrainComplete
  /-- UNCORRECTABLE_ECC_ERROR (R127). An uncorrectable error in a bank share is counted, retiring the share at the second within 2^30 cycles. Acts on share = `sel.x`. -/
  | uncorrectableEccError
  /-- MEMORY_UNCORRECTABLE_ERROR (R140). An uncorrectable memory error poisons the line's granules. Acts on pa = `sel.x`. -/
  | memoryUncorrectableError
  /-- AGENT_DEATH (R140). An agent taken offline while holding the only modified copy poisons the line. Acts on agent = `sel.x`. -/
  | agentDeath
  /-- REFRESH_REPAY (R143). Owed refreshes are repaid once no class-3 request waits. Acts on controller = `sel.x`, bank = `sel.y`. -/
  | refreshRepay
  /-- ECC_SCRUB (R431). A periodic ECC scrub reads a bank. Acts on bank = `sel.x`. -/
  | eccScrub
  /-- POLL_BACKOFF_END (R263). A polling lane's back-off ends by time, line invalidation or limit, and it reads again. Acts on op = `sel.x`, lane = `sel.y`. -/
  | pollBackoffEnd
  /-- POLL_LIMIT_ELAPSED (R262). A POLL's limit elapses and the lane makes one final read. Acts on op = `sel.x`, lane = `sel.y`. -/
  | pollLimitElapsed
  /-- COPY_GRANULE (R267). A copy reads one source granule and writes it to the destination. Acts on op = `sel.x`, granule = `sel.y`. -/
  | copyGranule
  /-- COPY_END (R267). A copy sets destination full bits, subtracts its flag and releases its locks. Acts on op = `sel.x`. -/
  | copyEnd
  /-- COPYM_DELIVERY_BEGIN (R270). A multicast delivery begins, taking a DST lock and emptying the receiver's granules. Acts on op = `sel.x`, pos = `sel.y`. -/
  | copymDeliveryBegin
  /-- COPYM_DELIVERY_END (R269). A multicast delivery ends, setting the receiver's granules full. Acts on op = `sel.x`, pos = `sel.y`. -/
  | copymDeliveryEnd
  /-- TX_TIMEOUT (R342). A transaction attempt runs 1,048,576 cycles and aborts with TIMEOUT. Acts on thread = `sel.x`. -/
  | txTimeout
  /-- COMMIT_TICKET_REQUEST (R340). The commit-ticket unit receives commit requests and issues tickets in arrival order. Acts on op = `sel.x`. -/
  | commitTicketRequest
  /-- SLICE_VOTE (R340). A home slice votes on a ticket after resolving every lower ticket that touches it. Acts on ticket = `sel.x`, slice = `sel.y`. -/
  | sliceVote
  /-- TX_PUBLISH (R340). With every vote to accept, each slice applies the transaction's writes. Acts on ticket = `sel.x`. -/
  | txPublish
  /-- COMMIT_LOCK_GRANT (R345). The commit lock is granted to a lane in lock mode. -/
  | commitLockGrant
  /-- HOST_TX_EVICTION_ABORT (R349). Eviction of a marked line from the L2 aborts a host transaction with CAPACITY. Acts on hart = `sel.x`, va = `sel.y`. -/
  | hostTxEvictionAbort
  /-- HOST_TX_TICKET_SERVED (R350). A host transaction's ticket is served and it commits unless already aborted. Acts on hart = `sel.x`. -/
  | hostTxTicketServed
  /-- MATRIX_PASS_GRANT (R356). With no pass running, the engine grants the next pass to an eligible entry. Acts on engine = `sel.x`. -/
  | matrixPassGrant
  /-- MATRIX_PASS_END (R356). A pass of at most 128 engine cycles ends. Acts on engine = `sel.x`. -/
  | matrixPassEnd
  /-- MATRIX_ENTRY_COMPLETE (R354). A reservation-table entry completes, writes its result, subtracts its flag and frees. Acts on op = `sel.x`. -/
  | matrixEntryComplete
  /-- MLOAD_DELIVERY_BEGIN (R372). An MLOAD delivery begins, setting its reservation EMPTY. Acts on op = `sel.x`, pos = `sel.y`. -/
  | mloadDeliveryBegin
  /-- MLOAD_DELIVERY_END (R371). An MLOAD delivery's last granule is written and the reservation becomes FULL. Acts on op = `sel.x`, pos = `sel.y`. -/
  | mloadDeliveryEnd
  /-- ENGINE_WATCHDOG (R382). A granted pass not ended within 65,536 cycles starts an engine reset with WDOG set. Acts on engine = `sel.x`. -/
  | engineWatchdog
  /-- ENGINE_RESET_WRITE (R383). Writing SYS.MATENG.RESET starts an engine reset that drops entries and zeroes windows. Acts on engine = `sel.x`. -/
  | engineResetWrite
  /-- ENGINE_RESET_END (R383). An engine leaves RESETTING and accepts entries again. Acts on engine = `sel.x`. -/
  | engineResetEnd
  /-- WEIR_TAKE_SERVICE (R396). The Weir serves a waiting TAKE, handing out releasable constraints. Acts on die = `sel.x`. -/
  | weirTakeService
  /-- WEIR_TAKE_TIMEOUT (R396). A TAKE completes with TIMEOUT 4,096 cycles after reaching the Weir. Acts on op = `sel.x`. -/
  | weirTakeTimeout
  /-- WEIR_GATHER_COMPLETE (R397). A TAKE.G gather finishes, setting landing granules full and releasing its lock. Acts on op = `sel.x`. -/
  | weirGatherComplete
  /-- WEIR_SCATTER_COMPLETE (R398). A DONE.S scatter is acknowledged and the constraints' HEADs advance. Acts on op = `sel.x`. -/
  | weirScatterComplete
  /-- WEIR_OWN_ACCESS_FAULT (R402). A Weir access to its body table or ring faults, making the context FAULTED. Acts on entry = `sel.x`. -/
  | weirOwnAccessFault
  /-- INLET_RING_FAULT (R405). An Inlet ring access faults or meets poison, making the list FAULTED. Acts on list = `sel.x`. -/
  | inletRingFault
  /-- LAUNCH_SUBMISSION (R209). A launch record reaches the launch table and is entered or refused. Acts on op = `sel.x`, lane = `sel.y`. -/
  | launchSubmission
  /-- BLOCK_PLACEMENT (R423). A core with free resources places an unplaced block or resumes a saved one. Acts on core = `sel.x`. -/
  | blockPlacement
  /-- GANG_RESERVATION (R426). A core freeing block capacity reserves it for a waiting gang, placing the gang at P reservations. Acts on core = `sel.x`. -/
  | gangReservation
  /-- GANG_FALLBACK_TIMEOUT (R426). A gang that has waited SYS.GANGCTL.WAIT × 64 cycles with F reservations is placed at size F. Acts on entry = `sel.x`. -/
  | gangFallbackTimeout
  /-- CLASS3_CLAIM (R427). The launch table claims cores for an unplaceable class-3 launch and saves lower-class blocks. Acts on entry = `sel.x`. -/
  | class3Claim
  /-- SLICE_EXPIRY (R434). A launch's time-slice counter expires, saving its blocks if another launch waits. Acts on entry = `sel.x`. -/
  | sliceExpiry
  /-- BLOCK_SAVE_COMPLETE (R436). A block's save finishes after draining and the image is written; its resources are freed. Acts on block = `sel.x`. -/
  | blockSaveComplete
  /-- FAULT_RECORD_WRITE (R441). A waiting fault report is written into the fault ring when its slot is free and EN is 1. -/
  | faultRecordWrite
  /-- C3_POLICE_WINDOW (R430). A 4,096-cycle class-3 policing window begins, resetting USED. -/
  | c3PoliceWindow
  /-- STACK_TAKEOUT (R486). Writing SYS.STACKCTL.TAKEOUT remaps the stack's shards and makes its range UNBACKED. Acts on stack = `sel.x`. -/
  | stackTakeout
  /-- DIE_ISOLATE (R487). Writing SYS.DIECTL.ISOLATE isolates a closed, empty compute die or reports why not. Acts on die = `sel.x`. -/
  | dieIsolate
  /-- HOST_INTERRUPT (R478). A pending and enabled SYS.INTR source raises the target hart's supervisor external interrupt, interrupting XLWAIT or XPOLL or aborting a host transaction. Acts on hart = `sel.x`. -/
  | hostInterrupt
  /-- LINK_DOWN_TIMEOUT (R465). A peer's link stays down for 1 ms and the peer is declared lost. Acts on port = `sel.x`. -/
  | linkDownTimeout
  /-- PEER_POWER_OFF_REPORT (R465). A peer controller reports a power-off and the peer is declared lost. Acts on package = `sel.x`. -/
  | peerPowerOffReport
  /-- COLL_TIMEOUT (R472). An expected part is missing after TIMEOUT; the member sends ABORT naming silent members. Acts on slot = `sel.x`, seq = `sel.y`. -/
  | collTimeout
  /-- REFORM_EXCHANGE_TIMEOUT (R474). A reform exchange's TIMEOUT expires and silent packages are dropped from the set. Acts on slot = `sel.x`. -/
  | reformExchangeTimeout
  /-- PCIE_AER_ERROR (R479). An AER-reported error sets the port's interrupt source. Acts on port = `sel.x`. -/
  | pcieAerError
  /-- ETH_TRANSMIT (R481). The port sends the frame of an owned transmit descriptor and clears OWN. Acts on port = `sel.x`. -/
  | ethTransmit
  /-- GET_VERSION (R482). SPDM GET_VERSION request to the controller. Acts on nonce = `sel.x`. -/
  | getVersion
  /-- GET_CAPABILITIES (R482). SPDM GET_CAPABILITIES request. Acts on nonce = `sel.x`. -/
  | getCapabilities
  /-- NEGOTIATE_ALGORITHMS (R482). SPDM NEGOTIATE_ALGORITHMS request. Acts on nonce = `sel.x`. -/
  | negotiateAlgorithms
  /-- GET_DIGESTS (R482). SPDM GET_DIGESTS request. Acts on nonce = `sel.x`. -/
  | getDigests
  /-- GET_CERTIFICATE (R482). SPDM GET_CERTIFICATE request. Acts on nonce = `sel.x`. -/
  | getCertificate
  /-- CHALLENGE (R482). SPDM CHALLENGE request. Acts on nonce = `sel.x`. -/
  | challenge
  /-- GET_MEASUREMENTS (R482). SPDM GET_MEASUREMENTS request returning the held measurements. Acts on nonce = `sel.x`. -/
  | getMeasurements
  /-- KEY_EXCHANGE (R482). SPDM KEY_EXCHANGE request. Acts on nonce = `sel.x`. -/
  | keyExchange
  /-- FINISH (R482). SPDM FINISH request. Acts on nonce = `sel.x`. -/
  | finish
  /-- END_SESSION (R482). SPDM END_SESSION request. Acts on nonce = `sel.x`. -/
  | endSession
  /-- LANE_RECALIBRATION (R485). A Xankor Link lane is recalibrated in service by moving traffic to the spare. Acts on port = `sel.x`, lane = `sel.y`. -/
  | laneRecalibration
  /-- XANKOR_LANE_FAILURE (R485). A failed link lane is replaced by the spare or the link narrows or goes down. Acts on port = `sel.x`, lane = `sel.y`. -/
  | xankorLaneFailure
  /-- CLOCK_RAISE (R488). After both conditions are clear for 10 ms, the clock is raised. -/
  | clockRaise
  /-- JUNCTION_OVERTEMP (R489). A junction reaches 115 °C and power is removed within 10 ms. -/
  | junctionOvertemp
  /-- XANKOR_LINK_DOWN (R464). A Xankor Link port goes down, clearing its LINKUP bit and starting the 1 ms count towards declaring the peer lost. Acts on port = `sel.x`. -/
  | xankorLinkDown
  /-- XANKOR_LINK_UP (R464). A Xankor Link port trains or retrains and comes up, setting LINKUP and interrupt source 3. Acts on port = `sel.x`. -/
  | xankorLinkUp
  deriving DecidableEq, Repr

end Sys2Proof
end

