-- ==== Sys2Proof/Machine/Rules.lean ====
section
/-! DEFINITION. The encodings the spec accepts: for each opcode, which SUB, TYPE, M, C-type and I32 values are legal
and what its operand fields name (R162 to R173 and the instruction tables). -/

namespace Sys2Proof.Machine

open Sys2Proof

/-- What an operand field names (R164). -/
inductive OKind where
  | vec | pred | scal
  deriving DecidableEq, Repr

/-- Which field an operand stands in; `more` for a second use of a field and for implicit operands. -/
inductive Pos where
  | d | a | b | c | more
  deriving DecidableEq, Repr

/-- An operand: its field, kind, first register number, number of registers, and whether it is written. -/
structure Opnd where
  pos : Pos
  kind : OKind
  idx : Nat
  width : Nat
  write : Bool
  deriving DecidableEq, Repr

/-- What the spec accepts for a slot: `ok` for SUB, TYPE, M, C-type and I32, the operands, and the fields that are used
for something else than an operand. -/
structure Rule where
  ok : Bool
  opnds : List Opnd
  other : List Pos
  deriving DecidableEq, Repr

namespace Rule

/-- Registers of a type (R165): 2 for 64-bit types, 4 for B128, else 1. -/
def regs (ty : Nat) : Nat := if ty = 19 then 4 else if ty ∈ [4, 8, 10, 14] then 2 else 1

def vd (f : Slot) (w : Nat) : Opnd := ⟨.d, .vec, f.d.toNat, w, true⟩
def vdr (f : Slot) (w : Nat) : Opnd := ⟨.d, .vec, f.d.toNat, w, false⟩
def va (f : Slot) (w : Nat) : Opnd := ⟨.a, .vec, f.a.toNat, w, false⟩
def vb (f : Slot) (w : Nat) : Opnd := ⟨.b, .vec, f.b.toNat, w, false⟩
def vc (f : Slot) (w : Nat) : Opnd := ⟨.c, .vec, f.c.toNat, w, false⟩
def pd (f : Slot) : Opnd := ⟨.d, .pred, f.d.toNat, 1, true⟩
def pa (f : Slot) : Opnd := ⟨.a, .pred, f.a.toNat, 1, false⟩
def pb (f : Slot) : Opnd := ⟨.b, .pred, f.b.toNat, 1, false⟩
def pc (f : Slot) : Opnd := ⟨.c, .pred, f.c.toNat, 1, false⟩
def sd (f : Slot) : Opnd := ⟨.d, .scal, f.d.toNat, 1, true⟩
def sa (f : Slot) : Opnd := ⟨.a, .scal, f.a.toNat, 1, false⟩
def sb (f : Slot) : Opnd := ⟨.b, .scal, f.b.toNat, 1, false⟩

/-- TYPE as a code. -/
def ty (f : Slot) : Nat := f.ty.toNat
/-- SUB as a code. -/
def sub (f : Slot) : Nat := f.sub.toNat
/-- IMM (R167). -/
def imm (f : Slot) : Bool := f.m.getLsbD 6
/-- SB (R167). -/
def sbit (f : Slot) : Bool := f.m.getLsbD 5
/-- FTZ (R167). -/
def ftz (f : Slot) : Bool := f.m.getLsbD 4
/-- SAT of the three-source and matrix layouts (R167). -/
def sat (f : Slot) : Bool := f.m.getLsbD 3
/-- RND (R70). -/
def rnd (f : Slot) : Nat := f.m.toNat % 8
/-- FSEL (R155). -/
def fsel (f : Slot) : Bool := f.m.getLsbD 7
/-- X of the memory layout (R167). -/
def xbit (f : Slot) : Bool := f.m.getLsbD 6
/-- SAT of the memory layout (R167). -/
def msat (f : Slot) : Bool := f.m.getLsbD 5
/-- ORD (R167). -/
def ord (f : Slot) : Nat := f.m.toNat % 4
/-- SCOPE (R167). -/
def scope (f : Slot) : Nat := f.m.toNat / 4 % 8

/-- Operand B of a three-source form: nothing for IMM, a scalar for SB, else `w` registers (R167). -/
def bsrc (f : Slot) (w : Nat) : List Opnd := if imm f then [] else if sbit f then [sb f] else [vb f w]

/-- M of a three-source form: which of IMM and SB, FTZ, SAT, FSEL it accepts and up to which RND code; IMM and SB
together are illegal, and I32 is zero without IMM unless the form uses it (R167, R169). -/
def m3 (f : Slot) (b fz st : Bool) (rnds : Nat) (vl : Bool) (i32 : Bool) : Bool :=
  (b || (!imm f && !sbit f)) && !(imm f && sbit f) && (fz || !ftz f) && (st || !sat f) && decide (rnd f < rnds)
    && (vl || !fsel f) && (imm f || i32 || f.i32 = 0)

/-- M of a branch form, and its T, B and C: zero (R195). -/
def br (f : Slot) (i32 : Bool) (ops : List Opnd) : Rule :=
  ⟨f.m = 0 && ty f = 0 && sub f = 0 && (i32 || f.i32 = 0), ops, []⟩

/-- The types that S and N columns name. -/
def intTys : List Nat := [1, 2, 3, 5, 6, 7, 9]

/-- A two-operand integer form with wrap or clamp (R215). -/
def arith (f : Slot) (tys : List Nat) : Rule :=
  ⟨tys.contains (ty f) && sub f = 0 && m3 f true false (ty f ≠ 9) 1 false false, [vd f 1, va f 1] ++ bsrc f 1, []⟩

/-- A form whose D, A and B all have the width of the type. -/
def wide2 (f : Slot) (tys : List Nat) (bw : Nat) : Rule :=
  ⟨tys.contains (ty f) && sub f = 0 && m3 f true false false 1 false false,
    [vd f (regs (ty f)), va f (regs (ty f))] ++ bsrc f bw, []⟩

/-- A unary integer form: IMM and SB are illegal (R215). -/
def wide1 (f : Slot) (tys : List Nat) (st : Bool) (dw : Nat) : Rule :=
  ⟨tys.contains (ty f) && sub f = 0 && m3 f false false st 1 false false, [vd f dw, va f (regs (ty f))], []⟩

/-- A predicate form with two sources and .NB (R224). -/
def pred2 (f : Slot) : Rule :=
  ⟨ty f = 0 && decide (sub f < 2) && m3 f false false false 1 false false, [pd f, pa f, pb f], []⟩

/-- A predicate form with one source (R224). -/
def pred1 (f : Slot) (d : Opnd) (tys : List Nat) : Rule :=
  ⟨tys.contains (ty f) && sub f = 0 && m3 f false false false 1 false false, [d, pa f], []⟩

/-- What a scalar form requires (R226): no guard, and SB, FTZ, RND and FSEL zero. -/
def scal (f : Slot) (st : Bool) (b i32 : Bool) : Bool :=
  f.gp = 0 && !f.gs && !sbit f && m3 f b false st 1 false i32

/-- Control, launch, SREG, integer, predicate and scalar forms: opcodes 0x00 to 0x3D (R195 to R229). -/
def core (op : Nat) (f : Slot) : Option Rule :=
  let t := ty f
  let w := regs t
  let b := bsrc f 1
  match op with
  | 0x00 => some ⟨f.m = 0 && t = 0 && sub f = 0 && f.i32 = 0, [], []⟩
  | 0x01 => some (br f true [])
  | 0x02 => some (br f true [va f 1])
  | 0x03 => some (br f true [vd f 2])
  | 0x04 => some (br f true [vd f 2, va f 1])
  | 0x05 => some (br f false [va f 2])
  | 0x06 => some (br f false [])
  | 0x07 => some (br f (decide (f.i32.toNat < 65536)) [])
  | 0x08 => some (br f false [])
  | 0x09 => some (br f false [])
  | 0x0A => some (br f true [⟨.more, .vec, 0, 4, false⟩, ⟨.more, .vec, 4, 4, false⟩])
  | 0x0B => some ⟨sub f = 0 && [0, 7].contains t && !xbit f && !msat f && scope f = 4 && [0, 2].contains (ord f),
      [vd f 1, va f 2], []⟩
  | 0x0C => some ⟨sub f = 0 && [0, 7].contains t && !xbit f && !msat f && scope f = 4 && [0, 1].contains (ord f)
      && f.i32 = 0, [vd f 1, va f 1], []⟩
  | 0x0D => some ⟨sub f = 0 && [0, 7].contains t && f.m.toNat % 128 = 0 && f.i32 = 0, [vd f 1, va f 1], []⟩
  | 0x0E => some ⟨sub f = 0 && f.m = 0 && ((decide (f.i32.toNat < 24) && [0, 7].contains t)
      || ([32, 33].contains f.i32.toNat && [0, 8].contains t)), [vd f (if f.i32.toNat < 32 then 1 else 2)], []⟩
  | 0x10 => some (arith f intTys)
  | 0x11 => some (arith f intTys)
  | 0x12 => some (arith f intTys)
  | 0x13 => some ⟨[3, 7].contains t && sub f = 0 && m3 f true false false 1 false false, [vd f 1, va f 1] ++ b, []⟩
  | 0x14 => some ⟨intTys.contains t && sub f = 0 && m3 f true false (t ≠ 9) 1 false false,
      [vd f 1, va f 1, vc f 1] ++ b, []⟩
  | 0x15 => some ⟨[3, 7].contains t && decide (sub f < 2) && m3 f true false (sub f = 0) 1 true false,
      [vd f 1, va f 1] ++ b, []⟩
  | 0x16 => some (wide2 f [1, 2, 3, 5, 6, 7, 4, 8] w)
  | 0x17 => some (wide2 f [1, 2, 3, 5, 6, 7, 4, 8] w)
  | 0x18 => some (wide1 f [1, 2, 3, 4] true w)
  | 0x19 => some (wide1 f [1, 2, 3, 4, 5, 6, 7, 8] true w)
  | 0x1A => some (wide2 f [9, 10] w)
  | 0x1B => some (wide2 f [9, 10] w)
  | 0x1C => some (wide2 f [9, 10] w)
  | 0x1D => some (wide1 f [9, 10] false w)
  | 0x1E => some (wide2 f [9, 10] 1)
  | 0x1F => some (wide2 f [9, 10] 1)
  | 0x20 => some (wide2 f [3, 4] 1)
  | 0x21 => some (wide2 f [9, 10] 1)
  | 0x22 => some (wide2 f [3, 7, 4, 8] 1)
  | 0x23 => some ⟨[9, 10].contains t && sub f = 0 && m3 f true false false 1 false false, [vd f w, va f 1, vc f w] ++ b, []⟩
  | 0x24 => some (wide1 f [9, 10] false 1)
  | 0x25 => some (wide1 f [9, 10] false 1)
  | 0x26 => some (wide1 f [9, 10] false w)
  | 0x27 => some ⟨[9, 10].contains t && sub f = 0 && m3 f true false false 1 false false,
      [vd f w, va f w, pc f] ++ bsrc f w, []⟩
  | 0x28 => some ⟨([1, 2, 3, 4, 5, 6, 7, 8].contains t && decide (sub f < 6) || [9, 10].contains t && decide (sub f < 2))
      && m3 f true false false 1 false false, [pd f, va f w, pc f] ++ bsrc f w, []⟩
  | 0x29 => some ⟨[4, 8, 10].contains t && decide (sub f < 3) && m3 f true false (t ≠ 10) 1 false false,
      [vd f 2, va f 2] ++ bsrc f (if sub f = 0 then 2 else 1), []⟩
  | 0x2A => some ⟨[4, 8].contains t && sub f = 0 && m3 f true false true 1 false false, [vd f 2, va f 1, vc f 2] ++ b, []⟩
  | 0x2B => some ⟨[3, 7].contains t && m3 f true false false 1 false false, [vd f 2, va f 2] ++ b, []⟩
  | 0x2C => some (wide1 f [0, 9, 10] false w)
  | 0x2D => some ⟨[0, 9, 4, 8, 10].contains t && sub f = 0 && imm f && m3 f true false false 1 false false, [vd f w], []⟩
  | 0x30 => some ⟨[0, 9].contains t && sub f = 0 && m3 f true false false 1 false false, [pd f] ++ b, []⟩
  | 0x31 => some (pred2 f)
  | 0x32 => some (pred2 f)
  | 0x33 => some (pred2 f)
  | 0x34 => some (pred1 f (pd f) [0])
  | 0x35 => some (pred1 f (pd f) [0])
  | 0x36 => some (pred1 f (vd f 2) [0, 10])
  | 0x37 => some (pred1 f (pd f) [0])
  | 0x38 => some (pred1 f (pd f) [0])
  | 0x39 => some ⟨[4, 8, 10].contains t && decide (sub f < 2) && imm f && scal f false true false, [sd f], []⟩
  | 0x3A => some ⟨([9].contains t && decide (sub f < 2) || t = 10 && sub f = 0) && scal f false false false,
      [vd f w, sa f], []⟩
  | 0x3B => some ⟨[9, 3, 10].contains t && sub f = 0 && !imm f && scal f false false true && decide (f.i32.toNat < 64),
      [sd f, va f w], []⟩
  | 0x3C => some ⟨[4, 8, 10].contains t && scal f (t ≠ 10 && decide (sub f < 3)) true false,
      [sd f, sa f] ++ (if imm f then [] else [sb f]), []⟩
  | 0x3D => some ⟨([4, 8].contains t && decide (sub f < 6) || t = 10 && decide (sub f < 2)) && scal f false true false,
      [pd f, sa f] ++ (if imm f then [] else [sb f]), []⟩
  | _ => none

/-- The load types of R239. -/
def loadTys : List Nat := [1, 5, 2, 6, 11, 12, 3, 7, 9, 13, 4, 8, 10, 14, 19]

/-- ATOM and RED types for their arithmetic (R257). -/
def atomTys : List Nat := [3, 7, 4, 8, 13, 14, 20, 21]

/-- M of a memory form: the accepted orders, with a legal scope (R167, R239). -/
def mem (f : Slot) (ords : List Nat) (x st : Bool) : Bool :=
  ords.contains (ord f) && decide (scope f < 6) && (x || !xbit f) && (st || !msat f)

/-- M of a form that takes neither order nor scope. -/
def mz (f : Slot) : Bool := f.m.toNat % 128 = 0

/-- Memory, atomic, copy and privileged memory-system forms: opcodes 0x80 to 0xA6 (R239, R272). -/
def memory (op : Nat) (f : Slot) : Option Rule :=
  let t := ty f
  let w := regs t
  match op with
  | 0x80 => some ⟨sub f = 0 && loadTys.contains t && mem f [0, 1] false false, [vd f w, va f 2], []⟩
  | 0x81 => some ⟨sub f = 0 && loadTys.contains t && mem f [0, 2] false false, [va f 2, vb f w], []⟩
  | 0x82 => some ⟨sub f = 0 && loadTys.contains t && mem f [0, 1] false false, [vd f w, va f 1], []⟩
  | 0x83 => some ⟨sub f = 0 && loadTys.contains t && mem f [0, 2] false false, [va f 1, vb f w], []⟩
  | 0x84 => some ⟨decide (sub f < 2) && [9, 10, 19].contains t && mem f [0, 1] false false, [vd f w, va f 1], []⟩
  | 0x85 => some ⟨decide (sub f < 2) && [9, 10, 19].contains t && mem f [0, 2] false false, [va f 1, vb f w], []⟩
  | 0x86 => some ⟨decide (sub f < 2) && t = 0 && mem f [0] false false, [va f 1, vb f 1], []⟩
  | 0x87 => some ⟨decide (sub f < 2) && t = 0 && mz f, [va f 2], []⟩
  | 0x88 => some ⟨(decide (sub f < 3) && atomTys.contains t || decide (sub f < 6) && decide (2 < sub f) && [9, 10].contains t
      || sub f = 6 && [9, 10, 19].contains t) && mem f [0, 1, 2, 3] false (sub f = 0 && [3, 7, 4, 8].contains t),
      [vd f w, va f 2, vb f w], []⟩
  | 0x89 => some ⟨sub f = 0 && [9, 10, 19].contains t && mem f [0, 1, 2, 3] false false,
      [vd f w, va f 2, vb f w, vc f w], []⟩
  | 0x8A => some ⟨(decide (sub f < 3) && atomTys.contains t || decide (sub f < 6) && decide (2 < sub f) && [9, 10].contains t)
      && mem f [0, 2] (sub f = 0 && [13, 14, 20, 21].contains t) (sub f = 0 && [3, 7, 4, 8].contains t),
      [va f 2, vb f w], []⟩
  | 0x8B => some ⟨decide (sub f < 2) && [3, 7, 9, 4, 8, 10].contains t && mem f [0, 1] false false,
      [vd f w, va f 2, vb f w, vc f 1], []⟩
  | 0x8C => some ⟨decide (sub f < 4) && t = 0 && mem f [0, 2] false false,
      [vdr f (if [1, 2].contains (sub f) then 2 else 1), va f (if [0, 2].contains (sub f) then 2 else 1), vb f 1], []⟩
  | 0x8D => some ⟨sub f = 0 && t = 0 && mem f [0, 2] false false, [vd f 1, va f 2, vb f 2, vc f 1], []⟩
  | 0x8E => some ⟨sub f = 0 && t = 8 && mz f, [va f 2, vb f 2], []⟩
  | 0x8F => some ⟨decide (sub f < 2) && t = 0 && mz f, [va f 2], []⟩
  | 0x90 => some ⟨sub f = 0 && t = 0 && mz f, [va f 2], []⟩
  | 0xA0 => some ⟨sub f = 0 && t = 0 && mz f && f.i32 = 0, [vd f 2, va f 2], []⟩
  | 0xA1 => some ⟨sub f = 0 && t = 0 && mz f && f.i32 = 0, [vd f 2, va f 2], []⟩
  | 0xA2 => some ⟨sub f = 0 && t = 0 && mz f && f.i32 = 0, [vd f 2, va f 2], []⟩
  | 0xA3 => some ⟨sub f = 0 && t = 0 && mz f && f.i32 = 0, [vd f 2, va f 2], []⟩
  | 0xA4 => some ⟨sub f = 0 && t = 0 && mz f && f.i32 = 0, [vd f 2, va f 1], []⟩
  | 0xA5 => some ⟨decide (sub f < 4) && t = 0 && mz f && f.i32 = 0,
      if sub f < 2 then [va f 2, vb f 2, vc f 1] else [vc f 1], []⟩
  | 0xA6 => some ⟨sub f = 0 && t = 0 && mz f && f.i32 = 0, [va f 2], []⟩
  | _ => none

/-- Ordering, barrier and transaction forms: opcodes 0xB0 to 0xB9 (R324 to R334). -/
def order (op : Nat) (f : Slot) : Option Rule :=
  let t := ty f
  match op with
  | 0xB0 => some ⟨sub f = 0 && t = 0 && mem f [1, 2, 3] false false && f.i32 = 0, [], []⟩
  | 0xB1 => some ⟨sub f = 0 && t = 0 && f.m = 0 && decide (f.i32.toNat < 16), [], []⟩
  | 0xB2 => some ⟨sub f = 0 && t = 0 && f.m = 0 && decide (f.i32.toNat < 16), [], []⟩
  | 0xB3 => some ⟨sub f = 0 && t = 0 && mem f [0, 1, 2, 3] false false, [vd f 1, va f 1, vb f 1], []⟩
  | 0xB4 => some ⟨sub f = 0 && t = 0 && mem f [0, 1] false false, [vd f 1, va f 1, vb f 1], []⟩
  | 0xB5 => some ⟨sub f = 0 && t = 0 && mem f [0, 1] false false && !fsel f, [va f 1, vb f 1], []⟩
  | 0xB6 => some ⟨sub f = 0 && t = 0 && f.m = 0 && f.i32 = 0, [vd f 1], []⟩
  | 0xB7 => some ⟨sub f = 0 && t = 0 && mz f && f.i32 = 0, [vd f 1], []⟩
  | 0xB8 => some ⟨sub f = 0 && t = 0 && f.m = 0 && decide (f.i32.toNat < 256), [], []⟩
  | 0xB9 => some ⟨sub f = 0 && t = 0 && f.m = 0 && f.i32 = 0, [vd f 1], []⟩
  | _ => none

/-- Scheduling forms: opcodes 0xF0 to 0xF3 (R446). -/
def sched (op : Nat) (f : Slot) : Option Rule :=
  let t := ty f
  let z := t = 0 && f.i32 = 0
  match op with
  | 0xF0 => some ⟨decide (sub f < 3) && z && mz f, [vd f 1, va f 1], []⟩
  | 0xF1 => some ⟨decide (sub f < 3) && z && mz f, [vd f 1, va f 1], []⟩
  | 0xF2 => some ⟨decide (sub f < 5) && z && f.m = 0,
      match sub f with
      | 0 => []
      | 1 => [va f 2]
      | 3 => [vd f 1]
      | _ => [vd f 2], []⟩
  | 0xF3 => some ⟨sub f = 0 && z && f.m = 0, [vd f 1, va f 1], []⟩
  | _ => none

/-- Float types of R282. -/
def floatTys : List Nat := [11, 12, 13, 14, 20, 21]

/-- A float form: D, A and B of the type's width (R282). -/
def float2 (f : Slot) (rnds : Nat) (fz : Bool) (dw bw : Nat) : Rule :=
  ⟨floatTys.contains (ty f) && sub f = 0 && m3 f true fz false rnds false false, [vd f dw, va f (regs (ty f))] ++ bsrc f bw, []⟩

/-- A unary float form (R282, R291). -/
def float1 (f : Slot) (tys : List Nat) (rnds : Nat) (fz vl : Bool) (dw : Nat) : Rule :=
  ⟨tys.contains (ty f) && sub f = 0 && m3 f false fz false rnds vl false, [vd f dw, va f (regs (ty f))], []⟩

/-- Wide formats of R294. -/
def isWide (t : Nat) : Bool := [11, 12, 13, 14].contains t
/-- Narrow formats of R294. -/
def isNarrow (t : Nat) : Bool := [15, 16, 17, 18].contains t
/-- Integer types of R294. -/
def isInt (t : Nat) : Bool := [1, 2, 3, 4, 5, 6, 7, 8].contains t

/-- The source type in C[4:0], with C[7:5] zero (R166). -/
def src (f : Slot) : Nat := f.c.toNat

/-- The modifiers CVT accepts (R294). -/
def cvtMod (f : Slot) (b : Bool) : Bool :=
  let d := ty f
  let s := src f
  if isInt s && isInt d then m3 f b false true 1 false false
  else if isInt d then (isWide s || isNarrow s) && m3 f b (isWide s) false 6 false false
  else if isWide d then (isWide s || isNarrow s || isInt s) && m3 f b (!isInt s) false 6 false false
  else isNarrow d && (isWide s || isNarrow s || isInt s) && m3 f b (isWide s) true 6 false false

/-- SUB, types and modifiers of REDUX and SCAN (R303, R304). -/
def reduxOk (f : Slot) (i32 : Bool) : Bool :=
  let t := ty f
  let fl := isWide t
  let it := [3, 7, 4, 8].contains t
  match sub f with
  | 0 => (fl || it) && m3 f false fl it (if fl then 6 else 1) false i32
  | 1 => fl && m3 f false true false 6 false i32
  | 2 => (fl || it) && m3 f false fl false 1 false i32
  | 3 => (fl || it) && m3 f false fl false 1 false i32
  | 7 => false
  | _ => [9, 10].contains t && m3 f false false false 1 false i32

/-- Float, conversion and lane-exchange forms: opcodes 0x40 to 0x70 (R282 to R304). -/
def vector (op : Nat) (f : Slot) : Option Rule :=
  let t := ty f
  let w := regs t
  match op with
  | 0x40 => some (float2 f 6 true w w)
  | 0x41 => some (float2 f 6 true w w)
  | 0x42 => some (float2 f 6 true w w)
  | 0x43 => some ⟨floatTys.contains t && sub f = 0 && m3 f true true false 6 false false,
      [vd f w, va f w, vc f w] ++ bsrc f w, []⟩
  | 0x44 => some (float2 f 1 true w w)
  | 0x45 => some (float2 f 1 true w w)
  | 0x46 => some (float1 f floatTys 1 false false w)
  | 0x47 => some (float1 f floatTys 1 false false w)
  | 0x48 => some ⟨[11, 12, 13, 14].contains t && m3 f true true false 1 false false, [pd f, va f w, pc f] ++ bsrc f w, []⟩
  | 0x49 => some ⟨floatTys.contains t && sub f = 0 && m3 f true false false 1 false false,
      [vd f w, va f w, pc f] ++ bsrc f w, []⟩
  | 0x4A => some (float1 f [11, 12, 13, 14, 15, 16] 1 false false 1)
  | 0x4B => some (float2 f 6 true w 1)
  | 0x4C => some (float1 f floatTys 6 true false w)
  | 0x4D => some ⟨t = 13 && decide (sub f < 2) && m3 f true true false 6 false false, [vd f 1, va f 1, vc f 1] ++ bsrc f 1, []⟩
  | 0x50 => some (float1 f floatTys 6 true true w)
  | 0x51 => some (float1 f floatTys 1 true true w)
  | 0x52 => some (float1 f floatTys 6 true true w)
  | 0x53 => some ⟨floatTys.contains t && sub f = 0 && m3 f true true false 6 true false, [vd f w, va f w] ++ bsrc f w, []⟩
  | 0x54 => some (float1 f [11, 12, 13, 20, 21] 1 true true w)
  | 0x55 => some (float1 f [11, 12, 13, 20, 21] 1 true true w)
  | 0x56 => some (float1 f [11, 12, 13, 20, 21] 1 true true w)
  | 0x57 => some (float1 f [11, 12, 13, 20, 21] 1 true true w)
  | 0x58 => some (float1 f [11, 12, 13, 20, 21] 1 true true w)
  | 0x60 => some ⟨sub f = 0 && t ≠ src f && cvtMod f (src f = 17), [vd f w, va f (regs (src f))]
      ++ (if src f = 17 then bsrc f 1 else []), [.c]⟩
  | 0x61 => some ⟨sub f = 0 && ((isNarrow t && [11, 12, 13].contains (src f) && m3 f true true true 6 false false)
      || (isNarrow (src f) && [11, 12, 13].contains t && m3 f true true false 6 false false)),
      [vd f 1, va f 1] ++ bsrc f 1, [.c]⟩
  | 0x62 => some ⟨([20, 21].contains t && src f = 13 && sub f = 0 && m3 f true true false 6 false false)
      || ([15, 16].contains t && [11, 12, 13].contains (src f) && decide (sub f < 2) && m3 f true false true 6 false false)
      || ([17, 18].contains t && [11, 12, 13].contains (src f) && decide (sub f < 4) && m3 f true false true 6 false false)
      || ([1, 5].contains t && [3, 7].contains (src f) && decide (sub f < 2) && m3 f true false true 1 false false),
      [vd f 1, va f 1] ++ bsrc f 1, [.c]⟩
  | 0x63 => some ⟨(([20, 21].contains (src f) && decide (sub f < 2) && t = 13)
      || ([15, 16].contains (src f) && decide (sub f < 4) && [11, 12, 13].contains t)
      || ([17, 18].contains (src f) && [11, 12, 13].contains t)
      || (src f = 1 && decide (sub f < 4) && t = 3) || (src f = 5 && decide (sub f < 4) && t = 7))
      && m3 f (src f = 17) false false 1 false false,
      [vd f 1, va f 1] ++ (if src f = 17 then bsrc f 1 else []), [.c]⟩
  | 0x68 => some ⟨[9, 10].contains t && decide (sub f < 3) && m3 f false false false 1 false false, [vd f w, va f w], []⟩
  | 0x69 => some ⟨[9, 10].contains t && decide (sub f < 4) && m3 f false false false 1 false false, [vd f w, va f w], []⟩
  | 0x6A => some ⟨[9, 10].contains t && decide (sub f < 6) && m3 f true false false 1 false false, [vd f w, va f w] ++ bsrc f 1, []⟩
  | 0x6B => some ⟨[9, 10].contains t && decide (sub f < 6) && m3 f true false false 1 false false, [vd f w, va f w] ++ bsrc f 1, []⟩
  | 0x6C => some ⟨[9, 10].contains t && decide (sub f < 6) && m3 f true false false 1 false false, [vd f w, va f w] ++ bsrc f 1, []⟩
  | 0x6D => some ⟨[9, 10].contains t && decide (sub f < 6) && m3 f true false false 1 false false, [vd f w, va f w] ++ bsrc f 1, []⟩
  | 0x6E => some ⟨[9, 10].contains t && decide (sub f < 2) && m3 f false false false 1 false false,
      [if sub f = 0 then pd f else vd f 2, va f w], []⟩
  | 0x6F => some ⟨reduxOk f false, [vd f w, va f w], []⟩
  | 0x70 => some ⟨reduxOk f true && decide (f.i32.toNat < 2), [vd f w, va f w], []⟩
  | _ => none
/-- M of a matrix form: FSEL, SAT and RND, the rest reserved (R167). -/
def mat (f : Slot) (st : Bool) (rnds : Nat) : Bool :=
  f.m.toNat / 16 % 8 = 0 && (st || !sat f) && decide (rnd f < rnds)

/-- A format pair that MMA accepts (R375). -/
def mmaPair (ta tb : Nat) : Bool :=
  (ta = 11 && tb = 11) || (ta = 12 && tb = 12) || ([15, 16].contains ta && [15, 16].contains tb)
    || ([1, 5].contains ta && [1, 5].contains tb)

/-- Matrix forms: opcodes 0xC0 to 0xCB (R361, R367, R368, R370, R374, R378, R379). -/
def matrix (op : Nat) (f : Slot) : Option Rule :=
  let t := ty f
  let n := f.i32.toNat
  let shape := n / 16384 % 4 = 0
  match op with
  | 0xC0 => some ⟨t = 0 && f.m = 0 && (match sub f with
      | 0 => decide (n % 16 = 0) && decide (0 < n) && decide (n ≤ 512)
      | 1 => decide (0 < n) && decide (n ≤ 512)
      | 2 => n = 0
      | 3 => n = 0
      | _ => false), if sub f = 1 then [vd f 1, va f 1] else [vd f 1], []⟩
  | 0xC1 => some ⟨t = 0 && sub f = 0 && mat f false 1 && n = 0, [vd f 1, va f 2, vb f 2, vc f 1], []⟩
  | 0xC2 => some ⟨t = 0 && sub f = 0 && mat f false 1 && n = 0, [va f 1], []⟩
  | 0xC3 => some ⟨t = 0 && decide (sub f < 2) && mat f false 1 && decide (n < 1048576)
      && (sub f = 1 || decide (n < 65536)), [vd f 1, va f 1, vb f 1, vc f 1], []⟩
  | 0xC4 => some ⟨sub f = 0 && mmaPair t (if src f = 0 then t else src f) && mat f ([1, 5].contains t) 1 && shape,
      [vdr f 1, va f 1, vb f 1], [.c]⟩
  | 0xC5 => some ⟨sub f = 0 && t = 0 && mat f false 1 && shape, [vdr f 1, va f 1, vb f 1], []⟩
  | 0xC6 => some ⟨sub f = 0 && t = 0 && mat f true 1 && shape && decide (n < 65536), [vdr f 1, va f 1], []⟩
  | 0xC7 => some ⟨sub f = 0 && t = 0 && mat f true 1 && shape, [vdr f 1, va f 1, vb f 1], []⟩
  | 0xC8 => some ⟨sub f = 0 && t = 0 && mat f true 1 && shape, [vdr f 1, va f 1], []⟩
  | 0xC9 => some ⟨sub f = 0 && t = 0 && mat f false 1 && decide (0 < n) && decide (n ≤ 512), [vdr f 1], []⟩
  | 0xCA => some ⟨sub f = 0 && n = 0 && (t = 10 && mat f false 1 || [20, 21].contains t && mat f false 6),
      [vd f (regs t), va f 1], []⟩
  | 0xCB => some ⟨sub f = 0 && n = 0 && (t = 10 && mat f false 1 || [20, 21].contains t && mat f false 6),
      [va f 1, vb f (regs t)], []⟩
  | _ => none

/-- Flow and collective forms: opcodes 0xE0 to 0xEA and 0xF4 to 0xF7 (R386, R467). -/
def flow (op : Nat) (f : Slot) : Option Rule :=
  let t := ty f
  let n := f.i32.toNat
  let z := t = 0 && mz f
  match op with
  | 0xE0 => some ⟨z && sub f = 0 && n = 0, [vd f 1, va f 2], []⟩
  | 0xE1 => some ⟨z && sub f = 0 && n = 0, [vd f 1, va f 1, vb f 4], []⟩
  | 0xE2 => some ⟨z && decide (sub f < 2) && n = 0, [vd f 4, va f 1] ++ (if sub f = 1 then [vb f 1] else []), []⟩
  | 0xE3 => some ⟨z && decide (sub f < 2) && n = 0, [va f 1] ++ (if sub f = 1 then [vb f 1] else []), []⟩
  | 0xE4 => some ⟨z && decide (sub f < 2) && n = 0, [vd f 1, va f 1], []⟩
  | 0xE5 => some ⟨z && sub f = 0 && n = 0, [vd f 1, va f 1, vb f 2], []⟩
  | 0xE6 => some ⟨z && sub f = 0 && n = 0, [vd f 4, va f 1], []⟩
  | 0xE7 => some ⟨z && sub f = 0 && n = 0, [va f 1], []⟩
  | 0xE8 => some ⟨z && decide (sub f < 4) && n = 0, [vd f 1, va f 1], []⟩
  | 0xE9 => some ⟨z && sub f = 0 && decide (n < 16), [vb f 2], []⟩
  | 0xEA => some ⟨z && sub f = 0 && decide (n < 16), [vd f 2], []⟩
  | 0xF4 => some ⟨mz f && n = 0 && (decide (sub f < 3) && atomTys.contains t
      || decide (2 < sub f) && decide (sub f < 6) && [9, 10].contains t), [vd f 1, va f 2, vb f 1, vc f 1], []⟩
  | 0xF5 => some ⟨z && sub f = 0 && n = 0, [vd f 1, va f 2, vb f 1, vc f 1], []⟩
  | 0xF6 => some ⟨z && decide (sub f < 2) && n = 0, [vd f 1, va f 1], []⟩
  | 0xF7 => some ⟨z && sub f = 0 && n = 0, [vd f 1, vc f 1], []⟩
  | _ => none

/-- The rule of an assigned opcode; none for an unassigned one (R171). -/
def rule (op : Nat) (f : Slot) : Option Rule :=
  if op < 0x40 then core op f else if op < 0x80 then vector op f else if op < 0xB0 then memory op f
  else if op < 0xC0 then order op f else if op < 0xD0 then matrix op f else if op < 0xF0 then flow op f
  else if op < 0xF4 then sched op f else flow op f

/-- The fields of a well-formed operand (R164, R165): alignment and the range that does not depend on the kernel. -/
def fits (o : Opnd) : Bool :=
  match o.kind with
  | .vec => o.idx % o.width = 0 && decide (o.idx + o.width ≤ 256)
  | .pred => decide (o.idx < 96)
  | .scal => decide (o.idx < 24)

/-- A field that no operand uses and that carries nothing else is zero (R173). -/
def unusedZero (r : Rule) (p : Pos) (v : BitVec 8) : Bool :=
  r.other.contains p || r.opnds.any (fun o => o.pos = p) || v = 0

/-- Everything R173 checks of a slot that does not depend on the state. -/
def slotOk (op : Nat) (f : Slot) : Bool :=
  decide (f.gp.toNat < 96) &&
  match rule op f with
  | none => false
  | some r => r.ok && r.opnds.all fits && unusedZero r .d f.d && unusedZero r .a f.a && unusedZero r .b f.b
      && unusedZero r .c f.c

end Rule
end Sys2Proof.Machine
end

