-- ==== Sys2Proof/WellFormed.lean ====
section
/-! DEFINITION. Well-formed instructions: the slots, host words and operands that the spec admits. -/

namespace Sys2Proof

open Sys2Proof.Machine

/-- The opcode of a vector-core instruction, the SUB that its row fixes, and its slot (R171). -/
def Instr.slot? : Instr → Option (Nat × Option Nat × Slot)
  | .nop f => some (0x00, none, f)
  | .bra f => some (0x01, none, f)
  | .brx f => some (0x02, none, f)
  | .call f => some (0x03, none, f)
  | .callx f => some (0x04, none, f)
  | .ret f => some (0x05, none, f)
  | .exit f => some (0x06, none, f)
  | .trap f => some (0x07, none, f)
  | .reform f => some (0x08, none, f)
  | .yield f => some (0x09, none, f)
  | .spawn f => some (0x0A, none, f)
  | .launch f => some (0x0B, none, f)
  | .lwait f => some (0x0C, none, f)
  | .lstat f => some (0x0D, none, f)
  | .sreg f => some (0x0E, none, f)
  | .iadd f => some (0x10, none, f)
  | .isub f => some (0x11, none, f)
  | .imul f => some (0x12, none, f)
  | .imulh f => some (0x13, none, f)
  | .imad f => some (0x14, none, f)
  | .idiv f => some (0x15, none, f)
  | .imin f => some (0x16, none, f)
  | .imax f => some (0x17, none, f)
  | .iabs f => some (0x18, none, f)
  | .ineg f => some (0x19, none, f)
  | .and f => some (0x1A, none, f)
  | .or f => some (0x1B, none, f)
  | .xor f => some (0x1C, none, f)
  | .not f => some (0x1D, none, f)
  | .shl f => some (0x1E, none, f)
  | .shr f => some (0x1F, none, f)
  | .sar f => some (0x20, none, f)
  | .rot f => some (0x21, none, f)
  | .bfe f => some (0x22, none, f)
  | .bfi f => some (0x23, none, f)
  | .popc f => some (0x24, none, f)
  | .clz f => some (0x25, none, f)
  | .brev f => some (0x26, none, f)
  | .isel f => some (0x27, none, f)
  | .icmp f => some (0x28, none, f)
  | .iadd64 f => some (0x29, none, f)
  | .imad64 f => some (0x2A, none, f)
  | .lea f => some (0x2B, none, f)
  | .mov f => some (0x2C, none, f)
  | .movi f => some (0x2D, none, f)
  | .pset f => some (0x30, none, f)
  | .pand f => some (0x31, none, f)
  | .por f => some (0x32, none, f)
  | .pxor f => some (0x33, none, f)
  | .pnot f => some (0x34, none, f)
  | .pmov f => some (0x35, none, f)
  | .pballot f => some (0x36, none, f)
  | .pany f => some (0x37, none, f)
  | .pall f => some (0x38, none, f)
  | .smovi f => some (0x39, none, f)
  | .sget f => some (0x3A, none, f)
  | .sput f => some (0x3B, none, f)
  | .salu f => some (0x3C, none, f)
  | .scmp f => some (0x3D, none, f)
  | .fadd f => some (0x40, none, f)
  | .fsub f => some (0x41, none, f)
  | .fmul f => some (0x42, none, f)
  | .fma f => some (0x43, none, f)
  | .fmin f => some (0x44, none, f)
  | .fmax f => some (0x45, none, f)
  | .fabs f => some (0x46, none, f)
  | .fneg f => some (0x47, none, f)
  | .fcmp f => some (0x48, none, f)
  | .fsel f => some (0x49, none, f)
  | .fclass f => some (0x4A, none, f)
  | .fscale f => some (0x4B, none, f)
  | .frnd f => some (0x4C, none, f)
  | .fdot2 f => some (0x4D, none, f)
  | .frcp f => some (0x50, none, f)
  | .frsq f => some (0x51, none, f)
  | .fsqrt f => some (0x52, none, f)
  | .fdiv f => some (0x53, none, f)
  | .fexp2 f => some (0x54, none, f)
  | .flog2 f => some (0x55, none, f)
  | .fsin f => some (0x56, none, f)
  | .fcos f => some (0x57, none, f)
  | .ftanh f => some (0x58, none, f)
  | .cvt f => some (0x60, none, f)
  | .cvts f => some (0x61, none, f)
  | .pack f => some (0x62, none, f)
  | .unpack f => some (0x63, none, f)
  | .qswap f => some (0x68, none, f)
  | .qbcast f => some (0x69, none, f)
  | .shfl f => some (0x6A, none, f)
  | .shflup f => some (0x6B, none, f)
  | .shfldn f => some (0x6C, none, f)
  | .shflx f => some (0x6D, none, f)
  | .voteUni f => some (0x6E, some 0, f)
  | .voteMatch f => some (0x6E, some 1, f)
  | .redux f => some (0x6F, none, f)
  | .scan f => some (0x70, none, f)
  | .ld f => some (0x80, none, f)
  | .st f => some (0x81, none, f)
  | .lds f => some (0x82, none, f)
  | .sts f => some (0x83, none, f)
  | .ldfW f => some (0x84, some 0, f)
  | .ldfC f => some (0x84, some 1, f)
  | .stfW f => some (0x85, some 0, f)
  | .stfS f => some (0x85, some 1, f)
  | .femarkEmpty f => some (0x86, some 0, f)
  | .femarkFull f => some (0x86, some 1, f)
  | .prefL1 f => some (0x87, some 0, f)
  | .prefTarn f => some (0x87, some 1, f)
  | .atom f => some (0x88, none, f)
  | .cas f => some (0x89, none, f)
  | .red f => some (0x8A, none, f)
  | .poll f => some (0x8B, none, f)
  | .copy f => some (0x8C, none, f)
  | .copym f => some (0x8D, none, f)
  | .discard f => some (0x8E, none, f)
  | .cflushWb f => some (0x8F, some 0, f)
  | .cflushInv f => some (0x8F, some 1, f)
  | .cinv f => some (0x90, none, f)
  | .tarnDef f => some (0xA0, none, f)
  | .tarnGrow f => some (0xA1, none, f)
  | .tarnShrink f => some (0xA2, none, f)
  | .tarnMove f => some (0xA3, none, f)
  | .tarnRetire f => some (0xA4, none, f)
  | .xlateInvAttr f => some (0xA5, some 0, f)
  | .xlateInvLines f => some (0xA5, some 1, f)
  | .xlateInvAttrall f => some (0xA5, some 2, f)
  | .xlateInvLinesall f => some (0xA5, some 3, f)
  | .poisonClear f => some (0xA6, none, f)
  | .fence f => some (0xB0, none, f)
  | .barArrive f => some (0xB1, none, f)
  | .barWait f => some (0xB2, none, f)
  | .sbarArrive f => some (0xB3, none, f)
  | .sbarTest f => some (0xB4, none, f)
  | .sbarWait f => some (0xB5, none, f)
  | .tbegin f => some (0xB6, none, f)
  | .tcommit f => some (0xB7, none, f)
  | .tabort f => some (0xB8, none, f)
  | .tstat f => some (0xB9, none, f)
  | .mwinAlloc f => some (0xC0, some 0, f)
  | .mwinSub f => some (0xC0, some 1, f)
  | .mwinFree f => some (0xC0, some 2, f)
  | .mwinQuery f => some (0xC0, some 3, f)
  | .obres f => some (0xC1, none, f)
  | .obfree f => some (0xC2, none, f)
  | .mload f => some (0xC3, some 0, f)
  | .mloadPeer f => some (0xC3, some 1, f)
  | .mma f => some (0xC4, none, f)
  | .mmas f => some (0xC5, none, f)
  | .mtrans f => some (0xC6, none, f)
  | .mperm f => some (0xC7, none, f)
  | .mrsum f => some (0xC8, none, f)
  | .mzero f => some (0xC9, none, f)
  | .mread f => some (0xCA, none, f)
  | .mwrite f => some (0xCB, none, f)
  | .weirOpen f => some (0xE0, none, f)
  | .weirPush f => some (0xE1, none, f)
  | .weirTake f => some (0xE2, some 0, f)
  | .weirTakeG f => some (0xE2, some 1, f)
  | .weirDone f => some (0xE3, some 0, f)
  | .weirDoneS f => some (0xE3, some 1, f)
  | .weirCloseEnd f => some (0xE4, some 0, f)
  | .weirCloseKill f => some (0xE4, some 1, f)
  | .inletAdd f => some (0xE5, none, f)
  | .inletTake f => some (0xE6, none, f)
  | .inletDone f => some (0xE7, none, f)
  | .stillWait f => some (0xE8, some 0, f)
  | .stillWaitTest f => some (0xE8, some 1, f)
  | .stillWaitHold f => some (0xE8, some 2, f)
  | .stillWaitUnhold f => some (0xE8, some 3, f)
  | .chanSend f => some (0xE9, none, f)
  | .chanRecv f => some (0xEA, none, f)
  | .ctxSaveLaunch f => some (0xF0, some 0, f)
  | .ctxSaveAsid f => some (0xF0, some 1, f)
  | .ctxSaveDie f => some (0xF0, some 2, f)
  | .ctxLoadLaunch f => some (0xF1, some 0, f)
  | .ctxLoadAsid f => some (0xF1, some 1, f)
  | .ctxLoadDie f => some (0xF1, some 2, f)
  | .trapret f => some (0xF2, some 0, f)
  | .trapretTo f => some (0xF2, some 1, f)
  | .trapretGetpc f => some (0xF2, some 2, f)
  | .trapretGetcause f => some (0xF2, some 3, f)
  | .trapretGetaddr f => some (0xF2, some 4, f)
  | .prio f => some (0xF3, none, f)
  | .collAllred f => some (0xF4, none, f)
  | .collBcast f => some (0xF5, none, f)
  | .collWait f => some (0xF6, some 0, f)
  | .collWaitS f => some (0xF6, some 1, f)
  | .collReform f => some (0xF7, none, f)
  | _ => none

/-- An AMO, LR or SC code that a host core executes (R309; the RISC-V A extension). -/
def amoCode (funct5 : Nat) (rs2 : Nat) : Bool :=
  [0, 1, 3, 4, 8, 12, 16, 20, 24, 28].contains funct5 || (funct5 == 2 && rs2 == 0)

/-- The checks of R173 that do not depend on the state, and the limits of the host encodings (R231, R348). The steps of
the machine and of its surroundings carry no encoding and have no ill-formed operand. -/
def Instr.wf (i : Instr) : Bool :=
  match i.slot? with
  | some (op, sub, f) => Rule.slotOk op f && (match sub with | none => true | some k => f.sub.toNat == k)
  | none =>
    match i with
    | .xfence ord scope => ord != 0 && (scope == 4 || scope == 5)
    | .hostAccess store f3 _ _ _ => if store then f3.toNat < 4 else f3.toNat < 7
    | .hostAtomic f5 _ _ _ _ _ rs2 => amoCode f5.toNat rs2.toNat
    | .hostAsidCsrWrite f3 _ _ => f3.toNat % 4 != 0
    | .unassignedOpcode op => (Rule.rule op.toNat ⟨0, false, 0, 0, 0, 0, 0, 0, 0, 0⟩).isNone
    | _ => true

end Sys2Proof
end

