-- ==== Sys2Proof/Decode.lean ====
section
/-! DEFINITION. Decoding and encoding: slots of 96 bits (R162), host words of 32 bits (R231, R348), fetch lines (R146). -/

namespace Sys2Proof

open Sys2Proof.Machine

/-- Why bits are no instruction of the table. -/
inductive DecodeError where
  /-- R173: GP, SUB, TYPE, C-type, M, an unused field or an operand is not accepted; the group takes ILLEGAL. -/
  | illegalSlot
  /-- A base RISC-V instruction, which the spec does not describe. -/
  | baseInstruction
  deriving DecidableEq, Repr

/-- The fields of a slot (R162). -/
def slotOf (w : BitVec 96) : Slot :=
  { gp := w.extractLsb' 8 7, gs := w.getLsbD 15, d := w.extractLsb' 16 8, a := w.extractLsb' 24 8,
    b := w.extractLsb' 32 8, c := w.extractLsb' 40 8, m := w.extractLsb' 48 8, ty := w.extractLsb' 56 5,
    sub := w.extractLsb' 61 3, i32 := w.extractLsb' 64 32 }

/-- The bits of a slot (R162). -/
def slotBits (op : BitVec 8) (f : Slot) : BitVec 96 :=
  f.i32 ++ f.sub ++ f.ty ++ f.m ++ f.c ++ f.b ++ f.a ++ f.d ++ BitVec.ofBool f.gs ++ f.gp ++ op

/-- The row of the table that an opcode and its SUB name (R171). -/
def pick (op : Nat) (f : Slot) : Option Instr :=
  match op with
  | 0x00 => some (.nop f)
  | 0x01 => some (.bra f)
  | 0x02 => some (.brx f)
  | 0x03 => some (.call f)
  | 0x04 => some (.callx f)
  | 0x05 => some (.ret f)
  | 0x06 => some (.exit f)
  | 0x07 => some (.trap f)
  | 0x08 => some (.reform f)
  | 0x09 => some (.yield f)
  | 0x0A => some (.spawn f)
  | 0x0B => some (.launch f)
  | 0x0C => some (.lwait f)
  | 0x0D => some (.lstat f)
  | 0x0E => some (.sreg f)
  | 0x10 => some (.iadd f)
  | 0x11 => some (.isub f)
  | 0x12 => some (.imul f)
  | 0x13 => some (.imulh f)
  | 0x14 => some (.imad f)
  | 0x15 => some (.idiv f)
  | 0x16 => some (.imin f)
  | 0x17 => some (.imax f)
  | 0x18 => some (.iabs f)
  | 0x19 => some (.ineg f)
  | 0x1A => some (.and f)
  | 0x1B => some (.or f)
  | 0x1C => some (.xor f)
  | 0x1D => some (.not f)
  | 0x1E => some (.shl f)
  | 0x1F => some (.shr f)
  | 0x20 => some (.sar f)
  | 0x21 => some (.rot f)
  | 0x22 => some (.bfe f)
  | 0x23 => some (.bfi f)
  | 0x24 => some (.popc f)
  | 0x25 => some (.clz f)
  | 0x26 => some (.brev f)
  | 0x27 => some (.isel f)
  | 0x28 => some (.icmp f)
  | 0x29 => some (.iadd64 f)
  | 0x2A => some (.imad64 f)
  | 0x2B => some (.lea f)
  | 0x2C => some (.mov f)
  | 0x2D => some (.movi f)
  | 0x30 => some (.pset f)
  | 0x31 => some (.pand f)
  | 0x32 => some (.por f)
  | 0x33 => some (.pxor f)
  | 0x34 => some (.pnot f)
  | 0x35 => some (.pmov f)
  | 0x36 => some (.pballot f)
  | 0x37 => some (.pany f)
  | 0x38 => some (.pall f)
  | 0x39 => some (.smovi f)
  | 0x3A => some (.sget f)
  | 0x3B => some (.sput f)
  | 0x3C => some (.salu f)
  | 0x3D => some (.scmp f)
  | 0x40 => some (.fadd f)
  | 0x41 => some (.fsub f)
  | 0x42 => some (.fmul f)
  | 0x43 => some (.fma f)
  | 0x44 => some (.fmin f)
  | 0x45 => some (.fmax f)
  | 0x46 => some (.fabs f)
  | 0x47 => some (.fneg f)
  | 0x48 => some (.fcmp f)
  | 0x49 => some (.fsel f)
  | 0x4A => some (.fclass f)
  | 0x4B => some (.fscale f)
  | 0x4C => some (.frnd f)
  | 0x4D => some (.fdot2 f)
  | 0x50 => some (.frcp f)
  | 0x51 => some (.frsq f)
  | 0x52 => some (.fsqrt f)
  | 0x53 => some (.fdiv f)
  | 0x54 => some (.fexp2 f)
  | 0x55 => some (.flog2 f)
  | 0x56 => some (.fsin f)
  | 0x57 => some (.fcos f)
  | 0x58 => some (.ftanh f)
  | 0x60 => some (.cvt f)
  | 0x61 => some (.cvts f)
  | 0x62 => some (.pack f)
  | 0x63 => some (.unpack f)
  | 0x68 => some (.qswap f)
  | 0x69 => some (.qbcast f)
  | 0x6A => some (.shfl f)
  | 0x6B => some (.shflup f)
  | 0x6C => some (.shfldn f)
  | 0x6D => some (.shflx f)
  | 0x6E => match f.sub.toNat with
    | 0 => some (.voteUni f)
    | 1 => some (.voteMatch f)
    | _ => none
  | 0x6F => some (.redux f)
  | 0x70 => some (.scan f)
  | 0x80 => some (.ld f)
  | 0x81 => some (.st f)
  | 0x82 => some (.lds f)
  | 0x83 => some (.sts f)
  | 0x84 => match f.sub.toNat with
    | 0 => some (.ldfW f)
    | 1 => some (.ldfC f)
    | _ => none
  | 0x85 => match f.sub.toNat with
    | 0 => some (.stfW f)
    | 1 => some (.stfS f)
    | _ => none
  | 0x86 => match f.sub.toNat with
    | 0 => some (.femarkEmpty f)
    | 1 => some (.femarkFull f)
    | _ => none
  | 0x87 => match f.sub.toNat with
    | 0 => some (.prefL1 f)
    | 1 => some (.prefTarn f)
    | _ => none
  | 0x88 => some (.atom f)
  | 0x89 => some (.cas f)
  | 0x8A => some (.red f)
  | 0x8B => some (.poll f)
  | 0x8C => some (.copy f)
  | 0x8D => some (.copym f)
  | 0x8E => some (.discard f)
  | 0x8F => match f.sub.toNat with
    | 0 => some (.cflushWb f)
    | 1 => some (.cflushInv f)
    | _ => none
  | 0x90 => some (.cinv f)
  | 0xA0 => some (.tarnDef f)
  | 0xA1 => some (.tarnGrow f)
  | 0xA2 => some (.tarnShrink f)
  | 0xA3 => some (.tarnMove f)
  | 0xA4 => some (.tarnRetire f)
  | 0xA5 => match f.sub.toNat with
    | 0 => some (.xlateInvAttr f)
    | 1 => some (.xlateInvLines f)
    | 2 => some (.xlateInvAttrall f)
    | 3 => some (.xlateInvLinesall f)
    | _ => none
  | 0xA6 => some (.poisonClear f)
  | 0xB0 => some (.fence f)
  | 0xB1 => some (.barArrive f)
  | 0xB2 => some (.barWait f)
  | 0xB3 => some (.sbarArrive f)
  | 0xB4 => some (.sbarTest f)
  | 0xB5 => some (.sbarWait f)
  | 0xB6 => some (.tbegin f)
  | 0xB7 => some (.tcommit f)
  | 0xB8 => some (.tabort f)
  | 0xB9 => some (.tstat f)
  | 0xC0 => match f.sub.toNat with
    | 0 => some (.mwinAlloc f)
    | 1 => some (.mwinSub f)
    | 2 => some (.mwinFree f)
    | 3 => some (.mwinQuery f)
    | _ => none
  | 0xC1 => some (.obres f)
  | 0xC2 => some (.obfree f)
  | 0xC3 => match f.sub.toNat with
    | 0 => some (.mload f)
    | 1 => some (.mloadPeer f)
    | _ => none
  | 0xC4 => some (.mma f)
  | 0xC5 => some (.mmas f)
  | 0xC6 => some (.mtrans f)
  | 0xC7 => some (.mperm f)
  | 0xC8 => some (.mrsum f)
  | 0xC9 => some (.mzero f)
  | 0xCA => some (.mread f)
  | 0xCB => some (.mwrite f)
  | 0xE0 => some (.weirOpen f)
  | 0xE1 => some (.weirPush f)
  | 0xE2 => match f.sub.toNat with
    | 0 => some (.weirTake f)
    | 1 => some (.weirTakeG f)
    | _ => none
  | 0xE3 => match f.sub.toNat with
    | 0 => some (.weirDone f)
    | 1 => some (.weirDoneS f)
    | _ => none
  | 0xE4 => match f.sub.toNat with
    | 0 => some (.weirCloseEnd f)
    | 1 => some (.weirCloseKill f)
    | _ => none
  | 0xE5 => some (.inletAdd f)
  | 0xE6 => some (.inletTake f)
  | 0xE7 => some (.inletDone f)
  | 0xE8 => match f.sub.toNat with
    | 0 => some (.stillWait f)
    | 1 => some (.stillWaitTest f)
    | 2 => some (.stillWaitHold f)
    | 3 => some (.stillWaitUnhold f)
    | _ => none
  | 0xE9 => some (.chanSend f)
  | 0xEA => some (.chanRecv f)
  | 0xF0 => match f.sub.toNat with
    | 0 => some (.ctxSaveLaunch f)
    | 1 => some (.ctxSaveAsid f)
    | 2 => some (.ctxSaveDie f)
    | _ => none
  | 0xF1 => match f.sub.toNat with
    | 0 => some (.ctxLoadLaunch f)
    | 1 => some (.ctxLoadAsid f)
    | 2 => some (.ctxLoadDie f)
    | _ => none
  | 0xF2 => match f.sub.toNat with
    | 0 => some (.trapret f)
    | 1 => some (.trapretTo f)
    | 2 => some (.trapretGetpc f)
    | 3 => some (.trapretGetcause f)
    | 4 => some (.trapretGetaddr f)
    | _ => none
  | 0xF3 => some (.prio f)
  | 0xF4 => some (.collAllred f)
  | 0xF5 => some (.collBcast f)
  | 0xF6 => match f.sub.toNat with
    | 0 => some (.collWait f)
    | 1 => some (.collWaitS f)
    | _ => none
  | 0xF7 => some (.collReform f)
  | _ => none

/-- The instruction in a slot, in the order of R173: an unassigned opcode, then every other static check. -/
def decodeSlot (w : BitVec 96) : Except DecodeError Instr :=
  let op := (w.extractLsb' 0 8).toNat
  let f := slotOf w
  if (Rule.rule op f).isNone then .ok (.unassignedOpcode (w.extractLsb' 0 8))
  else if !Rule.slotOk op f then .error .illegalSlot
  else match pick op f with
    | some i => .ok i
    | none => .error .illegalSlot

/-- The fields of a 32-bit host word. -/
def rdOf (w : BitVec 32) : BitVec 5 := w.extractLsb' 7 5
def rs1Of (w : BitVec 32) : BitVec 5 := w.extractLsb' 15 5
def rs2Of (w : BitVec 32) : BitVec 5 := w.extractLsb' 20 5
def funct3Of (w : BitVec 32) : BitVec 3 := w.extractLsb' 12 3

/-- Custom-0 (R231). -/
def decodeCustom0 (w : BitVec 32) : Option Instr :=
  let hi := w.extractLsb' 25 7
  match (funct3Of w).toNat with
  | 0 => if hi = 0 && rs2Of w = 0 then some (.xlaunch (rdOf w) (rs1Of w)) else none
  | 1 => if hi = 0 && rs2Of w = 0 then some (.xlwait (rdOf w) (rs1Of w)) else none
  | 2 =>
    let ord := w.extractLsb' 23 2
    let scope := w.extractLsb' 20 3
    if hi = 0 && rdOf w = 0 && rs1Of w = 0 && ord != 0 && (scope == 4 || scope == 5) then some (.xfence ord scope) else none
  | 3 => if hi = 0 then some (.xpoll (rdOf w) (rs1Of w) (rs2Of w)) else none
  | 4 => if hi = 0 && rdOf w = 0 then some (.xdiscard (rs1Of w) (rs2Of w)) else none
  | _ => none

/-- Custom-1 (R348). -/
def decodeCustom1 (w : BitVec 32) : Option Instr :=
  let hi := w.extractLsb' 25 7
  match (funct3Of w).toNat with
  | 0 => if hi = 0 && rs2Of w = 0 && rs1Of w = 0 then some (.xtxBegin (rdOf w)) else none
  | 1 => if hi = 0 && rs2Of w = 0 && rs1Of w = 0 then some (.xtxCommit (rdOf w)) else none
  | 2 => if w.extractLsb' 28 4 = 0 && rdOf w = 0 && rs1Of w = 0 then some (.xtxAbort (w.extractLsb' 20 8)) else none
  | 3 => if hi = 0 && rs2Of w = 0 && rs1Of w = 0 then some (.xtxStat (rdOf w)) else none
  | _ => none

/-- A host word: the Ivesh extension (R175), and the base instructions whose effect the spec gives (R309, R451, R493;
their encodings are RISC-V's, assumption log 15). An unlisted word of custom-0 or custom-1 is the illegal instruction of
R175. -/
def decodeHost (w : BitVec 32) : Except DecodeError Instr :=
  match (w.extractLsb' 0 7).toNat with
  | 0x0B => .ok ((decodeCustom0 w).getD (.hostIllegalInstruction w))
  | 0x2B => .ok ((decodeCustom1 w).getD (.hostIllegalInstruction w))
  | 0x03 => if (funct3Of w).toNat < 7 then .ok (.hostAccess false (funct3Of w) (rdOf w) (rs1Of w) (w.extractLsb' 20 12))
      else .error .baseInstruction
  | 0x23 => if (funct3Of w).toNat < 4 then
        .ok (.hostAccess true (funct3Of w) (rs2Of w) (rs1Of w) (w.extractLsb' 25 7 ++ rdOf w))
      else .error .baseInstruction
  | 0x0F => if funct3Of w = 0 && rdOf w = 0 && rs1Of w = 0 then
        .ok (.hostFence (w.extractLsb' 28 4) (w.extractLsb' 24 4) (w.extractLsb' 20 4))
      else .error .baseInstruction
  | 0x2F => if (funct3Of w).toNat / 2 = 1 && amoCode (w.extractLsb' 27 5).toNat (rs2Of w).toNat then
        .ok (.hostAtomic (w.extractLsb' 27 5) (w.getLsbD 26) (w.getLsbD 25) (w.getLsbD 12) (rdOf w) (rs1Of w) (rs2Of w))
      else .error .baseInstruction
  | 0x73 => if w.extractLsb' 20 12 = 0x5C0 && (funct3Of w).toNat % 4 ≠ 0 then
        .ok (.hostAsidCsrWrite (funct3Of w) (rdOf w) (rs1Of w))
      else .error .baseInstruction
  | _ => .error .baseInstruction

/-- The words of an instruction: a slot or a host word. -/
inductive Words where
  | slot (w : BitVec 96)
  | host (w : BitVec 32)
  deriving DecidableEq, Repr

/-- A host word of R-type fields. -/
def rType (hi : BitVec 7) (rs2 rs1 : BitVec 5) (f3 : BitVec 3) (rd : BitVec 5) (op : BitVec 7) : BitVec 32 :=
  hi ++ rs2 ++ rs1 ++ f3 ++ rd ++ op

/-- The words of an instruction (R162, R171, R231, R348); none for a step that has no encoding. -/
def encode (i : Instr) : Option Words :=
  match i.slot? with
  | some (op, _, f) => some (.slot (slotBits (BitVec.ofNat 8 op) f))
  | none =>
    match i with
    | .unassignedOpcode op => some (.slot (slotBits op ⟨0, false, 0, 0, 0, 0, 0, 0, 0, 0⟩))
    | .xlaunch rd rs1 => some (.host (rType 0 0 rs1 0 rd 0x0B))
    | .xlwait rd rs1 => some (.host (rType 0 0 rs1 1 rd 0x0B))
    | .xfence ord scope => some (.host (rType 0 (ord ++ scope) 0 2 0 0x0B))
    | .xpoll rd rs1 rs2 => some (.host (rType 0 rs2 rs1 3 rd 0x0B))
    | .xdiscard rs1 rs2 => some (.host (rType 0 rs2 rs1 4 0 0x0B))
    | .xtxBegin rd => some (.host (rType 0 0 0 0 rd 0x2B))
    | .xtxCommit rd => some (.host (rType 0 0 0 1 rd 0x2B))
    | .xtxAbort code => some (.host ((0 : BitVec 4) ++ code ++ (0 : BitVec 5) ++ (2 : BitVec 3) ++ (0 : BitVec 5) ++ (0x2B : BitVec 7)))
    | .xtxStat rd => some (.host (rType 0 0 0 3 rd 0x2B))
    | .hostIllegalInstruction w => some (.host w)
    | .hostAccess store f3 reg rs1 imm =>
      if store then some (.host (imm.extractLsb' 5 7 ++ reg ++ rs1 ++ f3 ++ imm.extractLsb' 0 5 ++ (0x23 : BitVec 7)))
      else some (.host (imm ++ rs1 ++ f3 ++ reg ++ (0x03 : BitVec 7)))
    | .hostFence fm p s => some (.host (fm ++ p ++ s ++ (0 : BitVec 5) ++ (0 : BitVec 3) ++ (0 : BitVec 5) ++ (0x0F : BitVec 7)))
    | .hostAtomic f5 aq rl wide rd rs1 rs2 =>
      some (.host (f5 ++ BitVec.ofBool aq ++ BitVec.ofBool rl ++ rs2 ++ rs1 ++ (1 : BitVec 2) ++ BitVec.ofBool wide ++ rd
        ++ (0x2F : BitVec 7)))
    | .hostAsidCsrWrite f3 rd rs1 => some (.host ((0x5C0 : BitVec 12) ++ rs1 ++ f3 ++ rd ++ (0x73 : BitVec 7)))
    | _ => none

/-- The instruction that words hold. -/
def decodeWords : Words → Except DecodeError Instr
  | .slot w => decodeSlot w
  | .host w => decodeHost w

/-- The instruction whose bits are `w`, bit 0 the least significant of its first word: a host word of up to 32 bits, or a
slot of up to 96. -/
def decodeTableWord (nbits w : Nat) : Option Instr :=
  (decodeWords (if nbits ≤ 32 then .host (BitVec.ofNat 32 w) else .slot (BitVec.ofNat 96 w))).toOption

/-- The fields of a line word (R147). -/
def lineWord (l : BitVec 512) : Nat := (l.extractLsb' 0 32).toNat
def lineWait (l : BitVec 512) : Nat := bits (lineWord l) 0 12
def lineSetA (l : BitVec 512) : Nat := bits (lineWord l) 12 4
def lineSetB (l : BitVec 512) : Nat := bits (lineWord l) 16 4
def lineTargets (l : BitVec 512) : Nat := bits (lineWord l) 20 5
def linePair (l : BitVec 512) : Nat := bits (lineWord l) 25 4

/-- Slot `i` of a line (R146). -/
def lineSlot (l : BitVec 512) (i : Nat) : BitVec 96 := l.extractLsb' (32 + 96 * i) 96

/-- The exclusive OR of the bits of a number below 2 to the `n` (R147). -/
def parity : Nat → Nat → Bool
  | 0, _ => false
  | n + 1, v => (v % 2 == 1) != parity n (v / 2)

/-- The parity of a line is even (R147). -/
def lineParityOk (l : BitVec 512) : Bool := !parity 512 l.toNat

/-- The line word passes the checks of R149. -/
def lineWordOk (l : BitVec 512) : Bool :=
  bits (lineWord l) 29 2 == 0 && linePair l < 8 && !([12, 13, 14].contains (lineSetA l)) && !([12, 13, 14].contains (lineSetB l))

/-- The pairs that a template joins, by their lower slots (R159). -/
def pairsOf : Nat → List Nat
  | 1 => [0] | 2 => [1] | 3 => [2] | 4 => [3] | 5 => [0, 2] | 6 => [0, 3] | 7 => [1, 3] | _ => []

/-- The opcodes that R171 marks pair-capable. -/
def pairCapable (op : Nat) : Bool :=
  op == 0 || (0x10 ≤ op && op ≤ 0x2D && op != 0x15) || (0x30 ≤ op && op ≤ 0x35) || (0x40 ≤ op && op ≤ 0x4D)
    || (0x60 ≤ op && op ≤ 0x63)

/-- The opcodes that R171 marks variable-latency. -/
def variableLatency (op : Nat) : Bool :=
  [0x0B, 0x0C, 0x0D, 0x15].contains op || (0x50 ≤ op && op ≤ 0x58) || (0x80 ≤ op && op ≤ 0x90) || (0xA0 ≤ op && op ≤ 0xA6)
    || [0xB0, 0xB3, 0xB4, 0xB7].contains op || (0xC1 ≤ op && op ≤ 0xCB) || (0xE0 ≤ op && op ≤ 0xEA)
    || [0xF0, 0xF1, 0xF4, 0xF5, 0xF6, 0xF7].contains op

end Sys2Proof
end

