-- ==== Sys2Proof/Machine/State.lean ====
section
/-! DEFINITION. The state of the machine as plain data, the reasons a step can stop, and the state after reset. -/

namespace Sys2Proof.Machine

open Sys2Proof

/-- Why the machine stops: for nothing. Every instruction of the table has an effect in every state, so no reason is named. -/
inductive Fault where
  deriving DecidableEq, Repr

/-- Why a step gives no meaning. -/
inductive Refusal where
  /-- The instruction of this name has no meaning in the model. Safe. -/
  | notModelled (mnemonic : String)
  deriving DecidableEq, Repr

/-! ## Faults and traps of the spec -/

/-- Page-fault kinds (R97), code 0 to 8 in this order. -/
inductive Kind where
  | notValid | perm | user | world | attr | nonCanon | unbacked | readOnly | walkPoison
  deriving DecidableEq, Repr

/-- Trap causes (R439), code 1 to 21 in this order. -/
inductive Cause where
  | illegal | parity | hazard | privilege | staleScalar | convergence | window | operand | engineReset | laneFault
  | target | userTrap | spawnFull | pageFault | poisoned | misaligned | scratchBound | rangeLock | copyLen | barrier
  | peerLost
  deriving DecidableEq, Repr

/-- A trap as a thread takes it (R440): cause, CODE, the faulting address where there is one, and whether that access writes
(R442). -/
structure Trap where
  cause : Cause
  code : Nat
  addr : Option Nat
  write : Bool
  deriving DecidableEq, Repr

/-- Abort causes of a transaction (R342), code 0 to 15 in this order. -/
inductive Abort where
  | none | conflict | lane | sigFull | fault | preempt | capacity | instr | explicit | crossPkg | memType | poison
  | trap | timeout | noTx | nest
  deriving DecidableEq, Repr

/-- An access as the attribute check sees it (R97). -/
inductive Access where
  | read | write | both | exec
  deriving DecidableEq, Repr

/-- The attributes of a leaf page (R93, R96), with the name and size of the page, and where its entry lies. -/
structure Attr where
  asid : Nat
  /-- First virtual address of the page. -/
  va : Nat
  /-- Bytes of the page. -/
  size : Nat
  tarn : Nat
  home : Nat
  /-- First physical address of the frame. -/
  frame : Nat
  world : Bool
  user : Bool
  exec : Bool
  write : Bool
  read : Bool
  /-- Physical address of the leaf entry. -/
  leaf : Nat
  /-- The leaf entry as the shard read it. -/
  entry : Nat
  deriving DecidableEq, Repr

/-! ## Transactions -/

/-- A 16-byte granule of a name with the bytes read (R336). -/
structure Logged where
  asid : Nat
  va : Nat
  bytes : List Byte
  deriving DecidableEq, Repr

/-- A 16-byte granule of the write buffer; an absent byte is not written (R336). -/
structure Buffered where
  asid : Nat
  va : Nat
  bytes : List (Option Byte)
  deriving DecidableEq, Repr

/-- An open transaction of a thread (R335 to R347). -/
structure Tx where
  depth : Nat
  /-- The snapshot of R335. -/
  regs : Tab Word
  preds : BitVec 96
  draws : BitVec 32
  pc : Pc
  /-- vD of the outermost TBEGIN. -/
  dreg : Nat
  /-- Clock at which the attempt began. -/
  start : Nat
  retries : Nat
  /-- The attempt runs in lock mode (R345). -/
  lock : Bool
  log : List Logged
  buf : List Buffered
  doomed : Bool
  /-- A ticket held (R340). -/
  ticket : Option Nat
  /-- An abort that awaits its flag wait, its fault answer or the resume (R344, R346, R347): cause and CODE. -/
  pending : Option (Abort × Nat)
  deriving DecidableEq, Repr

/-! ## Threads, groups and blocks -/

/-- A thread that could not be filed (R39): since when its count runs, and its age timeout. While its block is saved,
`since` holds the count reached. -/
structure Held where
  since : Nat
  timeout : Nat
  deriving DecidableEq, Repr

/-- A thread (R22, R25, R440, R326). -/
structure Thread where
  block : Nat
  /-- Thread index, 64 × chunk ordinal + home lane (R229). -/
  tid : Nat
  /-- Slot number given at placement or by SPAWN (R25). -/
  slot : Nat
  pc : Pc
  /-- Vector registers; an unlisted one holds zero (R30). -/
  regs : Tab Word
  /-- Predicates p0 to p95; reading p0 gives true whatever this holds (R22). -/
  preds : BitVec 96
  /-- The draw counter (R73). -/
  draws : BitVec 32
  held : Option Held
  /-- In its trap handler (R440). -/
  handler : Bool
  trapPc : Dword
  trapCause : Dword
  trapAddr : Dword
  resume : Pc
  /-- A trap of an instruction that has issued, with that instruction's PC: it is taken once HANDLER's line has been fetched
  (R440, R492). -/
  owedTrap : Option (Pc × Trap)
  tx : Option Tx
  /-- Cause and CODE of the last abort (R343). -/
  lastAbort : Nat × Nat
  /-- Pending bit and arrival phase for b0 to b15 (R326). -/
  barPend : BitVec 16
  barPhase : BitVec 16
  /-- Counted in the expected count of the open phase of b0 to b15 (R326). -/
  barIn : BitVec 16
  exited : Bool
  /-- Outstanding instructions that keep the slot of an exited thread (R48). -/
  waits : List Nat
  deriving DecidableEq, Repr

/-- States of a group record (R32); a FREE record is absent. -/
inductive GroupState where
  | cove | ready | backwater | draining
  deriving DecidableEq, Repr

/-- What holds a group in the Backwater (R47). -/
inductive Park where
  /-- The wait mask of the line being entered names a pending flag. -/
  | wait
  /-- A regrouping point or an abort waits for the flags (R35, R344). -/
  | regroup
  /-- An instruction waits on an L1 miss, an empty granule, a POLL back-off or the operand log (R47, R245). -/
  | op (id : Nat)
  /-- A block barrier (R328). -/
  | barrier
  /-- A stage barrier (R332). -/
  | stage
  /-- Fault records of a table read, a fetch or a transaction await their answers (R198, R346, R492). -/
  | answer
  /-- The commit lock (R345). -/
  | lock
  /-- An entry of the operand log (R245). -/
  | log
  deriving DecidableEq, Repr

/-- What a tag of R157 names. -/
inductive Owned where
  | vreg (n : Nat)
  | pred (n : Nat)
  | scalar (n : Nat)
  deriving DecidableEq, Repr

/-- The fetched copy of a line that a group runs from (R177). -/
structure Fetched where
  /-- Line address. -/
  addr : Nat
  bits : BitVec 512
  /-- The WAIT flags were met and the line is entered (R154). -/
  entered : Bool
  deriving DecidableEq, Repr

/-- A regrouping decision that waits for the flags (R35). -/
structure Plan where
  /-- The instruction's PC. -/
  pc : Pc
  /-- The PC that stays among next PCs of equal counts: NextPc of the instruction, or the group's own PC where a trap is
  taken for an earlier instruction. -/
  fall : Pc
  /-- Next PC of each thread at that PC. -/
  next : List (Nat × Pc)
  /-- For REFORM and YIELD the threads that are filed; none: next PCs are resolved by R197. -/
  depart : Option (List Nat)
  /-- Threads that transfer, so that the line of their next PC is entered (R154). -/
  xfer : List Nat
  /-- YIELD: the groups READY at its issue and its clock (R203). -/
  yield : Option (List Nat × Nat)
  deriving DecidableEq, Repr

/-- A release condition that YIELD set on a cove (R203). -/
structure Release where
  /-- Groups that have not yet issued or left READY. -/
  groups : List Nat
  /-- Clock at which it is met at the latest. -/
  due : Nat
  deriving DecidableEq, Repr

/-- Records that a parked group awaits (R198, R492, R346): the lanes of a record, and the answer once it came. -/
structure Awaited where
  /-- Number of the report. -/
  report : Nat
  lanes : List Nat
  kind : Kind
  addr : Nat
  /-- 0 REPLAY, 1 DELIVER, 2 KILL (R444). -/
  answer : Option Nat
  deriving DecidableEq, Repr

/-- A group record in use (R29, R31, R32). -/
structure Group where
  block : Nat
  /-- Record number 0 to 95 of the core (R29). -/
  record : Nat
  st : GroupState
  /-- Thread keys in ascending lane order. -/
  members : List Nat
  pc : Pc
  /-- Formed with 64 threads, and no thread has joined or left since (R43). -/
  whole : Bool
  /-- Valid scalars (R31). -/
  scalars : Tab Dword
  /-- Completion flags f0 to f11; an unlisted flag is 0 (R153). -/
  flags : Tab Nat
  owed : List (Owned × Nat)
  awbase : Nat
  awlimit : Nat
  line : Option Fetched
  /-- A parity error was met and the refetched line is awaited (R148). -/
  refetch : Bool
  parks : List Park
  plan : Option Plan
  awaited : List Awaited
  /-- Since when the group is eligible (R33). -/
  since : Nat
  /-- Cove: clock at which its age timer expires; while saved, the remaining count (R41). -/
  due : Nat
  releases : List Release
  /-- The group takes ENGINERESET at its next issue (R383). -/
  engineReset : Bool
  /-- A lane slice failed under its registers (R55). -/
  laneFault : Bool
  /-- Formed by placement, its first line not yet entered: launch entry is a transfer (R152). -/
  fresh : Bool
  deriving DecidableEq, Repr

/-- A block barrier (R326). -/
structure Bar where
  phase : Bool
  arrived : Nat
  expected : Nat
  /-- Accesses, by instruction and thread, that the arrivals of the open phase came after, and those of the phase before it
  (R329). -/
  before : List (Nat × Nat)
  prior : List (Nat × Nat)
  /-- Clock at which the last phase completed, and the open one opened (R351). -/
  opened : Option Nat
  deriving DecidableEq, Repr

/-- An accumulator window (R359). -/
structure Window where
  engine : Nat
  base : Nat
  rows : Nat
  deriving DecidableEq, Repr

/-- An operand reservation (R364 to R366). -/
structure Resv where
  slot : Nat
  /-- Type code of the elements. -/
  fmt : Nat
  scaled : Bool
  rows : Nat
  k : Nat
  offS : Nat
  offC : Nat
  offX : Nat
  /-- Granules of 4,096 bytes. -/
  g : Nat
  full : Bool
  /-- Its bytes; an unlisted byte is zero (R367). -/
  data : Tab Byte
  deriving DecidableEq, Repr

/-- A block, resident or saved (R21, R423 to R437). -/
structure Block where
  /-- Launch-table entry. -/
  launch : Nat
  /-- Linear block index. -/
  index : Nat
  /-- The core it is resident on; none while it is saved. -/
  core : Option Nat
  /-- Chunk numbers given at first placement, by ordinal (R25). -/
  slots : List Nat
  /-- Chunk numbers now held. -/
  chunks : List Nat
  /-- Scratchpad bytes; an unlisted byte reads zero (R242). -/
  scratch : Tab Byte
  /-- Full granules (R242). -/
  full : List Nat
  /-- Offset and size of its buddy block (R425). -/
  buddy : Nat × Nat
  bars : Tab Bar
  /-- Spawn pool as thread indices (R205). -/
  pool : List Nat
  /-- Image slot (R435). -/
  image : Nat
  cls : Nat
  gang : Nat
  gangPos : Nat
  gangSize : Nat
  /-- Traffic class of its gang (R426). -/
  traffic : Nat
  window : Option Window
  /-- Words of the window's rows by 128 × row + column, rows counted from the window's base; unlisted: 0 (R352, R359). -/
  rows : Tab Word
  /-- Operand reservations, by rising slot. -/
  resv : List Resv
  /-- A save has begun (R436). -/
  saving : Bool
  /-- Order of placement. -/
  placed : Nat
  deriving DecidableEq, Repr

/-! ## Outstanding instructions -/

/-- Where one lane of an outstanding instruction stands. -/
inductive LaneStage where
  /-- Waits for an attribute request (R96). -/
  | attr
  /-- Checked, not yet sent or not yet served. -/
  | ready
  /-- In a request for its line. -/
  | sent
  /-- Waits on a full bit, or backs off in POLL. -/
  | wait
  /-- A page fault of this kind awaits its answer (R245). -/
  | fault (kind : Kind)
  | done
  deriving DecidableEq, Repr

/-- One lane of an outstanding instruction. -/
structure LaneOp where
  lane : Nat
  /-- Thread key. -/
  key : Nat
  /-- Address. -/
  ea : Nat
  b : List Word
  c : List Word
  /-- Result words for D. -/
  res : List Word
  /-- Registers of D that the higher slot of its pair wrote: their values stand (R161, R305). -/
  kept : List Nat
  stage : LaneStage
  attr : Option Attr
  /-- POLL: reads made, and when the back-off ends (R263). -/
  reads : Nat
  due : Nat
  deriving DecidableEq, Repr

/-- A copy, multicast copy, matrix load or Weir transfer in flight (R267, R269, R371, R397): what is still to do. -/
structure Move where
  src : Nat
  dst : Nat
  len : Nat
  /-- Granules of the source not yet written. -/
  todo : List Nat
  /-- Positions still to deliver to, and those under way (R270). -/
  wait : List Nat
  busy : List Nat
  /-- Positions dropped. -/
  dropped : List Nat
  deriving DecidableEq, Repr

/-- An outstanding variable-latency instruction (R153, R246). -/
structure Op where
  group : Nat
  block : Nat
  pc : Pc
  opc : Nat
  f : Slot
  /-- The flag it counts on; none for a set-flag field of 15 (R155). -/
  flag : Option Nat
  lanes : List LaneOp
  /-- Holds an entry of the operand log (R245). -/
  logged : Bool
  /-- Clock of its issue; for a POLL, resident cycles count from here (R262). -/
  issued : Nat
  /-- Every part has been served, and the completion is due. -/
  served : Bool
  move : Option Move
  /-- Report numbers of its open fault records. -/
  reports : List Nat
  /-- A number of the instruction's own: a Tarn number, a launch handle, a row, a round. -/
  tag : Nat
  /-- Matrix products: the next chunk (R376). -/
  chunk : Nat
  /-- Matrix entries: passes granted to others while it was eligible, at most 255 (R429). -/
  age : Nat
  /-- Matrix entries: the order of arrival at the engine; none while a recorded entry is not posted again (R355, R381). -/
  posted : Option Nat
  /-- Matrix entries: their number 0 to 31 at the engine, which their class at posting chose (R352). -/
  entry : Nat
  /-- Clock at which the request reached its unit, after a resume anew (R356, R396). -/
  arrived : Nat
  deriving DecidableEq, Repr

/-- Stages of a request for one line (R101). -/
inductive ReqStage where
  | home | shard | controller | fill
  deriving DecidableEq, Repr

/-- A request for one line by some lanes of an outstanding instruction (R101, R243). -/
structure Req where
  op : Nat
  /-- Name and first address of the line. -/
  asid : Nat
  va : Nat
  size : Nat
  lanes : List Nat
  stage : ReqStage
  attr : Attr
  /-- An invalidation of the line reached the core meanwhile: the L1 keeps no copy (R135, R320). -/
  noCopy : Bool
  data : List Byte
  deriving DecidableEq, Repr

/-- An entry of a core's range-lock table (R264). -/
structure RangeLock where
  core : Nat
  /-- The instruction that owns it. -/
  owner : Nat
  dst : Bool
  /-- Scratchpad of this block, or none for global bytes of the name `asid`. -/
  block : Option Nat
  asid : Nat
  lo : Nat
  hi : Nat
  deriving DecidableEq, Repr

/-! ## Caches and Tarns -/

/-- A line held in a Tarn (R111 to R113). -/
structure Line where
  tarn : Nat
  asid : Nat
  va : Nat
  bank : Nat
  way : Nat
  set : Nat
  data : List Byte
  dirty : Bool
  /-- Fill order, for FIFO. -/
  order : Nat
  deriving DecidableEq, Repr

/-- A copy of a line in an L1, an instruction cache or a host L2, with its attributes (R96). `data` is used for HOME 3
lines; a copy of a HOME 0 or 1 line holds what its home holds. -/
structure Copy where
  /-- Agent: vector core number, or 512 + host core number. -/
  agent : Nat
  inst : Bool
  attr : Attr
  va : Nat
  size : Nat
  data : List Byte
  dirty : Bool
  deriving DecidableEq, Repr

/-- A write-back on its way to memory (R102). -/
structure WriteBack where
  asid : Nat
  va : Nat
  data : List Byte
  deriving DecidableEq, Repr

/-- A directory entry (R131). -/
structure DirEntry where
  slice : Nat
  asid : Nat
  va : Nat
  size : Nat
  /-- 0 UNCACHED, 1 SHARED, 2 OWNED. -/
  state : Nat
  /-- Holders: package cluster 0 to 127, host core 128 to 191, other packages 192. -/
  holders : List Nat
  /-- Clock of the last request. -/
  last : Nat
  deriving DecidableEq, Repr

/-- The memory system (R83 to R145). -/
structure MemSys where
  /-- Bytes of the package's HBM4E and LPDDR by offset; an unlisted byte is 0 (R457). -/
  mem : List Host.Cell
  /-- Poisoned 64-byte granules, by offset divided by 64 (R140). -/
  poison : List Nat
  lines : List Line
  /-- Pseudo-LRU bits of a set, by bank × 1,024 + set. -/
  trees : Tab Nat
  copies : List Copy
  /-- Page-attribute caches: agent and leaf, oldest first (R96). -/
  attrs : List (Nat × Attr)
  /-- Translation caches of the shards: shard and leaf, oldest first (R100). -/
  tlb : List (Nat × Attr)
  dir : List DirEntry
  wbq : List WriteBack
  /-- Names whose write-backs were dropped (R102). -/
  errors : List (Nat × Nat)
  /-- Tarn Definition Blocks that differ from their reset value (R109, R110). -/
  tdbs : Tab (BitVec 512)
  tdbSet : Bool
  shardMap : Tab Nat
  retired : List Nat
  /-- Shares whose retirement runs, and whether SYS.SHARERET asked for it (R128). -/
  retiring : List (Nat × Bool)
  /-- Clock of the last uncorrectable error of a share (R127). -/
  eccAt : Tab Nat
  /-- Refreshes owed by (controller × 4,096 + bank) (R143). -/
  owedRefresh : Tab Nat
  /-- Next fill order. -/
  fills : Nat
  /-- Node-holder fields of this package's granules, without its own bit, which stands for the lines its own home slices hold:
  granule, HOLD, OWNED (R462). -/
  remoteHeld : List (Nat × BitVec 8 × Bool)
  /-- Remote-frame tables of the shards, oldest first: first physical address of a 4 KiB frame, and its name (R463). -/
  remoteLines : List (Nat × Nat × Nat)
  /-- Save-image bytes whose contents the spec leaves open: ASID, first address, end, number of free values (log 6). -/
  images : List (Nat × Nat × Nat × Nat)
  deriving DecidableEq, Repr

/-! ## Vector cores -/

/-- A vector core (R13, R42, R53, R85). -/
structure CoreSt where
  asid : Nat
  coveAge : Nat
  mode : Nat
  nfail : Nat
  skipA : Nat
  skipB : Nat
  /-- A lane slice failed and the controller has not resumed the core; the slice, and the blocks saved for it (R55). -/
  stopped : Bool
  slice : Nat
  victims : List Nat
  deriving DecidableEq, Repr

/-- A vector core after reset (R42, R53, R85). -/
def CoreSt.reset : CoreSt := ⟨0, 0x200, 0, 0, 64, 0x7F, false, 0, []⟩

/-- The vector cores: threads by 2,048 × block + thread index, groups and blocks by a number of their own. -/
structure Vec where
  cores : Tab CoreSt
  threads : Tab Thread
  groups : Tab Group
  blocks : Tab Block
  ops : Tab Op
  reqs : Tab Req
  locks : List RangeLock
  /-- The pass that each matrix engine runs: its entry and the clock of the grant (R356, R382). -/
  passes : Tab (Nat × Nat)
  deriving DecidableEq, Repr

/-! ## Flow units (R385 to R416) -/

/-- States of a Weir context (R388). -/
inductive WeirState where
  | free | open_ | closed | faulted
  deriving DecidableEq, Repr

/-- An entry of the Weir directory with its context (R389, R390, R403). -/
structure Weir where
  gen : Nat
  state : WeirState
  /-- Die and hardware context that hold it; none while it lies in the save Tarn. -/
  place : Option (Nat × Nat)
  launch : Nat
  launchGen : Nat
  asid : Nat
  priv : Bool
  secure : Bool
  nbody : Nat
  ringLog : Nat
  stride : Nat
  domain : Option Nat
  bodyBase : Nat
  ringBase : Nat
  stateBase : Nat
  /-- Next sequence number. -/
  next : Nat
  /-- Pending constraints in stream order, with the thread that has each in hand (R396). -/
  pending : List (Nat × Option Nat)
  deriving DecidableEq, Repr

/-- A usable list of the Inlet (R405 to R408). -/
structure InletList where
  secure : Bool
  domain : Option Nat
  ringLog : Nat
  ringBase : Nat
  /-- Items taken since it was enabled, and items held. -/
  taken : Nat
  count : Nat
  inHand : Nat
  faulted : Bool
  deriving DecidableEq, Repr

/-- Weir directory, Inlet, Stillwater and channels. -/
structure Flow where
  weirs : Tab Weir
  lists : Tab InletList
  /-- Hold count and EPOCH of a domain; unlisted: 0 and 0 (R410). -/
  domains : Tab (Nat × Nat)
  /-- Messages of a channel, oldest first, by 16 × gang number + channel (R413). -/
  chans : Tab (List Dword)
  deriving DecidableEq, Repr

/-! ## The collective unit (R466 to R475) -/

/-- A round accepted in this package. -/
structure Round where
  epoch : Nat
  seq : Nat
  header : CollHeader
  /-- ALIVE at acceptance. -/
  ring : Nat
  addr : Nat
  asid : Nat
  priv : Bool
  secure : Bool
  /-- Its own input has been read and sent. -/
  sent : Bool
  /-- Clock at which a missing part is a time-out (R472). -/
  due : Nat
  /-- Its own input, by granule bytes. -/
  input : List Byte
  /-- Parts received: sender, whether a result part, bytes. -/
  parts : List (Nat × Bool × List Byte)
  /-- Code and SUSPECT once it has ended (R473). -/
  outcome : Option (Nat × Nat)
  deriving DecidableEq, Repr

/-- A reform under way (R474): the instruction, its set, the sets received, exchanges made, and its time-out. -/
structure Reform where
  op : Nat
  set : Nat
  got : List (Nat × Nat)
  count : Nat
  due : Nat
  deriving DecidableEq, Repr

/-- A message of another member that waits: for a round that is not accepted here yet, for the lock holder or a commit whose
granules its write meets, or for the next exchange of a reform. -/
inductive CollMail where
  | part (seq sender : Nat) (header : CollHeader) (result : Bool) (data : List Byte)
  | abort (seq : Nat) (silent : BitVec 8) (fault : Bool)
  | set (sender set : Nat)
  deriving DecidableEq, Repr

/-- A collective slot; SYS.COMM's fields are in `Sys.other`. -/
structure CollSlot where
  next : Nat
  rounds : List Round
  reform : Option Reform
  /-- Messages that wait, oldest first. -/
  mail : List CollMail
  /-- Clock at which the last reform was accepted: it counts before rounds of that cycle (R491). -/
  reformed : Option Nat
  deriving DecidableEq, Repr

/-! ## Ports and the controller (R461 to R489) -/

/-- A Xankor Link port (R461, R485). -/
structure Port where
  /-- Working lanes out of 17, the spare included, and whether the spare carries traffic. -/
  lanes : Nat
  spared : Bool
  /-- Clock since which it is down. -/
  down : Option Nat
  /-- Flits delivered, which is the number of the next one expected. -/
  seq : Nat
  /-- A flit failed its CRC, and its replay is awaited. -/
  replay : Bool
  deriving DecidableEq, Repr

/-- Inbound traffic of a port (R480, R481). -/
inductive Inbound where
  | pcie (port addr : Nat) (write : Bool) (len : Nat) (data : List Byte)
  | eth (port prio : Nat) (fcsOk : Bool) (frame : List Byte)
  deriving DecidableEq, Repr

/-- The session of the SPDM responder (R482): none, a key exchanged, or established. -/
inductive Session where
  | none
  | keyed
  | open_
  deriving DecidableEq, Repr

/-- Ports and the management and security controller. -/
structure Node where
  ports : Tab Port
  /-- Flits delivered, in order: port, class, bytes (R461). -/
  flits : List (Nat × Nat × List Byte)
  /-- Ethernet: next transmit and receive descriptor (R481). -/
  eth : Tab (Nat × Nat)
  /-- Measurements by index (R482). -/
  measured : Tab (BitVec 384)
  /-- Clock of the last firmware activation (R484). -/
  activated : Option Nat
  /-- Clock since which neither condition of R488 holds. -/
  cool : Option Nat
  /-- Power has been removed (R489). -/
  off : Bool
  /-- The fuse record: failed slices of each core (R53, R482). -/
  fuses : Tab (List Nat)
  /-- The responder's session (R482). -/
  session : Session
  /-- Dynamic address on the management bus (R483). -/
  address : Nat
  /-- Inbound traffic that waits for its home, oldest first (R480, R481). -/
  inbound : List Inbound
  /-- Verified images that wait for a quiet controller, oldest first: measurement index, measurement (R484). -/
  staged : List (Nat × BitVec 384)
  /-- Clock of the last fall of FREQ (R488). -/
  lowered : Option Nat
  deriving DecidableEq, Repr

/-! ## Launches, faults -/

/-- States of a launch-table entry (R212, R419). -/
inductive LState where
  | waiting | queued | running | saved | done | poisoned
  deriving DecidableEq, Repr

/-- A parsed launch record (R417). -/
structure Record where
  entry : Pc
  gdimx : Nat
  gdimy : Nat
  gdimz : Nat
  ntid : Nat
  regs : Nat
  scratch : Nat
  gangp : Nat
  gangf : Nat
  pclass : Nat
  fclass : Nat
  cls : Nat
  priv : Bool
  secure : Bool
  retry : Nat
  pvalid : Nat
  tolerant : Nat
  nchan : Nat
  chans : List Nat
  mgran : Nat
  mrows : Nat
  asid : Nat
  preds : List Nat
  seed : Dword
  hints : List Nat
  handler : Pc
  saveBase : Nat
  saveLen : Nat
  deriving DecidableEq, Repr

/-- An entry of the launch table (R207, R419). -/
structure Launch where
  gen : Nat
  state : LState
  record : Record
  /-- Next unplaced block index. -/
  next : Nat
  /-- Retired blocks. -/
  retiredBlocks : Nat
  /-- Final state of each predecessor once recorded (R420). -/
  predFinal : List (Option LState)
  age : Nat
  rank : Nat
  suspended : Bool
  killed : Bool
  /-- Clock at which the slice counter expires (R434). -/
  slice : Option Nat
  deriving DecidableEq, Repr

/-- A gang that reserves capacity (R426): launch entry, die, cores of its reservations, since when it waits. -/
structure GangWait where
  launch : Nat
  die : Nat
  cores : List Nat
  since : Nat
  deriving DecidableEq, Repr

/-- What an answer of R444 acts on. -/
inductive Awaiter where
  /-- Lanes of an outstanding instruction (R445). -/
  | op (id : Nat) (lanes : List Nat)
  /-- A parked group (R198, R346, R492). -/
  | group (gid : Nat)
  /-- Nothing (TYPE 1 and 2). -/
  | nobody
  deriving DecidableEq, Repr

/-- A fault report (R442), not yet or already written into the ring. -/
structure Report where
  id : Nat
  type : Nat
  lanes : Nat
  addr : Nat
  handle : Nat
  asid : Nat
  core : Nat
  group : Nat
  write : Bool
  code : Nat
  cause : Nat
  who : Awaiter
  /-- SEQ once it is written (R442). -/
  seq : Option Nat
  /-- An answer that arrived while the block was saved: 0 REPLAY, 1 DELIVER (R444). -/
  answer : Option Nat
  deriving DecidableEq, Repr

/-- Launch table, fault ring, reclaim ring (R417 to R450, R477). -/
structure Sched where
  launches : Tab Launch
  suspAsids : List Nat
  closedDies : List Nat
  gangs : List GangWait
  /-- Class-3 claims: core and launch entry (R427). -/
  claims : List (Nat × Nat)
  /-- Reports waiting or awaiting an answer, oldest first. -/
  reports : List Report
  fqIndex : Nat
  fqSeq : Nat
  rcIndex : Nat
  rcSeq : Nat
  /-- Next gang number. -/
  gangNext : Nat
  deriving DecidableEq, Repr

/-! ## Transactions of the package -/

/-- A signature pair at a home slice (R338): its owner is a thread key. -/
structure SigPair where
  slice : Nat
  key : Nat
  read : BitVec 1024
  write : BitVec 1024
  deriving DecidableEq, Repr

/-- A ticket in flight (R340): the thread (or hart) that holds it, and how its slices have voted. -/
structure Ticket where
  n : Nat
  host : Bool
  key : Nat
  /-- Slices that have not voted. -/
  todo : List Nat
  /-- Slices that voted to accept and hold the granules. -/
  accepted : List Nat
  /-- The TCOMMIT it belongs to. -/
  op : Nat
  deriving DecidableEq, Repr

/-- Tickets, signatures and the commit lock (R338, R340, R345). -/
structure TxSys where
  next : Nat
  tickets : List Ticket
  sigs : List SigPair
  /-- Thread that holds the commit lock, and those that wait, in order, each after the clock of its request (R345, R351). -/
  holder : Option Nat
  queue : List (Nat × Nat)
  deriving DecidableEq, Repr

/-! ## Host cores -/

/-- An open host transaction (R349, R350). -/
structure HostTx where
  depth : Nat
  regs : Tab Dword
  fregs : Tab Dword
  vregs : Tab Nat
  csrs : Tab Dword
  pc : Dword
  /-- rd of the outermost XTX.BEGIN. -/
  rd : Nat
  start : Nat
  /-- Lines read and lines written, by name, first address and size. -/
  readLines : List (Nat × Nat × Nat)
  writtenLines : List (Nat × Nat × Nat)
  buf : List Buffered
  ticket : Option Nat
  deriving DecidableEq, Repr

/-- What a stalled hart waits for (R233, R235). -/
inductive HostWait where
  | launch (rd : Nat) (handle : Nat)
  /-- XPOLL: address, comparand, reads made, clock of the next read. -/
  | poll (rd : Nat) (addr : Nat) (value : Dword) (reads : Nat) (due : Nat)
  | commit (rd : Nat)
  /-- An access that crosses a granule boundary has made the part of the upper granule, or that of the lower one: what a load read
  (R493). -/
  | half (upper : Bool) (bytes : List Byte)
  deriving DecidableEq, Repr

/-- A host core (R175, R231, R451). -/
structure Hart where
  running : Bool
  /-- Privilege: 0 user, 1 supervisor, 3 machine. -/
  mode : Nat
  pc : Dword
  regs : Tab Dword
  fregs : Tab Dword
  vregs : Tab Nat
  /-- Control and status registers by number; SYS.ASID is 0x5C0 (R451). -/
  csrs : Tab Dword
  /-- LR reservation: name, address and width. -/
  reservation : Option (Nat × Nat × Nat)
  tx : Option HostTx
  /-- CAUSE, CODE of the last abort, and RETRIES (R343). -/
  lastAbort : Nat × Nat
  wait : Option HostWait
  /-- A supervisor external interrupt is raised (R478). -/
  irq : Bool
  deriving DecidableEq, Repr

/-- A hart after reset: stopped, every register 0 (assumption log 14). -/
def Hart.reset : Hart := ⟨false, 3, 0, [], [], [], [], none, none, (0, 0), none, false⟩

/-! ## Device registers -/

/-- Package-wide registers with no home of their own elsewhere in the state (R453). -/
structure Sys where
  asidTab : Dword
  tdbBase : Dword
  shareRet : Dword
  inletTab : Dword
  faultq : Dword
  slice : Dword
  gangctl : Dword
  reclaim : Dword
  /-- Class-3 packets used in the window and budgets, by agent; unlisted: 0 and 0xFFFF (R430). -/
  c3used : Tab Nat
  c3budget : Tab Nat
  /-- The policing window that runs: CLOCK / 4,096 (R430). -/
  c3window : Nat
  /-- Blocked cycles per controller (R144). -/
  memlat : Tab Nat
  /-- SYS.NODE: package number, PRESENT, ALIVE, LINKUP (R464). -/
  pkg : Nat
  present : Nat
  alive : Nat
  linkUp : Nat
  /-- SYS.WORLD (R458). -/
  world : Dword
  /-- SYS.SECRANGE (R459). -/
  secRange : Tab Dword
  /-- SYS.INTR (R478). -/
  intr : Dword
  /-- SYS.POWERCAP (R488). -/
  powercap : Dword
  /-- SYS.CTXCMD: STATUS of the last operation, and what its save still waits for (R456). -/
  ctxStatus : Nat
  ctxBusy : List Nat
  /-- SYS.STACKCTL and SYS.DIECTL (R486, R487). -/
  stackCtl : Tab Dword
  dieCtl : Tab Dword
  /-- SYS.COMM, SYS.ETH and SYS.MATENG by offset (R453). -/
  other : Tab Dword
  /-- Stores to device registers that have been ordered and act next: offset, value, writer (R454). -/
  queue : List (Nat × Dword × Writer)
  deriving DecidableEq, Repr

/-! ## The model's own fields -/

/-- The object that a step without operands of its own acts on. -/
structure Sel where
  x : Nat
  y : Nat
  z : Nat
  deriving DecidableEq, Repr

/-- What the higher slot of a pair sees: the sources, and the owed tags, as they were before the lower slot (R157, R161), and the
number that the lower slot's instruction has if it is outstanding. -/
structure Before where
  threads : Tab Thread
  scalars : Tab Dword
  owed : List (Owned × Nat)
  lower : Nat
  deriving DecidableEq, Repr

/-- For whom an instruction executes. -/
structure Cur where
  /-- Vector-core instructions: the group. -/
  group : Nat
  /-- Set while the higher slot of a pair executes (R161). -/
  snap : Option Before
  /-- A trap was taken by the instruction that executes. -/
  trapped : Bool
  /-- Set while a pair executes: the threads that TRAPRET in its lower slot returns once the higher slot has executed, with
  their PCs, and whether that is a transfer (R161, R448). -/
  pair : Option (List (Nat × Pc × Bool))
  /-- Host instructions: the hart. -/
  hart : Nat
  deriving DecidableEq, Repr

/-- One turn of one agent (assumption log 1). -/
inductive Act where
  /-- The issue arbiter of a core chooses (R33). -/
  | issue (core : Nat)
  /-- A hart executes the instruction at its pc. -/
  | host (hart : Nat)
  /-- A step of the machine or of its surroundings. -/
  | event (i : Instr) (sel : Sel)
  /-- A hart executes a base instruction that the model does not describe: the exception that it raises (cause and value), or the memory
  that it reads (address, bytes, register) and writes (address, data), what it leaves in the pc, the mode, the integer, floating-point
  and vector registers it writes, and the control and status registers it writes (assumption log 1). -/
  | hostBase (hart : Nat) (exc : Option (Nat × Nat)) (loads : List (Nat × Nat × Nat)) (stores : List (Nat × List Byte)) (pc : Dword) (mode : Nat)
      (regs fregs : List (Nat × Dword)) (vregs : List (Nat × Nat)) (csrs : List (Nat × Dword))
  deriving DecidableEq, Repr

/-- A turn and the cycles that pass before it. -/
structure Turn where
  wait : Nat
  act : Act
  deriving DecidableEq, Repr

/-- What leaves the package. -/
inductive OutKind where
  /-- A write to a frame of another package (R103): address, data. -/
  | remoteWrite
  /-- A write to, or a read of, a PCIe window (R479): port, address, data. -/
  | pcieWrite
  | pcieRead
  /-- A write to, or a read of, the ECAM configuration space of a port (R479): port, offset, data. -/
  | pcieConfigWrite
  | pcieConfigRead
  /-- The completion of an inbound request (R480): port, status (0 successful, 1 Unsupported Request, 2 the access faulted), the
  bytes of a read. -/
  | pcieAnswer
  /-- A frame sent (R481): port, class, data. -/
  | ethFrame
  /-- A reply of the controller (R482, R483): request, nonce, data. -/
  | reply
  /-- An in-band interrupt of the controller on the management bus (R483): its dynamic address, the event (0 a hot junction, 1
  removal of power), no data. -/
  | inBand
  /-- A Xankor Link message (R461 to R463, R469 to R474, R489): class, package, data. -/
  | link
  deriving DecidableEq, Repr

/-- One item that leaves the package. -/
structure Out where
  kind : OutKind
  a : Nat
  b : Nat
  data : List Byte
  deriving DecidableEq, Repr

/-- The machine. -/
structure State where
  /-- CLOCK: core cycles since package reset (R230). -/
  clock : Nat
  /-- Boot is done (R457). -/
  powered : Bool
  v : Vec
  m : MemSys
  l : Sched
  x : TxSys
  harts : Tab Hart
  r : Sys
  f : Flow
  /-- Collective slots; an unlisted slot has next SEQ 1 and no round. -/
  c : Tab CollSlot
  n : Node
  /-- Counter of free values (assumption log 2). -/
  fresh : Nat
  /-- Next number of a group, block, outstanding instruction, request or report. -/
  nextId : Nat
  agenda : List Turn
  sel : Sel
  cur : Cur
  /-- What has left the package, oldest first. -/
  out : List Out
  deriving DecidableEq, Repr

/-- The machine right after reset. -/
def State.reset : State :=
  { clock := 0, powered := false,
    v := ⟨[], [], [], [], [], [], [], []⟩,
    m := ⟨[], [], [], [], [], [], [], [], [], [], [], false, [], [], [], [], [], 0, [], [], []⟩,
    l := ⟨[], [], [], [], [], [], 0, 1, 0, 1, 1⟩,
    x := ⟨0, [], [], none, []⟩,
    harts := [],
    r := ⟨0, 0, 0, 0, 0, 0x02DD02DD02DD, 0x40, 0, [], [], 0, [], 0, 1, 1, 0, 0, [], 0, 0x1E00000E10, 0, [], [], [], [], []⟩,
    f := ⟨[], [], [], []⟩, c := [], n := ⟨[], [], [], [], none, none, false, [], .none, 0, [], [], none⟩,
    fresh := 0, nextId := 1, agenda := [], sel := ⟨0, 0, 0⟩, cur := ⟨0, none, false, none, 0⟩, out := [] }

end Sys2Proof.Machine
end

