-- ==== Sys2Proof/Machine/Base.lean ====
section
/-! DEFINITION. Accessors of the state, program counters (R150, R151), the identifiers of R13 and R14, and what a group's
lanes are. -/

namespace Sys2Proof.Machine

open Sys2Proof

/-- What a meaning answers. -/
abbrev Result := Host.Outcome State Fault Refusal

/-! ## Parts of the state -/

def State.setThreads (s : State) (t : Tab Thread) : State := { s with v := { s.v with threads := t } }
def State.setGroups (s : State) (t : Tab Group) : State := { s with v := { s.v with groups := t } }
def State.setBlocks (s : State) (t : Tab Block) : State := { s with v := { s.v with blocks := t } }
def State.setOps (s : State) (t : Tab Op) : State := { s with v := { s.v with ops := t } }
def State.setReqs (s : State) (t : Tab Req) : State := { s with v := { s.v with reqs := t } }
def State.setLocks (s : State) (t : List RangeLock) : State := { s with v := { s.v with locks := t } }
def State.setCores (s : State) (t : Tab CoreSt) : State := { s with v := { s.v with cores := t } }
def State.setReports (s : State) (t : List Report) : State := { s with l := { s.l with reports := t } }
def State.setLaunches (s : State) (t : Tab Launch) : State := { s with l := { s.l with launches := t } }

def State.updThread (s : State) (k : Nat) (g : Thread → Thread) : State := s.setThreads (Tab.upd s.v.threads k g)
def State.updGroup (s : State) (k : Nat) (g : Group → Group) : State := s.setGroups (Tab.upd s.v.groups k g)
def State.updBlock (s : State) (k : Nat) (g : Block → Block) : State := s.setBlocks (Tab.upd s.v.blocks k g)
def State.updOp (s : State) (k : Nat) (g : Op → Op) : State := s.setOps (Tab.upd s.v.ops k g)
def State.updReq (s : State) (k : Nat) (g : Req → Req) : State := s.setReqs (Tab.upd s.v.reqs k g)
def State.updLaunch (s : State) (k : Nat) (g : Launch → Launch) : State := s.setLaunches (Tab.upd s.l.launches k g)
def State.setCur (s : State) (c : Cur) : State := { s with cur := c }

def State.setSys (s : State) (r : Sys) : State := { s with r := r }

/-- An interrupt source becomes pending (R478). -/
def State.raiseIntr (s : State) (source : Nat) : State := s.setSys { s.r with intr := s.r.intr ||| (1#64 <<< source) }

def State.thread? (s : State) (k : Nat) : Option Thread := Tab.look s.v.threads k
def State.group? (s : State) (k : Nat) : Option Group := Tab.look s.v.groups k
def State.block? (s : State) (k : Nat) : Option Block := Tab.look s.v.blocks k
def State.op? (s : State) (k : Nat) : Option Op := Tab.look s.v.ops k
def State.req? (s : State) (k : Nat) : Option Req := Tab.look s.v.reqs k
def State.launch? (s : State) (k : Nat) : Option Launch := Tab.look s.l.launches k
def State.coreOf (s : State) (c : Nat) : CoreSt := Tab.get s.v.cores c CoreSt.reset
def State.updCore (s : State) (c : Nat) (g : CoreSt → CoreSt) : State := s.setCores (Tab.set s.v.cores c (g (s.coreOf c)))
def State.hart (s : State) (h : Nat) : Hart := Tab.get s.harts h Hart.reset
def State.updHart (s : State) (h : Nat) (g : Hart → Hart) : State := { s with harts := Tab.set s.harts h (g (s.hart h)) }

/-- A new number. -/
def State.newId (s : State) : Nat × State := (s.nextId, { s with nextId := s.nextId + 1 })

/-- A byte of which the spec gives no value (assumption log 2). -/
def State.freeBytes (s : State) : Nat → List Byte × State
  | 0 => ([], s)
  | n + 1 =>
    let (t, s') := State.freeBytes { s with fresh := s.fresh + 1 } n
    (Config.freeByte s.fresh :: t, s')

/-! ## Program counters (R150, R151) -/

def pcIdx (pc : Nat) : Nat := bits pc 6 51 * 5 + pc % 8
def pcOf (i : Nat) : Nat := i / 5 * 64 + i % 5
def nextPc (pc : Pc) : Pc := BitVec.ofNat 64 (pcOf (pcIdx pc.toNat + 1))
def lineOf (pc : Nat) : Nat := pc / 64 * 64
def slotNo (pc : Nat) : Nat := pc % 8

/-- The target of a branch offset; none where its index is negative or its line lies at 2 ^ 57 or above (R151, R152). -/
def branchPc (pc : Pc) (i32 : BitVec 32) : Option Nat :=
  let i := (pcIdx pc.toNat : Int) + sext32 i32
  if i < 0 then none
  else
    let p := pcOf i.toNat
    if p < 2 ^ 57 then some p else none

/-- A PC in the form of R150, with a slot of 0 to 4 (R152). -/
def pcForm (p : Nat) : Bool := p < 2 ^ 57 && p % 64 < 5

/-! ## Identifiers (R13, R14) -/

/-- The key of a thread of a block. -/
def threadKey (block tid : Nat) : Nat := block * 2048 + tid

/-- Thread index to home lane and chunk ordinal (R23, R25). -/
def Thread.lane (t : Thread) : Nat := t.tid % 64

def clusterOf (core : Nat) : Nat := core / 4
def dieOf (core : Nat) : Nat := core / 128

/-- The launch of a block. -/
def State.launchOf (s : State) (b : Block) : Option Launch := s.launch? b.launch

/-- The record of a block's launch; every block has one. -/
def State.record? (s : State) (blk : Nat) : Option Record := (s.block? blk).bind (fun b => (s.launchOf b).map (·.record))

/-- The handle of a launch (R207). -/
def handleOf (i : Nat) (l : Launch) : Nat := l.gen * 256 + i

/-- Declared registers of a block's kernel (R22). -/
def State.declared (s : State) (blk : Nat) : Nat := match s.record? blk with | some r => r.regs | none => 0

/-- The scratchpad size of a block (R242). -/
def State.scratchSize (s : State) (blk : Nat) : Nat := match s.record? blk with | some r => r.scratch | none => 0

/-- The class at which a block's requests travel (R426, R429). -/
def State.trafficOf (s : State) (blk : Nat) : Nat := match s.block? blk with | some b => min b.cls b.traffic | none => 0

/-- ASID, privilege and world under which a block runs (R85, R417), and the class of its requests. -/
structure Ctx where
  asid : Nat
  priv : Bool
  secure : Bool
  cls : Nat
  deriving DecidableEq, Repr

def State.ctxOf (s : State) (blk : Nat) : Ctx :=
  match s.record? blk with | some r => ⟨r.asid, r.priv, r.secure, s.trafficOf blk⟩ | none => ⟨0, false, false, 0⟩

/-! ## Threads -/

def Thread.pred (t : Thread) (n : Nat) : Bool := n == 0 || t.preds.getLsbD n
def Thread.setPred (t : Thread) (n : Nat) (b : Bool) : Thread :=
  if n = 0 then t
  else { t with preds := if b then t.preds ||| (1#96 <<< n) else t.preds &&& ~~~(1#96 <<< n) }
def Thread.reg (t : Thread) (n : Nat) : Word := Tab.get t.regs n 0
def Thread.setReg (t : Thread) (n : Nat) (w : Word) : Thread := { t with regs := Tab.set t.regs n w }
def Thread.words (t : Thread) (n : Nat) : Nat → List Word
  | 0 => []
  | k + 1 => t.reg n :: Thread.words t (n + 1) k
def Thread.setWords (t : Thread) (n : Nat) : List Word → Thread
  | [] => t
  | w :: ws => Thread.setWords (t.setReg n w) (n + 1) ws
/-- The value of consecutive registers (R66). -/
def Thread.val (t : Thread) (n w : Nat) : Nat := ofWords (t.words n w)
def Thread.setVal (t : Thread) (n w v : Nat) : Thread := t.setWords n (wordsOf w v)

/-- The guard of a thread (R163). -/
def guardOf (f : Slot) (t : Thread) : Bool := t.pred f.gp.toNat != f.gs

/-- A lane of the current group: its thread as sources see it, and whether it executes (R27). -/
structure LaneV where
  lane : Nat
  key : Nat
  th : Thread
  run : Bool

/-- The lanes of a group that hold a thread at its current PC, ascending; held threads have no part (R39). Sources of the
higher slot of a pair come from before the lower slot (R161). -/
def State.lanesOf (s : State) (g : Group) (f : Slot) : List LaneV :=
  g.members.filterMap (fun k =>
    match s.thread? k with
    | none => none
    | some t =>
      if t.held.isSome then none
      else
        let src := (s.cur.snap.bind (fun p => Tab.look p.threads k)).getD t
        some ⟨t.lane, k, src, guardOf f src⟩)

/-- The group as an instruction's sources and owed tags see it: for the higher slot of a pair, as before the lower (R156,
R157, R161). That its tags are those of before, too, is read from R156 and R305 (assumption log 39). -/
def State.asSeen (s : State) (g : Group) : Group :=
  match s.cur.snap with
  | some p => { g with scalars := p.scalars, owed := p.owed }
  | none => g

/-- Convergence (R43). -/
def State.converged (s : State) (g : Group) : Bool :=
  g.whole && g.members.all (fun k => match s.thread? k with | some t => t.held.isNone | none => false)

/-- The transaction of a lane is open. -/
def LaneV.inTx (l : LaneV) : Bool := l.th.tx.isSome

/-! ## Class-3 policing (R430) -/

/-- SYS.C3POLICE.USED of an agent: the count of the window that runs. -/
def State.c3Used (s : State) (agent : Nat) : Nat := if s.r.c3window = s.clock / 4096 then Tab.get s.r.c3used agent 0 else 0

/-- Packets of a request of an agent at a class are counted against the agent: those of class 3, up to the budget. How many
packets a request makes, the spec leaves open (assumption log 16). -/
def State.countClass (s : State) (agent cls : Nat) : State :=
  if cls < 3 then s
  else
    let cap := Tab.get s.r.c3budget agent 0xFFFF
    let used := s.c3Used agent
    if cap ≤ used then s
    else
      let n := min cap (used + 1 + (Config.freeDword s.fresh).toNat)
      { s with
        fresh := s.fresh + 1
        r := { s.r with
          c3window := s.clock / 4096
          c3used := Tab.set (if s.r.c3window = s.clock / 4096 then s.r.c3used else []) agent n } }

end Sys2Proof.Machine
end

