-- ==== Sys2Proof/Machine/Num.lean ====
section
/-! DEFINITION. Number formats and exact arithmetic (R58 to R81): decoding, the one rounding of R71, integers with wrap and
clamp, and the elementary functions by intervals that settle their rounding. -/

namespace Sys2Proof.Machine

open Sys2Proof

/-- A floating-point format (R58). -/
structure Fmt where
  bits : Nat
  mant : Nat
  bias : Nat
  /-- Exponent of the largest binade and the largest significand there, in units of its spacing. -/
  emax : Nat
  maxSig : Nat
  hasInf : Bool
  nan : Nat
  deriving DecidableEq, Repr

def fmtF64 : Fmt := ⟨64, 52, 1023, 1023, 2 ^ 53 - 1, true, 0x7FF8000000000000⟩
def fmtF32 : Fmt := ⟨32, 23, 127, 127, 2 ^ 24 - 1, true, 0x7FC00000⟩
def fmtF16 : Fmt := ⟨16, 10, 15, 15, 2 ^ 11 - 1, true, 0x7E00⟩
def fmtBF16 : Fmt := ⟨16, 7, 127, 127, 2 ^ 8 - 1, true, 0x7FC0⟩
def fmtF8E5 : Fmt := ⟨8, 2, 15, 15, 7, true, 0x7E⟩
def fmtF8E4 : Fmt := ⟨8, 3, 7, 8, 14, false, 0x7F⟩
/-- E2M1, whose NaN result is written as zero (R71). -/
def fmtE2M1 : Fmt := ⟨4, 1, 1, 2, 3, false, 0⟩

/-- The element format of a type code (R166, R61). -/
def fmtOf (ty : Nat) : Fmt :=
  match ty with
  | 11 => fmtF16 | 12 => fmtBF16 | 14 => fmtF64 | 15 => fmtF8E4 | 16 => fmtF8E5 | 17 => fmtE2M1 | 18 => fmtE2M1
  | 20 => fmtF16 | 21 => fmtBF16 | _ => fmtF32

/-- An exact value: NaN, an infinity or a zero with its sign, or a sign with n / d × 2 ^ e, n and d above zero. -/
inductive Val where
  | nan
  | inf (neg : Bool)
  | zero (neg : Bool)
  | fin (neg : Bool) (n d : Nat) (e : Int)
  deriving DecidableEq, Repr

def Val.isNan : Val → Bool
  | .nan => true
  | _ => false

/-- The sign; NaN has none. -/
def Val.neg : Val → Bool
  | .nan => false
  | .inf s => s
  | .zero s => s
  | .fin s _ _ _ => s

/-- The exponent of the smallest normal (R58). -/
def Fmt.emin (f : Fmt) : Int := 1 - (f.bias : Int)

/-- The value of a code (R58): E2M1 has neither infinity nor NaN, and E4M3 one NaN code of each sign. -/
def decodeF (f : Fmt) (v : Nat) : Val :=
  let c := v % 2 ^ f.bits
  let s := bit c (f.bits - 1)
  let m := c % 2 ^ f.mant
  let e := bits c f.mant (f.bits - 1 - f.mant)
  let special := 2 ^ (f.bits - 1 - f.mant) - 1
  if f.hasInf && e == special then (if m = 0 then .inf s else .nan)
  else if f.bits == 8 && !f.hasInf && e == special && m == 7 then .nan
  else if e = 0 then (if m = 0 then .zero s else .fin s m 1 (f.emin - f.mant))
  else .fin s (2 ^ f.mant + m) 1 ((e : Int) - f.bias - f.mant)

/-- The value of an E8M0 scale (R62). -/
def decodeScale (v : Nat) : Val :=
  let c := v % 256
  if c = 255 then .nan else .fin false 1 1 ((c : Int) - 127)

/-- The code with a sign. -/
def signed1 (f : Fmt) (s : Bool) (m : Nat) : Nat := if s then 2 ^ (f.bits - 1) + m else m

/-- The code of the largest finite value. -/
def Fmt.maxCode (f : Fmt) : Nat := (f.emax + f.bias - 1) * 2 ^ f.mant + f.maxSig

/-- The code of infinity. -/
def Fmt.infCode (f : Fmt) : Nat := (2 ^ (f.bits - 1 - f.mant) - 1) * 2 ^ f.mant

/-- Overflow of R71. -/
def overflowF (f : Fmt) (s : Bool) (mode : Nat) (sat : Bool) : Nat :=
  if sat || f.bits == 4 then signed1 f s f.maxCode
  else if mode = 1 || (mode = 2 && s) || (mode = 3 && !s) then signed1 f s f.maxCode
  else if f.hasInf then signed1 f s f.infCode
  else f.nan

/-- InfResult of R71. -/
def infResult (f : Fmt) (s sat : Bool) : Nat :=
  if sat || f.bits == 4 then signed1 f s f.maxCode else if f.hasInf then signed1 f s f.infCode else f.nan

/-- Choose of R71: whether the upper neighbour is taken, for the quotient `a` and the remainder `r` over `den`. -/
def chooseUp (mode : Nat) (a r den : Nat) (s : Bool) (u : Nat) : Bool :=
  match mode with
  | 0 => decide (den < 2 * r) || (2 * r == den && a % 2 == 1)
  | 1 => false
  | 2 => !s
  | 3 => s
  | 4 => decide (den ≤ 2 * r)
  | _ => decide (2 ^ 24 ≤ r * 2 ^ 24 / den + u)

/-- Floor of the base-2 logarithm of n / d. -/
def log2q (n d : Nat) : Int :=
  let k : Int := (Nat.log2 n : Int) - Nat.log2 d
  if 0 ≤ k then (if d * 2 ^ k.toNat ≤ n then k else k - 1) else (if d ≤ n * 2 ^ (-k).toNat then k else k - 1)

/-- n × 2 ^ e as a fraction. -/
def shiftFrac (n d : Nat) (e : Int) : Nat × Nat := if 0 ≤ e then (n * 2 ^ e.toNat, d) else (n, d * 2 ^ (-e).toNat)

/-- Round of R71. `u` is the 24-bit draw of RS. A 4-bit result of −0 is written as 0 (R72). -/
def roundF (f : Fmt) (mode : Nat) (sat : Bool) (u : Nat) (x : Val) : Nat :=
  match x with
  | .nan => f.nan
  | .inf s => infResult f s sat
  | .zero s => if f.bits == 4 then 0 else signed1 f s 0
  | .fin s n d e =>
    let ex := log2q n d + e
    let e1 := if ex < f.emin then f.emin else ex
    let q := e1 - f.mant
    let nd := shiftFrac n d (e - q)
    let a := nd.1 / nd.2
    let r := nd.1 % nd.2
    let m := if r = 0 then a else if chooseUp mode a r nd.2 s u then a + 1 else a
    let code := (q - (f.emin - f.mant)).toNat * 2 ^ f.mant + m
    if f.maxCode < code then overflowF f s mode sat
    else if m = 0 && f.bits == 4 then 0
    else signed1 f s code

/-- A code is subnormal. -/
def isSubnormal (f : Fmt) (v : Nat) : Bool := v % 2 ^ (f.bits - 1) != 0 && v % 2 ^ (f.bits - 1) < 2 ^ f.mant

/-- A result under .FTZ (R74): a subnormal becomes zero with the sign of the exact result. -/
def flushF (f : Fmt) (ftz : Bool) (x : Val) (r : Nat) : Nat := if ftz && isSubnormal f r then signed1 f x.neg 0 else r

/-- A source under .FTZ (R74). -/
def readF (f : Fmt) (ftz : Bool) (v : Nat) : Val :=
  let x := decodeF f v
  if ftz && isSubnormal f (v % 2 ^ f.bits) then .zero x.neg else x

/-! ## Exact operations (R75) -/

def Val.negate : Val → Val
  | .nan => .nan
  | .inf s => .inf (!s)
  | .zero s => .zero (!s)
  | .fin s n d e => .fin (!s) n d e

def Val.mul : Val → Val → Val
  | .nan, _ => .nan
  | _, .nan => .nan
  | .inf s, .zero _ => let _ := s; .nan
  | .zero _, .inf _ => .nan
  | .inf s, y => .inf (s != y.neg)
  | x, .inf t => .inf (x.neg != t)
  | .zero s, y => .zero (s != y.neg)
  | x, .zero t => .zero (x.neg != t)
  | .fin s n d e, .fin t m c g => .fin (s != t) (n * m) (d * c) (e + g)

/-- Division with the special results of R293. -/
def Val.div : Val → Val → Val
  | .nan, _ => .nan
  | _, .nan => .nan
  | .inf _, .inf _ => .nan
  | .zero _, .zero _ => .nan
  | .inf s, y => .inf (s != y.neg)
  | x, .inf t => .zero (x.neg != t)
  | .zero s, y => .zero (s != y.neg)
  | x, .zero t => .inf (x.neg != t)
  | .fin s n d e, .fin t m c g => .fin (s != t) (n * c) (d * m) (e - g)

/-- A signed fraction n / d × 2 ^ e. -/
structure Frac where
  n : Int
  d : Nat
  e : Int

/-- The exact sum of two fractions. -/
def Frac.add (x y : Frac) : Frac :=
  let e := min x.e y.e
  ⟨x.n * 2 ^ (x.e - e).toNat * y.d + y.n * 2 ^ (y.e - e).toNat * x.d, x.d * y.d, e⟩

def Val.frac : Val → Frac
  | .fin s n d e => ⟨if s then -(n : Int) else n, d, e⟩
  | _ => ⟨0, 1, 0⟩

/-- The exact sum of all terms; `rm` is the mode RM, under which an exact zero is −0 (R75). -/
def Val.sum (rm : Bool) (l : List Val) : Val :=
  if l.any Val.isNan then .nan
  else
    let infs := l.filterMap (fun v => match v with | .inf s => some s | _ => none)
    match infs with
    | s :: t => if t.all (fun x => x == s) then .inf s else .nan
    | [] =>
      let z := (l.map Val.frac).foldl Frac.add ⟨0, 1, 0⟩
      if z.n = 0 then .zero (if l.all (fun v => v == .zero true) then true else rm)
      else .fin (decide (z.n < 0)) z.n.natAbs z.d z.e

/-- The sum of two values. -/
def Val.add (rm : Bool) (x y : Val) : Val := Val.sum rm [x, y]

/-- A value times 2 ^ k (R288). -/
def Val.scale (x : Val) (k : Int) : Val :=
  match x with
  | .fin s n d e => .fin s n d (e + k)
  | v => v

/-- Order of two values, neither NaN: less than; −0 and +0 are equal. -/
def Val.lt (x y : Val) : Bool :=
  match x, y with
  | .inf s, .inf t => s && !t
  | .inf s, _ => s
  | _, .inf t => !t
  | x, y => decide ((Frac.add x.frac (y.negate).frac).n < 0)

def Val.eq (x y : Val) : Bool := !Val.lt x y && !Val.lt y x

/-- Round to an integer with spacing 1, as an integer (R69, R289). -/
def Val.toInt (mode u : Nat) : Val → Int
  | .fin s n d e =>
    let nd := shiftFrac n d e
    let a := nd.1 / nd.2
    let r := nd.1 % nd.2
    let m := if r = 0 then a else if chooseUp mode a r nd.2 s u then a + 1 else a
    if s then -(m : Int) else m
  | _ => 0

/-- The value of an integer. -/
def Val.ofInt (x : Int) : Val := if x = 0 then .zero false else .fin (decide (x < 0)) x.natAbs 1 0

/-! ## Integers (R68) -/

/-- Width of an integer or raw type. -/
def tyWidth (ty : Nat) : Nat :=
  match ty with
  | 1 => 8 | 5 => 8 | 2 => 16 | 6 => 16 | 4 => 64 | 8 => 64 | 10 => 64 | 14 => 64 | 19 => 128
  | 11 => 16 | 12 => 16 | 15 => 8 | 16 => 8 | 17 => 4 | 18 => 4 | _ => 32

def tySigned (ty : Nat) : Bool := 1 ≤ ty && ty ≤ 4

/-- An operand as the type reads it (R191). -/
def readInt (ty v : Nat) : Int := if tySigned ty then signed (tyWidth ty) v else ((v % 2 ^ tyWidth ty : Nat) : Int)

/-- Smallest and largest value of a type. -/
def tyMin (ty : Nat) : Int := if tySigned ty then -(2 ^ (tyWidth ty - 1) : Nat) else 0
def tyMax (ty : Nat) : Int := ((2 ^ (if tySigned ty then tyWidth ty - 1 else tyWidth ty) - 1 : Nat) : Int)

def clampInt (ty : Nat) (x : Int) : Int := if x < tyMin ty then tyMin ty else if tyMax ty < x then tyMax ty else x

/-- Clamp with .SAT, else leave for the wrap of `writeInt` (R68, R216). -/
def satInt (sat : Bool) (ty : Nat) (x : Int) : Int := if sat then clampInt ty x else x

/-- A result as it is written: wrapped to the type, then sign- or zero-extended to 32 bits for narrow types (R66). -/
def writeInt (ty : Nat) (x : Int) : Nat :=
  let w := tyWidth ty
  let v := wrap w x
  if w < 32 then (if tySigned ty then wrap 32 (signed w v) else v) else v

/-- FloatToInt of R69. -/
def floatToInt (ty mode u : Nat) (x : Val) : Int :=
  match x with
  | .nan => 0
  | .inf s => if s then tyMin ty else tyMax ty
  | x => clampInt ty (x.toInt mode u)

/-- F32 to F64 (R170: widened exactly). -/
def widenF64 (v : Nat) : Nat := roundF fmtF64 0 false 0 (decodeF fmtF32 v)

/-! ## The reproducible draw (R73) -/

/-- RsDraw for a seed, a block index, a thread index and a draw counter. -/
def rsDraw (seed b t n : Nat) : Nat :=
  let m := 2 ^ 64
  let id := (b * 1024 + t) % m
  let z := (Nat.xor (seed % m) (id * 0xD1B54A32D192ED03 % m) + 0x9E3779B97F4A7C15 * (n + 1)) % m
  let z := Nat.xor z (z >>> 30) * 0xBF58476D1CE4E5B9 % m
  let z := Nat.xor z (z >>> 27) * 0x94D049BB133111EB % m
  let z := Nat.xor z (z >>> 31)
  z >>> 32

/-! ## Square roots -/

/-- The integer square root, one bit at a time. -/
def isqrtBits (n : Nat) : Nat → Nat → Nat
  | 0, r => r
  | k + 1, r => let t := r + 2 ^ k; isqrtBits n k (if t * t ≤ n then t else r)

def isqrt (n : Nat) : Nat := isqrtBits n (Nat.log2 n / 2 + 1) 0

/-- √a for a finite positive value with d = 1, to 128 bits below its leading bit; an inexact root lies strictly between
two neighbours there, and their midpoint stands for it. -/
def sqrtVal (n : Nat) (e : Int) : Val :=
  let odd := e % 2 != 0
  let n1 := if odd then 2 * n else n
  let e1 := if odd then e - 1 else e
  let r := isqrt (n1 * 2 ^ 256)
  if r * r = n1 * 2 ^ 256 then .fin false r 1 (e1 / 2 - 128) else .fin false (2 * r + 1) 1 (e1 / 2 - 129)

/-- 1 / √a for a finite positive value with d = 1. -/
def rsqrtVal (n : Nat) (e : Int) : Val :=
  let odd := e % 2 != 0
  let n1 := if odd then 2 * n else n
  let e1 := if odd then e - 1 else e
  let k := Nat.log2 n1 + 160
  let r := isqrt (2 ^ (2 * k) / n1)
  if r * r * n1 = 2 ^ (2 * k) then .fin false r 1 (-(e1 / 2) - k) else .fin false (2 * r + 1) 1 (-(e1 / 2) - k - 1)

/-! ## Elementary functions by intervals

Fixed-point numbers in units of 2 ^ (-p). Every truncation loses less than one unit; fewer than 2 ^ 12 are made, so an
interval of 2 ^ 16 units on either side holds the exact value. -/

/-- Sum of the atan or atanh series Σ ± x ^ (2 k + 1) / (2 k + 1); `t` is the current power, `x2` the square of x. -/
def oddSeries (p x2 : Nat) (alt : Bool) : Nat → Nat → Nat → Int
  | 0, _, _ => 0
  | fuel + 1, t, k =>
    if t = 0 then 0
    else
      let s : Int := ((t / (2 * k + 1) : Nat) : Int)
      (if alt && k % 2 == 1 then -s else s) + oddSeries p x2 alt fuel (t * x2 / 2 ^ p) (k + 1)

/-- atan or atanh of x in units of 2 ^ (-p), x below 1. -/
def atanFix (p x : Nat) (alt : Bool) : Int := oddSeries p (x * x / 2 ^ p) alt p x 0

/-- ln 2 = 2 atanh (1 / 3). -/
def ln2Fix (p : Nat) : Nat := (2 * atanFix p (2 ^ p / 3) false).toNat

/-- π = 16 atan (1 / 5) − 4 atan (1 / 239). -/
def piFix (p : Nat) : Nat := (16 * atanFix p (2 ^ p / 5) true - 4 * atanFix p (2 ^ p / 239) true).toNat

/-- Σ ± y ^ k / k! over k ≡ start mod step, `t` the current term. -/
def expSeries (p y2 : Nat) (alt : Bool) (step : Nat) : Nat → Nat → Nat → Bool → Int
  | 0, _, _, _ => 0
  | fuel + 1, t, k, flip =>
    if t = 0 then 0
    else
      let s : Int := (t : Int)
      (if flip then -s else s)
        + expSeries p y2 alt step fuel
            (if step = 1 then t * y2 / 2 ^ p / (k + 1) else t * y2 / 2 ^ p / ((k + 1) * (k + 2))) (k + step) (alt && !flip)

/-- e ^ y for 0 ≤ y < 1. -/
def expFix (p y : Nat) : Nat := (expSeries p y false 1 (2 * p) (2 ^ p) 0 false).toNat
/-- sin y and cos y for 0 ≤ y < 2. -/
def sinFix (p y : Nat) : Int := expSeries p (y * y / 2 ^ p) true 2 (2 * p) y 1 false
def cosFix (p y : Nat) : Int := expSeries p (y * y / 2 ^ p) true 2 (2 * p) (2 ^ p) 0 false

/-- The F32 code that both ends of an interval around v × 2 ^ e round to with RN, if they agree. -/
def settle (neg : Bool) (v : Int) (e : Int) : Option Nat :=
  let lo := v - 65536
  let hi := v + 65536
  if lo ≤ 0 then none
  else
    let a := roundF fmtF32 0 false 0 (.fin neg lo.toNat 1 e)
    let b := roundF fmtF32 0 false 0 (.fin neg hi.toNat 1 e)
    if a = b then some a else none

/-- 2 ^ x for x = ± n × 2 ^ e, not an integer and of magnitude below 256. -/
def exp2At (p : Nat) (s : Bool) (n : Nat) (e : Int) : Option Nat :=
  let sh := (-e).toNat
  let i : Int := if s then -((n / 2 ^ sh : Nat) : Int) - 1 else ((n / 2 ^ sh : Nat) : Int)
  let fr := if s then 2 ^ sh - n % 2 ^ sh else n % 2 ^ sh
  let f := fr * 2 ^ p / 2 ^ sh
  settle false (expFix p (f * ln2Fix p / 2 ^ p)) (i - p)

/-- log₂ of n × 2 ^ e, not a power of two. -/
def log2At (p : Nat) (n : Nat) (e : Int) : Option Nat :=
  let k := Nat.log2 n
  let m := n * 2 ^ p / 2 ^ k
  let z := (m - 2 ^ p) * 2 ^ p / (m + 2 ^ p)
  let f := ((2 * atanFix p z false) * 2 ^ p) / (ln2Fix p : Int)
  let v := ((k : Int) + e) * 2 ^ p + f
  if 0 ≤ v then settle false v (-p) else settle true (-v) (-p)

/-- sin or cos of ± n × 2 ^ e radians. -/
def trigAt (p : Nat) (cos : Bool) (s : Bool) (n : Nat) (e : Int) : Option Nat :=
  let x := if 0 ≤ e then n * 2 ^ (p + 192 + e.toNat) else n * 2 ^ (p + 192) / 2 ^ (-e).toNat
  let half := piFix (p + 192) / 2
  let q := x / half
  let y := (x % half) / 2 ^ 192
  let useCos := (q % 2 == 1) != cos
  let v := if useCos then cosFix p y else sinFix p y
  let neg := if cos then q % 4 == 1 || q % 4 == 2 else (decide (2 ≤ q % 4)) != s
  settle neg v (-p)

/-- tanh of n × 2 ^ e, positive and below 64. -/
def tanhAt (p : Nat) (s : Bool) (n : Nat) (e : Int) : Option Nat :=
  let x2 := if 0 ≤ e then 2 * n * 2 ^ (p + e.toNat) else 2 * n * 2 ^ p / 2 ^ (-e).toNat
  let l := ln2Fix p
  let k := x2 / l
  let ex := expFix p (x2 % l) * 2 ^ k
  settle s (((ex - 2 ^ p) * 2 ^ p / (ex + 2 ^ p) : Nat) : Int) (-p)

/-- The first precision that settles the rounding. -/
def firstOf (g : Nat → Option Nat) : List Nat → Option Nat
  | [] => none
  | p :: t => match g p with
    | some r => some r
    | none => firstOf g t

/-- FEXP2, FLOG2, FSIN, FCOS and FTANH on an F32 input (R291 to R293), opcode 0x54 to 0x58. -/
def elementary (op : Nat) (x : Val) (raw : Nat) : Nat :=
  let pick (g : Nat → Option Nat) : Nat :=
    (firstOf g [256, 448, 768]).getD (Config.unsettled op (BitVec.ofNat 32 raw)).toNat
  let nan := fmtF32.nan
  let rnd := roundF fmtF32 0 false 0
  match op, x with
  | _, .nan => nan
  | 0x54, .zero _ => rnd (.ofInt 1)
  | 0x54, .inf s => if s then 0 else rnd (.inf false)
  | 0x54, .fin s n d e =>
    let nd := shiftFrac n d e
    if nd.1 % nd.2 = 0 then
      let k := nd.1 / nd.2
      rnd (if k < 512 then .fin false 1 1 (if s then -(k : Int) else k) else .fin false 1 1 (if s then -512 else 512))
    else if 256 ≤ nd.1 / nd.2 then rnd (.fin false 1 1 (if s then -256 else 256))
    else pick (fun p => exp2At p s n e)
  | 0x55, .zero _ => rnd (.inf true)
  | 0x55, .inf s => if s then nan else rnd (.inf false)
  | 0x55, .fin s n _ e =>
    if s then nan
    else if n = 2 ^ Nat.log2 n then rnd (.ofInt ((Nat.log2 n : Int) + e))
    else pick (fun p => log2At p n e)
  | 0x56, .zero s => rnd (.zero s)
  | 0x56, .inf _ => nan
  | 0x56, .fin s n _ e => pick (fun p => trigAt p false s n e)
  | 0x57, .zero _ => rnd (.ofInt 1)
  | 0x57, .inf _ => nan
  | 0x57, .fin s n _ e => pick (fun p => trigAt p true s n e)
  | 0x58, .zero s => rnd (.zero s)
  | 0x58, .inf s => rnd (.fin s 1 1 0)
  | 0x58, .fin s n d e =>
    if (shiftFrac n d e).1 / (shiftFrac n d e).2 < 64 then pick (fun p => tanhAt p s n e) else rnd (.fin s 1 1 0)
  | _, _ => nan

end Sys2Proof.Machine
end

