-- ==== Sys2Proof/Machine/Operands.lean ====
section
/-! DEFINITION. Operand forms: registers, pairs and quadruples, predicates, scalars, the immediate of R170, and writing
results (R66, R164 to R170, R191). -/

namespace Sys2Proof.Machine

open Sys2Proof

/-- I32, or the low half of a scalar, as operand B of a type (R170, R191, R278). -/
def immVal (ty : Nat) (i : BitVec 32) : Nat :=
  match ty with
  | 4 => wrap 64 (sext32 i)
  | 14 => widenF64 i.toNat
  | _ => i.toNat

/-- The low half of a scalar register. -/
def scalarLow (g : Group) (n : Nat) : BitVec 32 := (Tab.get g.scalars n 0).setWidth 32

/-- Operand B of a three-source form, formed for a type, `w` registers wide (R167, R170). -/
def readBAs (ty : Nat) (f : Slot) (g : Group) (t : Thread) (w : Nat) : Nat :=
  if Rule.imm f then immVal ty f.i32
  else if Rule.sbit f then immVal ty (scalarLow g f.b.toNat)
  else t.val f.b.toNat w

/-- Operand B of the instruction's type. -/
def readB (f : Slot) (g : Group) (t : Thread) (w : Nat) : Nat := readBAs (Rule.ty f) f g t w

/-- Operand B where a table gives a single register: I32 or the low half as it stands (R191). For CVT, CVTS, PACK and UNPACK, of which B
is read by the source type or as a field (R295 to R298) while R170 forms it by TYPE, that is the model's choice (assumption
log 60). -/
def readB1 (f : Slot) (g : Group) (t : Thread) : Nat := readBAs 9 f g t 1

/-- Operands A, C and D as consecutive registers. -/
def readA (f : Slot) (t : Thread) (w : Nat) : Nat := t.val f.a.toNat w
def readC (f : Slot) (t : Thread) (w : Nat) : Nat := t.val f.c.toNat w
def readD (f : Slot) (t : Thread) (w : Nat) : Nat := t.val f.d.toNat w

/-- Sext(I32) added to a value of 64 bits, modulo 2 ^ 64 (R169). -/
def addI32 (v : Nat) (i : BitVec 32) : Nat := wrap 64 ((v : Int) + sext32 i)

/-- A global address: pair A plus Sext(I32, 64) modulo 2 ^ 64 (R169). -/
def globalEa (f : Slot) (t : Thread) : Nat := addI32 (readA f t 2) f.i32

/-- A scratchpad address: the exact sum of register A and Sext(I32) (R241). -/
def scratchEa (f : Slot) (t : Thread) : Int := (readA f t 1 : Int) + sext32 f.i32

/-- Apply a change to the thread of each listed lane. -/
def State.eachLane (s : State) : List LaneV → (LaneV → Thread → Thread) → State
  | [], _ => s
  | l :: ls, g => State.eachLane (s.updThread l.key (g l)) ls g

/-- Write a value to D in each listed lane. -/
def State.writeD (s : State) (f : Slot) (w : Nat) (ls : List LaneV) (val : LaneV → Nat) : State :=
  s.eachLane ls (fun l t => t.setVal f.d.toNat w (val l))

/-- Write a predicate D in each listed lane. -/
def State.writeP (s : State) (f : Slot) (ls : List LaneV) (val : LaneV → Bool) : State :=
  s.eachLane ls (fun l t => t.setPred f.d.toNat (val l))

end Sys2Proof.Machine
end

