-- ==== Sys2Proof/Machine/Flags.lean ====
section
/-! DEFINITION. Completion flags and owed tags (R153 to R158), the checks of R173, and the status word of a transaction
(R343). -/

namespace Sys2Proof.Machine

open Sys2Proof

def Group.flag (g : Group) (n : Nat) : Nat := Tab.get g.flags n 0

/-- Add 1 to a flag (R153). -/
def Group.raise (g : Group) (n : Nat) : Group := { g with flags := Tab.set g.flags n (g.flag n + 1) }

/-- Subtract 1 from a flag (R153). -/
def Group.lower (g : Group) (n : Nat) : Group :=
  { g with flags := if g.flag n ≤ 1 then Tab.del g.flags n else Tab.set g.flags n (g.flag n - 1) }

/-- Every flag is zero. -/
def Group.flagsClear (g : Group) : Bool := g.flags.all (fun p => p.2 == 0)

/-- Every flag of a mask is zero. -/
def Group.maskClear (g : Group) (mask : Nat) : Bool := g.flags.all (fun p => p.2 == 0 || !bit mask p.1)

/-- The line the group runs from. -/
def Group.lineBits (g : Group) : BitVec 512 := match g.line with | some l => l.bits | none => 0

/-- The set-flag field that FSEL selects (R155). -/
def Group.setField (g : Group) (f : Slot) : Nat := if Rule.fsel f then lineSetB g.lineBits else lineSetA g.lineBits

/-- The flag that an instruction counts on; none for 15 (R155). -/
def Group.flagFor (g : Group) (f : Slot) : Option Nat := if g.setField f < 12 then some (g.setField f) else none

/-- What an operand names, register by register. -/
def Opnd.owned (o : Opnd) : List Owned :=
  (List.range o.width).map (fun i =>
    match o.kind with | .vec => .vreg (o.idx + i) | .pred => .pred (o.idx + i) | .scal => .scalar (o.idx + i))

/-- The operands of a slot. -/
def operandsOf (op : Nat) (f : Slot) : List Opnd := match Rule.rule op f with | some r => r.opnds | none => []

/-- The registers that a slot writes. -/
def writesOf (op : Nat) (f : Slot) : List Owned := ((operandsOf op f).filter (·.write)).flatMap Opnd.owned

/-- Some operand, or the guard, is owed (R157). -/
def Group.owes (g : Group) (op : Nat) (f : Slot) : Bool :=
  !g.owed.isEmpty &&
  let l := .pred f.gp.toNat :: (operandsOf op f).flatMap Opnd.owned
  g.owed.any (fun p => l.contains p.1)

/-- The tags of the flags of a mask are cleared (R154). -/
def Group.clearOwed (g : Group) (mask : Nat) : Group := { g with owed := g.owed.filter (fun p => !bit mask p.2) }

/-- A vector operand lies below the declared count (R164). -/
def Opnd.declared (n : Nat) (o : Opnd) : Bool :=
  match o.kind with | .vec => decide (o.idx + o.width ≤ n) | _ => true

/-- The checks of R173 other than the pair's, in their order; the trap of the first that fails. -/
def checkSlot (regs : Nat) (g : Group) (op : Nat) (f : Slot) : Option Cause :=
  if !Rule.slotOk op f then some .illegal
  else if !(operandsOf op f).all (Opnd.declared regs) then some .illegal
  else if variableLatency op && (g.setField f == 15) && !(writesOf op f).isEmpty then some .illegal
  else if g.owes op f then some .hazard
  else none

/-- SB reads a scalar: it needs a converged group and a valid scalar (R44, R167). -/
def staleScalar (conv : Bool) (g : Group) (f : Slot) : Bool :=
  Rule.sbit f && (!conv || (Tab.look g.scalars f.b.toNat).isNone)

/-- The code of a trap cause (R439). -/
def Cause.code : Cause → Nat
  | .illegal => 1 | .parity => 2 | .hazard => 3 | .privilege => 4 | .staleScalar => 5 | .convergence => 6 | .window => 7
  | .operand => 8 | .engineReset => 9 | .laneFault => 10 | .target => 11 | .userTrap => 12 | .spawnFull => 13
  | .pageFault => 14 | .poisoned => 15 | .misaligned => 16 | .scratchBound => 17 | .rangeLock => 18 | .copyLen => 19
  | .barrier => 20 | .peerLost => 21

/-- The code of a page-fault kind (R97). -/
def Kind.code : Kind → Nat
  | .notValid => 0 | .perm => 1 | .user => 2 | .world => 3 | .attr => 4 | .nonCanon => 5 | .unbacked => 6 | .readOnly => 7
  | .walkPoison => 8

/-- The code of an abort cause (R342). -/
def Abort.code : Abort → Nat
  | .none => 0 | .conflict => 1 | .lane => 2 | .sigFull => 3 | .fault => 4 | .preempt => 5 | .capacity => 6 | .instr => 7
  | .explicit => 8 | .crossPkg => 9 | .memType => 10 | .poison => 11 | .trap => 12 | .timeout => 13 | .noTx => 14
  | .nest => 15

/-- An abort that the hardware retries (R342). -/
def Abort.retried : Abort → Bool
  | .conflict => true | .lane => true | .sigFull => true | .fault => true | .preempt => true | _ => false

/-- An abort that raises RETRIES (R342). SIGFULL in lock mode leaves it (R345). -/
def Abort.counted : Abort → Bool
  | .conflict => true | .lane => true | .sigFull => true | _ => false

/-- The status word of R343. -/
def statusWord (depth : Nat) (open_ lock : Bool) (retries code cause : Nat) : Nat :=
  depth * 2 ^ 24 + (if open_ then 2 ^ 23 else 0) + (if lock then 2 ^ 22 else 0) + min retries 63 * 2 ^ 16
    + code % 256 * 256 + cause % 256

end Sys2Proof.Machine
end

