-- ==== Sys2Proof/Machine/Mem.lean ====
section
/-! DEFINITION. Memory: the package's physical memory, page tables, attributes, Tarns, the stages of a request, and what a
write does to copies and to transactions (R83 to R142, R338, R339, R345). -/

namespace Sys2Proof.Machine

open Sys2Proof

/-! ## Physical memory (R88, R140) -/

/-- The canonical form of memory: addresses strictly rising, and no entry equal to what an unlisted address reads as. -/
def Memory.wf (m : List Host.Cell) : Bool := Tab.risesFrom none m && m.all (fun p => p.2 != 0)

/-- A byte of memory. An unlisted byte is 0: boot writes zero to all memory (R457). -/
def Memory.read (m : List Host.Cell) (a : Nat) : Byte := Tab.get m a 0

/-- One byte written, keeping the canonical form. -/
def Memory.write (m : List Host.Cell) (a : Nat) (b : Byte) : List Host.Cell := if b = 0 then Tab.del m a else Tab.set m a b

/-- Bytes written from an address on. -/
def Memory.writes (m : List Host.Cell) (a : Nat) : List Byte → List Host.Cell
  | [] => m
  | b :: t => Memory.writes (Memory.write m a b) (a + 1) t

def State.setMem (s : State) (m : MemSys) : State := { s with m := m }

/-- What a physical address reaches (R88). -/
inductive PaClass where
  | memory (off : Nat)
  | register (off : Nat)
  | window (port off : Nat)
  | remote (package off : Nat)
  | unbacked
  deriving DecidableEq, Repr

/-- Stack `t` is out of service (R486). -/
def State.stackOut (s : State) (t : Nat) : Bool := bits (Tab.get s.r.stackCtl t 0).toNat 0 2 == 1

/-- An offset lies in the device-register range of its package (R88, R89). -/
def deviceOffset (o : Nat) : Bool := 0xF00000000000 ≤ o

/-- An offset of a package at which its device registers lie, below the PCIe windows (R88, R453). -/
def registerOffset (o : Nat) : Bool := deviceOffset o && o < 0xF80000000000

/-- The access to a device register of another package has not its width or alignment (R454). -/
def badRegister (off n : Nat) : Bool := registerOffset off && (n != 8 || off % 8 != 0)

/-- An offset of a PCIe window in the port's ECAM configuration space (R479). -/
def ecam (off : Nat) : Bool := off < 0x10000000

/-- An offset at which the table of R88 places memory or device registers. -/
def backedOffset (o : Nat) : Bool := o < 0xC000000000 || (0x10000000000 ≤ o && o < 0x20000000000) || deviceOffset o

def State.paClass (s : State) (pa : Nat) : PaClass :=
  let p := pa / 2 ^ 48
  let o := pa % 2 ^ 48
  if p ≠ s.r.pkg then (if p < 8 && bit s.r.alive p && backedOffset o then .remote p o else .unbacked)
  else if o < 0xC000000000 then (if s.stackOut (o / 0x1000000000) then .unbacked else .memory o)
  else if 0x10000000000 ≤ o && o < 0x20000000000 then .memory o
  else if 0xF00000000000 ≤ o then
    let t := o - 0xF00000000000
    if t < 0x80000000000 then .register t
    else .window (if t < 0xC0000000000 then 0 else 1) (t % 0x40000000000)
  else .unbacked

/-- The package's own memory (R94). -/
def State.ownMemory (s : State) (pa : Nat) : Bool := match s.paClass pa with | .memory _ => true | _ => false

/-! ## Tarn Definition Blocks (R110) -/

/-- A TDB as it stands at reset (R110). -/
def tdbReset (t : Nat) : BitVec 512 := if t = 0 then BitVec.ofNat 512 4096 else BitVec.ofNat 512 (3 * 1024 + t)

def State.tdb (s : State) (t : Nat) : BitVec 512 := Tab.get s.m.tdbs t (tdbReset t)
def tdbField (d : BitVec 512) (lo len : Nat) : Nat := bits d.toNat lo len

/-- A TDB with one field set. -/
def tdbPut (d : BitVec 512) (lo len v : Nat) : BitVec 512 :=
  BitVec.ofNat 512 (d.toNat - tdbField d lo len * 2 ^ lo + v % 2 ^ len * 2 ^ lo)

def tdbState (d : BitVec 512) : Nat := tdbField d 10 2
def tdbLine (d : BitVec 512) : Nat := 64 * 2 ^ tdbField d 12 2
def tdbWpol (d : BitVec 512) : Nat := tdbField d 14 2
def tdbRpol (d : BitVec 512) : Nat := tdbField d 16 2
def tdbWorld (d : BitVec 512) : Bool := tdbField d 20 1 == 1

/-- Whether a mapping (slice, bank and way masks) names a share (R111). -/
def mapHas (slices banks ways share : Nat) : Bool :=
  bit slices (share / 256) && bit banks (share / 16 % 16) && bit ways (share % 16)

/-- Whether a Tarn other than 0 holds a share: under its mapping, and while RESIZING under its old one too (R108, R116). -/
def tarnHas (d : BitVec 512) (share : Nat) : Bool :=
  tdbState d != 3 &&
    (mapHas (tdbField d 64 72) (tdbField d 40 16) (tdbField d 24 16) share
      || (tdbState d == 1 && mapHas (tdbField d 320 72) (tdbField d 392 16) (tdbField d 408 16) share))

/-- The share is retired or is being retired: it takes no fills (R128). -/
def State.shareGone (s : State) (share : Nat) : Bool :=
  s.m.retired.contains share || s.m.retiring.any (fun p => p.1 == share)

/-- The Tarn that holds a share (R108). -/
def State.shareHolder (s : State) (share : Nat) : Nat :=
  match s.m.tdbs.find? (fun p => p.1 != 0 && tarnHas p.2 share) with
  | some p => p.1
  | none => 0

/-- Every share is held by Tarn 0, as after reset. -/
def State.tarn0All (s : State) : Bool :=
  s.m.retired.isEmpty && s.m.retiring.isEmpty && s.m.tdbs.all (fun p => p.1 == 0 || tdbState p.2 == 3)

/-- The ways that a Tarn uses in a bank, ascending (R111, R115, R129). -/
def State.waysOf (s : State) (t bank : Nat) : List Nat :=
  if t = 0 then
    if s.tarn0All then List.range 16
    else (List.range 16).filter (fun w => s.shareHolder (16 * bank + w) == 0 && !s.shareGone (16 * bank + w))
  else (onesOf 16 (tdbField (s.tdb t) 24 16)).filter (fun w => !s.shareGone (16 * bank + w))

/-- The banks of a Tarn, ascending (R111, R115). -/
def State.banksOf (s : State) (t : Nat) : List Nat :=
  if t = 0 then (List.range 1152).filter (fun b => !(s.waysOf 0 b).isEmpty)
  else
    let d := s.tdb t
    (onesOf 72 (tdbField d 64 72)).flatMap (fun sl => (onesOf 16 (tdbField d 40 16)).map (fun b => 16 * sl + b))

/-- How many banks a Tarn has, and its bank of a given index. -/
def State.bankCount (s : State) (t : Nat) : Nat := if t = 0 && s.tarn0All then 1152 else (s.banksOf t).length
def State.bankAt (s : State) (t i : Nat) : Nat := if t = 0 && s.tarn0All then i else (s.banksOf t).getD i 0

/-- HomeOf (R113): bank and set. -/
def State.homeOf (s : State) (t asid va : Nat) : Nat × Nat :=
  let ls := tdbLine (s.tdb t)
  let n := va / ls
  let h := Nat.xor n (asid * 2 ^ 45) % 2 ^ 64 * 0x9E3779B97F4A7C15 % 2 ^ 64
  (s.bankAt t (h / 2 ^ 32 % s.bankCount t), n % (65536 / ls))

/-- Bytes that a Tarn holds (R111). -/
def State.tarnCapacity (s : State) (t : Nat) : Nat :=
  s.bankCount t * popCount 16 (tdbField (s.tdb t) 24 16) * 65536

/-- PinnedPlace (R113): bank, way and set; none is the fault ATTR. -/
def State.pinnedPlace (s : State) (t asid va : Nat) : Option (Nat × Nat × Nat) :=
  let d := s.tdb t
  let start := tdbField d 256 41 * 65536
  let ls := tdbLine d
  if asid ≠ tdbField d 297 12 || va < start || start + s.tarnCapacity t ≤ va then none
  else
    let i := (va - start) / ls
    let nb := s.bankCount t
    let per := 65536 / ls
    let j := i / nb
    some (s.bankAt t (i % nb), (onesOf 16 (tdbField d 24 16)).getD (j / per) 0, j % per)

/-- Where a line of a Tarn goes when it is filled. -/
inductive Spot where
  /-- Into this bank and set; the way only for a pinned line. -/
  | bank (bank set : Nat) (way : Option Nat)
  /-- It is served as HOME 2 (R115, R121, R129). That a line of a Tarn which is not pinned is so served too, where every way of its
  bank is a hole, is the model's choice: R129 names pinned lines only (assumption log 46). -/
  | direct
  | attrFault
  deriving DecidableEq, Repr

def State.spotOf (s : State) (t asid va : Nat) : Spot :=
  let d := s.tdb t
  if tdbState d = 2 then .direct
  else if tdbRpol d = 2 then
    match s.pinnedPlace t asid va with
    | none => .attrFault
    | some (b, w, set) => if s.shareGone (16 * b + w) then .direct else .bank b set (some w)
  else if s.bankCount t = 0 then .direct
  else
    let h := s.homeOf t asid va
    if (s.waysOf t h.1).isEmpty then .direct else .bank h.1 h.2 none

/-! ## Names and page tables (R84, R90 to R94, R97) -/

/-- The ASID of the name of an address (R84). -/
def nameAsid (asid va : Nat) : Nat := if bit va 56 then 0 else asid

/-- The TDB table stands over this offset of the package's memory (R109). A TDBBASE that names another package lays no table
over this one's memory, which is the model's choice (assumption log 38). -/
def State.inTdbTable (s : State) (off : Nat) : Bool :=
  let base := s.r.tdbBase.toNat
  s.m.tdbSet && base / 2 ^ 48 == s.r.pkg && base % 2 ^ 48 ≤ off && off < base % 2 ^ 48 + 65536

/-- A byte of the package's memory, with the TDB table laid over it (R109). -/
def State.physByte (s : State) (off : Nat) : Byte :=
  if s.inTdbTable off then
    let i := off - s.r.tdbBase.toNat % 2 ^ 48
    BitVec.ofNat 8 ((s.tdb (i / 64)).toNat / 2 ^ (8 * (i % 64)))
  else Memory.read s.m.mem off

/-- Bytes of the package's memory. -/
def State.physBytes (s : State) (off : Nat) : Nat → List Byte
  | 0 => []
  | n + 1 => s.physByte off :: State.physBytes s (off + 1) n

/-- Some granule of a range of memory is poisoned (R140). -/
def State.poisonedAt (s : State) (off len : Nat) : Bool :=
  s.m.poison.any (fun g => off / 64 ≤ g && g ≤ (off + len - 1) / 64)

/-- A physical address lies in a secure range (R459). -/
def State.secureAt (s : State) (pa : Nat) : Bool :=
  s.r.secRange.any (fun p =>
    let v := p.2.toNat
    let k := bits v 52 6
    bit v 63 && 16 ≤ k && k ≤ 48 && pa / 2 ^ k == bits v 16 36 * 65536 / 2 ^ k)

/-- A frame and a secure range have an address in common: such a leaf cannot be non-secure (R459). That a frame which lies in the range
only in part counts as lying in it is the model's reading (assumption log 58). -/
def State.secureIn (s : State) (frame size : Nat) : Bool :=
  s.r.secRange.any (fun p =>
    let v := p.2.toNat
    let k := bits v 52 6
    let lo := bits v 16 36 * 65536 / 2 ^ k * 2 ^ k
    bit v 63 && 16 ≤ k && k ≤ 48 && decide (lo < frame + size) && decide (frame < lo + 2 ^ k))

/-- A page-table or ASID-table entry (R94, R95, R97, R459). -/
def State.tableEntry (s : State) (secure : Bool) (pa : Nat) : Except Kind Nat :=
  match s.paClass pa with
  | .memory off =>
    if !secure && s.secureAt pa then .error .attr
    else if s.poisonedAt off 8 then .error .walkPoison
    else .ok (ofBytes (s.physBytes off 8))
  | _ => .error .attr

/-- The attributes in a leaf entry (R93, R94, R88, R89, R459). -/
def State.leafAttr (s : State) (asid va level entry leaf : Nat) : Except Kind Attr :=
  let size := if level = 2 then 2 ^ 30 else if level = 1 then 2 ^ 21 else if bit entry 7 then 65536 else 4096
  let frame := bits entry 12 40 * 4096
  if bits entry 8 2 ≠ 0 || bit entry 1 then .error .attr
  else if frame % size ≠ 0 then .error .attr
  else if bit entry 3 && !bit entry 2 then .error .attr
  else
    let home := bits entry 52 2
    let a : Attr := { asid, va := va / size * size, size, tarn := bits entry 54 10, home, frame, world := bit entry 10,
                      user := bit entry 5, exec := bit entry 4, write := bit entry 3, read := bit entry 2, leaf, entry }
    match s.paClass frame with
    | .unbacked => .error .unbacked
    | _ =>
      if deviceOffset (frame % 2 ^ 48) then (if home ≠ 2 || a.user then .error .attr else .ok a)
      else if !a.world && s.secureIn frame size then .error .attr
      else .ok a

/-- The levels of a walk (R92). -/
def State.walkFrom (s : State) (secure : Bool) (asid va : Nat) : List Nat → Nat → Except Kind Attr
  | [], _ => .error .attr
  | level :: rest, table =>
    if !s.ownMemory table then .error .attr
    else
      let pa := table + 8 * bits va (12 + 9 * level) 9
      match s.tableEntry secure pa with
      | .error k => .error k
      | .ok e =>
        if !bit e 0 then .error .notValid
        else if level = 0 || bit e 6 then (if 3 ≤ level then .error .attr else s.leafAttr asid va level e pa)
        else State.walkFrom s secure asid va rest (bits e 12 40 * 4096)

/-- SYS.ASIDTAB.EN: translation is enabled (R90). -/
def State.translating (s : State) : Bool := bit s.r.asidTab.toNat 0

/-- A walk for a name (R90 to R94). -/
def State.walk (s : State) (secure : Bool) (asid va : Nat) : Except Kind Attr :=
  let t := s.r.asidTab.toNat
  if !s.translating then .error .notValid
  else if asid = 0 && !bit va 56 then .error .notValid
  else
    let base := bits t 15 37 * 32768
    if !s.ownMemory base then .error .attr
    else match s.tableEntry secure (base + 8 * asid) with
      | .error k => .error k
      | .ok e =>
        if !bit e 0 then .error .notValid
        else if bits e 52 12 ≠ 0 || bits e 1 11 ≠ 0 then .error .attr
        else s.walkFrom secure asid va [4, 3, 2, 1, 0] (bits e 12 40 * 4096)

/-- The unit of the page that a failing walk reports (R245): the leaf that the walk reaches, else 4 KiB (assumption log 32). -/
def State.pageSizeFrom (s : State) (va : Nat) : List Nat → Nat → Nat
  | [], _ => 4096
  | level :: rest, table =>
    match s.tableEntry true (table + 8 * bits va (12 + 9 * level) 9) with
    | .error _ => 4096
    | .ok e =>
      if !bit e 0 then 4096
      else if level = 0 || bit e 6 then
        (if level = 2 then 2 ^ 30 else if level = 1 then 2 ^ 21 else if level = 0 && bit e 7 then 65536 else 4096)
      else State.pageSizeFrom s va rest (bits e 12 40 * 4096)

/-- The bytes of the page in which an address faults. -/
def State.faultPage (s : State) (asid va : Nat) : Nat :=
  match s.tableEntry true (bits s.r.asidTab.toNat 15 37 * 32768 + 8 * asid) with
  | .error _ => 4096
  | .ok e => if bit e 0 then s.pageSizeFrom va [4, 3, 2, 1, 0] (bits e 12 40 * 4096) else 4096

/-- The checks of R90 and R97 on known attributes; the kind of the first that fails. That a page of a pinned Tarn lies outside the
window only where both its ends do, each line of any other such page being checked by itself (R113), is the model's choice (assumption
log 52). -/
def State.permit (s : State) (c : Ctx) (a : Attr) (acc : Access) : Option Kind :=
  if !s.translating then some .notValid
  else
    let typeOk := match acc with
      | .read => a.read
      | .write => a.write
      | .both => a.read && a.write
      | .exec => a.exec
    if !typeOk then some .perm
    else if !c.priv && !a.user then some .user
    else if !c.secure && a.world then some .world
    else if a.home < 2 then
      let d := s.tdb a.tarn
      if a.world ≠ tdbWorld d || tdbState d = 3 || (a.home = 1) ≠ (tdbRpol d = 2) then some .attr
      else if tdbRpol d = 2 && (s.pinnedPlace a.tarn a.asid a.va).isNone && a.home = 1
        && (s.pinnedPlace a.tarn a.asid (a.va + a.size - 1)).isNone then some .attr
      else none
    else none

/-! ## Attribute caches and shards (R96, R99, R100) -/

def covers (a : Attr) (asid va : Nat) : Bool := a.asid == asid && a.va ≤ va && va < a.va + a.size

/-- ShardOf (R99). -/
def State.shardOf (s : State) (asid va : Nat) : Nat :=
  let x := bits va 16 41
  let h := (List.range 7).foldl (fun h k => Nat.xor h (bits x (6 * k) 6)) (Nat.xor (bits asid 0 6) (bits asid 6 6))
  Tab.get s.m.shardMap h h

/-- Keep the newest `n` entries of one owner. -/
def capOwner (owner n : Nat) (l : List (Nat × Attr)) : List (Nat × Attr) :=
  let k := (l.filter (fun p => p.1 == owner)).length
  if k ≤ n then l
  else match l.findIdx? (fun p => p.1 == owner) with
    | some i => l.eraseIdx i
    | none => l

/-- The shard's answer to a translation: from its cache, else by a walk that fills it (R100, R101 stage 5). -/
def State.translate (s : State) (secure : Bool) (asid va : Nat) : State × Except Kind Attr :=
  let sh := s.shardOf asid va
  match s.m.tlb.find? (fun p => p.1 == sh && covers p.2 asid va) with
  | some p =>
    if !secure && s.secureAt p.2.leaf then (s, .error .attr)
    else match s.paClass p.2.frame with
      | .unbacked => (s, .error .unbacked)
      | _ => (s, .ok p.2)
  | none =>
    match s.walk secure asid va with
    | .error k => (s, .error k)
    | .ok a => (s.setMem { s.m with tlb := capOwner sh 8192 (s.m.tlb ++ [(sh, a)]) }, .ok a)

/-- The agent's own attributes of an address, from its page-attribute cache (R96). -/
def State.cachedAttr (s : State) (agent asid va : Nat) : Option Attr :=
  (s.m.attrs.find? (fun p => p.1 == agent && covers p.2 asid va)).map Prod.snd

/-- A copy of a line in the agent's L1 or instruction cache, or in a host core's caches (R101 stage 1). -/
def State.copyAt (s : State) (agent : Nat) (inst : Bool) (asid va : Nat) : Option Copy :=
  s.m.copies.find? (fun c => c.agent == agent && c.inst == inst && c.attr.asid == asid && c.va ≤ va && va < c.va + c.size)

/-- An attribute request: the shard walks, and the agent keeps the leaf's attributes (R96). -/
def State.requestAttr (s : State) (agent : Nat) (secure : Bool) (asid va : Nat) : State × Except Kind Attr :=
  match s.translate secure asid va with
  | (s1, .error k) => (s1, .error k)
  | (s1, .ok a) => (s1.setMem { s1.m with attrs := capOwner agent 512 (s1.m.attrs ++ [(agent, a)]) }, .ok a)

/-- The attributes that an access of an agent is checked against: those of a line it holds, else of its cache (R96). -/
def State.knownAttr (s : State) (agent : Nat) (inst : Bool) (asid va : Nat) : Option Attr :=
  match s.copyAt agent inst asid va with
  | some c => some c.attr
  | none => s.cachedAttr agent asid va

/-- Drop the agent's cached attributes of an address, so that they are asked for again. -/
def State.forgetAttr (s : State) (agent asid va : Nat) : State :=
  s.setMem { s.m with attrs := s.m.attrs.filter (fun p => !(p.1 == agent && covers p.2 asid va)) }

/-- The attributes that a check is made against, and what it finds. Where those that the shard has cached do not allow the access, the
shard walks again, since a change that only adds permissions needs no invalidation (R106); a walk that fails leaves the translation in
the shard, so that dirty lines find their way back until XLATE.INV (R104). That a denied check makes the shard walk again is the model's
choice (assumption log 53). -/
def State.askAttr (s : State) (agent : Nat) (c : Ctx) (asid va : Nat) (acc : Access) : State × Except Kind Attr :=
  match (s.forgetAttr agent asid va).requestAttr agent c.secure asid va with
  | (s1, .error k) => (s1, .error k)
  | (s1, .ok a) =>
    if (s1.permit c a acc).isNone then (s1, .ok a)
    else
      match s1.walk c.secure asid va with
      | .error k => (s1.forgetAttr agent asid va, .error k)
      | .ok b =>
        let sh := s1.shardOf asid va
        let s2 := s1.setMem { s1.m with tlb := s1.m.tlb.filter (fun p => !(p.1 == sh && covers p.2 asid va)) ++ [(sh, b)] }
        match (s2.forgetAttr agent asid va).requestAttr agent c.secure asid va with
        | (s3, .error k) => (s3, .error k)
        | (s3, .ok b) => match s3.permit c b acc with | some k => (s3, .error k) | none => (s3, .ok b)

/-! ## What a write does elsewhere -/

/-- SigBits (R338). -/
def sigBits (asid va : Nat) : Nat × Nat :=
  let g := Nat.xor (bits va 4 53) (asid * 2 ^ 41) % 2 ^ 53
  let f (i : Nat) := bits g (10 * i) 10
  (Nat.xor (Nat.xor (Nat.xor (f 0) (f 1)) (Nat.xor (f 2) (f 3))) (Nat.xor (f 4) (bits g 50 3)),
   g * 0x9E3779B97F4A7C15 % 2 ^ 64 / 2 ^ 54)

def sigHit (sig : BitVec 1024) (asid va : Nat) : Bool :=
  let b := sigBits asid va
  sig.getLsbD b.1 && sig.getLsbD b.2

def sigAdd (sig : BitVec 1024) (asid va : Nat) : BitVec 1024 :=
  let b := sigBits asid va
  sig ||| (1#1024 <<< b.1) ||| (1#1024 <<< b.2)

/-- The 16-byte granules of a range. -/
def granules16 (va len : Nat) : List Nat :=
  if len = 0 then [] else (List.range ((va + len - 1) / 16 - va / 16 + 1)).map (fun i => (va / 16 + i) * 16)

/-- The transactions, other than `own`, that a write to a range at its home slice would doom (R339); a line that is served as HOME 2 has
none. -/
def State.doomedBy (s : State) (slice : Option Nat) (asid va len : Nat) (own : Option Nat) : List Nat :=
  (s.x.sigs.filter (fun p => slice == some p.slice && some p.key != own
    && (granules16 va len).any (fun g => sigHit p.read asid g))).map (·.key)

/-- The write would doom the holder of the commit lock, and waits (R345). -/
def State.heldForLock (s : State) (slice : Option Nat) (asid va len : Nat) (own : Option Nat) : Bool :=
  match s.x.holder with
  | some h => some h != own && (s.doomedBy slice asid va len own).contains h
  | none => false

/-- A granule of the range belongs to a transaction for which a slice has voted and not every slice has published: other
requests for it are held (R340). -/
def State.ticketHolds (s : State) (asid va len : Nat) (own : Option Nat) : Bool :=
  s.x.tickets.any (fun t => !t.host && !t.accepted.isEmpty && some t.key != own
    && (match (s.thread? t.key).bind (·.tx) with
      | some x => x.log.any (fun b => b.asid == asid && b.va < va + len && va < b.va + 16)
          || x.buf.any (fun b => b.asid == asid && b.va < va + len && va < b.va + 16)
      | none => false))

/-- Mark transactions as doomed. -/
def State.doom (s : State) (keys : List Nat) : State :=
  keys.foldl (fun s k => s.updThread k (fun t => { t with tx := t.tx.map (fun x => { x with doomed := true }) })) s

/-- Roll a host transaction back: its snapshot, status in rd of the outermost XTX.BEGIN, resume after it (R350). -/
def abortHart (h : Hart) (cause code : Nat) : Hart :=
  match h.tx with
  | none => h
  | some t =>
    let status : Nat := code % 256 * 256 + cause
    { h with
      regs := if t.rd = 0 then t.regs else Tab.set t.regs t.rd (BitVec.ofNat 64 status)
      fregs := t.fregs, vregs := t.vregs, csrs := t.csrs, pc := t.pc + 4, tx := none, wait := none
      lastAbort := (cause, code) }

/-- The host transaction of a hart aborts, and its ticket goes (R349, R350). -/
def State.rollHart (s : State) (h cause code : Nat) : State :=
  { s with
    harts := List.map (fun (p : Nat × Hart) => if p.1 == h then (p.1, abortHart p.2 cause code) else p) s.harts
    x := { s.x with tickets := s.x.tickets.filter (fun t => !(t.host && t.key == h)) } }

/-- Transactions of some harts that wrote a line of the range abort with CONFLICT, or where the line is invalidated that marked it at
all (R349). -/
def State.snoopHartsIn (s : State) (who : Nat → Bool) (asid va len : Nat) (reads : Bool) : State :=
  let hit (l : Nat × Nat × Nat) : Bool := l.1 == asid && va < l.2.1 + l.2.2 && l.2.1 < va + len
  let meets (p : Nat × Hart) : Bool :=
    who p.1 && p.2.tx.any (fun t => t.writtenLines.any hit || (reads && t.readLines.any hit))
  ((s.harts.filter meets).map Prod.fst).foldl (fun s h => s.rollHart h Abort.conflict.code 0) s

/-- The same of every hart but the one that acts. -/
def State.snoopHarts (s : State) (asid va len : Nat) (own : Option Nat) (reads : Bool) : State :=
  s.snoopHartsIn (fun h => some (h + 512) != own) asid va len reads

/-- The unit of an agent in a holder set: its cluster, or the host core. Units without a cache have none, and hold nothing
(R131). -/
def unitOf (agent : Nat) : Option Nat :=
  if agent < 512 then some (agent / 4)
  else if agent < 576 then some (128 + (agent - 512))
  else if agent < 704 then some (agent - 576)
  else none

/-- The unit that stands for other packages in a holder set (R131). -/
def otherPackages : Nat := 192

/-- The agent has caches of its own: a vector core or a host core (R96, R101). -/
def hasCache (agent : Nat) : Bool := agent < 576

/-- The agent is a host core. -/
def hostAgent (agent : Nat) : Bool := 512 ≤ agent && agent < 576

/-- A demand request travels at the higher of its requester's class and the class QOS of the Tarn it asks; a Tarn's own fills,
write-backs and migrations, at 2 at most, are never counted (R114, R430). -/
def State.countDemand (s : State) (agent : Nat) (c : Ctx) (a : Attr) : State :=
  s.countClass agent (if a.home < 2 then max c.cls (tdbField (s.tdb a.tarn) 18 2) else c.cls)

/-- The bytes of the line of a page's address: its Tarn's line, else the 64-byte granule. -/
def State.pageLine (s : State) (a : Attr) : Nat := if a.home < 2 then tdbLine (s.tdb a.tarn) else 64

/-- POLLs and XPOLLs whose copy of a line that meets the range goes read again (R235, R263): of one core, or of all. -/
def State.wakePolls (s : State) (core : Option Nat) (asid va len : Nat) : State :=
  let meets (size at_ : Nat) : Bool := va < (at_ / size + 1) * size && at_ / size * size < va + len
  { s with
    harts := List.map (fun (p : Nat × Hart) => (p.1, { p.2 with
      wait :=
        match p.2.wait with
        | some (.poll rd ad x n due) =>
          let a := nameAsid (Tab.get p.2.csrs 0x5C0 0).toNat ad
          let size := match s.m.copies.find? (fun c => c.agent == 512 + p.1 && c.attr.asid == a && c.va ≤ ad && ad < c.va + c.size) with
            | some c => c.size
            | none => 64
          let hit := (core == none || core == some (512 + p.1)) && a == asid && meets size ad
          some (.poll rd ad x n (if hit then min due s.clock else due))
        | w => w })) s.harts
    v := { s.v with ops := Tab.mapv s.v.ops (fun o =>
      if o.opc ≠ 0x8B then o
      else { o with lanes := o.lanes.map (fun l =>
        match l.attr with
        | some a =>
          if l.stage == .wait && a.home < 2 && a.asid == asid && meets (s.pageLine a) l.ea
              && (core == none || core == (s.block? o.block).bind (·.core))
          then { l with due := min l.due s.clock } else l
        | none => l) }) } }

/-- A cache gives up the copies that a test picks. Data of a HOME 0 or 1 line is at its home already: a modified copy says
only who holds the line modified (R130, R140). -/
def State.dropCopies (s : State) (pick : Copy → Bool) : State :=
  let gone := s.m.copies.filter pick
  gone.foldl (fun s c => s.wakePolls (some c.agent) c.attr.asid c.va c.size)
    (s.setMem { s.m with copies := s.m.copies.filter (fun c => !pick c) })

/-- Requests for the lines of a range that their home has taken: what they bring is not kept, an invalidation having overtaken it
(R135, R320). -/
def State.passFills (s : State) (agents : Nat → Bool) (asid va len : Nat) : State :=
  s.setReqs (Tab.mapv s.v.reqs (fun q =>
    if q.stage != .home && q.attr.home < 2 && q.asid == asid && q.va < va + len && va < q.va + q.size
        && (match s.op? q.op with | some o => (match (s.block? o.block).bind (·.core) with | some c => agents c | none => false) | none => false)
    then { q with noCopy := true } else q))

/-- The data of a range is in memory: no agent's copy of its lines is modified any more (R131, R253, R462). -/
def State.cleanCopies (s : State) (asid va len : Nat) : State :=
  s.setMem { s.m with copies := s.m.copies.map (fun c =>
    if c.attr.home < 2 && c.attr.asid == asid && c.va < va + len && va < c.va + c.size then { c with dirty := false } else c) }

/-- Copies of the lines of a range go, except HOME 3 lines (R130); reservations of LR on it end; POLLs and XPOLLs on it
read again (R235, R263). -/
def State.invalidate (s : State) (asid va len : Nat) : State :=
  let s1 := (s.passFills (fun _ => true) asid va len).wakePolls none asid va len
  { s1 with
    m := { s1.m with copies := s1.m.copies.filter (fun c =>
      !(c.attr.home != 3 && c.attr.asid == asid && c.va < va + len && va < c.va + c.size)) }
    harts := List.map (fun (p : Nat × Hart) => (p.1, { p.2 with
      reservation :=
        match p.2.reservation with
        | some (a, v, w) => if a == asid && v < va + len && va < v + w then none else some (a, v, w)
        | none => none })) s1.harts }

/-- Everything a write to a range of a name does elsewhere: copies, dooming, snoops (R130, R339, R349). -/
def State.noteWrite (s : State) (slice : Option Nat) (asid va len : Nat) (own : Option Nat) : State :=
  ((s.invalidate asid va len).doom (s.doomedBy slice asid va len own)).snoopHarts asid va len own true

/-- Remove written bytes from the regions whose contents are open (assumption log 6). -/
def cutImages (l : List (Nat × Nat × Nat × Nat)) (asid va len : Nat) : List (Nat × Nat × Nat × Nat) :=
  l.flatMap (fun r =>
    let (a, lo, hi, n) := r
    if a ≠ asid || va + len ≤ lo || hi ≤ va then [r]
    else (if lo < va then [(a, lo, va, n)] else []) ++ (if va + len < hi then [(a, va + len, hi, n)] else []))

/-- A byte of a save image reads as a free value (assumption log 6). -/
def State.overlay (s : State) (asid va : Nat) (b : Byte) : Byte :=
  match s.m.images.find? (fun r => r.1 == asid && r.2.1 ≤ va && va < r.2.2.1) with
  | some r => Config.freeByte (r.2.2.2 + va)
  | none => b

def State.overlays (s : State) (asid va : Nat) : List Byte → List Byte
  | [] => []
  | b :: t => s.overlay asid va b :: State.overlays s asid (va + 1) t

/-! ## Memory controllers -/

/-- Bytes that the spec does not supply (from another package or a PCIe device): those given, else free values. -/
def State.supplied (s : State) (given : List Byte) (n : Nat) : List Byte × State :=
  if n ≤ given.length then (given.take n, s) else s.freeBytes n

/-- A read at a controller; registers, of every package, are read whole and aligned (R454). `regs` is the value of a register. -/
def State.ctrlRead (s : State) (regs : Nat → Nat) (pa n : Nat) (given : List Byte) : List Byte × State :=
  match s.paClass pa with
  | .memory off => (s.physBytes off n, s)
  | .register off => (if n = 8 && off % 8 = 0 then bytesOf 8 (regs off) else bytesOf n 0, s)
  | .window port off =>
    let r := s.supplied given n
    (r.1, { r.2 with out := r.2.out ++ [⟨if ecam off then .pcieConfigRead else .pcieRead, port, off, []⟩] })
  | .remote _ off => if badRegister off n then (bytesOf n 0, s) else s.supplied given n
  | .unbacked => (bytesOf n 0, s)

/-- A write at a controller: memory, a register's queue, a PCIe window or another package. A whole granule clears its
poison (R142). A store into the TDB table, which software must not make (R109), changes nothing, which is the model's choice
(assumption log 38). -/
def State.ctrlWrite (s : State) (who : Writer) (pa : Nat) (data : List Byte) : State :=
  match s.paClass pa with
  | .memory off =>
    if s.inTdbTable off then s
    else
      s.setMem { s.m with
        mem := Memory.writes s.m.mem off data
        poison := s.m.poison.filter (fun g => !(off ≤ 64 * g && 64 * g + 64 ≤ off + data.length)) }
  | .register off =>
    if data.length = 8 && off % 8 = 0 then
      { s with r := { s.r with queue := s.r.queue ++ [(off, BitVec.ofNat 64 (ofBytes data), who)] } }
    else s
  | .window port off => { s with out := s.out ++ [⟨if ecam off then .pcieConfigWrite else .pcieWrite, port, off, data⟩] }
  | .remote _ off => if badRegister off data.length then s else { s with out := s.out ++ [⟨.remoteWrite, pa, 0, data⟩] }
  | .unbacked => s

/-- A full-line write clears the poison of its granules (R142). -/
def State.cleanRange (s : State) (pa len : Nat) : State :=
  match s.paClass pa with
  | .memory off => s.setMem { s.m with poison := s.m.poison.filter (fun g => !(off ≤ 64 * g && 64 * g + 64 ≤ off + len)) }
  | _ => s

/-- The line of a page that a full-line write has written is clean (R142). -/
def State.cleanLine (s : State) (a : Attr) (asid va len : Nat) : State :=
  if a.asid = asid then s.cleanRange (a.frame + (va - a.va)) len else s

/-- Poison every granule of a range of memory (R140). -/
def State.poisonRange (s : State) (pa len : Nat) : State :=
  match s.paClass pa with
  | .memory off =>
    s.setMem { s.m with poison := (List.range (len / 64)).foldl (fun l i => insertNat (off / 64 + i) l) s.m.poison }
  | _ => s

/-! ## Reclaim ring (R477) and write-backs (R102) -/

/-- A device reads bytes of a ring at a physical address, in this package's memory or another package's, which supplies them
(R443, R477, R481). -/
def State.ringBytes (s : State) (pa n : Nat) : List Byte × State := s.ctrlRead (fun _ => 0) pa n []

/-- A record of the reclaim ring: DISCARDED or DROPPED. -/
def State.reclaimRecord (s : State) (va frame asid size kind : Nat) : State :=
  let r := s.r.reclaim.toNat
  let seq := s.l.rcSeq
  let s0 : State := { s with l := { s.l with rcSeq := if seq = 0xFFFFFFFF then 1 else seq + 1 } }
  let slots := 256 * 2 ^ min (bits r 1 4) 8
  let pa := bits r 12 40 * 4096 + 32 * s.l.rcIndex
  let seen := if bit r 0 then s0.ringBytes pa 1 else ([], s0)
  let s1 := seen.2
  if !bit r 0 || bit (ofBytes seen.1) 0 then
    let lost := min 4095 (bits r 52 12 + 1)
    { s1 with r := { s1.r with reclaim := BitVec.ofNat 64 (r % 2 ^ 52 + lost * 2 ^ 52) } }
  else
    let v := va * 2 ^ 192 + frame / 4096 * 2 ^ 152 + seq * 2 ^ 96 + asid * 2 ^ 64 + size * 16 + kind * 4 + 1
    let s2 := s1.ctrlWrite ⟨false, true⟩ pa (bytesOf 32 v)
    { s2 with
      l := { s2.l with rcIndex := if s.l.rcIndex + 1 = slots then 0 else s.l.rcIndex + 1 }
      r := { s2.r with intr := s2.r.intr ||| 2#64 } }

/-- A write-back: the shard translates again; without a valid translation it is dropped and logged (R102). -/
def State.doWriteBack (s : State) (w : WriteBack) : State :=
  match s.translate true w.asid w.va with
  | (s1, .error _) => (s1.setMem { s1.m with errors := s1.m.errors ++ [(w.asid, w.va)] }).reclaimRecord w.va 0 w.asid 0 1
  | (s1, .ok a) => s1.ctrlWrite ⟨false, true⟩ (a.frame + (w.va - a.va)) w.data

/-- The write-backs of a range reach memory before anything reads it there. -/
def State.drain (s : State) (asid va len : Nat) : State :=
  let hit (w : WriteBack) : Bool := w.asid == asid && w.va < va + len && va < w.va + w.data.length
  (s.m.wbq.filter hit).foldl State.doWriteBack (s.setMem { s.m with wbq := s.m.wbq.filter (fun w => !hit w) })

/-- Every write-back that waits reaches memory. -/
def State.drainAll (s : State) : State := s.m.wbq.foldl State.doWriteBack (s.setMem { s.m with wbq := [] })

/-- The cache that holds a copy: an L1 of 384 KiB, an instruction cache of 128 KiB (R18). The spec gives a host core's caches
no size. -/
def cacheBytes (agent : Nat) (inst : Bool) : Nat := if 512 ≤ agent then 2 ^ 40 else if inst then 131072 else 393216

/-- The oldest copies that must go to free some bytes. -/
def oldestFor : Nat → List Copy → List Copy
  | _, [] => []
  | need, c :: t => if need = 0 then [] else c :: oldestFor (need - c.size) t

/-- A cache takes a copy. A full cache gives up its oldest copies first, which is the model's choice (assumption log 9); a dirty
HOME 3 line is written back. -/
def State.addCopy (s : State) (c : Copy) : State :=
  let mine := s.m.copies.filter (fun x => x.agent == c.agent && x.inst == c.inst)
  let used := mine.foldl (fun n x => n + x.size) 0
  let gone := oldestFor (used + c.size - cacheBytes c.agent c.inst) mine
  let s1 := gone.foldl (fun s x => if x.dirty && x.attr.home == 3 then s.doWriteBack ⟨x.attr.asid, x.va, x.data⟩ else s)
    (if gone.isEmpty then s else s.dropCopies (fun x => gone.contains x))
  s1.setMem { s1.m with copies := s1.m.copies ++ [c] }

/-! ## Lines of a Tarn -/

def State.lineAt (s : State) (t asid va : Nat) : Option Line :=
  s.m.lines.find? (fun l => l.tarn == t && l.asid == asid && l.va ≤ va && va < l.va + l.data.length)

def sameLine (a b : Line) : Bool := a.tarn == b.tarn && a.asid == b.asid && a.va == b.va

/-- Change a line. -/
def State.updLine (s : State) (l : Line) (g : Line → Line) : State :=
  s.setMem { s.m with lines := s.m.lines.map (fun x => if sameLine x l then g x else x) }

/-- A line leaves its Tarn: every copy goes first, and a dirty line is written back (R130). -/
def State.evict (s : State) (l : Line) : State :=
  let s1 := (s.invalidate l.asid l.va l.data.length).snoopHarts l.asid l.va l.data.length none true
  s1.setMem { s1.m with
    lines := s1.m.lines.filter (fun x => !sameLine x l)
    wbq := if l.dirty then s1.m.wbq ++ [⟨l.asid, l.va, l.data⟩] else s1.m.wbq }

/-- A line leaves its Tarn and is in memory when the step ends: of a share that changes hands or of a Tarn that ends (R116,
R120). -/
def State.evictNow (s : State) (l : Line) : State := (s.evict l).drain l.asid l.va l.data.length

/-- Depth of the tree over n ways (R113). -/
def treeDepth (n : Nat) : Nat := if n ≤ 1 then 0 else Nat.log2 (n - 1) + 1

/-- The victim leaf: follow the pointers, away from a subtree without a present leaf (R113). -/
def plruVictim (tree n : Nat) : Nat → Nat → Nat → Nat
  | 0, _, lo => lo
  | d + 1, node, lo =>
    let half := 2 ^ d
    if bit tree node && lo + half < n then plruVictim tree n d (2 * node + 1) (lo + half)
    else plruVictim tree n d (2 * node) lo

/-- Point every node on the path to a leaf away from it (R113). -/
def plruTouch (leaf : Nat) : Nat → Nat → Nat → Nat → Nat
  | 0, _, _, tree => tree
  | d + 1, node, lo, tree =>
    let half := 2 ^ d
    let cleared := if bit tree node then tree - 2 ^ node else tree
    if leaf < lo + half then plruTouch leaf d (2 * node) lo (cleared + 2 ^ node)
    else plruTouch leaf d (2 * node + 1) (lo + half) cleared

def treeKey (t bank set : Nat) : Nat := (t * 1152 + bank) * 1024 + set

/-- A hit or fill of a way (R113). -/
def State.touch (s : State) (l : Line) : State :=
  if tdbRpol (s.tdb l.tarn) ≠ 0 then s
  else
    let ways := s.waysOf l.tarn l.bank
    match ways.findIdx? (fun w => w == l.way) with
    | none => s
    | some i =>
      let k := treeKey l.tarn l.bank l.set
      s.setMem { s.m with trees := Tab.set s.m.trees k (plruTouch i (treeDepth ways.length) 1 0 (Tab.get s.m.trees k 0)) }

/-- Install a line, evicting as the Tarn's policy says; a pinned Tarn never evicts (R113). -/
def State.install (s : State) (t asid va bank set : Nat) (pin : Option Nat) (data : List Byte) : State :=
  let inSet := s.m.lines.filter (fun l => l.bank == bank && l.set == set && l.tarn == t)
  let ways := s.waysOf t bank
  let way := match pin with
    | some w => w
    | none =>
      match ways.find? (fun w => !inSet.any (fun l => l.way == w)) with
      | some w => w
      | none =>
        if tdbRpol (s.tdb t) = 1 then ((minBy (·.order) (inSet.filter (fun l => ways.contains l.way))).map (·.way)).getD 0
        else ways.getD (plruVictim (Tab.get s.m.trees (treeKey t bank set) 0) ways.length (treeDepth ways.length) 1 0) 0
  let s1 := if pin.isSome then s else (inSet.filter (fun l => l.way == way)).foldl State.evict s
  let l : Line := ⟨t, asid, va, bank, way, set, data, false, s1.m.fills⟩
  (s1.setMem { s1.m with lines := s1.m.lines ++ [l], fills := s1.m.fills + 1 }).touch l

/-! ## Holders in other packages (R462) -/

/-- A Xankor Link message about a line: 1 request for SHARED, 2 for OWNED, 3 recall, 4 answer to a recall, 5 grant, 6 a frame
let go, 7 answer that the line is poisoned. -/
def State.sendLink (s : State) (class_ package pa : Nat) (data : List Byte) : State :=
  { s with out := s.out ++ [⟨.link, class_, package, bytesOf 8 pa ++ data⟩] }

/-- The recalls that a local request for a range of the package's own memory makes: of every holder for a write, of an OWNED
holder for a read. An OWNED holder returns its data, which `given` supplies (R462). -/
def State.recallHolders (s : State) (pa n : Nat) (write : Bool) (asker : Option Nat) (given : List Byte) : State :=
  match s.paClass pa with
  | .memory off =>
    let lo := off / 64
    let meets (e : Nat × BitVec 8 × Bool) : Bool := lo ≤ e.1 && 64 * e.1 < off + n
    (s.m.remoteHeld.filter meets).foldl (fun (s : State) (e : Nat × BitVec 8 × Bool) =>
      let others := (onesOf 8 e.2.1.toNat).filter (fun q => some q != asker)
      if others.isEmpty || !(write || e.2.2) then s
      else
        let s1 := others.foldl (fun (s : State) q => s.sendLink 3 q (s.r.pkg * 2 ^ 48 + 64 * e.1) []) s
        let s2 :=
          if !e.2.2 then s1
          else
            let d := s1.supplied (given.drop (64 * (e.1 - lo))) 64
            d.2.setMem { d.2.m with mem := Memory.writes d.2.m.mem (64 * e.1) d.1 }
        let left : BitVec 8 := if write then (match asker with | some q => e.2.1 &&& (1#8 <<< q) | none => 0) else e.2.1
        s2.setMem { s2.m with
          remoteHeld := (s2.m.remoteHeld.filter (fun (x : Nat × BitVec 8 × Bool) => x.1 != e.1))
            ++ (if left = 0 then [] else [(e.1, left, false)]) }) s
  | _ => s

/-! ## Directory (R131 to R133) -/

/-- Split an entry until it covers one line (R132). -/
def splitDir (e : DirEntry) (va line : Nat) : Nat → List DirEntry
  | 0 => [e]
  | n + 1 =>
    if e.size ≤ line then [e]
    else
      let h := e.size / 2
      let lo := { e with size := h }
      let hi := { e with size := h, va := e.va + h }
      if va < e.va + h then splitDir lo va line n ++ [hi] else lo :: splitDir hi va line n

/-- A snoop to units for a range of a name: their copies go, or, for a read, the modified ones are shared. A snoop to a cluster
reaches its four cores (R131, R132); one to a host core ends a transaction that marked the line (R349). -/
def State.snoopUnits (s : State) (units : List Nat) (keep : Option Nat) (asid va len : Nat) (drop : Bool) : State :=
  let hit (c : Copy) : Bool :=
    c.attr.home < 2 && c.attr.asid == asid && c.va < va + len && va < c.va + c.size && some c.agent != keep
      && (match unitOf c.agent with | some u => units.contains u | none => false)
  let s := s.snoopHartsIn (fun h => units.contains (128 + h) && some (512 + h) != keep) asid va len drop
  if drop then (s.passFills (fun c => units.contains (c / 4) && some c != keep) asid va len).dropCopies hit
  else s.setMem { s.m with copies := s.m.copies.map (fun c => if hit c then { c with dirty := false } else c) }

/-- Other packages, where a directory entry names them, give up the lines of a range of a slice (R131, R462). -/
def State.snoopPackages (s : State) (units : List Nat) (slice asid va len : Nat) : State :=
  if !units.contains otherPackages then s
  else (s.m.lines.filter (fun l =>
      l.bank / 16 == slice && l.asid == asid && l.va < va + len && va < l.va + l.data.length)).foldl (fun s l =>
    match s.walk true l.asid l.va with
    | .ok a => s.recallHolders (a.frame + (l.va - a.va)) l.data.length true none []
    | .error _ => s) s

/-- Other packages hold granules of a line of this package's memory that its home keeps shared: its entry names them (R131, R462). -/
def State.noteOthers (s : State) (l : Line) : State :=
  s.setMem { s.m with dir := s.m.dir.map (fun e =>
    if e.slice == l.bank / 16 && e.asid == l.asid && e.va < l.va + l.data.length && l.va < e.va + e.size then
      { e with
        state := 1
        holders := insertNat otherPackages e.holders }
    else e) }

/-- A slice makes room for new entries: the least recently used go, and their lines in every holder first (R131). -/
def State.dirRoom (s : State) (slice asid va : Nat) (fresh : Nat) : Nat → State
  | 0 => s
  | n + 1 =>
    let mine := s.m.dir.filter (fun e => e.slice == slice)
    if mine.length + fresh ≤ 65536 then s
    else
      match minBy (·.last) (mine.filter (fun e => !(e.asid == asid && e.va ≤ va && va < e.va + e.size))) with
      | none => s
      | some old =>
        let s1 := (s.snoopUnits old.holders none old.asid old.va old.size true).snoopPackages old.holders slice old.asid old.va old.size
        State.dirRoom (s1.setMem { s1.m with dir := s1.m.dir.filter (fun e => e != old) }) slice asid va fresh n

/-- What a request asks of the directory: to read, to own the line, or to have its write made at the home. -/
inductive DirAsk where
  | read | own | write
  deriving DecidableEq, Repr

/-- A request conflicts with an entry (R132). -/
def DirEntry.conflicts (e : DirEntry) (ask : DirAsk) (u : Option Nat) : Bool :=
  match ask with
  | .read => e.state == 2 && e.holders.any (fun h => some h != u)
  | _ => e.holders.any (fun h => some h != u)

/-- The entry that holds a line after a request for the line. An entry of several lines keeps its holder where the write of one line is
made at the home: the unit may hold the others. -/
def DirEntry.after (e : DirEntry) (now line : Nat) (ask : DirAsk) (u : Option Nat) : DirEntry :=
  match ask, u with
  | .read, some u => { e with state := if e.state = 2 && e.holders == [u] then 2 else 1, holders := insertNat u e.holders, last := now }
  | .read, none => { e with state := if e.state = 2 then 1 else e.state, last := now }
  | .own, some u => { e with state := 2, holders := [u], last := now }
  | _, _ => if line < e.size then { e with last := now } else { e with state := 0, holders := [], last := now }

/-- A request at a slice enters the directory: a conflicting entry is split, and the holders of the line's entry are snooped
(R131, R132). -/
def State.dirNote (s : State) (slice asid va line agent : Nat) (ask : DirAsk) : State :=
  let u := unitOf agent
  let covers (e : DirEntry) : Bool := e.slice == slice && e.asid == asid && e.va ≤ va && va < e.va + e.size
  let base :=
    if s.m.dir.any covers then s
    else
      let s1 := s.dirRoom slice asid va 1 4
      s1.setMem { s1.m with dir := s1.m.dir ++ [⟨slice, asid, va / 65536 * 65536, 65536, 0, [], s.clock⟩] }
  match base.m.dir.find? covers with
  | none => base
  | some e =>
    let parts := if e.conflicts ask u then splitDir e (va / line * line) line 10 else [e]
    let s1 := base.dirRoom slice asid va (parts.length - 1) 10
    let s2 :=
      match ask with
      | .read => if e.conflicts ask u then s1.snoopUnits e.holders none asid (va / line * line) line false else s1
      | .own => s1.snoopUnits e.holders (some agent) asid (va / line * line) line true
      | .write => s1.snoopUnits e.holders none asid (va / line * line) line true
    s2.setMem { s2.m with dir := s2.m.dir.flatMap (fun x =>
      if x != e then [x] else parts.map (fun p => if covers p then p.after s.clock line ask u else p)) }

/-! ## Frames of other packages (R462, R463) -/

/-- The shard's remote-frame table: the entry of a frame; a full table gives up its oldest, whose lines are first written back
and invalidated here (R463). -/
def State.enterRemote (s : State) (pa asid va : Nat) : State :=
  match s.paClass pa with
  | .remote _ _ =>
    let frame := pa / 4096 * 4096
    let page := va / 4096 * 4096
    let sh := s.shardOf asid va
    let mine := s.m.remoteLines.filter (fun (e : Nat × Nat × Nat) => s.shardOf e.2.1 e.2.2 == sh)
    if s.m.remoteLines.any (fun (e : Nat × Nat × Nat) => e.1 == frame && e.2.1 == asid && e.2.2 == page) then s
    else if mine.length < 16384 then s.setMem { s.m with remoteLines := s.m.remoteLines ++ [(frame, asid, page)] }
    else
      match mine with
      | [] => s
      | old :: _ =>
        let s1 := (s.m.lines.filter (fun l => l.asid == old.2.1 && l.va < old.2.2 + 4096 && old.2.2 < l.va + l.data.length)).foldl State.evict s
        let s2 := (s1.drain old.2.1 old.2.2 4096).sendLink 6 (old.1 / 2 ^ 48) old.1 []
        s2.setMem { s2.m with remoteLines := s2.m.remoteLines.filter (fun (e : Nat × Nat × Nat) => e != old) ++ [(frame, asid, page)] }
  | _ => s

/-- A home slice's request to the controller of the line's frame: for a line of another package it is granted before the slice makes the
access (R462). -/
def State.askController (s : State) (pa n asid va : Nat) (write : Bool) (given : List Byte) : State :=
  match s.paClass pa with
  | .remote q _ => (s.enterRemote pa asid va).sendLink (if write then 2 else 1) q pa []
  | _ => s.recallHolders pa n write none given

/-! ## The stages of a request (R101) -/

/-- Where a request is served. -/
inductive Where where
  /-- At its home slice, the line present. -/
  | home
  /-- At the memory controller: HOME 2, a line served as HOME 2, or a store that does not allocate. `pa` is where the
  virtual address `va` lies. -/
  | ctrl (pa va : Nat)
  /-- In the agent's L1 (HOME 3). -/
  | l1
  /-- A discarded page: reads are zero (R138). -/
  | zero
  deriving DecidableEq, Repr

/-- What a stage answers. -/
inductive Staged where
  | go (q : Req)
  | serve (w : Where)
  | fault (k : Kind)
  | poisoned
  /-- Its home does not accept it yet. -/
  | hold
  deriving DecidableEq, Repr

/-- What an access does to its line. -/
structure Need where
  write : Bool
  /-- It writes every byte of the line (R142). -/
  full : Bool
  /-- It reads or modifies what is there. -/
  read : Bool
  /-- It asks for ownership: a store of an agent with caches (R131, R132). -/
  own : Bool
  /-- On a discarded page it writes, and so revives it: a CAS that would not write does not (R139, R255). -/
  revives : Bool
  /-- A fetch of a code line, which uses and fills no L1 (R176). -/
  inst : Bool
  deriving DecidableEq, Repr

def Need.load : Need := ⟨false, false, true, false, false, false⟩
def Need.fetch : Need := ⟨false, false, true, false, false, true⟩
def Need.store (full own : Bool) : Need := ⟨true, full, false, own, true, false⟩
def Need.update : Need := ⟨true, false, true, false, true, false⟩

/-- The size of the line that an access to an address works on: the Tarn's, else the 64-byte granule, also where the line would
be served as HOME 2 (R115, R121, R129, R142, R276). -/
def State.lineSize (s : State) (a : Attr) (asid va : Nat) : Nat :=
  if 2 ≤ a.home then 64
  else if (s.lineAt a.tarn asid va).isNone && s.spotOf a.tarn asid va == .direct then 64
  else tdbLine (s.tdb a.tarn)

/-- A page with DISCARD = 1 (R93). -/
def discarded (entry : Nat) : Bool := bit entry 11

/-- The leaf entries of a page: 16 of them hold a 64 KiB page (R93). -/
def leafEntries (a : Attr) (off : Nat) : List Nat :=
  if a.size = 65536 then (List.range 16).map (fun i => off / 128 * 128 + 8 * i) else [off]

/-- A discarded page, by its entry as it stands (R138, R253). -/
def State.discardedNow (s : State) (a : Attr) : Bool :=
  match s.paClass a.leaf with
  | .memory off => discarded (ofBytes (s.physBytes off 8))
  | _ => discarded a.entry

/-- The frame of a page is filled with zero: in this package's memory, or by a message to the package that owns it. -/
def State.zeroFrame (s : State) (frame size : Nat) : State :=
  match s.paClass frame with
  | .memory f =>
    s.setMem { s.m with
      mem := s.m.mem.filter (fun c => !(f ≤ c.1 && c.1 < f + size))
      poison := s.m.poison.filter (fun g => !(f ≤ 64 * g && 64 * g < f + size)) }
  | .remote _ _ => { s with out := s.out ++ [⟨.remoteWrite, frame, size, []⟩] }
  | _ => s

/-- Revive a discarded page: fill the frame with zero and clear DISCARD, if the entry still stands as translated (R139). -/
def State.revive (s : State) (a : Attr) : Option State :=
  match s.paClass a.leaf with
  | .memory off =>
    if ofBytes (s.physBytes off 8) = a.entry then
      let e' := a.entry - 2048
      let a' := { a with entry := e' }
      let zero := s.zeroFrame a.frame a.size
      let clean := zero.setMem { zero.m with images := cutImages zero.m.images a.asid a.va a.size }
      some (clean.setMem { clean.m with
        mem := (leafEntries a off).foldl (fun m o =>
          if ofBytes (s.physBytes o 8) = a.entry then Memory.writes m o (bytesOf 8 e') else m) clean.m.mem
        tlb := clean.m.tlb.map (fun p => if p.2.leaf == a.leaf then (p.1, a') else p) })
    else none
  | _ => none

/-- Drop a translation from every shard. -/
def State.dropTlb (s : State) (leaf : Nat) : State := s.setMem { s.m with tlb := s.m.tlb.filter (fun p => p.2.leaf != leaf) }

/-- Translate for an access; a write to a discarded page revives it, and is translated again if the entry was replaced
meanwhile (R139). -/
def State.shardStage (s : State) (c : Ctx) (q : Req) (need : Need) : Nat → State × Staged
  | 0 => (s, .fault .notValid)
  | n + 1 =>
    if !s.translating then (s, .fault .notValid)
    else
    match s.translate c.secure q.asid q.va with
    | (s1, .error k) => (s1, .fault k)
    | (s1, .ok a) =>
      let q' : Req := { q with stage := .controller, attr := { q.attr with frame := a.frame, va := a.va, size := a.size } }
      if discarded a.entry then
        if need.revives then
          match s1.revive a with
          | some s2 => (s2, .go q')
          | none => State.shardStage (s1.dropTlb a.leaf) c q need n
        else (s1, .serve .zero)
      else (s1.drain q.asid q.va q.size, .go q')

/-- Another request for the line is under way at its home, which performs the requests of a line in the order in which it
accepted them (R136). -/
def State.lineBusy (s : State) (asid va len : Nat) : Bool :=
  s.v.reqs.any (fun p => p.2.stage != .home && p.2.attr.home < 2 && p.2.asid == asid && p.2.va < va + len && va < p.2.va + p.2.size)

/-- Requests for a range that a home or shard has taken stand before their home again: it orders them after what happens to the range
now (R136, R137). -/
def State.resend (s : State) (asid va len : Nat) : State :=
  s.setReqs (Tab.mapv s.v.reqs (fun q =>
    if q.stage != .home && q.asid == asid && q.va < va + len && va < q.va + q.size then
      { q with
        stage := .home
        data := [] }
    else q))

/-- The share of a line is being retired: requests for the line wait (R128). -/
def State.lineRetiring (s : State) (l : Line) : Bool := s.m.retiring.any (fun p => p.1 == 16 * l.bank + l.way)

def Need.ask (need : Need) (wpol : Nat) : DirAsk := if need.own && wpol == 0 then .own else if need.write then .write else .read

/-- A request arrives at the controller of its frame: it is made there, or its line is to be filled. Data of another package's
frame comes with the answer; this package's own memory is read when the line is installed. -/
def State.controllerStage (s : State) (q : Req) (need : Need) (direct : Bool) (given : List Byte) : State × Staged :=
  let pa := q.attr.frame + (q.va - q.attr.va)
  if s.paClass pa == .unbacked then (s, .fault .unbacked)
  else
    let s0 := if direct then s.recallHolders pa q.size need.write none given else s.askController pa q.size q.asid q.va need.write given
    let bad := match s0.paClass pa with | .memory off => s0.poisonedAt off q.size | _ => false
    if bad && !(need.full && !need.read) then (s0, .poisoned)
    else if direct then (s0, .serve (.ctrl pa q.va))
    else
      match s0.paClass pa with
      | .remote _ _ => let r := s0.ctrlRead (fun _ => 0) pa q.size given; (r.2, .go { q with stage := .fill, data := r.1 })
      | _ => (s0, .go { q with stage := .fill, data := [] })

/-- The line of a request is read from memory, as it stands when the line is installed: its first address and bytes; none where
it is poisoned. -/
def State.fillData (s : State) (q : Req) (size : Nat) (need : Need) : State × Option (Nat × List Byte) :=
  let base := q.va / size * size
  let pa := q.attr.frame + (base - q.attr.va)
  let s1 := s.drain q.asid base size
  match s1.paClass pa with
  | .memory off =>
    let s2 := s1.recallHolders pa size need.write none []
    if s2.poisonedAt off size then
      (s2, if need.full && !need.read && size = q.size then some (base, bytesOf size 0) else none)
    else (s2, some (base, s2.physBytes off size))
  | _ =>
    if q.data.length = size then (s1, some (base, q.data))
    else let r := s1.supplied [] size; (r.2, some (base, r.1))

/-- One stage of a request of an agent. `given` is what another package or a device supplies. That an atomic or RED to an absent line of
a write-around Tarn allocates the line, as a load does, is the model's choice: R112 speaks of stores (assumption log 54). -/
def State.stage (s : State) (agent : Nat) (c : Ctx) (q : Req) (need : Need) (given : List Byte) : State × Staged :=
  let a := q.attr
  let d := s.tdb a.tarn
  let asker := if hostAgent agent then some agent else none
  match q.stage with
  | .home =>
    if !s.translating then (s, .fault .notValid)
    else if a.home = 2 then (s, .go { q with stage := .shard })
    else if a.home = 3 then
      if !need.inst && (s.copyAt agent false q.asid q.va).isSome then (s, .serve .l1) else (s, .go { q with stage := .shard })
    else if tdbState d = 3 then (s, .fault .attr)
    else if tdbWpol d = 3 && need.write then (s, .fault .readOnly)
    else if s.lineBusy q.asid q.va q.size then (s, .hold)
    else match s.lineAt a.tarn q.asid q.va with
      | some l =>
        let pa := a.frame + (q.va - a.va)
        if s.lineRetiring l then (s, .hold)
        else if need.write && !l.dirty && !s.ownMemory pa then (s, .go { q with stage := .shard })
        else
          let s1 := if need.write && !l.dirty then s.recallHolders pa q.size true none [] else s
          let s2 := s1.snoopHarts q.asid l.va l.data.length asker need.write
          ((s2.touch l).dirNote (l.bank / 16) q.asid l.va l.data.length agent (need.ask (tdbWpol d)), .serve .home)
      | none =>
        match s.spotOf a.tarn q.asid q.va with
        | .attrFault => (s, .fault .attr)
        | _ => (s, .go { q with stage := .shard })
  | .shard => s.shardStage c q need 4
  | .controller =>
    let direct := a.home = 2 || (a.home = 3 && (need.inst || !hasCache agent))
      || (a.home < 2 && (s.lineAt a.tarn q.asid q.va).isNone && (s.spotOf a.tarn q.asid q.va == .direct || (tdbWpol d == 2 && need.write && !need.read)))
    s.controllerStage q need direct given
  | .fill =>
    if a.home = 3 then
      if (s.copyAt agent false q.asid q.va).isSome then (s, .serve .l1)
      else
        match s.fillData q q.size need with
        | (s1, none) => (s1, .poisoned)
        | (s1, some (base, data)) => (s1.addCopy ⟨agent, false, a, base, data.length, data, false⟩, .serve .l1)
    else if s.paClass (a.frame + (q.va - a.va)) == .unbacked then (s, .fault .unbacked)
    else match s.lineAt a.tarn q.asid q.va with
    | some l =>
      let s1 := s.snoopHarts q.asid l.va l.data.length asker need.write
      ((s1.touch l).dirNote (l.bank / 16) q.asid l.va l.data.length agent (need.ask (tdbWpol d)), .serve .home)
    | none => match s.spotOf a.tarn q.asid q.va with
      | .bank b set pin =>
        match s.fillData q (tdbLine d) need with
        | (s1, none) => (s1, .poisoned)
        | (s1, some (base, data)) =>
          ((s1.install a.tarn q.asid base b set pin data).dirNote (b / 16) q.asid base data.length agent (need.ask (tdbWpol d)),
            .serve .home)
      | .direct => (s, .serve (.ctrl (a.frame + (q.va - a.va)) q.va))
      | .attrFault => (s, .fault .attr)

/-- Every remaining stage of a request at once. -/
def State.stages (s : State) (agent : Nat) (c : Ctx) (need : Need) : Nat → Req → State × Staged
  | 0, q => (s, .go q)
  | n + 1, q =>
    match s.stage agent c q need [] with
    | (s1, .go q') => State.stages s1 agent c need n q'
    | r => r

/-- A request for the line of an address. -/
def State.newReq (s : State) (op asid va : Nat) (a : Attr) (lanes : List Nat) : Req :=
  let size := s.lineSize a asid va
  ⟨op, asid, va / size * size, size, lanes, .home, a, false, []⟩

/-! ## Bytes where a request is served -/

def spliceBytes (old : List Byte) (at_ : Nat) (new : List Byte) : List Byte :=
  old.take at_ ++ new ++ old.drop (at_ + new.length)

/-- Read bytes of one line where the request is served. -/
def State.readAt (s : State) (regs : Nat → Nat) (agent : Nat) (a : Attr) (w : Where) (asid va n : Nat) (given : List Byte) :
    List Byte × State :=
  match w with
  | .home =>
    match s.lineAt a.tarn asid va with
    | some l => (s.overlays asid va ((l.data.drop (va - l.va)).take n), s)
    | none => (bytesOf n 0, s)
  | .ctrl pa va0 => let r := s.ctrlRead regs (pa + (va - va0)) n given; (s.overlays asid va r.1, r.2)
  | .l1 =>
    match s.copyAt agent false asid va with
    | some c => (s.overlays asid va ((c.data.drop (va - c.va)).take n), s)
    | none => (bytesOf n 0, s)
  | .zero => (bytesOf n 0, s)

/-- The home slice at which a line of a HOME 0 or 1 page is served, present or not; none where it is served as HOME 2. -/
def State.slicePlace (s : State) (a : Attr) (asid va : Nat) : Option Nat :=
  match s.lineAt a.tarn asid va with
  | some l => some (l.bank / 16)
  | none =>
    match s.spotOf a.tarn asid va with
    | .bank b _ _ => some (b / 16)
    | _ => none

/-- An access that an agent's own caches serve: a read that hits a copy, or a write that hits a copy it holds modified (R101
stage 1). -/
def State.cacheHit (s : State) (agent : Nat) (inst : Bool) (a : Attr) (asid va : Nat) (write : Bool) : Bool :=
  a.home < 2 && (s.lineAt a.tarn asid va).isSome
    && (match s.copyAt agent inst asid va with | some c => !write || c.dirty | none => false)

/-- A cache takes a copy of a line that its home served: shared after a read, and after a write to a write-back Tarn modified,
which makes its agent the line's owner (R96, R130, R131). -/
def State.keepLine (s : State) (agent : Nat) (inst : Bool) (a : Attr) (w : Where) (asid va : Nat) (wrote : Bool) : State :=
  if a.home < 2 && w == .home && (!wrote || tdbWpol (s.tdb a.tarn) == 0) then
    match s.lineAt a.tarn asid va with
    | none => s
    | some l =>
      if (s.copyAt agent inst asid va).isNone then s.addCopy ⟨agent, inst, a, l.va, l.data.length, [], wrote⟩ else s
  else s

/-- Write bytes of one line where the request is served, under the Tarn's write policy (R112). `own` is the thread that
writes, or 512 + hart for a host core, for dooming. -/
def State.writeAt (s : State) (who : Writer) (agent : Nat) (a : Attr) (w : Where) (asid va : Nat) (data : List Byte)
    (own : Option Nat) : State :=
  let s := s.setMem { s.m with images := cutImages s.m.images asid va data.length }
  match w with
  | .home =>
    match s.lineAt a.tarn asid va with
    | some l =>
      let s1 := s.noteWrite (some (l.bank / 16)) asid va data.length own
      let wb := tdbWpol (s.tdb a.tarn) == 0
      let s2 := s1.updLine l (fun x => { x with data := spliceBytes x.data (va - x.va) data, dirty := x.dirty || wb })
      if wb then s2
      else
        let s3 := s2.drain asid l.va l.data.length
        match s3.translate true asid va with
        | (s4, .ok t) => s4.ctrlWrite who (t.frame + (va - t.va)) data
        | (s4, .error _) => s4.reclaimRecord l.va 0 asid 0 1
    | none => s
  | .ctrl pa va0 =>
    let s1 := if a.home < 2 then s.noteWrite (s.slicePlace a asid va) asid va data.length own else s
    s1.ctrlWrite who (pa + (va - va0)) data
  | .l1 =>
    s.setMem { s.m with copies := s.m.copies.map (fun c =>
      if c.agent == agent && !c.inst && c.attr.asid == asid && c.va ≤ va && va < c.va + c.size
      then { c with data := spliceBytes c.data (va - c.va) data, dirty := true } else c) }
  | .zero => s

end Sys2Proof.Machine
end

