-- ==== Sys2Proof/Machine/Access.lean ====
section
/-! DEFINITION. Reads of device registers (R453, R454), whole accesses made at once by units and hosts, and the fetch of
code lines (R146 to R148, R176). -/

namespace Sys2Proof.Machine

open Sys2Proof

/-- SYS.COMM after reset: TIMEOUT 0x00C8 (R466). -/
def commReset : Dword := 0x00C800000000

/-- SYS.LANEMAP of a core (R53). -/
def CoreSt.laneMap (c : CoreSt) : Nat := c.mode * 2 ^ 24 + min c.nfail 7 * 2 ^ 16 + c.skipB * 256 + c.skipA

/-- What a read of a device register gives, by offset (R453). -/
def State.regRead (s : State) (off : Nat) : Nat :=
  let i := off / 8
  if off < 0x70 then
    match i with
    | 0 => s.r.asidTab.toNat
    | 1 => s.r.tdbBase.toNat
    | 2 => s.r.shareRet.toNat
    | 3 => s.r.inletTab.toNat
    | 4 => s.r.faultq.toNat
    | 6 => s.r.slice.toNat
    | 7 => s.r.gangctl.toNat
    | 8 => s.r.reclaim.toNat
    | 9 => s.r.intr.toNat
    | 10 => s.r.present * 2 ^ 24 + s.r.alive * 2 ^ 16 + s.r.linkUp * 256 + s.r.pkg
    | 11 => s.r.world.toNat
    | 12 => s.r.powercap.toNat
    | 13 => (if s.r.ctxBusy.isEmpty then 0 else 2 ^ 63) + s.r.ctxStatus * 2 ^ 56
    | _ => 0
  else if 0x80 ≤ off && off < 0xC0 then (Tab.get s.r.secRange ((off - 0x80) / 8) 0).toNat
  else if 0x100 ≤ off && off < 0x168 then Tab.get s.r.memlat ((off - 0x100) / 8) 0
  else if 0x200 ≤ off && off < 0x280 then (Tab.get s.r.other off commReset).toNat
  else if 0x300 ≤ off && off < 0x320 then (Tab.get s.r.dieCtl ((off - 0x300) / 8) 0).toNat
  else if 0x340 ≤ off && off < 0x3A0 then (Tab.get s.r.stackCtl ((off - 0x340) / 8) 0).toNat
  else if 0x3A0 ≤ off && off < 0x3C0 then (Tab.get s.r.other off 0).toNat
  else if 0x800 ≤ off && off < 0xC00 then (Tab.get s.r.other off 0).toNat
  else if 0x2000 ≤ off && off < 0x4000 then
    let a := (off - 0x2000) / 8
    s.c3Used a * 2 ^ 32 + Tab.get s.r.c3budget a 0xFFFF
  else if 0x10000 ≤ off && off < 0x18000 then
    let c := s.coreOf ((off - 0x10000) / 64)
    match off % 64 with
    | 0 => c.asid
    | 8 => c.coveAge
    | 16 => c.laneMap
    | _ => 0
  else if 0x20000 ≤ off && off < 0x21000 then
    let h := s.hart ((off - 0x20000) / 64)
    match off % 64 with
    | 0 => (Tab.get h.csrs 0x5C0 0).toNat
    | 8 => if h.running then 2 ^ 63 else 0
    | _ => 0
  else 0

/-- Why a whole access fails. -/
inductive MemErr where
  | page (k : Kind) (va : Nat)
  | poisoned (va : Nat)
  /-- Its home holds it: for the holder of the commit lock (R345), for a transaction that is being published (R340), behind a
  request for the line that it accepted earlier (R136), or while the line's share is retired (R128). The access waits. -/
  | held
  deriving DecidableEq, Repr

/-- Who makes an access: agent, context, whether as controller, and the number that dooming knows it by. -/
structure Agent where
  id : Nat
  ctx : Ctx
  own : Option Nat
  deriving DecidableEq, Repr

def Agent.writer (g : Agent) : Writer := ⟨g.id == 720, g.ctx.secure⟩

/-- The checks of R83 and R97 for an address, asking the shard where the attributes are not at hand or do not allow the
access (R96). -/
def State.checkAddr (s : State) (g : Agent) (va : Nat) (acc : Access) (inst : Bool) : State × Except Kind Attr :=
  if 2 ^ 57 ≤ va then (s, .error .nonCanon)
  else
    let asid := nameAsid g.ctx.asid va
    match s.knownAttr g.id inst asid va with
    | some a => if (s.permit g.ctx a acc).isNone then (s, .ok a) else s.askAttr g.id g.ctx asid va acc
    | none => s.askAttr g.id g.ctx asid va acc

/-- The pieces of a range, one for each line-sized part of `step` bytes. -/
def pieces (va len step : Nat) : List (Nat × Nat) :=
  if len = 0 then []
  else (List.range ((va + len - 1) / step - va / step + 1)).map (fun i =>
    let lo := max va ((va / step + i) * step)
    let hi := min (va + len) ((va / step + i + 1) * step)
    (lo, hi - lo))

/-- Read one piece that lies in one line. -/
def State.readPiece (s : State) (g : Agent) (acc : Access) (va n : Nat) : State × Except MemErr (List Byte) :=
  match s.checkAddr g va acc false with
  | (s1, .error k) => (s1, .error (.page k va))
  | (s1, .ok a) =>
    let asid := nameAsid g.ctx.asid va
    let host := hostAgent g.id
    if host && s1.cacheHit g.id false a asid va false then
      let r := s1.readAt s1.regRead g.id a .home asid va n []
      (r.2, .ok r.1)
    else
      match (s1.countDemand g.id g.ctx a).stages g.id g.ctx Need.load 6 (s1.newReq 0 asid va a []) with
      | (s2, .serve w) =>
        if s2.ticketHolds asid va n g.own then (s2, .error .held)
        else
          let r := s2.readAt s2.regRead g.id a w asid va n []
          (if host then r.2.keepLine g.id false a w asid va false else r.2, .ok r.1)
      | (s2, .fault k) => (s2, .error (.page k va))
      | (s2, .poisoned) => (s2, .error (.poisoned va))
      | (s2, .hold) => (s2, .error .held)
      | (s2, .go _) => (s2, .error (.page .attr va))

/-- Read the pieces of a range in order. -/
def State.readPieces (s : State) (g : Agent) (acc : Access) : List (Nat × Nat) → State × Except MemErr (List Byte)
  | [] => (s, .ok [])
  | p :: t =>
    match s.readPiece g acc p.1 p.2 with
    | (s1, .error e) => (s1, .error e)
    | (s1, .ok b) =>
      match State.readPieces s1 g acc t with
      | (s2, .error e) => (s2, .error e)
      | (s2, .ok c) => (s2, .ok (b ++ c))

/-- A whole read by a unit or host: 64-byte pieces. -/
def State.load (s : State) (g : Agent) (va n : Nat) : State × Except MemErr (List Byte) :=
  s.readPieces g .read (pieces va n 64)

/-- A write of one piece: `full` says that the access writes every byte of the line, which clears its poison (R142). -/
def State.writePiece (s : State) (g : Agent) (va : Nat) (data : List Byte) (full : Bool) : State × Except MemErr Unit :=
  match s.checkAddr g va .write false with
  | (s1, .error k) => (s1, .error (.page k va))
  | (s1, .ok a) =>
    let asid := nameAsid g.ctx.asid va
    let host := hostAgent g.id
    let q := s1.newReq 0 asid va a []
    match if host && s1.cacheHit g.id false a asid va true then (s1, .serve .home) else (s1.countDemand g.id g.ctx a).stages g.id g.ctx (Need.store full host) 6 q with
    | (s2, .serve w) =>
      if s2.heldForLock (s2.slicePlace a asid va) asid va data.length g.own || s2.ticketHolds asid va data.length g.own then
        (s2, .error .held)
      else
        let s3 := s2.writeAt g.writer g.id a w asid va data g.own
        let s4 := if full then s3.cleanLine a asid q.va q.size else s3
        (if host then s4.keepLine g.id false a w asid va true else s4, .ok ())
    | (s2, .fault k) => (s2, .error (.page k va))
    | (s2, .poisoned) => (s2, .error (.poisoned va))
    | (s2, .hold) => (s2, .error .held)
    | (s2, .go _) => (s2, .error (.page .attr va))

/-- Write the pieces of a range in order, stopping at the first failure. -/
def State.writePieces (s : State) (g : Agent) (full : Bool) : List (Nat × Nat) → List Byte → State × Except MemErr Unit
  | [], _ => (s, .ok ())
  | p :: t, data =>
    match s.writePiece g p.1 (data.take p.2) full with
    | (s1, .error e) => (s1, .error e)
    | (s1, .ok _) => State.writePieces s1 g full t (data.drop p.2)

/-- A whole write by a unit or host. -/
def State.store (s : State) (g : Agent) (va : Nat) (data : List Byte) : State × Except MemErr Unit :=
  s.writePieces g false (pieces va data.length 64) data

/-- What an access would meet on its way, its page being allowed, without being made: a page fault, or poison. -/
def State.checkWay (s : State) (g : Agent) (a : Attr) (acc : Access) (va : Nat) : Option MemErr :=
  let q := s.newReq 0 (nameAsid g.ctx.asid va) va a []
  let need := match acc with | .write => Need.store false (hostAgent g.id) | .both => Need.update | _ => Need.load
  match (s.stages g.id g.ctx need 6 q).2 with
  | .fault k => some (.page k va)
  | .poisoned => some (.poisoned va)
  | _ => none

/-- Check the parts of a range for an access without making it; the first that fails is the lowest (R493). -/
def State.checkRange (s : State) (g : Agent) (acc : Access) : List (Nat × Nat) → State × Option MemErr
  | [] => (s, none)
  | p :: t =>
    match s.checkAddr g p.1 acc false with
    | (s1, .error k) => (s1, some (.page k p.1))
    | (s1, .ok a) =>
      match s1.checkWay g a acc p.1 with
      | some e => (s1, some e)
      | none => State.checkRange s1 g acc t

/-! ## Fetch (R146, R148, R176) -/

/-- A fetch of the 64 bytes of a line by a vector core: EXEC is required, a discarded page gives zero, a poisoned line faults, and a
line that belongs to a commit under way is held at its home (R340). -/
def State.fetch (s : State) (core : Nat) (c : Ctx) (line : Nat) : State × Except MemErr (BitVec 512) :=
  let g : Agent := ⟨core, c, none⟩
  match s.checkAddr g line .exec true with
  | (s1, .error k) => (s1, .error (.page k line))
  | (s1, .ok a) =>
    let asid := nameAsid c.asid line
    let hit := s1.cacheHit core true a asid line false
    match if hit then (s1, .serve .home) else (s1.countDemand core c a).stages core c Need.fetch 6 (s1.newReq 0 asid line a []) with
    | (s2, .serve w) =>
      if !hit && s2.ticketHolds asid line 64 none then (s2, .error .held)
      else
        let r := s2.readAt s2.regRead core a w asid line 64 []
        (r.2.keepLine core true a w asid line false, .ok (BitVec.ofNat 512 (ofBytes r.1)))
    | (s2, .fault k) => (s2, .error (.page k line))
    | (s2, .poisoned) => (s2, .error (.poisoned line))
    | (s2, .hold) => (s2, .error .held)
    | (s2, .go _) => (s2, .error (.page .attr line))

/-- The core drops its instruction-cache copies of a line (R148). -/
def State.dropInst (s : State) (core asid va : Nat) : State :=
  s.dropCopies (fun c => c.agent == core && c.inst && c.attr.asid == asid && c.va ≤ va && va < c.va + c.size)

/-- What the check of a transfer's target finds (R152). -/
inductive TargetCheck where
  | ok
  | illegal
  | page (k : Kind) (line : Nat)
  | poisoned (line : Nat)
  /-- The fetch of its line waits. -/
  | hold
  deriving DecidableEq, Repr

/-- The TARGETS bit of a target in its fetched line (R147). -/
def targetBit (b : BitVec 512) (p : Nat) : TargetCheck := if bit (lineTargets b) (slotNo p) then .ok else .illegal

/-- The check of R152 for a target; none is a target that the offset or the table does not form. A line whose parity fails is
fetched again first; where the second copy fails too there is no bit to check, and entering the line takes PARITY (R178; that this
is how row 2 of R178 meets a branch is the model's reading, assumption log 40). -/
def State.checkTarget (s : State) (core : Nat) (c : Ctx) (tgt : Option Nat) : State × TargetCheck :=
  match tgt with
  | none => (s, .illegal)
  | some p =>
    if !pcForm p then (s, .illegal)
    else
      match s.fetch core c (lineOf p) with
      | (s1, .error (.page k l)) => (s1, .page k l)
      | (s1, .error (.poisoned l)) => (s1, .poisoned l)
      | (s1, .error .held) => (s1, .hold)
      | (s1, .ok b) =>
        if lineParityOk b then (s1, targetBit b p)
        else
          match (s1.dropInst core (nameAsid c.asid p) (lineOf p)).fetch core c (lineOf p) with
          | (s2, .error (.page k l)) => (s2, .page k l)
          | (s2, .error (.poisoned l)) => (s2, .poisoned l)
          | (s2, .error .held) => (s2, .hold)
          | (s2, .ok b2) => (s2, if lineParityOk b2 then targetBit b2 p else .ok)

end Sys2Proof.Machine
end

