-- ==== Sys2Proof/Machine/Units.lean ====
section
/-! DEFINITION. What the flow units do by themselves: the Weir's accesses and the done step (R391, R395, R398, R401, R402),
Stillwater's domains (R410), and channels (R413). -/

namespace Sys2Proof.Machine

open Sys2Proof

def State.setFlow (s : State) (f : Flow) : State := { s with f := f }
def State.updWeir (s : State) (e : Nat) (h : Weir → Weir) : State := s.setFlow { s.f with weirs := Tab.upd s.f.weirs e h }
def State.updList (s : State) (n : Nat) (h : InletList → InletList) : State := s.setFlow { s.f with lists := Tab.upd s.f.lists n h }

/-! ## Stillwater (R410) -/

/-- Hold count and EPOCH of a domain. -/
def State.domain (s : State) (d : Nat) : Nat × Nat := Tab.get s.f.domains d (0, 0)

/-- A domain is BUSY. -/
def State.domainBusy (s : State) (d : Nat) : Bool :=
  0 < (s.domain d).1
    || s.f.lists.any (fun p => p.2.domain == some d && (0 < p.2.count || 0 < p.2.inHand))
    || s.f.weirs.any (fun p => p.2.domain == some d && p.2.state != .free)

/-- Domains that something names. -/
def State.namedDomains (s : State) : List Nat :=
  (Tab.keys s.f.domains ++ s.f.lists.filterMap (fun p => p.2.domain) ++ s.f.weirs.filterMap (fun p => p.2.domain)).eraseDups

/-- EPOCH rises at each change from BUSY to QUIET: `s0` is the state before the event, `s` the one after. A change that has
been counted already is not counted again. -/
def State.stilled (s0 s : State) : State :=
  (s0.namedDomains.filter (fun d => s0.domainBusy d && !s.domainBusy d && (s0.domain d).2 == (s.domain d).2)).foldl (fun s d =>
    let v := s.domain d
    s.setFlow { s.f with domains := Tab.set s.f.domains d (v.1, (v.2 + 1) % 2 ^ 32) }) s

/-! ## The Weir -/

def weirNone : Nat := 0xFFFFFF

/-- The body number in slot `j` of a record (R393). -/
def bodyAt (rec_ : List Byte) (j : Nat) : Nat := ofBytes ((rec_.drop (3 * j)).take 3)

/-- The slots of a record that name a body, each body once: slot and body. -/
def bodySlots (rec_ : List Byte) : List (Nat × Nat) :=
  (List.range 4).filterMap (fun j =>
    let b := bodyAt rec_ j
    if b = weirNone || (List.range j).any (fun i => bodyAt rec_ i == b) then none else some (j, b))

/-- The agent as which the Weir that holds a context accesses memory (R391, R460). -/
def Weir.agent (w : Weir) : Agent := ⟨712 + (match w.place with | some p => p.1 | none => 0), ⟨w.asid, w.priv, w.secure, 0⟩, none⟩

def Weir.entryVa (w : Weir) (seq : Nat) : Nat := w.ringBase + 32 * (seq % 2 ^ w.ringLog)
def Weir.bodyVa (w : Weir) (b : Nat) : Nat := w.bodyBase + 8 * b

/-- The context becomes FAULTED (R402). -/
def State.weirFault (s : State) (e : Nat) : State := s.updWeir e (fun w => { w with state := .faulted })

/-- The context becomes FREE. -/
def State.weirFree (s : State) (e : Nat) : State :=
  s.updWeir e (fun w => { w with state := .free, place := none, pending := [], domain := none })

/-- What a unit's own access comes to: its result; `error true` where its home holds it, so that the unit waits with nothing
done (R340, R345, R136); `error false` where it faults or meets poison (R402, R405). -/
abbrev Own (α : Type) := Except Bool α

def ownErr (e : MemErr) : Bool := match e with | .held => true | _ => false

/-- One of a unit's own reads. -/
def State.ownLoad (s : State) (g : Agent) (va n : Nat) : State × Own (List Byte) :=
  match s.load g va n with
  | (s1, .ok b) => (s1, .ok b)
  | (s1, .error e) => (s1, .error (ownErr e))

/-- One of a unit's own writes. -/
def State.ownStore (s : State) (g : Agent) (va : Nat) (b : List Byte) : State × Own Unit :=
  match s.store g va b with
  | (s1, .ok _) => (s1, .ok ())
  | (s1, .error e) => (s1, .error (ownErr e))

/-- HEAD and TAIL of each listed body. -/
def State.weirHeads (s : State) (w : Weir) : List Nat → State × Own (List (Nat × Nat × Nat))
  | [] => (s, .ok [])
  | b :: t =>
    match s.ownLoad w.agent (w.bodyVa b) 8 with
    | (s1, .error x) => (s1, .error x)
    | (s1, .ok v) =>
      match State.weirHeads s1 w t with
      | (s2, .error x) => (s2, .error x)
      | (s2, .ok r) => (s2, .ok ((b, ofBytes (v.take 4), ofBytes (v.drop 4)) :: r))

/-- Write HEAD and TAIL of bodies in order. -/
def State.weirPutFrom (s : State) (w : Weir) : List (Nat × Nat × Nat) → State × Own Unit
  | [] => (s, .ok ())
  | (b, h, t) :: r =>
    match s.ownStore w.agent (w.bodyVa b) (bytesOf 4 h ++ bytesOf 4 t) with
    | (s1, .ok _) => State.weirPutFrom s1 w r
    | (s1, .error x) => (s1, .error x)

/-- Write HEAD and TAIL of bodies in one step: all of them, or none where an access faults (R398, R402, R416). -/
def State.weirPut (s : State) (w : Weir) (l : List (Nat × Nat × Nat)) : State × Own Unit :=
  match s.weirPutFrom w l with
  | (s1, .ok _) => (s1, .ok ())
  | (_, .error x) => (s, .error x)

/-- A CLOSED context without a pending constraint becomes FREE (R388, R401). -/
def State.weirSettle (s : State) (e : Nat) : State :=
  match Tab.look s.f.weirs e with
  | some w => if w.state == .closed && w.pending.isEmpty then s.weirFree e else s
  | none => s

/-- A failed own access of a Weir: none where it is held, else the context becomes FAULTED (R402). -/
def State.weirFailed (s : State) (e : Nat) (held : Bool) : Option State := if held then none else some (s.weirFault e)

/-- A constraint is done: the HEAD of each of its bodies rises by 1 in one step (R398); a fault makes the context FAULTED
(R402). None: an access is held, and nothing is done. -/
def State.weirDone (s : State) (e seq : Nat) : Option State :=
  match Tab.look s.f.weirs e with
  | none => some s
  | some w =>
    if w.state == .free || w.state == .faulted || !w.pending.any (fun p => p.1 == seq) then some s
    else
      match s.ownLoad w.agent (w.entryVa seq) 16 with
      | (s1, .error x) => s1.weirFailed e x
      | (s1, .ok rec_) =>
        match s1.weirHeads w ((bodySlots rec_).map Prod.snd) with
        | (s2, .error x) => s2.weirFailed e x
        | (s2, .ok hs) =>
          match s2.weirPut w (hs.map (fun p => (p.1, (p.2.1 + 1) % 2 ^ 32, p.2.2))) with
          | (s3, .error x) => s3.weirFailed e x
          | (s3, .ok _) =>
            some ((s3.updWeir e (fun w => { w with pending := w.pending.filter (fun p => p.1 != seq) })).weirSettle e)

/-- Constraints are done in order; none where an access is held. -/
def State.weirDones (s : State) : List (Nat × Nat) → Option State
  | [] => some s
  | q :: t =>
    match s.weirDone q.1 q.2 with
    | none => none
    | some s1 => State.weirDones s1 t

/-- Every constraint that a thread has in hand is done (R398: its slot is freed after EXIT). None: an access is held. -/
def State.weirRelease (s : State) (key : Nat) : Option State :=
  let mine := s.f.weirs.flatMap (fun p => (p.2.pending.filter (fun c => c.2 == some key)).map (fun c => (p.1, c.1)))
  (s.weirDones mine).map s.stilled

/-- The contexts of a grid are killed (R401, R421). -/
def State.weirKill (s : State) (launch : Nat) : State :=
  let mine := (s.f.weirs.filter (fun p => p.2.launch == launch && p.2.state != .free)).map Prod.fst
  s.stilled (mine.foldl State.weirFree s)

/-! ## Channels (R413) -/

def chanKey (gang k : Nat) : Nat := gang * 16 + k

/-- A gang's channels are dropped. -/
def State.dropChans (s : State) (gang : Nat) : State :=
  s.setFlow { s.f with chans := s.f.chans.filter (fun p => p.1 / 16 != gang) }

end Sys2Proof.Machine
end

