-- ==== Sys2Proof/Machine/Ops.lean ====
section
/-! DEFINITION. Named operations over threads, groups and blocks: parking, coves and filing, taking a trap and returning
from one, aborting a transaction, regrouping, outstanding instructions, exits, kills and fault reports. -/

namespace Sys2Proof.Machine

open Sys2Proof

/-! ## Groups and records (R29 to R33, R47) -/

/-- Groups of a block. -/
def State.groupsOfBlock (s : State) (blk : Nat) : List (Nat × Group) := s.v.groups.filter (fun p => p.2.block == blk)

/-- Groups, coves included, whose block is resident on a core. -/
def State.groupsOfCore (s : State) (core : Nat) : List (Nat × Group) :=
  s.v.groups.filter (fun p => match s.block? p.2.block with | some b => b.core == some core | none => false)

/-- The block is resident and no save of it has begun. -/
def State.live (s : State) (blk : Nat) : Bool := match s.block? blk with | some b => b.core.isSome && !b.saving | none => false

/-- Outstanding instructions of a group. -/
def State.opsOfGroup (s : State) (gid : Nat) : List (Nat × Op) := s.v.ops.filter (fun p => p.2.group == gid)

/-- The wait of R35: every flag is zero, and every instruction that the group issued has completed, those that count on no flag
included. -/
def State.groupIdle (s : State) (gid : Nat) (g : Group) : Bool := g.flagsClear && (s.opsOfGroup gid).isEmpty

/-- Free group records of a core, ascending (R29, R32). -/
def State.freeRecords (s : State) (core : Nat) : List Nat :=
  let used := (s.groupsOfCore core).map (fun p => p.2.record)
  (List.range 96).filter (fun r => !used.contains r)

def State.covesInUse (s : State) (core : Nat) : Nat := ((s.groupsOfCore core).filter (fun p => p.2.st == .cove)).length

/-- A group issued or left READY: the release conditions that name it are met in that part (R203). -/
def State.noteLeft (s : State) (gid : Nat) : State :=
  s.setGroups (Tab.mapv s.v.groups (fun g =>
    if g.releases.isEmpty && g.plan.isNone then g
    else
      { g with
        releases := g.releases.map (fun r => { r with groups := r.groups.filter (fun x => x != gid) })
        plan := g.plan.map (fun p => { p with yield := p.yield.map (fun y => (y.1.filter (fun x => x != gid), y.2)) }) }))

/-- Park a group on a condition: it moves to the Backwater (R47). -/
def State.park (s : State) (gid : Nat) (p : Park) : State :=
  (s.updGroup gid (fun g =>
    { g with parks := if g.parks.contains p then g.parks else g.parks ++ [p]
             st := if g.st == .ready then .backwater else g.st })).noteLeft gid

/-- Conditions that hold a group end; it returns to READY when none is left (R47). -/
def State.unpark (s : State) (gid : Nat) (q : Park → Bool) : State :=
  s.updGroup gid (fun g =>
    let ps := g.parks.filter (fun p => !q p)
    if g.st == .backwater && ps.isEmpty then { g with parks := ps, st := .ready, since := s.clock } else { g with parks := ps })

/-- The window bounds of a block for a new group (R31). -/
def Block.bounds (b : Block) : Nat × Nat := match b.window with | some w => (w.base, w.base + w.rows) | none => (0, 0)

/-- A group record with nothing in it. -/
def emptyGroup (blk record : Nat) (st : GroupState) (members : List Nat) (pc : Pc) (aw : Nat × Nat) (clock : Nat) : Group :=
  { block := blk, record, st, members, pc, whole := false, scalars := [], flags := [], owed := [], awbase := aw.1,
    awlimit := aw.2, line := none, refetch := false, parks := [], plan := none, awaited := [], since := clock, due := 0,
    releases := [], engineReset := false, laneFault := false, fresh := false }

/-- A cove becomes a READY group with the same record (R40, R31, R43). -/
def State.issueCove (s : State) (gid : Nat) : State :=
  s.updGroup gid (fun g =>
    let aw := match s.block? g.block with | some b => b.bounds | none => (0, 0)
    { emptyGroup g.block g.record .ready g.members g.pc aw s.clock with
      whole := g.members.length == 64, engineReset := g.engineReset, laneFault := g.laneFault })

/-- Complete (R40): every group of the block that still has a thread is parked on a block or stage barrier. -/
def State.coveComplete (s : State) (blk : Nat) : Bool :=
  (s.groupsOfBlock blk).all (fun p =>
    p.2.st == .cove || p.2.members.isEmpty
      || (p.2.st == .backwater && (p.2.parks.contains .barrier || p.2.parks.contains .stage)))

/-- A YIELD's condition is not yet met (R203). -/
def Release.open_ (now : Nat) (r : Release) : Bool := !r.groups.isEmpty && now < r.due

/-- A thread of the group waits for the fetch of its trap handler (R492). -/
def State.trapOwed (s : State) (g : Group) : Bool :=
  !g.awaited.isEmpty || g.members.any (fun k => (s.thread? k).any (fun t => t.owedTrap.isSome))

/-- Opcodes that make a matrix entry. -/
def isMatrix (op : Nat) : Bool := 0xC1 ≤ op && op ≤ 0xCB

/-- Recorded matrix entries of a block that have not been posted again: until they have, nothing of the block issues (R381). -/
def State.unposted (s : State) (blk : Nat) : List Nat :=
  (s.v.ops.filter (fun p => p.2.block == blk && isMatrix p.2.opc && p.2.posted.isNone && !p.2.lanes.isEmpty)).map Prod.fst

/-- A cove that nothing keeps from being issued. -/
def State.coveFree (s : State) (g : Group) : Bool :=
  g.st == .cove && !g.members.isEmpty && !s.trapOwed g && (s.unposted g.block).isEmpty

/-- A cove is to be issued: it is full, complete, released by its YIELDs, or its age timer has expired (R40, R41, R203). An
expiry takes effect at the end of its cycle: a thread that fills the cove in that cycle still counts (R56). -/
def State.coveDue (s : State) (g : Group) : Bool :=
  s.coveFree g &&
    (g.due < s.clock
      || (if g.releases.isEmpty then g.members.length == 64 || s.coveComplete g.block
          else !g.releases.any (Release.open_ s.clock)))

/-- Issue every cove of a resident block that is due (R40). -/
def State.checkCoves (s : State) (blk : Nat) : State :=
  match s.block? blk with
  | none => s
  | some b =>
    if b.core.isNone || b.saving then s
    else ((s.groupsOfBlock blk).filter (fun p => s.coveDue p.2)).foldl (fun s p => s.issueCove p.1) s

/-- The cycles up to the clock pass: coves whose age timers expired in them have been READY since then (R33, R40). `past` is the
clock before. -/
def State.ageCoves (s : State) (past : Nat) : State :=
  (s.v.groups.filter (fun p => s.coveFree p.2 && s.live p.2.block && p.2.due < s.clock)).foldl
    (fun s p => (s.issueCove p.1).updGroup p.1 (fun g => { g with since := max past p.2.due })) s

/-- The age timeout in force on a core (R39, R41, R42). -/
def State.ageTimeout (s : State) (core : Nat) : Nat := max 64 (s.coreOf core).coveAge

/-- Insert a thread in ascending lane order. -/
def insertMember (l : List Nat) (key : Nat) : List Nat := insertBy (fun k => k % 64) key l

/-- FileThread (R37): into the oldest cove of its key with its home lane empty, else into a new cove; none holds the
thread in its group. A cove whose age timer expires in this cycle takes only threads that fill it, `later` being filed after this
one at the same point (R56). Answers the cove. -/
def State.fileThread (s : State) (core key : Nat) (t : Thread) (later : List Nat) : Option (State × Nat) :=
  let joins (g : Group) : Nat := (later.filter (fun k =>
    (s.thread? k).any (fun u => u.pc == t.pc) && !g.members.any (fun m => m % 64 == k % 64))).length
  let same := (s.groupsOfBlock t.block).find? (fun p =>
    p.2.st == .cove && p.2.pc == t.pc && !p.2.members.any (fun k => k % 64 == t.lane)
      && (s.clock < p.2.due || 63 ≤ p.2.members.length + joins p.2))
  match same with
  | some p => some ((s.updGroup p.1 (fun g => { g with members := insertMember g.members key })), p.1)
  | none =>
    match s.freeRecords core with
    | r :: _ =>
      if s.covesInUse core < 64 then
        let n := s.newId
        let g := { emptyGroup t.block r .cove [key] t.pc (0, 0) s.clock with due := s.clock + s.ageTimeout core }
        some (n.2.setGroups (Tab.set n.2.v.groups n.1 g), n.1)
      else none
    | [] => none

/-! ## Fault reports (R441, R442, R444) -/

def laneMask (ls : List Nat) : Nat := maskOf ls

/-- Post a report. A fatal trap while EN is 0 leaves no record; every other report waits (R441). -/
def State.postReport (s : State) (type lanes addr blk group : Nat) (write : Bool) (code cause : Nat) (who : Awaiter) :
    State × Nat :=
  let n := s.newId
  match s.block? blk with
  | none => (s, 0)
  | some b =>
    match s.launchOf b with
    | none => (s, 0)
    | some l =>
      let r : Report := ⟨n.1, type, lanes, addr, handleOf b.launch l, l.record.asid, b.core.getD 0, group, write, code, cause, who, none, none⟩
      if type == 1 && !bit s.r.faultq.toNat 0 then (s, 0)
      else (n.2.setReports (n.2.l.reports ++ [r]), n.1)

/-- The page of an address in which a fault is reported (R198, R245). -/
def State.pageOf (s : State) (asid va : Nat) : Nat := let n := s.faultPage (nameAsid asid va) va; va / n * n

/-- Group the faulted lanes by what `unit` says of their addresses, the page or the line, and post one TYPE 0 record for each, with
the lowest lane's address and kind (R198, R245, R492). Answers the report numbers with their lanes. -/
def State.postFaults (s : State) (unit : Nat → Nat) (blk group : Nat) (write : Bool) (who : List Nat → Awaiter) :
    Nat → List (Nat × Nat × Kind) → State × List Awaited
  | 0, _ => (s, [])
  | _ + 1, [] => (s, [])
  | n + 1, (lane, addr, kind) :: rest =>
    let same := rest.filter (fun p => unit p.2.1 == unit addr)
    let other := rest.filter (fun p => unit p.2.1 != unit addr)
    let lanes := lane :: same.map (fun p => p.1)
    let r := s.postReport 0 (laneMask lanes) addr blk group write kind.code Cause.pageFault.code (who lanes)
    let t := State.postFaults r.1 unit blk group write who n other
    (t.1, ⟨r.2, lanes, kind, addr, none⟩ :: t.2)

/-! ## Transactions: ending an attempt (R344, R345) -/

/-- The signature pairs, the lock and the queue place of a thread go. -/
def State.clearTx (s : State) (key : Nat) : State :=
  { s with x := { s.x with
      sigs := s.x.sigs.filter (fun p => p.key != key)
      holder := if s.x.holder = some key then none else s.x.holder
      queue := s.x.queue.filter (fun p => p.2 != key)
      tickets := s.x.tickets.filter (fun t => t.host || t.key != key) } }

/-- The retry limit of a thread's launch (R344). -/
def State.retryLimit (s : State) (blk : Nat) : Nat := match s.record? blk with | some r => if r.retry = 0 then 8 else r.retry | none => 8

/-- Steps 2 to 4 of R344 for a thread whose abort is due: the snapshot returns; a retried cause keeps the transaction open
at depth 1, counted ones raise RETRIES up to the limit, at which the next attempt runs in lock mode (R345). -/
def abortThread (limit clock : Nat) (t : Thread) (cause : Abort) (code : Nat) (deliver : Bool) : Thread :=
  match t.tx with
  | none => t
  | some x =>
    let back : Thread := { t with regs := x.regs, preds := x.preds, draws := x.draws, lastAbort := (cause.code, code) }
    if cause.retried && !deliver then
      let counted := cause.counted && !(cause == .sigFull && x.lock)
      let retries := if counted then min limit (x.retries + 1) else x.retries
      let x' := { x with depth := 1, log := [], buf := [], doomed := false, ticket := none, pending := none
                         start := clock, retries, lock := x.lock || (counted && limit ≤ retries) }
      { back.setReg x.dreg 0 with tx := some x' }
    else
      let st := statusWord 0 false x.lock x.retries code cause.code
      { back.setReg x.dreg (BitVec.ofNat 32 st) with tx := none }

def State.abortNow (s : State) (key : Nat) (cause : Abort) (code : Nat) (deliver : Bool) : State :=
  match s.thread? key with
  | none => s
  | some t => (s.updThread key (fun _ => abortThread (s.retryLimit t.block) s.clock t cause code deliver)).clearTx key

/-- Step 2 of R344 by itself: the snapshot returns, and log, buffer, signature pairs and the commit lock go. The aborts of a group
have done it when the group begins to await an answer, with their transactions open at depth 1 (R345, R346). -/
def rollThread (t : Thread) : Thread :=
  match t.tx with
  | none => t
  | some x =>
    { t with
      regs := x.regs
      preds := x.preds
      draws := x.draws
      tx := some { x with
        depth := 1
        log := []
        buf := []
        doomed := false
        ticket := none } }

def State.rollBack (s : State) (key : Nat) : State := (s.updThread key rollThread).clearTx key

/-- The threads of an idle group whose transactions aborted stand at the end of step 2 of R344 while answers are awaited. -/
def State.rollAborts (s : State) (gid : Nat) : State :=
  match s.group? gid with
  | none => s
  | some g =>
    if g.awaited.isEmpty || !s.groupIdle gid g then s
    else g.members.foldl (fun s k =>
      match ((s.thread? k).bind (·.tx)).bind (·.pending) with
      | some _ => s.rollBack k
      | none => s) s

/-- Mark an abort that takes effect once the flags of the group are zero (R344). -/
def State.markAbort (s : State) (key : Nat) (cause : Abort) (code : Nat) : State :=
  s.updThread key (fun t => { t with tx := t.tx.map (fun x => { x with pending := some (cause, code) }) })

/-! ## Retirement and kills (R421, R422, R419) -/

/-- Blocks of a launch. -/
def State.blocksOf (s : State) (i : Nat) : List (Nat × Block) := s.v.blocks.filter (fun p => p.2.launch == i)

def LState.final (x : LState) : Bool := x == .done || x == .poisoned

/-- The grid's number of blocks. -/
def Record.total (r : Record) : Nat := r.gdimx * r.gdimy * r.gdimz

/-- A predecessor's final state reaches the entries that wait for it (R420), and waiting entries move on (R419). -/
def State.settleWaiting (s : State) (i gen : Nat) (final : LState) : State :=
  s.setLaunches (Tab.mapv s.l.launches (fun l =>
    let fin := (List.range 4).map (fun k =>
      if bit l.record.pvalid k && (l.predFinal.getD k none).isNone && l.record.preds.getD k 0 == gen * 256 + i
      then some final else l.predFinal.getD k none)
    let l1 := { l with predFinal := fin }
    if l1.state ≠ .waiting then l1
    else
      let bad := (List.range 4).any (fun k =>
        bit l.record.pvalid k && fin.getD k none == some .poisoned && !bit l.record.tolerant k)
      let ready := (List.range 4).all (fun k => !bit l.record.pvalid k || (fin.getD k none).isSome)
      if bad then { l1 with state := .poisoned } else if ready then { l1 with state := .queued } else l1))

/-- An entry that reached a final state is followed by its successors; those that this poisons are followed in turn. -/
def State.settleFinal (s : State) : Nat → Nat → State
  | 0, _ => s
  | n + 1, i =>
    match s.launch? i with
    | none => s
    | some l =>
      if !l.state.final then s
      else
        let s1 := s.settleWaiting i l.gen l.state
        let newly := s1.l.launches.filter (fun p =>
          p.2.state == .poisoned && (match s.launch? p.1 with | some o => o.state == .waiting | none => false))
        newly.foldl (fun s p => State.settleFinal s n p.1) s1

/-- What the end of a grid ends elsewhere: gang reservations, claims, Weir contexts (R421). -/
def State.endLaunchUnits (s : State) (i : Nat) : State :=
  State.weirKill
    { s with l := { s.l with gangs := s.l.gangs.filter (fun g => g.launch != i), claims := s.l.claims.filter (fun c => c.2 != i) } } i

/-- The state of an entry follows from its blocks (R419). -/
def State.refreshLaunch (s : State) (i : Nat) : State :=
  match s.launch? i with
  | none => s
  | some l =>
    if l.state.final || l.state == .waiting then s
    else
      let bs := s.blocksOf i
      let resident := bs.any (fun p => p.2.core.isSome)
      let saved := bs.any (fun p => p.2.core.isNone)
      let new : LState :=
        if resident then .running
        else if saved then .saved
        else if l.killed then .poisoned
        else if l.record.total ≤ l.next then .done
        else .queued
      let slice := if new == .running then l.slice else none
      let s1 := s.updLaunch i (fun l => { l with state := new, slice := slice })
      if new.final then (s1.endLaunchUnits i).settleFinal 256 i else s1

/-- The block at a position of the gang of an instruction's block, resident or saved (R269). -/
def State.receiver (s : State) (o : Op) (p : Nat) : Option (Nat × Block) :=
  match s.block? o.block with
  | none => none
  | some b => s.v.blocks.find? (fun x => x.2.launch == b.launch && x.2.gang == b.gang && x.2.gangPos == p)

/-- An instruction has a delivery into a block under way. -/
def State.delivers (s : State) (blk : Nat) (o : Op) : Bool :=
  (o.opc == 0x8D || o.opc == 0xC3) && (match o.move with
    | some m => m.busy.any (fun q => match s.receiver o q with | some r => r.1 == blk | none => false)
    | none => false)

/-- Some delivery into a block is under way. -/
def State.deliveryInto (s : State) (blk : Nat) : Bool := s.v.ops.any (fun p => s.delivers blk p.2)

/-- A block's last slot is freed: it retires (R49, R421); while a delivery into it is under way, its
scratchpad is not freed (R270). -/
def State.retireBlock (s : State) (blk : Nat) : State :=
  match s.block? blk with
  | none => s
  | some b =>
    if s.deliveryInto blk then s else
    let s1 := s.setBlocks (Tab.del s.v.blocks blk)
    let s2 := s1.setGroups (s1.v.groups.filter (fun p => p.2.block != blk))
    let s3 := s2.setThreads (s2.v.threads.filter (fun p => p.2.block != blk))
    let s4 := s3.setLocks (s3.v.locks.filter (fun k => k.block != some blk))
    let s5 := if s4.v.blocks.any (fun p => p.2.launch == b.launch && p.2.gang == b.gang) then s4 else s4.dropChans b.gang
    (s5.updLaunch b.launch (fun l => { l with retiredBlocks := l.retiredBlocks + 1 })).refreshLaunch b.launch

/-- Some outstanding posted store or delivery of a killed block still has to drain (R422). -/
def Op.drains (o : Op) : Bool := [0x81, 0x83, 0x8A].contains o.opc && !o.served

/-- A killed launch whose posted stores have drained frees its blocks (R422); one whose save had begun is freed when the save has
ended (R450). -/
def State.reapKilled (s : State) (i : Nat) : State :=
  match s.launch? i with
  | none => s
  | some l =>
    if !l.killed then s
    else
      let ready := (s.blocksOf i).filter (fun p => !p.2.saving && !s.v.ops.any (fun o => o.2.block == p.1))
      (ready.foldl (fun s p => s.retireBlock p.1) s).refreshLaunch i

/-- Kill a launch (R422): nothing of it issues or is placed, its copies are cancelled, its log is discarded with what its image
records, its posted stores drain. A block whose save has begun is discarded once the save has ended (R450). -/
def State.killLaunch (s : State) (i : Nat) : State :=
  let blks := ((s.blocksOf i).filter (fun p => !p.2.saving)).map Prod.fst
  let mine (b : Nat) : Bool := blks.contains b
  let resident (b : Nat) : Bool := (s.block? b).any (fun x => x.core.isSome)
  let gone := (s.v.ops.filter (fun o => mine o.2.block && !(o.2.drains && resident o.2.block))).map Prod.fst
  let s1 := s.updLaunch i (fun l => { l with killed := true, state := if l.state == .waiting then .poisoned else l.state })
  let kept (l : LaneOp) : Bool := match l.stage with | .fault _ => false | _ => true
  let s2 := s1.setOps ((s1.v.ops.filter (fun o => !gone.contains o.1)).map (fun p =>
    if mine p.2.block then (p.1, { p.2 with lanes := p.2.lanes.filter kept }) else p))
  let s3 := s2.setReqs (s2.v.reqs.filter (fun q => !gone.contains q.2.op))
  let s4 := s3.setLocks (s3.v.locks.filter (fun k => !gone.contains k.owner))
  let keys := (s4.v.threads.filter (fun p => mine p.2.block)).map Prod.fst
  let s5 := keys.foldl State.clearTx s4
  let s6 := s5.setGroups (s5.v.groups.filter (fun p => !mine p.2.block))
  let s7 := s6.setReports (s6.l.reports.map (fun r => match r.who with
    | .op id _ => if gone.contains id then { r with who := .nobody } else r
    | .group g => if (s5.group? g).any (fun x => mine x.block) then { r with who := .nobody } else r
    | .nobody => r))
  s7.reapKilled i

/-! ## Taking a trap, and returning from one (R439, R440, R448) -/

/-- The PC to which TRAPRET returns (R439). -/
def resumePc (pc : Pc) (c : Cause) : Pc := if c == .userTrap then nextPc pc else pc

/-- TRAPCAUSE (R440). -/
def trapCauseWord (t : Trap) : Nat := t.cause.code + t.code % 65536 * 256

/-- A thread takes a trap in its handler's favour (R440): the trap registers are written, it is marked, and its next PC is
HANDLER. -/
def takeTrap (handler pc : Pc) (tr : Trap) (t : Thread) : Thread :=
  { t with
    handler := true, trapPc := pc, trapCause := BitVec.ofNat 64 (trapCauseWord tr)
    trapAddr := BitVec.ofNat 64 (tr.addr.getD 0), resume := resumePc pc tr.cause, pc := handler }

/-- TRAPRET (R448): the handler mark goes; the next PC is the resume PC, or the one given. -/
def trapReturn (dest : Option Pc) (t : Thread) : Thread := { t with handler := false, pc := dest.getD t.resume }

/-- Whether the launch's HANDLER can be entered (R440, R152). -/
def State.handlerReady (s : State) (blk core : Nat) : State × TargetCheck × Pc :=
  match s.record? blk with
  | none => (s, .illegal, 0)
  | some r =>
    if r.handler = 0 then (s, .illegal, 0)
    else
      let c := s.checkTarget core (s.ctxOf blk) (some r.handler.toNat)
      (c.1, c.2, r.handler)

/-! ## Regrouping (R35 to R39, R197) -/

/-- The next PC that stays with the group: shared by most lanes; among equals NextPc if it is one of them, else the lowest
(R197). -/
def stayingPc (fall : Pc) (l : List Pc) : Pc :=
  let count (p : Pc) : Nat := (l.filter (fun q => q == p)).length
  let best := l.foldl (fun m p => max m (count p)) 0
  let top := l.filter (fun p => count p == best)
  if top.contains fall then fall else ((minBy (·.toNat) top).getD fall)

/-- File threads in order; each that finds no cove is held in its group with a new count (R37, R39). A YIELD sets its
release condition on every cove it files into (R203). -/
def State.fileAll (s : State) (core gid : Nat) (yield : Option (List Nat × Nat)) : List Nat → State
  | [] => s
  | k :: rest =>
    match s.thread? k with
    | none => State.fileAll s core gid yield rest
    | some t =>
      let out := s.updGroup gid (fun g => { g with members := g.members.filter (fun x => x != k) })
      match out.fileThread core k { t with held := none } rest with
      | some (s1, cove) =>
        let s2 := s1.updThread k (fun t => { t with held := none })
        let s3 := match yield with
          | some (gs, at_) => s2.updGroup cove (fun g =>
              if g.releases.any (fun r => r.due == at_ + 64 && r.groups == gs) then g
              else { g with releases := g.releases ++ [⟨gs, at_ + 64⟩] })
          | none => s2
        State.fileAll s3 core gid yield rest
      | none =>
        let s1 := s.updThread k (fun t =>
          { t with held := some (t.held.getD ⟨s.clock, s.ageTimeout core⟩) })
        State.fileAll s1 core gid yield rest

/-- The next current PC when a group holds held threads (step 3 of R39): the longest held if its timeout is reached, else
the lowest PC that remains. -/
def State.choosePc (s : State) (members : List Nat) : Option Pc :=
  let ts := members.filterMap s.thread?
  let held := ts.filterMap (fun t => t.held.map (fun h => (h, t.pc)))
  match minBy (fun p => p.1.since) held with
  | none => none
  | some (h, pc) =>
    if h.since + h.timeout ≤ s.clock then some pc else (minBy (fun t => t.pc.toNat) ts).map (·.pc)

/-- Make a PC the current one: threads at it execute, the others are held (R39). -/
def State.setCurrent (s : State) (core gid : Nat) (pc : Pc) (members : List Nat) (keepLine : Bool) : State :=
  let s1 := members.foldl (fun s k => s.updThread k (fun t =>
    if t.pc == pc then { t with held := none }
    else { t with held := some (t.held.getD ⟨s.clock, s.ageTimeout core⟩) })) s
  s1.updGroup gid (fun g => { g with pc := pc, line := if keepLine then g.line else none })

/-- Every scalar becomes invalid: the group ceases to be converged, though a thread that is only held may come back to its PC
(R43, R44). -/
def State.dropScalars (s : State) (gid : Nat) : State := s.updGroup gid (fun g => { g with scalars := [] })

/-- A thread has left the group, which is no longer as it was formed (R43, R44). -/
def State.loseWhole (s : State) (gid : Nat) : State := s.updGroup gid (fun g => { g with whole := false, scalars := [] })

/-- Threads in ascending lane order. -/
def byLane (l : List Nat) : List Nat := sortBy (fun k => k % 64) l

/-- The decision leaves every thread at the group's PC with one next PC, and no thread is filed: it is no regrouping point (R35,
R197). The PC, where there is one. -/
def Plan.together (p : Plan) (here : List Nat) : Option Pc :=
  match p.depart, (p.next.filter (fun q => here.contains q.1)).map Prod.snd with
  | none, a :: t => if t.all (fun b => b == a) then some a else none
  | _, _ => none

/-- The group goes on at one PC, with its flags and tags as they are. -/
def State.goTogether (s : State) (gid : Nat) (g : Group) (p : Plan) (pc : Pc) : State :=
  let s1 := (p.next.filter (fun q => g.members.contains q.1)).foldl (fun s q => s.updThread q.1 (fun t => { t with pc := q.2 })) s
  let keep := p.xfer.isEmpty && lineOf pc.toNat == lineOf p.pc.toNat
  (s1.updGroup gid (fun x =>
    { x with
      plan := none
      pc := pc
      line := if keep then x.line else none })).unpark gid (fun x => x == .regroup)

/-- The core a block is resident on, or 0. -/
def State.coreOfBlock (s : State) (blk : Nat) : Nat := match s.block? blk with | some b => b.core.getD 0 | none => 0

/-- A group in a Backwater wait makes the PC of its longest-held thread current once that thread's age timeout is reached (R50): it
leaves a wait for a line's flags or at a barrier, where the threads that waited become held; what else holds it still does. -/
def State.expireHeld (s : State) (gid : Nat) : State :=
  match s.group? gid with
  | none => s
  | some g =>
    let held := g.members.filterMap (fun k => (s.thread? k).bind (fun t => t.held.map (fun h => (h, t.pc))))
    match minBy (fun p => p.1.since) held with
    | none => s
    | some (h, pc) =>
      if g.st == .backwater && g.plan.isNone && g.awaited.isEmpty && !g.parks.contains .regroup && s.live g.block
        && h.since + h.timeout ≤ s.clock then
        (s.setCurrent (s.coreOfBlock g.block) gid pc g.members false).unpark gid
          (fun p => p == .wait || p == .barrier || p == .stage)
      else s

/-- Apply a regrouping decision, the group's flags being zero (R35, R39). Threads are filed in ascending lane order (R37). -/
def State.applyPlan (s : State) (core gid : Nat) (g : Group) (p : Plan) : State :=
  let fall := p.fall
  let here := g.members.filter (fun k => p.next.any (fun q => q.1 == k))
  let before := g.members.filter (fun k => match s.thread? k with | some t => t.held.isSome && !here.contains k | none => false)
  let s1 := p.next.foldl (fun s q => s.updThread q.1 (fun t => { t with pc := q.2 })) s
  let keep := match p.depart with
    | some _ => fall
    | none => stayingPc fall ((p.next.filter (fun q => here.contains q.1)).map Prod.snd)
  let depart := match p.depart with
    | some l => here.filter (fun k => l.contains k)
    | none => (p.next.filter (fun q => here.contains q.1 && q.2 != keep)).map Prod.fst
  let s2 := (s1.updGroup gid (fun g => { g with plan := none, owed := [] })).unpark gid (fun x => x == .regroup)
  let s3 := if depart.isEmpty then s2 else s2.dropScalars gid
  let s4 := s3.fileAll core gid p.yield (byLane depart)
  let s5 := if depart.isEmpty && p.depart.isNone then s4 else s4.fileAll core gid none (byLane before)
  match s5.group? gid with
  | none => s5
  | some g5 =>
    let s5 := if g5.members.length < g.members.length then s5.loseWhole gid else s5
    if g5.members.isEmpty then s5.setGroups (Tab.del s5.v.groups gid)
    else
      let anyHeld := g5.members.any (fun k => match s5.thread? k with | some t => t.held.isSome | none => false)
      let cur := if anyHeld then (s5.choosePc g5.members).getD keep else keep
      let entered := g5.members.any (fun k => p.xfer.contains k && (match s5.thread? k with | some t => t.pc == cur | none => false))
      let same := cur == fall && lineOf cur.toNat == lineOf p.pc.toNat && !entered
      s5.setCurrent core gid cur g5.members same

/-- Aborts that are due and await no answer take effect (R344). -/
def State.settleAborts (s : State) (g : Group) : State :=
  g.members.foldl (fun s k =>
    match s.thread? k with
    | some t =>
      match t.tx.bind (·.pending) with
      | some (c, code) => s.abortNow k c code false
      | none => s
    | none => s) s

/-- Where a regrouping decision stands: what keeps it from being carried out, as the group is parked for it; or nothing does.
A decision that keeps the threads together needs no wait of R35. -/
inductive PlanState where
  | park (p : Park)
  | go (pc : Pc)
  | file
  deriving DecidableEq, Repr

/-- No answer is awaited, no save of the block has begun, and the wait of R35 is over (R35, R346). -/
def State.planState (s : State) (gid : Nat) (g : Group) (p : Plan) : PlanState :=
  let aborts := g.members.any (fun k => (((s.thread? k).bind (·.tx)).bind (·.pending)).isSome)
  if !s.live g.block then .park .regroup
  else if !g.awaited.isEmpty then .park .answer
  else
    match if aborts then none else p.together g.members with
    | some pc => .go pc
    | none => if s.groupIdle gid g then .file else .park .regroup

/-- Carry out the group's regrouping decision, or park the group until it can be. -/
def State.tryPlan (s : State) (gid : Nat) : State :=
  match s.group? gid with
  | none => s
  | some g =>
    match g.plan with
    | none => s
    | some p =>
      match s.planState gid g p with
      | .park q => (s.rollAborts gid).park gid q
      | .go pc => s.goTogether gid g p pc
      | .file => ((s.settleAborts g).applyPlan (s.coreOfBlock g.block) gid g p).checkCoves g.block

/-- A decision that arises while the group does not issue: its threads are filed by REGROUP_FLAG_WAIT_END, in the order of R56. -/
def State.deferPlan (s : State) (gid : Nat) : State :=
  match s.group? gid with
  | none => s
  | some g =>
    match g.plan with
    | none => s
    | some p =>
      match s.planState gid g p with
      | .file => s.park gid .regroup
      | _ => s.tryPlan gid

/-! ## The end of an instruction -/

/-- What an instruction decided for the threads at its PC: next PCs other than NextPc, transfers, traps, aborts. -/
structure Fin where
  next : List (Nat × Pc)
  xfer : List Nat
  traps : List (Nat × Trap)
  aborts : List (Nat × Abort × Nat)

def Fin.plain : Fin := ⟨[], [], [], []⟩

/-- Move every thread at the PC to NextPc: no regrouping point (R156). -/
def State.advance (s : State) (gid : Nat) (g : Group) (ls : List LaneV) : State :=
  let np := nextPc g.pc
  let s1 := s.eachLane ls (fun _ t => { t with pc := np })
  s1.updGroup gid (fun x => { x with pc := np, line := if lineOf np.toNat == lineOf g.pc.toNat then x.line else none })

/-- Post the fatal trap's record and kill the launch (R440). -/
def State.fatalTrap (s : State) (g : Group) (pc : Pc) (tr : Trap) (lanes : List Nat) : State :=
  match s.block? g.block with
  | none => s
  | some b =>
    let r := s.postReport 1 (laneMask lanes) (tr.addr.getD pc.toNat) g.block g.record tr.write tr.code tr.cause.code .nobody
    r.1.killLaunch b.launch

/-- Fetches, table reads or transactional accesses of a group's threads fault: records are posted, transactions concerned abort
with FAULT, and the group parks until every record is answered (R198, R346, R492). `write` is the records' WRITE bit (R442). -/
def State.groupFault (s : State) (gid : Nat) (g : Group) (unit : Nat → Nat) (write : Bool) (l : List (Nat × Nat × Kind)) : State :=
  let p := s.postFaults unit g.block g.record write (fun _ => .group gid) 64 (l.map (fun q => (q.1 % 64, q.2)))
  let s1 := l.foldl (fun s q =>
    match (s.thread? q.1).bind (·.tx) with
    | some _ => s.markAbort q.1 .fault q.2.2.code
    | none => s) p.1
  ((s1.updGroup gid (fun g => { g with awaited := g.awaited ++ p.2 })).rollAborts gid).park gid .answer

/-- A transfer that is not divergent: the group goes on at the one next PC. -/
def State.setNext (s : State) (gid : Nat) (g : Group) (ls : List LaneV) (pc : Pc) (xfer : List Nat) : State :=
  let s1 := s.eachLane ls (fun _ t => { t with pc := pc })
  let keep := xfer.isEmpty && lineOf pc.toNat == lineOf g.pc.toNat
  s1.updGroup gid (fun x => { x with pc := pc, line := if keep then x.line else none })

/-- A divergent transfer invalidates the scalars when it issues (R44). -/
def State.loseScalars (s : State) (gid : Nat) (now : Bool) : State := if now then s.dropScalars gid else s

/-- What the fetch of the trap handler met: a page fault, with its line, the kind and the threads that take the trap (R492); or
its home holds it, and the instruction is issued again. -/
inductive Stuck where
  | fault (line : Nat) (kind : Kind) (keys : List Nat)
  | hold
  deriving DecidableEq, Repr

/-- What an instruction leaves; and what kept it from taking effect, where a fetch did. -/
abbrev After := State × Option Stuck

/-- A state in which no such thing was met. -/
def State.after (s : State) : After := (s, none)

/-- The instruction waits: a read that it needs is held at its home. -/
def State.held (s : State) : After := (s, some .hold)

/-- A thread has a transaction open. -/
def State.txOpen (s : State) (k : Nat) : Bool := (s.thread? k).any (fun t => t.tx.isSome)

/-- A thread is in its handler (R440). -/
def State.inHandler (s : State) (k : Nat) : Bool := (s.thread? k).all (fun t => t.handler)

/-- Traps of lanes (R440, R346): a lane with an open transaction aborts with TRAP; else the handler is entered, or the trap
is fatal. Then every next PC is resolved (R197). A page fault on the handler's fetch is left to `State.issue`. That a HANDLER whose
line is poisoned cannot be entered, so that the trap is fatal under its own cause, is the model's choice (assumption log 47). -/
def State.finish (s : State) (gid : Nat) (g : Group) (ls : List LaneV) (r : Fin) : After :=
  let traps := r.traps.filter (fun p => !s.txOpen p.1)
  let aborts := r.aborts ++ (r.traps.filter (fun p => s.txOpen p.1)).map (fun p => (p.1, Abort.trap, p.2.cause.code))
  let s := if r.traps.isEmpty && r.aborts.isEmpty then s else s.setCur { s.cur with trapped := true }
  if traps.isEmpty && aborts.isEmpty && r.next.isEmpty then (s.advance gid g ls).after
  else
    let h := if traps.isEmpty then (s, TargetCheck.ok, (0 : Pc)) else s.handlerReady g.block (s.coreOfBlock g.block)
    let stuck := match h.2.1 with | .hold => true | .page _ _ => true | _ => false
    let dead := traps.filter (fun p => s.inHandler p.1 || (!stuck && h.2.1 != .ok))
    match dead, h.2.1 with
    | (_, tr) :: _, _ => (h.1.fatalTrap g g.pc tr (dead.map (fun p => p.1 % 64))).after
    | [], .hold => h.1.held
    | [], .page kind line => (h.1, some (.fault line kind (traps.map Prod.fst)))
    | [], _ =>
      let s1 := traps.foldl (fun s p => s.updThread p.1 (takeTrap h.2.2 g.pc p.2)) h.1
      let s2 := aborts.foldl (fun s p => s.markAbort p.1 p.2.1 p.2.2) s1
      let np := nextPc g.pc
      let next := ls.map (fun l =>
        if traps.any (fun p => p.1 == l.key) then (l.key, h.2.2)
        else if aborts.any (fun p => p.1 == l.key) then
          (l.key, match (s2.thread? l.key).bind (·.tx) with | some x => nextPc x.pc | none => np)
        else match r.next.find? (fun p => p.1 == l.key) with
          | some p => p
          | none => (l.key, np))
      let plan : Plan := ⟨g.pc, np, next, none, traps.map Prod.fst ++ r.xfer, none⟩
      let kept := stayingPc np (next.map Prod.snd)
      if aborts.isEmpty && next.all (fun p => p.2 == kept) then
        ((s2.updGroup gid (fun x => { x with plan := none })).setNext gid g ls kept plan.xfer).after
      else (((s2.updGroup gid (fun x => { x with plan := some plan })).loseScalars gid aborts.isEmpty).tryPlan gid).after

end Sys2Proof.Machine
end

