-- ==== Sys2Proof/Machine/Issue.lean ====
section
/-! DEFINITION. The issue of a slot by a group (R173): the checks, lane by lane effects, and traps raised for the group. -/

namespace Sys2Proof.Machine

open Sys2Proof

/-- Members of a group with a transaction open. -/
def State.openTx (s : State) (g : Group) : List Nat := g.members.filter s.txOpen

/-- Abort a transaction of a held thread: it stays held, at the PC that the abort gives it (R344, R39). -/
def State.abortHeld (s : State) (key : Nat) (cause : Abort) (code : Nat) : State :=
  match s.thread? key with
  | some t =>
    (s.abortNow key cause code false).updThread key (fun u =>
      if t.held.isSome then { u with pc := (t.tx.map (fun x => nextPc x.pc)).getD u.pc } else u)
  | none => s

/-- Threads whose trap awaits the fetch of HANDLER's line keep it, and the group awaits the answer to the record (R492). -/
def State.oweTraps (s : State) (gid : Nat) (g : Group) (line : Nat) (kind : Kind) (l : List (Nat × Pc × Trap)) : State :=
  (l.foldl (fun s q => s.updThread q.1 (fun t => { t with owedTrap := some q.2 })) s).groupFault gid g lineOf false
    (l.map (fun q => (q.1, line, kind)))

/-- A trap raised for the group as a whole: every lane at its PC takes it (R174). Every open transaction of the group aborts with
TRAP first, once the flags are zero (R346, R344), and stays aborted where the fetch of HANDLER meets a page fault. -/
def State.groupTrap (s : State) (gid : Nat) (g : Group) (ls : List LaneV) (c : Cause) : After :=
  let open_ := s.openTx g
  if !open_.isEmpty && !s.groupIdle gid g then (s.park gid .regroup).after
  else
    let tr : Trap := ⟨c, 0, none, false⟩
    let r := (open_.foldl (fun s k => s.abortHeld k .trap c.code) s).finish gid g ls ⟨[], [], ls.map (fun l => (l.key, tr)), []⟩
    match r.2 with
    | some (.fault line kind keys) => (r.1.oweTraps gid g line kind (keys.map (fun k => (k, g.pc, tr)))).after
    | _ => r

/-- The higher slot of a pair has executed, or is to be issued again (`stay`): threads that TRAPRET in the lower slot returns go to
their PCs (R161, R448). -/
def State.goBack (s : State) (gid : Nat) (g : Group) (stay : Bool) : State :=
  match s.cur.snap, s.cur.pair with
  | some _, some (q :: qs) =>
    let ls := s.lanesOf g (slotOf 0)
    let next := ls.filterMap (fun l =>
      match (q :: qs).find? (fun p => p.1 == l.key) with
      | some p => some (p.1, p.2.1)
      | none => if stay then some (l.key, g.pc) else none)
    ((s.setCur { s.cur with pair := none }).finish gid g ls ⟨next, ((q :: qs).filter (·.2.2)).map Prod.fst, [], []⟩).1
  | _, _ => s

/-- The end of an issue: where the fetch of the trap handler met a page fault, nothing of the instruction takes effect, and
the group awaits the answer to its record (R492); where a read is held, nothing takes effect, and the group issues it again.
`s0` is the state before the instruction. -/
def State.settleHandler (s0 : State) (r : After) (gid : Nat) (g : Group) : State :=
  match r.2 with
  | none => r.1
  | some (.fault line kind keys) => s0.groupFault gid g lineOf false (keys.map (fun k => (k, line, kind)))
  | some .hold => s0.goBack gid g true

/-- The trap that a group takes at its next issue, before anything else: ENGINERESET (R383), or LANEFAULT (R55). -/
def Group.pendingTrap (g : Group) : Option Cause :=
  if g.engineReset then some .engineReset else if g.laneFault then some .laneFault else none

/-- The group without that trap. -/
def Group.trapTaken (g : Group) : Group := if g.engineReset then { g with engineReset := false } else { g with laneFault := false }

/-- A group takes its pending trap, once the flags allow it (R344, R346). -/
def State.takePending (s : State) (gid : Nat) (g : Group) (ls : List LaneV) (c : Cause) : State :=
  if !(s.openTx g).isEmpty && !s.groupIdle gid g then s.park gid .regroup
  else s.settleHandler ((s.updGroup gid Group.trapTaken).groupTrap gid g.trapTaken ls c) gid g

/-- What the higher slot of a pair wrote stands: an outstanding instruction of the lower slot leaves those registers alone when
it completes (R161, R305). -/
def State.keepHigher (s : State) (op : Nat) (f : Slot) (ls : List LaneV) : State :=
  match s.cur.snap with
  | none => s
  | some p =>
    let regs := (writesOf op f).filterMap (fun o => match o with | .vreg n => some n | _ => none)
    let keys := (ls.filter (·.run)).map (·.key)
    if s.cur.trapped || regs.isEmpty then s
    else s.updOp p.lower (fun o =>
      { o with lanes := o.lanes.map (fun l => if keys.contains l.key then { l with kept := regs } else l) })

/-- The end of an issue that passed its checks: what a higher slot wrote stands, where the slot took effect, and what the lower
slot returns goes on from there. -/
def State.settleSlot (s0 : State) (r : After) (gid : Nat) (g : Group) (op : Nat) (f : Slot) : State :=
  match r.2 with
  | none =>
    let s := r.1.keepHigher op f (s0.lanesOf g f)
    if s.cur.trapped then s else s.goBack gid g false
  | some _ => s0.settleHandler r gid g

/-- The current group issues a slot: the checks of R173 other than the pair's, then the instruction's own effect. -/
def State.issue (s : State) (op : Nat) (f : Slot) (body : Nat → Group → List LaneV → After) : Result :=
  match s.group? s.cur.group with
  | none => .next s
  | some g0 =>
    let g := s.asSeen g0
    let ls := s.lanesOf g f
    match g.pendingTrap with
    | some c => .next (s.takePending s.cur.group g ls c)
    | none =>
      match checkSlot (s.declared g.block) g op f with
      | some c => .next (s.settleHandler (s.groupTrap s.cur.group g ls c) s.cur.group g)
      | none => .next (s.settleSlot (body s.cur.group g ls) s.cur.group g op f)

/-- A fixed-latency instruction that changes the registers of each executing lane by itself (R192): SB needs a valid scalar
of a converged group. `eff` is given the sources (R161) and the thread. -/
def State.lanewise (s : State) (op : Nat) (f : Slot) (eff : Group → LaneV → Thread → Thread) : Result :=
  s.issue op f (fun gid g ls =>
    if staleScalar (s.converged g) g f then s.groupTrap gid g ls .staleScalar
    else ((s.eachLane (ls.filter (·.run)) (eff g)).advance gid g ls).after)

/-- A `lanewise` instruction whose result is one value of `w` registers in D. -/
def State.lanewiseD (s : State) (op : Nat) (f : Slot) (w : Nat) (val : Group → LaneV → Nat) : Result :=
  s.lanewise op f (fun g l t => t.setVal f.d.toNat w (val g l))

/-- A `lanewise` instruction whose result is a predicate in D. -/
def State.lanewiseP (s : State) (op : Nat) (f : Slot) (val : Group → LaneV → Bool) : Result :=
  s.lanewise op f (fun g l t => t.setPred f.d.toNat (val g l))

/-- A fixed-latency instruction that writes a value formed from every executing lane to each of them. -/
def State.acrossLanes (s : State) (op : Nat) (f : Slot) (eff : Group → List LaneV → LaneV → Thread → Thread) : Result :=
  s.issue op f (fun gid g ls =>
    if staleScalar (s.converged g) g f then s.groupTrap gid g ls .staleScalar
    else ((s.eachLane (ls.filter (·.run)) (eff g ls)).advance gid g ls).after)

/-- An unassigned opcode, or 0xFF: the group takes ILLEGAL (R172, R173). -/
def execUnassignedOpcode (_op : BitVec 8) (s : State) : Result :=
  match s.group? s.cur.group with
  | none => .next s
  | some g =>
    let ls := s.lanesOf g (slotOf 0)
    match g.pendingTrap with
    | some c => .next (s.takePending s.cur.group g ls c)
    | none => .next (s.settleHandler (s.groupTrap s.cur.group g ls .illegal) s.cur.group g)

/-- NOP (R172): no effect; the group goes on. -/
def execNop (f : Slot) (s : State) : Result := s.lanewise 0x00 f (fun _ _ t => t)

end Sys2Proof.Machine
end

