-- ==== Sys2Proof/Machine/Life.lean ====
section
/-! DEFINITION. Outstanding variable-latency instructions: their issue and completion, the flags and tags they hold, exits,
traps that come after issue, and the answers to fault records (R48, R153 to R158, R245, R444, R445). -/

namespace Sys2Proof.Machine

open Sys2Proof

/-- A lane of an outstanding instruction that has nothing more to do. -/
def LaneOp.ended (l : LaneOp) : Bool := l.stage == .done

/-- A lane record of an executing lane. -/
def laneOp (l : LaneV) (ea : Nat) (b c : List Word) (stage : LaneStage) : LaneOp :=
  { lane := l.lane, key := l.key, ea, b, c, res := [], kept := [], stage, attr := none, reads := 0, due := 0 }

/-- A variable-latency instruction issues: its flag rises, what it writes becomes owed, and it is outstanding (R153, R157,
R158). -/
def State.startOp (s : State) (gid : Nat) (g : Group) (opc : Nat) (f : Slot) (lanes : List LaneOp) : State × Nat :=
  let n := s.newId
  let flag := g.flagFor f
  let o : Op := { group := gid, block := g.block, pc := g.pc, opc, f, flag, lanes, logged := false, issued := s.clock,
                  served := false, move := none, reports := [], tag := 0, chunk := 0, age := 0, posted := none, entry := 0,
                  arrived := s.clock }
  let s1 := n.2.setOps (Tab.set n.2.v.ops n.1 o)
  let s2 := match flag with
    | none => s1
    | some k => s1.updGroup gid (fun g => { g.raise k with owed := g.owed ++ (writesOf opc f).map (fun r => (r, k)) })
  (s2, n.1)

/-- A lane of an outstanding instruction changes. -/
def State.updLane (s : State) (id lane : Nat) (h : LaneOp → LaneOp) : State :=
  s.updOp id (fun o => { o with lanes := o.lanes.map (fun l => if l.lane == lane then h l else l) })

/-! ## What an opcode does -/

/-- Global opcodes that read, that write, and scratchpad opcodes. -/
def opReads (op : Nat) : Bool := [0x80, 0x82, 0x84, 0x88, 0x89, 0x8B, 0x87, 0x90, 0xB3, 0xB4].contains op
def opWrites (op : Nat) : Bool := [0x81, 0x83, 0x85, 0x86, 0x88, 0x89, 0x8A, 0x8F, 0xA6, 0xB3].contains op
def opScratch (op : Nat) : Bool := [0x82, 0x83, 0x84, 0x85, 0x86, 0xB3, 0xB4].contains op

/-- Instructions for which a unit reads memory in the program order of the thread: LAUNCH its record, TARN.DEF, GROW, SHRINK and MOVE
their images, WEIR.OPEN its descriptor (R209, R273, R390). -/
def unitReads (op : Nat) : Bool := op == 0x0B || (0xA0 ≤ op && op ≤ 0xA3) || op == 0xE0

/-- Opcodes that make a read which stands in program order. -/
def poReads (op : Nat) : Bool := opReads op || unitReads op

/-- WEIR.TAKE, INLET.TAKE and COLL.WAIT: what the thread does afterwards comes after what they hand out or end (R399, R409, R471). -/
def opReceives (op : Nat) : Bool := op == 0xE2 || op == 0xE6 || op == 0xF6

/-- The access that the attribute check sees (R97, R239). -/
def opAccess (op : Nat) : Access :=
  if op = 0x88 || op = 0x89 then .both else if op = 0x81 || op = 0x8A || op = 0xA6 then .write else .read

/-- Bytes of the access of one lane (R241). -/
def opWidth (op : Nat) (f : Slot) : Nat :=
  if [0x86, 0x87, 0x8F, 0x90, 0xA6].contains op then 1 else if 0xB3 ≤ op && op ≤ 0xB5 then 8 else tyWidth (Rule.ty f) / 8

/-- The order of an instruction (R308): acquire on its reads, release on its writes. -/
def opAcquires (op : Nat) (f : Slot) : Bool :=
  op = 0xB7 || opReceives op || ((opReads op || op = 0x0C || op = 0xB0) && op ≠ 0x87 && op ≠ 0x90 && (Rule.ord f == 1 || Rule.ord f == 3))
def opReleases (op : Nat) (f : Slot) : Bool :=
  op = 0xB7 || ((opWrites op || op = 0x0B || op = 0xB0 || op = 0x8C || op = 0x8D || op = 0xC3) && op ≠ 0x8F && op ≠ 0xA6
    && (Rule.ord f == 2 || Rule.ord f == 3))

/-! ## Order within a thread -/

/-- Bytes that a lane's access can touch: its own line, for what acts on a whole line the longest line (R110), for LAUNCH its record
(R209). -/
def spotUnit (a b : Op) : Nat :=
  if [0x8F, 0x90, 0xA6].contains a.opc || [0x8F, 0x90, 0xA6].contains b.opc then 512
  else if a.opc = 0x0B || b.opc = 0x0B then 128
  else 64

/-- Bytes of scratchpad from a lane's address on: the range of FEMARK, else one granule. -/
def padSpan (o : Op) (x : LaneOp) : Nat := if o.opc = 0x86 then max 16 (ofWords x.b) else 16

/-- Two lanes name bytes of one line, or of one granule of scratchpad. -/
def sameSpot (a b : Op) (x y : LaneOp) : Bool :=
  opScratch a.opc == opScratch b.opc &&
    (if opScratch a.opc then x.ea / 16 * 16 < y.ea + padSpan b y && y.ea / 16 * 16 < x.ea + padSpan a x
     else x.ea / spotUnit a b == y.ea / spotUnit a b)

/-- Opcodes whose accesses stand in program order: not those of copies (R321), nor instructions that access no memory. -/
def inPo (op : Nat) : Bool :=
  op == 0x0B || op == 0x0C || op == 0xE0 || opReceives op || (0x80 ≤ op && op ≤ 0xB7 && op != 0x8C && op != 0x8D)

/-- A lane of an instruction in program order that has still to access memory: the device that has taken up a TARN instruction has
read its image (R273, R274). -/
def Op.toAccess (o : Op) (x : LaneOp) : Bool := !x.ended && !(0xA0 ≤ o.opc && o.opc ≤ 0xA4 && o.tag != 0)

/-- The WRITE bit of a fault record (R442). -/
def recordWrite (op : Nat) : Bool := opWrites op && op != 0x8F

/-- Accesses of a thread, made by instructions before a given one, that have not ended and that a test picks. -/
def State.poAny (s : State) (first key : Nat) (pick : Op → LaneOp → Bool) : Bool :=
  s.v.ops.any (fun p => p.1 < first && inPo p.2.opc && p.2.lanes.any (fun x => x.key == key && p.2.toAccess x && pick p.2 x))

/-- An earlier access or fence of a thread holds back an access that does not release (R312, R317, R325): a fence, an acquire, a
read before a write, and, by `spot`, an access to the same place (R315). -/
def State.poBlocked (s : State) (first key : Nat) (writes : Bool) (spot : Op → LaneOp → Bool) : Bool :=
  s.poAny first key (fun p x => p.opc == 0xB0 || opAcquires p.opc p.f || (poReads p.opc && writes) || spot p x)

/-- An earlier access of the same thread still holds back this one (R312, R317, R325, and coherence of one location). Whether a
CAS has a release part shows when it is served (R255). -/
def State.laneBlocked (s : State) (id : Nat) (o : Op) (l : LaneOp) : Bool :=
  s.poBlocked id l.key (opWrites o.opc) (fun p x => sameSpot p o x l)
    || (o.opc != 0x89 && opReleases o.opc o.f && s.poAny id l.key (fun _ _ => true))

/-- The lane of an earlier instruction is an access, or a fence, that a FENCE or release waits for (R325). -/
def fenceWaits (f : Slot) (key : Nat) (p : Op) (x : LaneOp) : Bool :=
  inPo p.opc && p.opc != 0x0C && !opReceives p.opc && x.key == key && p.toAccess x
    && (Rule.ord f != 1 || poReads p.opc || p.opc == 0xB0)

/-- A FENCE, or a release, of a thread may complete: the earlier accesses that its order names have (R325). -/
def State.fenceMet (s : State) (id : Nat) (o : Op) (l : LaneOp) : Bool :=
  !s.v.ops.any (fun p => p.1 < id && p.2.lanes.any (fun x => fenceWaits o.f l.key p.2 x))

/-- An access that a save records as it waits: a full or empty granule's, a POLL's, one whose fault awaits an answer (R246, R445). -/
def LaneOp.recorded (o : Op) (x : LaneOp) : Bool :=
  (o.opc == 0x8B || opScratch o.opc) && x.stage == .wait || (match x.stage with | .fault _ => true | _ => false)

/-- A FENCE outstanding when a save begins completes before the save does (R325), so that the accesses which it waits for are still
made; not where one of them is such that the save records it as it waits, which is the model's choice (assumption log 49). -/
def State.fenceDue (s : State) (id : Nat) (o : Op) : Bool :=
  !s.v.ops.any (fun p => p.1 < id && p.2.lanes.any (fun x =>
    LaneOp.recorded p.2 x && o.lanes.any (fun l => fenceWaits o.f l.key p.2 x)))

/-- Requests of an outstanding instruction are made: its block runs, or is being saved with a FENCE outstanding that waits for
them (R246, R325). -/
def State.going (s : State) (id : Nat) (o : Op) : Bool :=
  s.live o.block || ((s.block? o.block).any (fun b => b.core.isSome && b.saving) && s.v.ops.any (fun p =>
    p.2.opc == 0xB0 && id < p.1 && p.2.block == o.block && o.lanes.any (fun x => p.2.lanes.any (fun l => fenceWaits p.2.f l.key o x))
      && s.fenceDue p.1 p.2))

/-- A table read of a thread, made at issue by the instruction that transfers, must wait: an earlier access or fence of the thread
holds it back (R315, R325). -/
def State.tableBlocked (s : State) (key lo n : Nat) : Bool :=
  s.poBlocked s.nextId key false (fun p x =>
    !opScratch p.opc && opWrites p.opc && x.ea / 512 ≤ (lo + n - 1) / 512 && lo / 512 ≤ x.ea / 512)

/-! ## Slots of exited threads (R48, R49, R205) -/

/-- The slot of an exited thread is freed: it enters the spawn pool; with its last thread the block retires. What
the thread has in hand at a Weir is done first (R398); while an access for that is held, the slot is not freed. -/
def State.freeSlot (s : State) (key : Nat) : State :=
  match s.thread? key, s.weirRelease key with
  | some t, some s0 =>
    let s1 := s0.setThreads (Tab.del s0.v.threads key)
    let s2 := s1.updBlock t.block (fun b => { b with pool := insertNat t.tid b.pool })
    if s2.v.threads.any (fun p => p.2.block == t.block) then s2 else s2.retireBlock t.block
  | _, _ => s

/-- Slots of exited threads whose freeing was held (R340, R345). -/
def State.freeHeld (s : State) : State :=
  ((s.v.threads.filter (fun p => p.2.exited && p.2.waits.isEmpty && s.live p.2.block)).map Prod.fst).foldl State.freeSlot s

/-- An instruction is no longer outstanding: slots that waited only for it are freed. -/
def State.dropWait (s : State) (id : Nat) : State :=
  let s1 := s.setThreads (Tab.mapv s.v.threads (fun t =>
    if t.waits.contains id then { t with waits := t.waits.filter (fun x => x != id) } else t))
  let free := (s.v.threads.filter (fun p => p.2.waits.contains id && p.2.exited && p.2.waits.all (fun x => x == id))).map Prod.fst
  free.foldl State.freeSlot s1

/-- A DRAINING group with nothing outstanding returns its record (R32, R48). -/
def State.checkDraining (s : State) (gid : Nat) : State :=
  match s.group? gid with
  | none => s
  | some g =>
    if g.st == .draining && (s.opsOfGroup gid).isEmpty then s.setGroups (Tab.del s.v.groups gid) else s

/-- The wait mask of the line being entered is met (R154). -/
def State.checkWait (s : State) (gid : Nat) : State :=
  match s.group? gid with
  | none => s
  | some g => if g.parks.contains .wait && g.maskClear (lineWait g.lineBits) then s.unpark gid (fun p => p == .wait) else s

/-- The result words of a lane are written from a register on, but not to the registers given. -/
def Thread.setResult (t : Thread) (n : Nat) (kept : List Nat) : List Word → Thread
  | [] => t
  | w :: ws => Thread.setResult (if kept.contains n then t else t.setReg n w) (n + 1) kept ws

/-- An outstanding instruction completes: results are written, its flag falls, its locks go, and what waited for it goes on
(R48, R153, R267); a receiver that retired during a delivery which ends so is freed (R270). -/
def State.finishOp (s : State) (id : Nat) : State :=
  match s.op? id with
  | none => s
  | some o =>
    let s1 := (o.lanes.filter (fun l => l.ended && !l.res.isEmpty)).foldl
      (fun s l => s.updThread l.key (fun t => t.setResult o.f.d.toNat l.kept l.res)) s
    let s2 := (s1.setOps (Tab.del s1.v.ops id)).setReqs (s1.v.reqs.filter (fun q => q.2.op != id))
    let s3 := s2.setLocks (s2.v.locks.filter (fun k => k.owner != id))
    let s4 := match o.flag with
      | some k => s3.updGroup o.group (fun g => g.lower k)
      | none => s3
    let s5 := s4.setReports (s4.l.reports.map (fun r => match r.who with
      | .op i _ => if i == id then { r with who := .nobody } else r
      | _ => r))
    let s6 := s5.unpark o.group (fun p => p == .op id || (o.logged && p == .log))
    let into := match o.move with | some m => m.busy.filterMap (fun p => (s.receiver o p).map Prod.fst) | none => []
    let s6 := into.foldl (fun s blk => if s.v.threads.any (fun p => p.2.block == blk) then s else s.retireBlock blk) s6
    let s7 := (((s6.checkWait o.group).dropWait id).checkDraining o.group).rollAborts o.group
    match s7.block? o.block with
    | some b => s7.reapKilled b.launch
    | none => s7

/-- A TAKE.G whose gather ends early has handed out its constraints: its other lanes get their records (R397). -/
def State.handedOut (s : State) (id : Nat) : State :=
  s.updOp id (fun o =>
    if o.opc = 0xE2 && o.served then { o with lanes := o.lanes.map (fun l => { l with stage := .done }) } else o)

/-! ## Traps after issue -/

/-- A thread of a cove leaves it for the handler, filed anew; where it cannot be filed it stays in the cove, held. -/
def State.refile (s : State) (gid key : Nat) : State :=
  match s.thread? key, s.group? gid with
  | some t, some g =>
    let s1 := s.updGroup gid (fun g => { g with members := g.members.filter (fun k => k != key) })
    match s1.fileThread (s.coreOfBlock g.block) key t [] with
    | some r =>
      match r.1.group? gid with
      | some g1 => if g1.members.isEmpty then r.1.setGroups (Tab.del r.1.v.groups gid) else r.1
      | none => r.1
    | none => s.updThread key (fun t => { t with held := some ⟨s.clock, s.ageTimeout (s.coreOfBlock g.block)⟩ })
  | _, _ => s

/-- The group's next PCs with that of one thread replaced; without a decision pending, every other thread stays. -/
def redirect (g : Group) (at_ : List (Nat × Pc)) (key : Nat) (pc : Pc) : Plan :=
  match g.plan with
  | some p =>
    { p with
      next := (p.next.filter (fun q => q.1 != key)) ++ [(key, pc)]
      depart := p.depart.map (fun l => l.filter (fun k => k != key) ++ [key])
      xfer := p.xfer ++ [key] }
  | none => ⟨g.pc, g.pc, at_.filter (fun q => q.1 != key) ++ [(key, pc)], none, [key], none⟩

/-- A trap of a lane whose instruction has already issued (R439, R440): the thread takes it at the instruction's PC, wherever
it stands; inside a transaction the transaction aborts with TRAP (R346). Where the fetch of HANDLER is held, the trap waits for it;
where it meets a page fault, the answer says for which group, line and kind. -/
def State.lateTrap (s : State) (key : Nat) (pc : Pc) (tr : Trap) : State × Option (Nat × Nat × Kind) :=
  match s.thread? key, s.v.groups.find? (fun p => p.2.members.contains key) with
  | some t, some (gid, g) =>
    let here := g.members.filterMap (fun k => match s.thread? k with
      | some t => if t.held.isNone then some (k, g.pc) else none
      | none => none)
    match t.tx with
    | some x =>
      let s1 := s.markAbort key .trap tr.cause.code
      if t.held.isSome || g.st == .cove then (s1, none)
      else (s1.updGroup gid (fun g => { g with plan := some (redirect g here key (nextPc x.pc)) }), none)
    | none =>
      let h := s.handlerReady g.block (s.coreOfBlock g.block)
      let fatal := (h.1.fatalTrap g pc tr [t.lane], none)
      if t.handler then fatal
      else match h.2.1 with
        | .hold => (s.updThread key (fun t => { t with owedTrap := some (pc, tr) }), none)
        | .page kind line => (h.1, some (gid, line, kind))
        | .ok =>
          let s1 := h.1.updThread key (fun t => { takeTrap h.2.2 pc tr t with owedTrap := none })
          if g.st == .cove then (s1.refile gid key, none)
          else if t.held.isSome then (s1, none)
          else (s1.updGroup gid (fun g => { g with plan := some (redirect g here key h.2.2) }), none)
        | _ => fatal
  | _, _ => (s, none)

/-- Traps of lanes whose instructions have already issued. Where the fetch of HANDLER meets a page fault, they wait at their threads'
PCs for the answer to the one record of each group (R492). -/
def State.asyncTraps (s : State) (l : List (Nat × Pc × Trap)) : State :=
  let r := l.foldl (fun (a : State × List ((Nat × Nat × Kind) × Nat × Pc × Trap)) q =>
    let o := a.1.lateTrap q.1 q.2.1 q.2.2
    (o.1, match o.2 with | some e => a.2 ++ [(e, q)] | none => a.2)) (s, [])
  ((r.2.map Prod.fst).eraseDups).foldl (fun s e =>
    match s.group? e.1 with
    | some g => s.oweTraps e.1 g e.2.1 e.2.2 ((r.2.filter (fun p => p.1 == e)).map Prod.snd)
    | none => s) r.1

/-- The decisions of every group of a block that has one pending are carried out, or wait for their groups' turn. -/
def State.tryPlans (s : State) (blk : Nat) : State :=
  ((s.groupsOfBlock blk).filter (fun p => p.2.plan.isSome)).foldl (fun s p => s.deferPlan p.1) s

/-- Traps that wait for the fetch of HANDLER are taken once no answer is awaited for their group (R492). -/
def State.retryTraps (s : State) (gid : Nat) : State :=
  match s.group? gid with
  | none => s
  | some g =>
    if !g.awaited.isEmpty || !s.live g.block then s
    else
      (s.asyncTraps (g.members.filterMap (fun k => ((s.thread? k).bind (·.owedTrap)).map (fun q => (k, q))))).deferPlan gid

/-- Lanes of an outstanding instruction take a trap in place of their access: they leave it. -/
def State.trapLanes (s : State) (id : Nat) (lanes : List Nat) (tr : LaneOp → Trap) : State :=
  match s.op? id with
  | none => s
  | some o =>
    let gone := o.lanes.filter (fun l => lanes.contains l.lane)
    let s1 := s.updOp id (fun o => { o with lanes := o.lanes.filter (fun l => !lanes.contains l.lane) })
    s1.asyncTraps (gone.map (fun l => (l.key, o.pc, tr l)))

/-! ## Parking on an outstanding instruction (R47, R96, R263) -/

/-- The instruction holds its group in the Backwater: a load on its misses, an LDF on an empty granule, a POLL on its
back-off, a TCOMMIT on its tickets, a STILL.WAIT and a channel instruction until they are served (R411, R414), and any access on its attributes. -/
def Op.holds (o : Op) : Bool :=
  let open_ (l : LaneOp) : Bool := match l.stage with | .attr => true | .ready => true | .sent => true | .wait => true | _ => false
  if [0x80, 0x84, 0x8B].contains o.opc then o.lanes.any open_
  else if o.opc = 0xB7 then o.lanes.any (fun l => l.stage == .sent)
  else if (o.opc == 0xE8 && Rule.sub o.f == 0) || o.opc == 0xE9 || o.opc == 0xEA then o.lanes.any (fun l => l.stage == .sent)
  else o.lanes.any (fun l => l.stage == .attr)

/-- Park or release the group of an outstanding instruction. -/
def State.repark (s : State) (id : Nat) : State :=
  match s.op? id with
  | none => s
  | some o => if o.holds then s.park o.group (.op id) else s.unpark o.group (fun p => p == .op id)

/-! ## Page faults of accesses (R245) -/

/-- Entries of a group's operand log in use. -/
def State.logUsed (s : State) (gid : Nat) : Nat := ((s.opsOfGroup gid).filter (fun p => p.2.logged)).length

/-- Lanes of one page fault: the instruction takes an entry of the operand log, and one record names them. With the log
full the request waits and the group issues nothing. -/
def State.faultLanes (s : State) (id : Nat) (lanes : List Nat) (kind : Kind) (write : Bool) : State :=
  match s.op? id with
  | none => s
  | some o =>
    if !o.logged && 8 ≤ s.logUsed o.group then s.park o.group .log
    else
      match minBy (·.lane) (o.lanes.filter (fun l => lanes.contains l.lane)) with
      | none => s
      | some l0 =>
        let record := match s.group? o.group with | some g => g.record | none => 0
        let r := s.postReport 0 (laneMask lanes) l0.ea o.block record write kind.code Cause.pageFault.code (.op id lanes)
        let s1 := r.1.updOp id (fun o =>
          { o with
            logged := true, reports := o.reports ++ [r.2]
            lanes := o.lanes.map (fun l => if lanes.contains l.lane then { l with stage := .fault kind } else l) })
        s1.repark id

/-- Instructions made once for the whole group, and LAUNCH: they start anew rather than ask for attributes. -/
def Op.whole (o : Op) : Bool := !(0x80 ≤ o.opc && o.opc ≤ 0x8B) && o.opc != 0x8F && o.opc != 0x90 && o.opc != 0xA6

/-- A copy starts again from its first granule (R268). -/
def Move.restart (m : Move) (parts : List Nat) : Move :=
  { m with todo := parts.flatMap (fun p => (List.range (m.len / 16)).map (fun i => p * 2 ^ 21 + i)) }

/-- What is still to be moved when a copy of one destination, or the deliveries under way, start again. -/
def Op.restart (o : Op) : Op := { o with move := o.move.map (fun m => m.restart (if o.opc = 0x8C then [0] else m.busy)) }

/-- The address that R83 refuses stands in an instruction's operand, so that it faults again whenever it is replayed (R266, R269,
R271). -/
def Op.refaults (o : Op) (l : LaneOp) : Bool :=
  l.stage == .fault .nonCanon && (match o.move with | some m => l.ea == m.src || l.ea == m.dst | none => false)

/-- Answer to lanes of an outstanding instruction (R445): REPLAY asks for the attributes anew, or starts an instruction of
the whole group again (R268); DELIVER makes the lanes take PAGEFAULT, and ends an instruction of the whole group. -/
def State.answerOp (s : State) (id : Nat) (lanes : List Nat) (action : Nat) : State :=
  match s.op? id with
  | none => s
  | some o =>
    if action = 0 then
      if o.whole then
        if o.lanes.any (fun l => lanes.contains l.lane && o.refaults l) then
          s.faultLanes id lanes .nonCanon (o.lanes.any (fun l => lanes.contains l.lane && o.move.any (fun m => l.ea == m.dst)))
        else s.updOp id (fun o =>
          { o.restart with lanes := o.lanes.map (fun l => if lanes.contains l.lane then { l with stage := .sent } else l) })
      else
        let agent := s.coreOfBlock o.block
        let s1 := (o.lanes.filter (fun l => lanes.contains l.lane)).foldl
          (fun s l => s.forgetAttr agent (nameAsid (s.ctxOf o.block).asid l.ea) l.ea) s
        (s1.updOp id (fun o =>
          { o with lanes := o.lanes.map (fun l => if lanes.contains l.lane then { l with stage := .attr, attr := none } else l) })).repark id
    else
      let s1 := s.trapLanes id lanes (fun l =>
        ⟨.pageFault, (match l.stage with | .fault k => k.code | _ => 0), some l.ea,
          recordWrite o.opc || o.move.any (fun m => l.ea == m.dst)⟩)
      ((if o.whole && o.opc != 0x0B then (s1.handedOut id).finishOp id else s1)).tryPlans o.block

/-! ## Answers to a parked group (R198, R346, R492) -/

/-- Every record that a group awaits is answered, and the wait of R35 is over where a transaction aborts (R344): transactions that
aborted with FAULT go on or close, the lanes of records answered DELIVER take PAGEFAULT in place of what they awaited, and the
others go on, a trap that awaited its handler's line included. -/
def State.tryAnswers (s : State) (gid : Nat) : State :=
  match s.group? gid with
  | none => s
  | some g =>
    if g.awaited.isEmpty || !g.awaited.all (fun a => a.answer.isSome) || !s.live g.block then s
    else
      let s1 := (s.updGroup gid (fun g => { g with awaited := [] })).unpark gid (fun p => p == .answer)
      let hit := g.awaited.filter (fun a => a.answer == some 1)
      let delivered (k : Nat) : Option Awaited := hit.find? (fun a => a.lanes.contains (k % 64))
      let inTx (k : Nat) : Option Tx := (s.thread? k).bind (·.tx)
      let keys := g.members.filter (fun k => match s.thread? k with | some t => t.held.isNone || t.owedTrap.isSome | none => false)
      let here := keys.filter (fun k => match s.thread? k with | some t => t.held.isNone | none => false)
      let aborted := keys.filter (fun k => match inTx k with
        | some x => (match x.pending with | some (.fault, _) => true | _ => false)
        | none => false)
      if !aborted.isEmpty && !s.groupIdle gid g then s else
      let retry := aborted.filterMap (fun k => (inTx k).map (fun x => (k, nextPc x.pc)))
      let s2 := (aborted.filter (fun k => (delivered k).isSome)).foldl (fun s k =>
        match (inTx k).bind (·.pending) with
        | some (c, code) => s.abortNow k c code true
        | none => s) s1
      let s3 := match g.plan with
        | some _ => s2
        | none =>
          if retry.isEmpty then s2
          else
            let nextOf (k : Nat) : Nat × Pc := (k, ((retry.find? (fun (q : Nat × Pc) => q.1 == k)).map Prod.snd).getD g.pc)
            s2.updGroup gid (fun x => { x with plan := some ⟨g.pc, g.pc, here.map nextOf, none, [], none⟩ })
      let hits := (keys.filter (fun k => !aborted.contains k)).filterMap (fun k => (delivered k).map (fun a => (k, a)))
      let at_ (k : Nat) : Pc := (((s.thread? k).bind (·.owedTrap)).map Prod.fst).getD g.pc
      let s4 := (hits.foldl (fun s p => s.updThread p.1 (fun t => { t with owedTrap := none })) s3).asyncTraps
        (hits.map (fun p => (p.1, at_ p.1, ⟨.pageFault, p.2.kind.code, some p.2.addr, false⟩)))
      (s4.retryTraps gid).deferPlan gid

/-- An answer reaches a group (R444). -/
def State.answerGroup (s : State) (gid report action : Nat) : State :=
  (s.updGroup gid (fun g =>
    { g with awaited := g.awaited.map (fun a => if a.report == report then { a with answer := some action } else a) })).tryAnswers gid

end Sys2Proof.Machine
end

