-- ==== Sys2Proof/Machine/Control.lean ====
section
/-! DEFINITION. Transfers, exits, traps, regrouping and SPAWN: opcodes 0x01 to 0x0A (R195 to R206). -/

namespace Sys2Proof.Machine

open Sys2Proof

/-! ## Transfers -/

/-- What the target of a lane is before the check of R152. -/
inductive Target where
  /-- A PC, or none where the offset or the table gives none. -/
  | pc (p : Option Nat)
  | fault (kind : Kind) (addr : Nat)
  | poisoned (addr : Nat)
  /-- A table read waits. -/
  | hold
  deriving DecidableEq, Repr

/-- Targets of the executing lanes, in ascending order. -/
def State.targets (s : State) (tgt : State → LaneV → State × Target) : List LaneV → State × List (LaneV × Target)
  | [] => (s, [])
  | l :: ls =>
    let r := tgt s l
    let t := State.targets r.1 tgt ls
    (t.1, (l, r.2) :: t.2)

/-- The check of R152 for each lane that has a target. -/
def State.checkTargets (s : State) (core : Nat) (c : Ctx) : List (LaneV × Target) → State × List (LaneV × TargetCheck × Nat)
  | [] => (s, [])
  | (l, .pc p) :: t =>
    let r := s.checkTarget core c p
    let u := State.checkTargets r.1 core c t
    (u.1, (l, r.2, p.getD 0) :: u.2)
  | (l, .poisoned a) :: t =>
    let u := State.checkTargets s core c t
    (u.1, (l, .poisoned a, 0) :: u.2)
  | (l, .hold) :: t =>
    let u := State.checkTargets s core c t
    (u.1, (l, .hold, 0) :: u.2)
  | (_, .fault _ _) :: t => State.checkTargets s core c t

/-- The trap of a lane whose check failed (R152, R141, R492). -/
def targetTrap (c : TargetCheck) : Option Trap :=
  match c with
  | .illegal => some ⟨.target, 0, none, false⟩
  | .poisoned a => some ⟨.poisoned, 0, some a, false⟩
  | _ => none

/-- The lanes of a check whose fetch met a page fault. -/
def faultedChecks (l : List (LaneV × TargetCheck × Nat)) : List (Nat × Nat × Kind) :=
  l.filterMap (fun p => match p.2.1 with | .page k a => some (p.1.key, a, k) | _ => none)

/-- A read that a check needs waits at its home. -/
def checksHeld (l : List (LaneV × TargetCheck × Nat)) : Bool := l.any (fun p => p.2.1 == .hold)

/-- Transfer of R196 with the faults of R198 and R492: nothing takes effect while a table read or a target's fetch faults or is
held; lanes whose target is illegal trap; the others write their links and transfer. -/
def State.transfer (s : State) (op : Nat) (f : Slot) (tgt : State → Group → LaneV → State × Target) (link : Bool) : Result :=
  s.issue op f (fun gid g ls =>
    let core := s.coreOfBlock g.block
    let a := s.targets (fun s l => tgt s g l) (ls.filter (·.run))
    let faults := a.2.filterMap (fun p => match p.2 with | .fault k ad => some (p.1.key, ad, k) | _ => none)
    if !faults.isEmpty then (a.1.groupFault gid g (s.pageOf (s.ctxOf g.block).asid) false faults).after
    else
      let c := a.1.checkTargets core (s.ctxOf g.block) a.2
      if checksHeld c.2 then s.held
      else if !(faultedChecks c.2).isEmpty then (c.1.groupFault gid g lineOf false (faultedChecks c.2)).after
      else
        let good := c.2.filter (fun p => p.2.1 == .ok)
        let s1 := if link then c.1.eachLane (good.map Prod.fst) (fun _ t => t.setVal f.d.toNat 2 (nextPc g.pc).toNat) else c.1
        s1.finish gid g ls
          ⟨good.map (fun p => (p.1.key, BitVec.ofNat 64 p.2.2)), good.map (fun p => p.1.key),
            c.2.filterMap (fun p => (targetTrap p.2.1).map (fun t => (p.1.key, t))), []⟩)

/-- TableEntry of R198, read through the core as privileged or not as the block is. -/
def State.tableTarget (s : State) (f : Slot) (g : Group) (l : LaneV) : State × Target :=
  let ag : Agent := ⟨s.coreOfBlock g.block, s.ctxOf g.block, none⟩
  let ta := addI32 (bits g.pc.toNat 6 51 * 64) f.i32
  if ta % 8 ≠ 0 then (s, .pc none)
  else if s.tableBlocked l.key ta 4 then (s, .hold)
  else
    match s.load ag ta 4 with
    | (s1, .error (.page k a)) => (s1, .fault k a)
    | (s1, .error (.poisoned a)) => (s1, .poisoned a)
    | (s1, .error .held) => (s1, .hold)
    | (s1, .ok b) =>
      let i := readA f l.th 1
      if ofBytes b ≤ i then (s1, .pc none)
      else if s.tableBlocked l.key ((ta + 8 + 8 * i) % 2 ^ 64) 8 then (s, .hold)
      else
        match s1.load ag ((ta + 8 + 8 * i) % 2 ^ 64) 8 with
        | (s2, .error (.page k a)) => (s2, .fault k a)
        | (s2, .error (.poisoned a)) => (s2, .poisoned a)
        | (s2, .error .held) => (s2, .hold)
        | (s2, .ok e) => (s2, .pc (some (ofBytes e)))

/-- The target of BRA and CALL (R195). -/
def offsetTarget (f : Slot) (s : State) (g : Group) (_ : LaneV) : State × Target := (s, .pc (branchPc g.pc f.i32))

/-- BRA (R195). -/
def execBra (f : Slot) (s : State) : Result := s.transfer 0x01 f (offsetTarget f) false
/-- BRX (R198). -/
def execBrx (f : Slot) (s : State) : Result := s.transfer 0x02 f (fun s g l => s.tableTarget f g l) false
/-- CALL (R196). -/
def execCall (f : Slot) (s : State) : Result := s.transfer 0x03 f (offsetTarget f) true
/-- CALLX (R198). -/
def execCallx (f : Slot) (s : State) : Result := s.transfer 0x04 f (fun s g l => s.tableTarget f g l) true
/-- RET (R199). -/
def execRet (f : Slot) (s : State) : Result := s.transfer 0x05 f (fun s _ l => (s, .pc (some (readA f l.th 2)))) false

/-! ## Block barriers (R326, R328) -/

/-- Live threads of a block. -/
def State.liveThreads (s : State) (blk : Nat) : Nat := (s.v.threads.filter (fun p => p.2.block == blk && !p.2.exited)).length

def Block.bar (b : Block) (n : Nat) : Bar := Tab.get b.bars n ⟨false, 0, 0, [], [], none⟩

/-- CompletePhase of R328: every live thread is counted in the phase that opens. What the arrivals of the phase came after must
have been performed before a BAR.WAIT returns for it (R329). -/
def State.completePhase (s : State) (blk n : Nat) : State :=
  let s1 := s.updBlock blk (fun b =>
    { b with bars := Tab.set b.bars n ⟨!(b.bar n).phase, 0, s.liveThreads blk, [], (b.bar n).before, some s.clock⟩ })
  let s2 := s1.setThreads (Tab.mapv s1.v.threads (fun t =>
    if t.block == blk && !t.exited then { t with barIn := t.barIn ||| (1#16 <<< n) } else t))
  (s2.groupsOfBlock blk).foldl (fun s p => s.unpark p.1 (fun x => x == .barrier)) s2

/-- A phase whose expected count has come down to its arrivals completes (R328). -/
def State.checkBars (s : State) (blk : Nat) : State :=
  (List.range 16).foldl (fun s n =>
    match s.block? blk with
    | none => s
    | some b => if (b.bar n).expected ≤ (b.bar n).arrived then s.completePhase blk n else s) s

/-! ## Leaving and trapping -/

/-- A thread exits (R48): it leaves its group and the expected counts in which it stands. -/
def State.exitThread (s : State) (gid key : Nat) : State :=
  match s.thread? key with
  | none => s
  | some t =>
    let outstanding := (s.opsOfGroup gid).map Prod.fst
    let s1 := s.updThread key (fun t => { t with exited := true, held := none, waits := outstanding })
    let s2 := s1.updGroup gid (fun g => { g with members := g.members.filter (fun k => k != key) })
    s2.updBlock t.block (fun b =>
      { b with bars := b.bars.map (fun p => if t.barIn.getLsbD p.1 then (p.1, { p.2 with expected := p.2.expected - 1 }) else p) })

/-- A group some of whose threads have exited: without a thread it drains or returns its record. With held threads only, it files
what it can of them and makes one of their PCs current, as at a regrouping point, which is the model's choice (assumption
log 48). -/
def State.afterExit (s : State) (gid : Nat) (g : Group) (rest : List LaneV) : State :=
  match s.group? gid with
  | none => s
  | some g1 =>
    if g1.members.isEmpty then
      (s.updGroup gid (fun x => { x with st := .draining, plan := none, parks := [] })).checkDraining gid
    else if rest.isEmpty then
      (s.updGroup gid (fun x => { x with plan := some ⟨g.pc, nextPc g.pc, [], some [], [], none⟩ })).tryPlan gid
    else s

/-- EXIT (R200, R48): lanes with an open transaction abort with INSTR instead (R194). -/
def execExit (f : Slot) (s : State) : Result :=
  s.issue 0x06 f (fun gid g ls =>
    let gone := (ls.filter (fun l => l.run && !l.inTx)).map (·.key)
    let aborts := (ls.filter (fun l => l.run && l.inTx)).map (fun l => (l.key, Abort.instr, 0))
    let rest := ls.filter (fun l => !gone.contains l.key)
    if gone.isEmpty then s.finish gid g ls ⟨[], [], [], aborts⟩
    else
      let s1 := ((gone.foldl (fun s k => s.exitThread gid k) s).loseWhole gid).checkBars g.block
      let s2 := if rest.isEmpty then (s1.afterExit gid g rest).after else s1.finish gid g rest ⟨[], [], [], aborts⟩
      ((gone.filter (fun k => (s2.1.thread? k).any (fun t => t.waits.isEmpty))).foldl State.freeSlot s2.1,
        s2.2))

/-- TRAP (R201); inside a transaction it aborts with INSTR (R194). -/
def execTrap (f : Slot) (s : State) : Result :=
  s.issue 0x07 f (fun gid g ls =>
    s.finish gid g ls
      ⟨[], [], (ls.filter (fun l => l.run && !l.inTx)).map (fun l => (l.key, ⟨.userTrap, f.i32.toNat % 65536, none, false⟩)),
        (ls.filter (fun l => l.run && l.inTx)).map (fun l => (l.key, .instr, 0))⟩)

/-! ## Regrouping -/

/-- REFORM and YIELD: every executing thread is filed for NextPc once the flags are zero (R202, R203). -/
def State.regroup (s : State) (op : Nat) (f : Slot) (yield : Group → Nat → Option (List Nat × Nat)) : Result :=
  s.issue op f (fun gid g ls =>
    let np := nextPc g.pc
    let plan : Plan := ⟨g.pc, np, ls.map (fun l => (l.key, np)), some ((ls.filter (·.run)).map (·.key)), [], yield g gid⟩
    ((s.updGroup gid (fun g => { g with plan := some plan, scalars := [] })).tryPlan gid).after)

/-- REFORM (R202). -/
def execReform (f : Slot) (s : State) : Result := s.regroup 0x08 f (fun _ _ => none)

/-- YIELD (R203): its condition names the other groups of the block that are READY when it issues. -/
def execYield (f : Slot) (s : State) : Result :=
  s.regroup 0x09 f (fun g gid =>
    some (((s.groupsOfBlock g.block).filter (fun p => p.2.st == .ready && p.1 != gid)).map Prod.fst, s.clock))

/-! ## SPAWN (R204 to R206) -/

/-- The slot number of a thread index of a block (R25). -/
def Block.slotOf (b : Block) (tid : Nat) : Nat := b.slots.getD (tid / 64) 0 * 64 + tid % 64

/-- ChooseSlot of R206: the thread index of the child's slot. -/
def State.chooseSlot (s : State) (core blk : Nat) (b : Block) (entry : Pc) : Option Nat :=
  let coves := (s.groupsOfBlock blk).filter (fun p => p.2.st == .cove && p.2.pc == entry)
  let fits (g : Group) : List Nat := b.pool.filter (fun tid => !g.members.any (fun k => k % 64 == tid % 64))
  match coves.find? (fun p => !(fits p.2).isEmpty) with
  | some p => minBy b.slotOf (fits p.2)
  | none =>
    if !b.pool.isEmpty && s.covesInUse core < 64 && !(s.freeRecords core).isEmpty then minBy b.slotOf b.pool else none

/-- A thread as it starts (R30), at an entry and with given first registers. -/
def freshThread (blk tid slot : Nat) (pc : Pc) (regs : Tab Word) (barIn : BitVec 16) : Thread :=
  { block := blk, tid, slot, pc, regs, preds := 0, draws := 0, held := none, handler := false, trapPc := 0, trapCause := 0,
    trapAddr := 0, resume := 0, owedTrap := none, tx := none, lastAbort := (0, 0), barPend := 0, barPhase := 0, barIn, exited := false,
    waits := [] }

/-- One lane of SPAWN: a child in the chosen slot is filed for the entry; with no slot the lane takes SPAWNFULL. The child joins
the phases that opened in this cycle, and otherwise the next ones (R326, R351). -/
def State.spawnLane (s : State) (core : Nat) (g : Group) (entry : Pc) (l : LaneV) : State × Bool :=
  match s.block? g.block with
  | none => (s, false)
  | some b =>
    match s.chooseSlot core g.block b entry with
    | none => (s, false)
    | some tid =>
      let key := threadKey g.block tid
      let regs := (List.range 8).filterMap (fun i => (Tab.look l.th.regs i).map (fun w => (i, w)))
      let joins := (List.range 16).filter (fun n => (b.bar n).opened == some s.clock)
      let t := freshThread g.block tid (b.slotOf tid) entry regs (BitVec.ofNat 16 (maskOf joins))
      let s1 := s.updBlock g.block (fun b =>
        { b with
          pool := b.pool.filter (fun x => x != tid)
          bars := b.bars.map (fun p => if joins.contains p.1 then (p.1, { p.2 with expected := p.2.expected + 1 }) else p) })
      let s2 := s1.setThreads (Tab.set s1.v.threads key t)
      match s2.fileThread core key t [] with
      | some r => (r.1, true)
      | none => (s, false)

/-- Spawn for the executing lanes in order; the lanes that take SPAWNFULL. -/
def State.spawnAll (s : State) (core : Nat) (g : Group) (entry : Pc) : List LaneV → State × List Nat
  | [] => (s, [])
  | l :: ls =>
    let r := s.spawnLane core g entry l
    let t := State.spawnAll r.1 core g entry ls
    (t.1, if r.2 then t.2 else l.key :: t.2)

/-- SPAWN (R206); inside a transaction it aborts with INSTR (R194). It is a regrouping point for the children, which are filed
after the flag wait of R35 (R238). -/
def execSpawn (f : Slot) (s : State) : Result :=
  s.issue 0x0A f (fun gid g ls =>
    let core := s.coreOfBlock g.block
    let run := ls.filter (fun l => l.run && !l.inTx)
    let aborts := (ls.filter (fun l => l.run && l.inTx)).map (fun l => (l.key, Abort.instr, 0))
    let tgt := branchPc g.pc f.i32
    let c := if run.isEmpty then (s, TargetCheck.ok) else s.checkTarget core (s.ctxOf g.block) tgt
    match c.2 with
    | .hold => s.held
    | .page k line => (c.1.groupFault gid g lineOf false (run.map (fun l => (l.key, line, k)))).after
    | .ok =>
      if !run.isEmpty && !s.groupIdle gid g then (s.park gid .regroup).after
      else
      let r := (c.1.updGroup gid (fun g => if run.isEmpty then g else { g with owed := [] })).spawnAll core g (BitVec.ofNat 64 (tgt.getD 0)) run
      r.1.finish gid g ls ⟨[], [], r.2.map (fun k => (k, ⟨.spawnFull, 0, none, false⟩)), aborts⟩
    | bad =>
      c.1.finish gid g ls ⟨[], [], run.filterMap (fun l => (targetTrap bad).map (fun t => (l.key, t))), aborts⟩)

end Sys2Proof.Machine
end

