-- ==== Sys2Proof/Machine/Integer.lean ====
section
/-! DEFINITION. Integer and address arithmetic: opcodes 0x10 to 0x2D (R191, R215 to R223). -/

namespace Sys2Proof.Machine

open Sys2Proof

/-- Registers of the instruction's type (R165). -/
def wOf (f : Slot) : Nat := Rule.regs (Rule.ty f)

/-- Operand A as the type reads it (R191). -/
def intA (f : Slot) (t : Thread) : Int := readInt (Rule.ty f) (readA f t (wOf f))
/-- Operand B as the type reads it (R191, R170). -/
def intB (f : Slot) (g : Group) (t : Thread) : Int := readInt (Rule.ty f) (readB f g t (wOf f))
/-- Operand C as the type reads it (R191). -/
def intC (f : Slot) (t : Thread) : Int := readInt (Rule.ty f) (readC f t (wOf f))

/-- IntOp of R216: the exact result is clamped with .SAT, else wrapped, and written to D. -/
def State.intOp (s : State) (op : Nat) (f : Slot) (exact : Group → Thread → Int) : Result :=
  s.lanewiseD op f (wOf f) (fun g l => writeInt (Rule.ty f) (satInt (Rule.sat f) (Rule.ty f) (exact g l.th)))

/-- IADD (R216). -/
def execIadd (f : Slot) (s : State) : Result := s.intOp 0x10 f (fun g t => intA f t + intB f g t)
/-- ISUB (R216). -/
def execIsub (f : Slot) (s : State) : Result := s.intOp 0x11 f (fun g t => intA f t - intB f g t)
/-- IMUL (R216). -/
def execImul (f : Slot) (s : State) : Result := s.intOp 0x12 f (fun g t => intA f t * intB f g t)
/-- IMULH: bits [63:32] of the exact product (R217). -/
def execImulh (f : Slot) (s : State) : Result :=
  s.lanewiseD 0x13 f 1 (fun g l => wrap 64 (intA f l.th * intB f g l.th) / 4294967296)
/-- IMAD (R216). -/
def execImad (f : Slot) (s : State) : Result := s.intOp 0x14 f (fun g t => intA f t * intB f g t + intC f t)
/-- IMIN (R217). -/
def execImin (f : Slot) (s : State) : Result := s.intOp 0x16 f (fun g t => min (intA f t) (intB f g t))
/-- IMAX (R217). -/
def execImax (f : Slot) (s : State) : Result := s.intOp 0x17 f (fun g t => max (intA f t) (intB f g t))
/-- IABS (R216). -/
def execIabs (f : Slot) (s : State) : Result := s.intOp 0x18 f (fun _ t => ((intA f t).natAbs : Int))
/-- INEG (R216). -/
def execIneg (f : Slot) (s : State) : Result := s.intOp 0x19 f (fun _ t => 0 - intA f t)

/-- A bitwise form of the width of its type (R215). -/
def State.bitOp (s : State) (op : Nat) (f : Slot) (g : Nat → Nat → Nat) : Result :=
  s.lanewiseD op f (wOf f) (fun gr l => g (readA f l.th (wOf f)) (readB f gr l.th (wOf f)))

/-- AND (R215). -/
def execAnd (f : Slot) (s : State) : Result := s.bitOp 0x1A f Nat.land
/-- OR (R215). -/
def execOr (f : Slot) (s : State) : Result := s.bitOp 0x1B f Nat.lor
/-- XOR (R215). -/
def execXor (f : Slot) (s : State) : Result := s.bitOp 0x1C f Nat.xor
/-- NOT (R215). -/
def execNot (f : Slot) (s : State) : Result :=
  s.lanewiseD 0x1D f (wOf f) (fun _ l => 2 ^ tyWidth (Rule.ty f) - 1 - readA f l.th (wOf f))

/-- A shift of A, `w` bits wide, by the count in B (R219). -/
def State.shiftOp (s : State) (op : Nat) (f : Slot) (g : Nat → Nat → Nat → Nat) : Result :=
  s.lanewiseD op f (wOf f) (fun gr l => g (tyWidth (Rule.ty f)) (readA f l.th (wOf f)) (readB1 f gr l.th))

/-- A moved left by `k` bits within `w` (R219). -/
def shiftLeft (w a k : Nat) : Nat := if w ≤ k then 0 else a * 2 ^ k % 2 ^ w
/-- A moved right by `k` bits, zero-filled (R219). -/
def shiftRight (w a k : Nat) : Nat := if w ≤ k then 0 else a / 2 ^ k
/-- A moved right by `k` bits, filled with its sign (R219). -/
def shiftArith (w a k : Nat) : Nat := wrap w (signed w a / (2 ^ min k w : Nat))
/-- A rotated left by `k` modulo `w` (R219). -/
def rotateLeft (w a k : Nat) : Nat := a * 2 ^ (k % w) % 2 ^ w + a / 2 ^ (w - k % w)

/-- SHL (R219). -/
def execShl (f : Slot) (s : State) : Result := s.shiftOp 0x1E f shiftLeft
/-- SHR (R219). -/
def execShr (f : Slot) (s : State) : Result := s.shiftOp 0x1F f shiftRight
/-- SAR (R219). -/
def execSar (f : Slot) (s : State) : Result := s.shiftOp 0x20 f shiftArith
/-- ROT (R219). -/
def execRot (f : Slot) (s : State) : Result := s.shiftOp 0x21 f rotateLeft

/-- The field that BFE extracts (R220). -/
def bitField (signedTy : Bool) (w a b : Nat) : Nat :=
  let len := min (bits b 8 8) w
  let v := bits a (b % 256) len
  if signedTy && len ≠ 0 then wrap w (signed len v) else v

/-- C with the low bits of A inserted at a position (R220). -/
def insertField (w a b c : Nat) : Nat :=
  let pos := b % 256
  let len := min (bits b 8 8) w
  maskOf ((List.range w).filter (fun i => if pos ≤ i && i < pos + len then bit a (i - pos) else bit c i))

/-- BFE (R220). -/
def execBfe (f : Slot) (s : State) : Result := s.shiftOp 0x22 f (bitField (tySigned (Rule.ty f)))
/-- BFI (R220): A and B are single registers. A field longer than 32 bits takes zeros from beyond A, which is the model's choice
(assumption log 45). -/
def execBfi (f : Slot) (s : State) : Result :=
  s.lanewiseD 0x23 f (wOf f) (fun g l => insertField (tyWidth (Rule.ty f)) (readA f l.th 1) (readB1 f g l.th) (readC f l.th (wOf f)))

/-- A unary form (R215); `n` registers of D. -/
def State.unaryOp (s : State) (op : Nat) (f : Slot) (n : Nat) (g : Nat → Nat → Nat) : Result :=
  s.lanewiseD op f n (fun _ l => g (tyWidth (Rule.ty f)) (readA f l.th (wOf f)))

/-- Leading zero bits of a value of `w` bits; `w` for zero (R215). -/
def leadingZeros (w a : Nat) : Nat := if a % 2 ^ w = 0 then w else w - 1 - Nat.log2 (a % 2 ^ w)
/-- The bits of a value of `w` bits in reverse order (R215). -/
def reverseBits (w a : Nat) : Nat := maskOf ((List.range w).filter (fun j => bit a (w - 1 - j)))

/-- POPC (R215). -/
def execPopc (f : Slot) (s : State) : Result := s.unaryOp 0x24 f 1 popCount
/-- CLZ (R215). -/
def execClz (f : Slot) (s : State) : Result := s.unaryOp 0x25 f 1 leadingZeros
/-- BREV (R215). -/
def execBrev (f : Slot) (s : State) : Result := s.unaryOp 0x26 f (wOf f) reverseBits

/-- A condition of R221 on integers. -/
def condInt (sub : Nat) (a b : Int) : Bool :=
  match sub with
  | 0 => a == b
  | 1 => a != b
  | 2 => decide (a < b)
  | 3 => decide (a ≤ b)
  | 4 => decide (b < a)
  | _ => decide (b ≤ a)

/-- ISEL (R221). -/
def execIsel (f : Slot) (s : State) : Result :=
  s.lanewiseD 0x27 f (wOf f) (fun g l => if l.th.pred f.c.toNat then readA f l.th (wOf f) else readB f g l.th (wOf f))
/-- ICMP (R221). -/
def execIcmp (f : Slot) (s : State) : Result :=
  s.lanewiseP 0x28 f (fun g l => condInt (Rule.sub f) (intA f l.th) (intB f g l.th) && l.th.pred f.c.toNat)

/-- The second term of IADD64 (R222). -/
def addTerm (f : Slot) (g : Group) (t : Thread) : Int :=
  match Rule.sub f with
  | 0 => intB f g t
  | 1 => signed 32 (readB1 f g t)
  | _ => (readB1 f g t : Int)

/-- Ext of R222: a 32-bit value read as signed or natural. -/
def ext32 (sg : Bool) (v : Nat) : Int := if sg then signed 32 v else (v : Int)

/-- IADD64 (R222). -/
def execIadd64 (f : Slot) (s : State) : Result := s.intOp 0x29 f (fun g t => intA f t + addTerm f g t)
/-- IMAD64 (R222). -/
def execImad64 (f : Slot) (s : State) : Result :=
  let sg := tySigned (Rule.ty f)
  s.intOp 0x2A f (fun g t => ext32 sg (readA f t 1) * ext32 sg (readB1 f g t) + intC f t)
/-- LEA (R222). -/
def execLea (f : Slot) (s : State) : Result :=
  s.lanewiseD 0x2B f 2 (fun g l =>
    wrap 64 ((readA f l.th 2 : Int) + ext32 (tySigned (Rule.ty f)) (readB1 f g l.th) * (2 ^ Rule.sub f : Nat)))
/-- MOV (R223). -/
def execMov (f : Slot) (s : State) : Result := s.lanewiseD 0x2C f (wOf f) (fun _ l => readA f l.th (wOf f))
/-- MOVI (R223). -/
def execMovi (f : Slot) (s : State) : Result := s.lanewiseD 0x2D f (wOf f) (fun g l => readB f g l.th (wOf f))

end Sys2Proof.Machine
end

