-- ==== Sys2Proof/Machine/Float.lean ====
section
/-! DEFINITION. Floating-point arithmetic: opcodes 0x40 to 0x4D (R278 to R290). -/

namespace Sys2Proof.Machine

open Sys2Proof

/-- Elements of a packed type, and their width in bits (R278). -/
def elemCount (ty : Nat) : Nat := if ty = 20 || ty = 21 then 2 else 1
def elemBits (ty : Nat) : Nat := if ty = 20 || ty = 21 then 16 else tyWidth ty

/-- Element `j` of a value. -/
def elemAt (ty v j : Nat) : Nat := bits v (elemBits ty * j) (elemBits ty)

/-- The value that elements make, element 0 lowest. -/
def ofElems (ty : Nat) : List Nat → Nat
  | [] => 0
  | e :: t => e % 2 ^ elemBits ty + 2 ^ elemBits ty * ofElems ty t

/-- The 24 bits that the `n`-th draw of a thread gives a rounding (R71, R73). -/
def State.drawer (s : State) (blk tid : Nat) (n : BitVec 32) : Nat :=
  match s.block? blk, s.record? blk with
  | some b, some r => rsDraw r.seed.toNat b.index tid n.toNat / 256
  | _, _ => 0

/-- One rounding of R71, with its draw under RS: the code, and the draw counter after it. -/
def roundDraw (draw : BitVec 32 → Nat) (n : BitVec 32) (f : Fmt) (mode : Nat) (sat : Bool) (x : Val) : Nat × BitVec 32 :=
  if mode = 5 then (roundF f mode sat (draw n) x, n + 1) else (roundF f mode sat 0 x, n)

/-- Round the elements of a result in order, with the flush of .FTZ (R283). -/
def roundElems (draw : BitVec 32 → Nat) (f : Fmt) (mode : Nat) (ftz : Bool) : BitVec 32 → List Val → List Nat × BitVec 32
  | n, [] => ([], n)
  | n, x :: t =>
    let r := roundDraw draw n f mode false x
    let u := roundElems draw f mode ftz r.2 t
    (flushF f ftz x r.1 :: u.1, u.2)

/-- Read element `j` of an operand value, flushed under .FTZ (ReadF of R283). -/
def readElem (f : Slot) (v j : Nat) : Val := readF (fmtOf (Rule.ty f)) (Rule.ftz f) (elemAt (Rule.ty f) v j)

/-- FArith of R283: each element of the exact result is rounded once and written. `exact` is given the thread whose
registers are the sources and the element. Where both slots of a pair draw in one thread, the lower slot draws first, which is the model's
choice (R73, R161; assumption log 61). -/
def State.floatOp (s : State) (op : Nat) (f : Slot) (exact : Group → Thread → Nat → Val) : Result :=
  s.lanewise op f (fun g l t =>
    let xs := (List.range (elemCount (Rule.ty f))).map (exact g l.th)
    let r := roundElems (s.drawer t.block t.tid) (fmtOf (Rule.ty f)) (Rule.rnd f) (Rule.ftz f) t.draws xs
    { t with draws := r.2 }.setVal f.d.toNat (wOf f) (ofElems (Rule.ty f) r.1))

/-- A form without rounding: each element of D is formed from those of the sources. -/
def State.floatBits (s : State) (op : Nat) (f : Slot) (g : Group → Thread → Nat → Nat) : Result :=
  s.lanewiseD op f (wOf f) (fun gr l => ofElems (Rule.ty f) ((List.range (elemCount (Rule.ty f))).map (g gr l.th)))

/-- Elements of the operands as ReadF gives them. -/
def fA (f : Slot) (t : Thread) (j : Nat) : Val := readElem f (readA f t (wOf f)) j
def fB (f : Slot) (g : Group) (t : Thread) (j : Nat) : Val := readElem f (readB f g t (wOf f)) j
def fC (f : Slot) (t : Thread) (j : Nat) : Val := readElem f (readC f t (wOf f)) j

/-- The mode is RM, under which an exact zero sum is −0 (R75). -/
def isRm (f : Slot) : Bool := Rule.rnd f == 3

/-- FADD (R283). -/
def execFadd (f : Slot) (s : State) : Result := s.floatOp 0x40 f (fun g t j => Val.add (isRm f) (fA f t j) (fB f g t j))
/-- FSUB (R283). -/
def execFsub (f : Slot) (s : State) : Result :=
  s.floatOp 0x41 f (fun g t j => Val.add (isRm f) (fA f t j) (fB f g t j).negate)
/-- FMUL (R283). -/
def execFmul (f : Slot) (s : State) : Result := s.floatOp 0x42 f (fun g t j => Val.mul (fA f t j) (fB f g t j))
/-- FMA: the product and the sum are exact before the one rounding (R283). -/
def execFma (f : Slot) (s : State) : Result :=
  s.floatOp 0x43 f (fun g t j => Val.add (isRm f) (Val.mul (fA f t j) (fB f g t j)) (fC f t j))

/-- The smaller of two values, −0 below +0; a NaN gives way to the other (R284). -/
def minVal (a b : Val) : Val :=
  match a, b with
  | .nan, y => y
  | x, .nan => x
  | .zero s, .zero t => .zero (s || t)
  | x, y => if Val.lt y x then y else x

/-- The larger of two values (R284). -/
def maxVal (a b : Val) : Val :=
  match a, b with
  | .nan, y => y
  | x, .nan => x
  | .zero s, .zero t => .zero (s && t)
  | x, y => if Val.lt x y then y else x

/-- The code of a value that the format holds. -/
def codeOf (f : Fmt) (x : Val) : Nat := roundF f 0 false 0 x

/-- FMIN (R284). -/
def execFmin (f : Slot) (s : State) : Result :=
  s.floatBits 0x44 f (fun g t j => codeOf (fmtOf (Rule.ty f)) (minVal (fA f t j) (fB f g t j)))
/-- FMAX (R284). -/
def execFmax (f : Slot) (s : State) : Result :=
  s.floatBits 0x45 f (fun g t j => codeOf (fmtOf (Rule.ty f)) (maxVal (fA f t j) (fB f g t j)))

/-- The magnitude bits of an element, and its sign bit. -/
def magBits (ty v : Nat) : Nat := v % 2 ^ (elemBits ty - 1)
def signBit (ty v : Nat) : Bool := bit v (elemBits ty - 1)

/-- FABS (R285). -/
def execFabs (f : Slot) (s : State) : Result :=
  s.floatBits 0x46 f (fun _ t j => magBits (Rule.ty f) (elemAt (Rule.ty f) (readA f t (wOf f)) j))
/-- FNEG (R285). -/
def execFneg (f : Slot) (s : State) : Result :=
  s.floatBits 0x47 f (fun _ t j =>
    let e := elemAt (Rule.ty f) (readA f t (wOf f)) j
    magBits (Rule.ty f) e + (if signBit (Rule.ty f) e then 0 else 2 ^ (elemBits (Rule.ty f) - 1)))
/-- FSEL (R285). -/
def execFsel (f : Slot) (s : State) : Result :=
  s.floatBits 0x49 f (fun g t j =>
    elemAt (Rule.ty f) (if t.pred f.c.toNat then readA f t (wOf f) else readB f g t (wOf f)) j)

/-- A condition of R286. -/
def condFloat (sub : Nat) (a b : Val) : Bool :=
  let ok := !a.isNan && !b.isNan
  match sub with
  | 0 => ok && Val.eq a b
  | 1 => !ok || !Val.eq a b
  | 2 => ok && Val.lt a b
  | 3 => ok && !Val.lt b a
  | 4 => ok && Val.lt b a
  | 5 => ok && !Val.lt a b
  | 6 => ok
  | _ => !ok

/-- FCMP (R286). -/
def execFcmp (f : Slot) (s : State) : Result :=
  s.lanewiseP 0x48 f (fun g l => condFloat (Rule.sub f) (fA f l.th 0) (fB f g l.th 0) && l.th.pred f.c.toNat)

/-- The class bit of a code (R287). -/
def classBit (f : Fmt) (v : Nat) : Nat :=
  match decodeF f v with
  | .nan => 0
  | .inf s => if s then 1 else 8
  | .zero s => if s then 4 else 5
  | .fin s _ _ _ => if isSubnormal f (v % 2 ^ f.bits) then (if s then 3 else 6) else (if s then 2 else 7)

/-- FCLASS (R287). -/
def execFclass (f : Slot) (s : State) : Result :=
  s.lanewiseD 0x4A f 1 (fun _ l => 2 ^ classBit (fmtOf (Rule.ty f)) (readA f l.th (wOf f)))

/-- The exponent of FSCALE, kept within bounds beyond which the rounded result does not change. -/
def scaleBy (k : Int) : Int := max (-5000) (min 5000 k)

/-- FSCALE (R288). -/
def execFscale (f : Slot) (s : State) : Result :=
  s.floatOp 0x4B f (fun g t j => (fA f t j).scale (scaleBy (signed 32 (readB1 f g t))))

/-- FRND of one element (R289): rounded to an integral value with spacing 1, a zero keeping its sign. -/
def integral (mode u : Nat) (x : Val) : Val :=
  match x with
  | .fin s _ _ _ => let r := x.toInt mode u; if r = 0 then .zero s else Val.ofInt r
  | v => v

/-- The elements of FRND in order, each with one draw under RS (R289). -/
def integralElems (draw : BitVec 32 → Nat) (f : Fmt) (mode : Nat) : BitVec 32 → List Val → List Nat × BitVec 32
  | n, [] => ([], n)
  | n, x :: t =>
    let u := integralElems draw f mode (if mode = 5 then n + 1 else n) t
    (codeOf f (integral mode (if mode = 5 then draw n else 0) x) :: u.1, u.2)

/-- FRND (R289). -/
def execFrnd (f : Slot) (s : State) : Result :=
  s.lanewise 0x4C f (fun _ l t =>
    let xs := (List.range (elemCount (Rule.ty f))).map (fA f l.th)
    let r := integralElems (s.drawer t.block t.tid) (fmtOf (Rule.ty f)) (Rule.rnd f) t.draws xs
    { t with draws := r.2 }.setVal f.d.toNat (wOf f) (ofElems (Rule.ty f) r.1))

/-- FDOT2: the exact sum of two products of halves and C (R290). -/
def dotExact (f : Slot) (a b c : Nat) : Val :=
  let h := if Rule.sub f = 0 then fmtF16 else fmtBF16
  let half (v j : Nat) : Val := readF h (Rule.ftz f) (bits v (16 * j) 16)
  Val.sum (isRm f) [Val.mul (half a 0) (half b 0), Val.mul (half a 1) (half b 1), readF fmtF32 (Rule.ftz f) c]

/-- FDOT2 (R290). -/
def execFdot2 (f : Slot) (s : State) : Result :=
  s.floatOp 0x4D f (fun g t _ => dotExact f (readA f t 1) (readB f g t 1) (readC f t 1))

end Sys2Proof.Machine
end

