-- ==== Sys2Proof/Machine/Reach.lean ====
section
/-! DEFINITION. How the accesses of outstanding instructions are made: checks (R241), range locks (R265), order (R312, R317,
R325), attributes (R96), requests for lines (R101, R243), and what each access does where it is served. -/

namespace Sys2Proof.Machine

open Sys2Proof

/-! ## Range locks (R264, R265) -/

/-- The entry covers some byte of a range of a block's scratchpad (`some`) or of a name (`none`). Bytes of the global window have name
0, whatever the range's first byte is under (R84). An empty range covers none. -/
def RangeLock.overlaps (k : RangeLock) (core : Nat) (block : Option Nat) (asid lo hi : Nat) : Bool :=
  k.core == core && k.block == block && (block.isSome || k.asid == asid || 2 ^ 56 < min k.hi hi) && lo < hi && k.lo < k.hi && k.lo < hi && lo < k.hi

/-- The table of R265 for an access of an opcode. -/
def State.lockConflict (s : State) (op core : Nat) (block : Option Nat) (asid lo hi : Nat) : Bool :=
  if op = 0x84 || op = 0x87 then false
  else
    let reads := [0x80, 0x82, 0x8B, 0xB4, 0xB5].contains op
    s.v.locks.any (fun k => k.overlaps core block asid lo hi && (k.dst || !reads))

/-- Free entries of a core's table (R264). -/
def State.freeLocks (s : State) (core : Nat) : Nat := 64 - (s.v.locks.filter (fun k => k.core == core)).length

/-! ## The checks of a lane's address (R241) -/

/-- What the checks before the attributes find. -/
inductive Checked where
  | go (ea : Nat)
  | trap (t : Trap)
  /-- The page fault NONCANON (R83). -/
  | fault (ea : Nat)
  deriving DecidableEq, Repr

/-- CheckAccess of R241 for a scratchpad address. -/
def State.checkScratch (s : State) (op core blk : Nat) (ea : Int) (w : Nat) : Checked :=
  if ea % w ≠ 0 then .trap ⟨.misaligned, 0, some (wrap 64 ea), recordWrite op⟩
  else if ea < 0 || (s.scratchSize blk : Int) < ea + w then .trap ⟨.scratchBound, 0, some (wrap 64 ea), recordWrite op⟩
  else if s.lockConflict op core (some blk) 0 ea.toNat (ea.toNat + w) then .trap ⟨.rangeLock, 0, some ea.toNat, recordWrite op⟩
  else .go ea.toNat

/-- CheckAccess of R241 for a global address. -/
def State.checkGlobal (s : State) (op core blk ea w : Nat) : Checked :=
  if ea % w ≠ 0 then .trap ⟨.misaligned, 0, some ea, recordWrite op⟩
  else if 2 ^ 57 ≤ ea then .fault ea
  else if s.lockConflict op core none (nameAsid (s.ctxOf blk).asid ea) ea (ea + w) then .trap ⟨.rangeLock, 0, some ea, recordWrite op⟩
  else .go ea

/-! ## Scratchpad -/

def Block.byte (b : Block) (i : Nat) : Byte := Tab.get b.scratch i 0
def Block.bytes (b : Block) (i : Nat) : Nat → List Byte
  | 0 => []
  | n + 1 => b.byte i :: Block.bytes b (i + 1) n
/-- One byte of scratchpad; an unlisted byte reads zero (R242). -/
def Block.setByte (b : Block) (i : Nat) (x : Byte) : Block :=
  { b with scratch := if x = 0 then Tab.del b.scratch i else Tab.set b.scratch i x }
def Block.setBytes (b : Block) (i : Nat) : List Byte → Block
  | [] => b
  | x :: t => Block.setBytes (b.setByte i x) (i + 1) t
def Block.isFull (b : Block) (ea : Nat) : Bool := b.full.contains (ea / 16)
def Block.setFull (b : Block) (ea : Nat) (v : Bool) : Block :=
  { b with full := if v then insertNat (ea / 16) b.full else b.full.filter (fun x => x != ea / 16) }
/-- Mark every granule of a range of scratchpad. -/
def Block.markRange (b : Block) (lo len : Nat) (v : Bool) : Block :=
  (List.range (len / 16)).foldl (fun b i => b.setFull (lo + 16 * i) v) b

/-- What a load writes to D (R248). -/
def loadWords (ty : Nat) (b : List Byte) : List Word :=
  let v := ofBytes b
  wordsOf (Rule.regs ty) (if tySigned ty then writeInt ty (v : Int) else v)

/-- A write to a block's scratchpad tests its stage barriers again (R332). -/
def State.wakeStage (s : State) (blk : Nat) : State :=
  (s.groupsOfBlock blk).foldl (fun s p => s.unpark p.1 (fun x => x == .stage)) s

/-- SbarArrive of R332 on a word: the new word and the token; none takes BARRIER. -/
def sbarArrive (w n : Nat) : Option (Nat × Nat) :=
  let expected := bits w 32 16
  if bits w 48 16 ≠ 0 || expected = 0 then none
  else
    let tok := w % 65536
    let sum := bits w 16 16 + n % 65536
    if expected ≤ sum then some (expected * 2 ^ 32 + (tok + 1) % 65536, tok)
    else some (expected * 2 ^ 32 + sum * 65536 + tok, tok)

/-- One lane of a scratchpad access, in one atomic step (R248, R249, R251, R332). None: it must wait. -/
def Block.serve (b : Block) (op : Nat) (f : Slot) (l : LaneOp) : Option (Block × LaneOp) :=
  let ty := Rule.ty f
  let w := tyWidth ty / 8
  let data := bytesOf w (ofWords l.b)
  match op with
  | 0x82 => some (b, { l with stage := .done, res := loadWords ty (b.bytes l.ea w) })
  | 0x83 => some (b.setBytes l.ea data, { l with stage := .done })
  | 0x84 =>
    if b.isFull l.ea then
      some (if Rule.sub f = 1 then b.setFull l.ea false else b, { l with stage := .done, res := loadWords ty (b.bytes l.ea w) })
    else none
  | 0x85 =>
    if Rule.sub f = 0 && b.isFull l.ea then none
    else some ((b.setBytes l.ea data).setFull l.ea true, { l with stage := .done })
  | 0x86 => some (b.markRange l.ea (ofWords l.b) (Rule.sub f == 1), { l with stage := .done })
  | 0xB3 =>
    match sbarArrive (ofBytes (b.bytes l.ea 8)) (ofWords l.b) with
    | some (w', tok) => some (b.setBytes l.ea (bytesOf 8 w'), { l with stage := .done, res := wordsOf 1 tok })
    | none => none
  | _ =>
    let ph := ofBytes (b.bytes l.ea 8) % 65536
    some (b, { l with stage := .done, res := wordsOf 1 (if ph ≠ ofWords l.b % 65536 then 1 else 0) })

/-- The scratchpad lanes of an outstanding instruction, ascending; a lane that must wait holds back those after it on its
granule (R250). -/
def State.serveScratch (s : State) (id : Nat) (waiting : List Nat) : List LaneOp → State
  | [] => s
  | l :: ls =>
    match s.op? id with
    | none => s
    | some o =>
      if l.stage != .ready && l.stage != .wait then State.serveScratch s id waiting ls
      else if waiting.contains (l.ea / 16) || s.laneBlocked id o l then State.serveScratch s id ((l.ea / 16) :: waiting) ls
      else
        match s.block? o.block with
        | none => s
        | some b =>
          match b.serve o.opc o.f l with
          | some r =>
            let s1 := (s.updBlock o.block (fun _ => r.1)).updLane id l.lane (fun _ => r.2)
            let s2 := if opWrites o.opc then s1.wakeStage o.block else s1
            State.serveScratch s2 id waiting ls
          | none =>
            if o.opc = 0xB3 then State.serveScratch (s.trapLanes id [l.lane] (fun _ => ⟨.barrier, 0, none, false⟩)) id waiting ls
            else State.serveScratch (s.updLane id l.lane (fun l => { l with stage := .wait })) id ((l.ea / 16) :: waiting) ls

/-- Serve what can be served of an instruction on scratchpad. -/
def State.scratchOp (s : State) (id : Nat) : State :=
  match s.op? id with
  | none => s
  | some o => if opScratch o.opc && s.going id o then (s.serveScratch id [] o.lanes).repark id else s

/-- Serve every instruction on the scratchpad of a resident block, those of one cycle in ascending group record (R277, R310), and those of
one group in program order. -/
def State.scratchAll (s : State) : State :=
  (sortBy (fun (p : Nat × Op) => match s.group? p.2.group with | some g => g.record | none => 0)
    (s.v.ops.filter (fun p => opScratch p.2.opc && !p.2.lanes.all LaneOp.ended))).foldl
    (fun s p => ((s.scratchOp p.1).tryPlans p.2.block)) s

/-! ## Atomics (R257, R258) -/

/-- Combine one float element with RN (R258). -/
def combineFloat (fm : Fmt) (sub a b : Nat) : Nat :=
  let x := decodeF fm a
  let y := decodeF fm b
  match sub with
  | 0 => roundF fm 0 false 0 (Val.add false x y)
  | 1 => codeOf fm (minVal x y)
  | _ => codeOf fm (maxVal x y)

/-- Combine of R257 and R258: the value that an atomic writes. -/
def combineAtomic (sub ty : Nat) (sat : Bool) (old operand : Nat) : Nat :=
  match sub with
  | 3 => Nat.land old operand
  | 4 => Nat.lor old operand
  | 5 => Nat.xor old operand
  | 6 => operand
  | _ =>
    if ty = 13 || ty = 14 then combineFloat (fmtOf ty) sub old operand
    else if ty = 20 || ty = 21 then
      ofElems ty ((List.range 2).map (fun j => combineFloat (fmtOf ty) sub (elemAt ty old j) (elemAt ty operand j)))
    else
      let a := readInt ty old
      let b := readInt ty operand
      match sub with
      | 0 => writeInt ty (satInt sat ty (a + b))
      | 1 => writeInt ty (min a b)
      | _ => writeInt ty (max a b)

/-! ## POLL (R262, R263) -/

/-- The limit of a POLL lane has elapsed. -/
def limitElapsed (now issued : Nat) (l : LaneOp) : Bool :=
  let lim := ofWords l.c
  lim != 0 && issued + lim ≤ now

/-- A POLL lane after a read. -/
def pollRead (f : Slot) (now issued : Nat) (b : List Byte) (l : LaneOp) : LaneOp :=
  let same := ofBytes b == ofWords l.b
  let met := if Rule.sub f = 0 then !same else same
  if met || limitElapsed now issued l then { l with stage := .done, res := wordsOf (Rule.regs (Rule.ty f)) (ofBytes b) }
  else { l with stage := .wait, due := now + 64 * 2 ^ min l.reads 6, reads := l.reads + 1 }

/-! ## What an access does where it is served -/

/-- Perform the access of one lane on its line. -/
def State.performLane (s : State) (id : Nat) (o : Op) (a : Attr) (wh : Where) (given : List Byte) (l : LaneOp) : State :=
  let core := s.coreOfBlock o.block
  let c := s.ctxOf o.block
  let asid := nameAsid c.asid l.ea
  let who : Writer := ⟨false, c.secure⟩
  let ty := Rule.ty o.f
  let w := opWidth o.opc o.f
  let get := s.readAt s.regRead core a wh asid l.ea w given
  let put (s : State) (va v n : Nat) : State := s.writeAt who core a wh asid va (bytesOf n v) (some l.key)
  let done (s : State) (res : List Word) : State := s.updLane id l.lane (fun l => { l with stage := .done, res := res })
  match o.opc with
  | 0x80 => done get.2 (loadWords ty get.1)
  | 0x81 => done (put s l.ea (ofWords l.b) w) []
  | 0x88 =>
    let old := ofBytes get.1
    done (put get.2 l.ea (combineAtomic (Rule.sub o.f) ty (Rule.msat o.f) old (ofWords l.b)) w) (wordsOf (Rule.regs ty) old)
  | 0x89 =>
    let old := ofBytes get.1
    done (if old = ofWords l.b then put get.2 l.ea (ofWords l.c) w else get.2) (wordsOf (Rule.regs ty) old)
  | 0x8A => done (put get.2 l.ea (combineAtomic (Rule.sub o.f) ty (Rule.msat o.f) (ofBytes get.1) (ofWords l.b)) w) []
  | 0x8B => get.2.updLane id l.lane (pollRead o.f s.clock o.issued get.1)
  | 0xA6 => let n := s.pageLine a; done (put s (l.ea / n * n) 0 n) []
  | _ => done s []

/-- Lanes of a request, ascending. -/
def Op.lanesIn (o : Op) (q : Req) : List LaneOp := o.lanes.filter (fun l => q.lanes.contains l.lane)

/-- The lanes of a store write every byte of the line (R142, R243). -/
def coversLine (o : Op) (q : Req) : Bool :=
  o.opc == 0xA6 || (o.opc == 0x81 &&
    (List.range q.size).all (fun i => (o.lanesIn q).any (fun l => l.ea ≤ q.va + i && q.va + i < l.ea + opWidth o.opc o.f)))

/-- What a request does to its line. A store asks for ownership (R131); a CAS revives a discarded page only where it writes, that
is, where some lane expects the zero that it reads (R139, R255). -/
def needOf (o : Op) (q : Req) : Need :=
  { write := opWrites o.opc
    full := coversLine o q
    read := !(o.opc == 0x81 || o.opc == 0xA6)
    own := o.opc == 0x81
    revives := opWrites o.opc && (o.opc != 0x89 || (o.lanesIn q).any (fun l => ofWords l.b == 0))
    inst := false }

/-- Some lane's write would doom the holder of the commit lock, and is held (R345); or its granule is being committed
(R340). -/
def State.heldLanes (s : State) (o : Op) (q : Req) : Bool :=
  (o.lanesIn q).any (fun l => s.ticketHolds q.asid l.ea (opWidth o.opc o.f) (some l.key))
  || opWrites o.opc && (o.lanesIn q).any (fun l =>
    s.heldForLock (s.slicePlace q.attr q.asid l.ea) q.asid l.ea (if o.opc = 0xA6 then q.size else opWidth o.opc o.f) (some l.key))

/-! ## RED contributions that the networks may merge (R82, R244) -/

/-- A contribution to a RED: its instruction, and the lane with the value it brings. -/
structure Contribution where
  id : Nat
  o : Op
  l : LaneOp
  deriving DecidableEq, Repr

/-- A RED whose contributions the networks may merge in any tree: a floating-point addition without .X (R82). -/
def mergesFreely (o : Op) : Bool :=
  o.opc == 0x8A && Rule.sub o.f == 0 && [13, 14, 20, 21].contains (Rule.ty o.f) && !Rule.xbit o.f

/-- `y` merged into `x`, rounded once with RN (R82). -/
def mergedInto (x y : Contribution) : Contribution :=
  let ty := Rule.ty x.o.f
  { x with l := { x.l with b := wordsOf (Rule.regs ty) (combineAtomic 0 ty false (ofWords x.l.b) (ofWords y.l.b)) } }

/-- A lane of a mergeable RED is held back by something else than REDs of its type, which it may merge with (R82): one that releases is
such a RED where it is being served itself, as `now`. -/
def State.mergeBlocked (s : State) (now id : Nat) (o : Op) (l : LaneOp) : Bool :=
  s.poAny id l.key (fun p x =>
    !(mergesFreely p && Rule.ty p.f == Rule.ty o.f && (!opReleases p.opc p.f || s.op? now == some p))
      && (p.opc == 0xB0 || opAcquires p.opc p.f || poReads p.opc || sameSpot p o x l))
    || (opReleases o.opc o.f && s.poAny id l.key (fun _ _ => true))

/-- Other requests to the same line that the networks can merge with `q`: free to reach the home, and of the same type. -/
def State.mergePeers (s : State) (rid : Nat) (o : Op) (q : Req) : List (Nat × Op × Req) :=
  s.v.reqs.filterMap (fun p =>
    if p.1 == rid || p.2.asid != q.asid || p.2.va != q.va || p.2.attr != q.attr || p.2.stage != .home then none
    else
      match s.op? p.2.op with
      | none => none
      | some o2 =>
        if mergesFreely o2 && Rule.ty o2.f == Rule.ty o.f && s.live o2.block && !(o2.lanesIn p.2).any (fun l => s.mergeBlocked q.op p.2.op o2 l)
          && !s.heldLanes o2 p.2 then some (p.1, o2, p.2)
        else none)

/-- Contributions arrive at the home one at a time, in a free order; on the way, any two to one address may have become
one, by a free choice (R82). -/
def State.serveMerged (s : State) (a : Attr) (wh : Where) (given : List Byte) : Nat → List Contribution → State
  | _, [] => s
  | _, [c] => s.performLane c.id c.o a wh given c.l
  | 0, cs => cs.foldl (fun s c => s.performLane c.id c.o a wh given c.l) s
  | n + 1, cs =>
    let pick := (Config.freeDword s.fresh).toNat
    let i := pick % cs.length
    let j := pick / cs.length % cs.length
    let s1 := { s with fresh := s.fresh + 1 }
    match cs[i]?, cs[j]? with
    | some x, some y =>
      if i != j && x.l.ea == y.l.ea then
        (s1.updLane y.id y.l.lane (fun l => { l with stage := .done, res := [] })).serveMerged a wh given n
          ((cs.set i (mergedInto x y)).eraseIdx j)
      else (s1.performLane x.id x.o a wh given x.l).serveMerged a wh given n (cs.eraseIdx i)
    | _, _ => s1

/-- A RED request that may be merged is served at its home, with those that a free choice merged with it (R82). -/
def State.servedMerging (s : State) (rid : Nat) (o : Op) (q : Req) (wh : Where) (given : List Byte) : State :=
  let peers := s.mergePeers rid o q
  let picked (i : Nat) : Bool := (Config.freeDword (s.fresh + i / 64)).getLsbD (i % 64)
  let joined := ((List.range peers.length).zip peers).filterMap (fun p => if picked p.1 then some p.2 else none)
  let all := (rid, o, q) :: joined
  let cs := all.flatMap (fun p => (p.2.1.lanesIn p.2.2).map (fun l => (⟨p.2.2.op, p.2.1, l⟩ : Contribution)))
  let s1 := { s with fresh := s.fresh + (peers.length + 63) / 64 }
  let s2 := all.foldl (fun s p => s.setReqs (Tab.del s.v.reqs p.1)) s1
  all.foldl (fun s p => s.repark p.2.2.op) (s2.serveMerged q.attr wh given cs.length cs)

/-- The request's lanes are served, ascending, and the request ends. -/
def State.servedReq (s : State) (rid : Nat) (o : Op) (q : Req) (wh : Where) (given : List Byte) : State :=
  let core := s.coreOfBlock o.block
  if mergesFreely o && wh == .home then s.servedMerging rid o q wh given
  else
    let s1 := (o.lanesIn q).foldl (fun s l => s.performLane q.op o q.attr wh given l) (s.setReqs (Tab.del s.v.reqs rid))
    let s2 := if coversLine o q && wh != .zero then s1.cleanLine q.attr q.asid q.va q.size else s1
    let keep := !q.noCopy && (o.opc = 0x80 || o.opc = 0x81 || o.opc = 0x8B || (o.opc = 0x87 && Rule.sub o.f = 0))
    ((if keep then s2.keepLine core false q.attr wh q.asid q.va (o.opc = 0x81) else s2)).repark q.op

/-- A CAS with a release part that would write waits for the accesses that the release orders; one that does not write has lost
that part (R255). `s` is the state before, `s'` the one after it has been served. -/
def casHeld (s s' : State) (o : Op) (q : Req) : Bool :=
  o.opc == 0x89 && opReleases o.opc o.f && (o.lanesIn q).any (fun l =>
    s.poAny q.op l.key (fun _ _ => true)
      && (match (s'.op? q.op).bind (fun o => o.lanes.find? (fun x => x.lane == l.lane)) with
        | some x => ofWords x.res == ofWords l.b
        | none => false))

/-- A request's page faults: every lane of the instruction in that page (R245). -/
def State.faultReq (s : State) (o : Op) (q : Req) (k : Kind) : State :=
  let hit (va : Nat) : Bool := q.attr.va ≤ va && va < q.attr.va + q.attr.size
  let lanes := (o.lanes.filter (fun l => !l.ended && hit l.ea)).map (·.lane)
  if o.opc = 0x87 then
    ((s.setReqs (s.v.reqs.filter (fun p => !(p.2.op == q.op && hit p.2.va)))).updOp q.op (fun o =>
      { o with lanes := o.lanes.map (fun l => if lanes.contains l.lane then { l with stage := .done } else l) })).repark q.op
  else if !o.logged && 8 ≤ s.logUsed o.group then s.park o.group .log
  else (s.setReqs (s.v.reqs.filter (fun p => !(p.2.op == q.op && hit p.2.va)))).faultLanes q.op lanes k (recordWrite o.opc)

/-- CFLUSH of one line (R253): dirty copies return to memory; .INV drops every copy, but not from a pinned Tarn. -/
def State.flushLine (s : State) (core : Nat) (a : Attr) (asid va : Nat) (inv : Bool) : State :=
  if a.home = 3 then
    match s.copyAt core false asid va with
    | none => s
    | some c =>
      let s1 := if c.dirty then s.doWriteBack ⟨asid, c.va, c.data⟩ else s
      s1.setMem { s1.m with copies :=
        (if inv then s1.m.copies.filter (fun x => x != c) else s1.m.copies.map (fun x => if x == c then { x with dirty := false } else x)) }
  else if a.home = 2 then s
  else
    match s.lineAt a.tarn asid va with
    | none => s
    | some l =>
      let s0 := s.cleanCopies asid l.va l.data.length
      let s1 := if l.dirty then (s0.drain asid l.va l.data.length).doWriteBack ⟨asid, l.va, l.data⟩ else s0
      if inv && tdbRpol (s.tdb a.tarn) ≠ 2 then ({ l with dirty := false } |> fun clean => (s1.updLine l (fun _ => clean)).evict clean)
      else s1.updLine l (fun x => { x with dirty := false })

/-- CINV: the core's own copy goes; a dirty HOME 3 copy is lost (R254). -/
def State.dropCopy (s : State) (core asid va : Nat) : State :=
  s.dropCopies (fun c => c.agent == core && !c.inst && c.attr.asid == asid && c.va ≤ va && va < c.va + c.size)

/-- One stage of a request (R101). Nothing happens while an earlier access of a lane's thread holds it back, while its block
is saved and the request has not reached its home, or while its home holds it (R128, R136, R340, R345). A request that its home
has accepted and comes to hold waits there anew. -/
def State.advanceReq (s : State) (rid : Nat) (given : List Byte) : State :=
  match s.req? rid with
  | none => s
  | some q =>
    match s.op? q.op with
    | none => s
    | some o =>
      let core := s.coreOfBlock o.block
      let asid := q.asid
      if q.stage == .home && (!s.going q.op o || (o.lanesIn q).any (fun l => s.laneBlocked q.op o l)) then s
      else if o.opc = 0x8F && q.attr.home < 2
          && (s.lineBusy asid q.va q.size || (s.lineAt q.attr.tarn asid q.va).any (fun l => s.lineRetiring l)) then s
      else if o.opc = 0x8F then
        let bad := match s.paClass (q.attr.frame + (q.va - q.attr.va)) with | .memory off => s.poisonedAt off q.size | _ => false
        let s1 := if bad || s.discardedNow q.attr then s else s.flushLine core q.attr asid q.va (Rule.sub o.f == 1)
        s1.servedReq rid o q .zero []
      else if o.opc = 0x90 then (s.dropCopy core asid q.va).servedReq rid o q .zero []
      else if o.opc = 0x87 && 2 ≤ q.attr.home then s.servedReq rid o q .zero []
      else
        let c := s.ctxOf o.block
        let back (s : State) : State := s.updReq rid (fun q =>
          { q with
            stage := .home
            data := [] })
        if q.stage == .home && s.heldLanes o q then s
        else
        match s.stage core c q (needOf o q) given with
        | (s1, .go q') => s1.updReq rid (fun _ => q')
        | (_, .hold) => s
        | (s1, .serve wh) =>
          if s1.heldLanes o q then back s
          else
            let s2 := s1.servedReq rid o q wh given
            if casHeld s1 s2 o q then back s1 else s2
        | (s1, .fault k) => s1.faultReq o q k
        | (s1, .poisoned) =>
          if o.opc = 0x87 then s1.servedReq rid o q .zero []
          else ((s1.setReqs (Tab.del s1.v.reqs rid)).trapLanes q.op q.lanes (fun l => ⟨.poisoned, 0, some l.ea, recordWrite o.opc⟩)).repark q.op
            |>.tryPlans o.block

/-! ## Attributes and the forming of requests -/

/-- Take what is known locally: a lane whose attributes allow its access is ready (R96). -/
def State.localAttrs (s : State) (id : Nat) : State :=
  match s.op? id with
  | none => s
  | some o =>
    let core := s.coreOfBlock o.block
    let c := s.ctxOf o.block
    s.updOp id (fun o => { o with lanes := o.lanes.map (fun l =>
      if l.stage != .attr || 2 ^ 57 ≤ l.ea then l
      else
        match s.knownAttr core false (nameAsid c.asid l.ea) l.ea with
        | some a => if (s.permit c a (opAccess o.opc)).isNone then { l with stage := .ready, attr := some a } else l
        | none => l) })

/-- The request of POISON.CLEAR: for the Tarn's whole line, though it be served as HOME 2 (R276). -/
def State.clearReq (s : State) (op asid va : Nat) (a : Attr) : Req :=
  let n := s.pageLine a
  ⟨op, asid, va / n * n, n, [], .home, a, false, []⟩

/-- Form the requests of the lanes that are ready: one for each line, its lanes ascending (R243). -/
def State.formReqs (s : State) (id : Nat) : Nat → State
  | 0 => s
  | n + 1 =>
    match s.op? id with
    | none => s
    | some o =>
      if opScratch o.opc then s
      else
        match o.lanes.find? (fun l => l.stage == .ready && l.attr.isSome) with
        | none => s
        | some l0 =>
          match l0.attr with
          | none => s
          | some a =>
            let asid := nameAsid (s.ctxOf o.block).asid l0.ea
            let q0 := if o.opc = 0xA6 then s.clearReq id asid l0.ea a else s.newReq id asid l0.ea a []
            let mine (l : LaneOp) : Bool := l.stage == .ready && l.attr.isSome && q0.va ≤ l.ea && l.ea < q0.va + q0.size
            let q := { q0 with lanes := (o.lanes.filter mine).map (·.lane) }
            let m := (s.countDemand (s.coreOfBlock o.block) (s.ctxOf o.block) a).newId
            let s1 := m.2.setReqs (Tab.set m.2.v.reqs m.1 q)
            let s2 := s1.updOp id (fun o => { o with lanes := o.lanes.map (fun l => if mine l then { l with stage := .sent } else l) })
            State.formReqs s2 id n

/-- A request that its core serves by itself, or sends past the home slice: a load that hits a copy, HOME 2 and HOME 3 (R101
stages 1 and 2). -/
def State.localReq (s : State) (rid : Nat) : State :=
  match s.req? rid with
  | none => s
  | some q =>
    match s.op? q.op with
    | none => s
    | some o =>
      if q.stage != .home then s
      else if 2 ≤ q.attr.home then s.advanceReq rid []
      else if o.opc = 0x80 && !opAcquires o.opc o.f && (s.copyAt (s.coreOfBlock o.block) false q.asid q.va).isSome
        && (s.lineAt q.attr.tarn q.asid q.va).isSome && s.live o.block && !s.heldLanes o q && !(o.lanesIn q).any (fun l => s.laneBlocked q.op o l) then
        s.servedReq rid o q .home []
      else s

/-- Requests of an instruction that its core serves by itself. -/
def State.localReqs (s : State) (id : Nat) : State :=
  (s.v.reqs.filter (fun p => p.2.op == id)).foldl (fun s p => s.localReq p.1) s

/-- Lanes meet a page fault: a prefetch drops them, another instruction posts the record (R245, R252). -/
def State.faultOrDrop (s : State) (id : Nat) (o : Op) (lanes : List Nat) (k : Kind) : State :=
  if o.opc = 0x87 then
    (s.updOp id (fun o => { o with lanes := o.lanes.map (fun l => if lanes.contains l.lane then { l with stage := .done } else l) })).repark id
  else s.faultLanes id lanes k (recordWrite o.opc)

/-- Lanes that await attributes in the page in which a lane faults (R245). -/
def State.lanesInPage (s : State) (asid : Nat) (o : Op) (l0 : LaneOp) : List Nat :=
  (o.lanes.filter (fun l => l.stage == .attr && s.pageOf asid l.ea == s.pageOf asid l0.ea)).map (·.lane)

/-- Lanes whose address is 2 ^ 57 or above fault with NONCANON (R83). -/
def State.faultNonCanon (s : State) (id : Nat) : Nat → State
  | 0 => s
  | n + 1 =>
    match s.op? id with
    | none => s
    | some o =>
      match o.lanes.find? (fun l => l.stage == .attr && 2 ^ 57 ≤ l.ea) with
      | none => s
      | some l0 => State.faultNonCanon (s.faultOrDrop id o (s.lanesInPage (s.ctxOf o.block).asid o l0) .nonCanon) id n

/-- An instruction on global memory sets out: lanes with an address outside the address space fault, attributes at hand, requests,
and the group parked as R47 says. -/
def State.setOut (s : State) (id : Nat) : State :=
  ((((s.faultNonCanon id 64).localAttrs id).formReqs id 64).localReqs id).repark id

/-- An attribute request for the first lane that awaits one, answered for every lane of that page (R96, R97, R245). -/
def State.attributeFor (s : State) (id : Nat) : State :=
  match s.op? id with
  | none => s
  | some o =>
    if !s.going id o then s
    else
      match o.lanes.find? (fun l => l.stage == .attr) with
      | none => s
      | some l0 =>
        let core := s.coreOfBlock o.block
        let c := s.ctxOf o.block
        if 2 ^ 57 ≤ l0.ea then s.faultNonCanon id 64
        else
          let asid := nameAsid c.asid l0.ea
          match s.askAttr core c asid l0.ea (opAccess o.opc) with
          | (s1, .error k) => s1.faultOrDrop id o (s1.lanesInPage c.asid o l0) k
          | (s1, .ok a) =>
            let s2 := s1.updOp id (fun o => { o with lanes := o.lanes.map (fun l =>
              if l.stage == .attr && covers a (nameAsid c.asid l.ea) l.ea then { l with stage := .ready, attr := some a } else l) })
            s2.setOut id

end Sys2Proof.Machine
end

