-- ==== Sys2Proof/Machine/TxAccess.lean ====
section
/-! DEFINITION. Transactional accesses of a lane (R336 to R339): the log, the write buffer and the signatures. -/

namespace Sys2Proof.Machine

open Sys2Proof

/-- What a transactional access ends in. -/
inductive TxRes where
  | ok (res : List Word)
  | abort (c : Abort)
  | fault (k : Kind) (addr : Nat)
  /-- Its home holds the access (R136, R340), or an earlier access of the thread does (R312, R315, R325). -/
  | hold
  deriving DecidableEq, Repr

/-- Change the open transaction of a thread. -/
def State.updTx (s : State) (key : Nat) (h : Tx → Tx) : State :=
  s.updThread key (fun t => { t with tx := t.tx.map h })

/-- Set the bits of a granule in the lane's signature pair at a slice; none where the slice has no free pair (R338). -/
def State.sign (s : State) (slice key asid va : Nat) (write : Bool) : Option State :=
  let put (p : SigPair) : SigPair :=
    if write then { p with write := sigAdd p.write asid va } else { p with read := sigAdd p.read asid va }
  if s.x.sigs.any (fun p => p.slice == slice && p.key == key) then
    some { s with x := { s.x with sigs := s.x.sigs.map (fun p => if p.slice == slice && p.key == key then put p else p) } }
  else if (s.x.sigs.filter (fun p => p.slice == slice)).length < 4096 then
    some { s with x := { s.x with sigs := s.x.sigs ++ [put ⟨slice, key, 0, 0⟩] } }
  else none

/-- The granule of the write buffer that holds an address. -/
def bufAt (x : Tx) (asid g : Nat) : Option Buffered := x.buf.find? (fun b => b.asid == asid && b.va == g)

/-- Bytes of a granule with the buffer's laid over them. -/
def overBuf (b : Option Buffered) (old : List Byte) : List Byte :=
  match b with
  | none => old
  | some b => (old.zip b.bytes).map (fun p => p.2.getD p.1)

/-- Put bytes into the write buffer; none where it is full (R336). -/
def bufPut (x : Tx) (asid g off : Nat) (data : List Byte) : Option Tx :=
  let merge (l : List (Option Byte)) : List (Option Byte) := l.take off ++ data.map some ++ l.drop (off + data.length)
  if (bufAt x asid g).isSome then
    some { x with buf := x.buf.map (fun b => if b.asid == asid && b.va == g then { b with bytes := merge b.bytes } else b) }
  else if x.buf.length < 32 then some { x with buf := x.buf ++ [⟨asid, g, merge (List.replicate 16 none)⟩] }
  else none

/-- Log a granule as read, at its first read; none where the log is full (R336). -/
def logPut (x : Tx) (asid g : Nat) (bytes : List Byte) : Option Tx :=
  if x.log.any (fun r => r.asid == asid && r.va == g) then some x
  else if x.log.length < 64 then some { x with log := x.log ++ [⟨asid, g, bytes⟩] }
  else none

/-- The checks of R337 on known attributes; what the first that fails comes to. A line of a pinned Tarn outside its window is the
page fault ATTR (R113), which aborts with FAULT (R342). -/
def State.txCheck (s : State) (a : Attr) (asid va : Nat) (write : Bool) : Option TxRes :=
  if 2 ≤ a.home then some (.abort .memType)
  else match s.paClass a.frame with
    | .remote _ _ => some (.abort .crossPkg)
    | _ =>
      if write && tdbWpol (s.tdb a.tarn) == 3 then some (.abort .memType)
      else if (s.lineAt a.tarn asid va).isNone && s.spotOf a.tarn asid va == .attrFault then some (.fault .attr va)
      else if (s.slicePlace a asid va).isNone then some (.abort .memType)
      else none

/-- The granule's value at its home, with the agent's buffer left aside (R336): its bytes, or what the access comes to. -/
def State.txFetch (s : State) (core : Nat) (c : Ctx) (a : Attr) (asid va : Nat) : State × Except TxRes (List Byte) :=
  match (s.countDemand core c a).stages core c Need.load 6 (s.newReq 0 asid va a []) with
  | (s1, .serve .home) => let r := s1.readAt s1.regRead core a .home asid va 16 []; (r.2, .ok r.1)
  | (s1, .serve .zero) => (s1, .ok (bytesOf 16 0))
  | (s1, .poisoned) => (s1, .error (.abort .poison))
  | (s1, .fault k) => (s1, .error (.fault k va))
  | (s1, .hold) => (s1, .error .hold)
  | (s1, _) => (s1, .error (.abort .memType))

/-- The transactional read of the granule at an address: its bytes as the lane sees them. -/
def State.txRead (s : State) (core key : Nat) (c : Ctx) (a : Attr) (asid ea w : Nat) : State × Except TxRes (List Byte) :=
  let g := ea / 16 * 16
  match (s.thread? key).bind (·.tx) with
  | none => (s, .error (.abort .noTx))
  | some x =>
    let held := bufAt x asid g
    let whole := match held with | some b => ((b.bytes.drop (ea - g)).take w).all (·.isSome) | none => false
    if whole then (s, .ok (((overBuf held (bytesOf 16 0)).drop (ea - g)).take w))
    else
      match s.txFetch core c a asid g with
      | (s1, .error e) => (s1, .error e)
      | (s1, .ok b) =>
        match logPut x asid g b with
        | none => (s1, .error (.abort .capacity))
        | some x1 =>
          match s1.slicePlace a asid g with
          | none => (s1, .error (.abort .memType))
          | some sl =>
            match s1.sign sl key asid g false with
            | none => (s1, .error (.abort .sigFull))
            | some s2 => (s2.updTx key (fun _ => x1), .ok (((overBuf held b).drop (ea - g)).take w))

/-- The transactional write of bytes within one granule. -/
def State.txWrite (s : State) (key : Nat) (a : Attr) (asid ea : Nat) (data : List Byte) : State × Option Abort :=
  let g := ea / 16 * 16
  match (s.thread? key).bind (·.tx) with
  | none => (s, some .noTx)
  | some x =>
    match bufPut x asid g (ea - g) data with
    | none => (s, some .capacity)
    | some x1 =>
      match s.slicePlace a asid g with
      | none => (s, some .memType)
      | some sl =>
        match s.sign sl key asid g true with
        | none => (s, some .sigFull)
        | some s1 => (s1.updTx key (fun _ => x1), none)

/-- LD, ST, ATOM and CAS of a lane with a transaction open (R336, R337). The thread's accesses from before the TBEGIN hold it back as
they hold back any access. -/
def State.txAccess (s : State) (op : Nat) (f : Slot) (core key : Nat) (c : Ctx) (ea : Nat) (b cc : List Word) : State × TxRes :=
  let ty := Rule.ty f
  let w := opWidth op f
  let asid := nameAsid c.asid ea
  if (((s.thread? key).bind (·.tx)).map (·.doomed)).getD false then (s, .abort .conflict)
  else if s.poBlocked s.nextId key (opWrites op) (fun p x => !opScratch p.opc && x.ea / 512 == ea / 512) then (s, .hold)
  else
    match s.checkAddr ⟨core, c, none⟩ ea (opAccess op) false with
    | (s1, .error k) => (s1, .fault k ea)
    | (s1, .ok a) =>
      match s1.txCheck a asid ea (opWrites op) with
      | some (.fault k _) => (s1, .fault k ea)
      | some e => (s1, e)
      | none =>
        let put (s : State) (v : Nat) (res : List Word) : State × TxRes :=
          match s.txWrite key a asid ea (bytesOf w v) with
          | (s2, some e) => (s2, .abort e)
          | (s2, none) => (s2, .ok res)
        if op = 0x81 then put s1 (ofWords b) []
        else
          match s1.txRead core key c a asid ea w with
          | (s2, .error (.fault k _)) => (s2, .fault k ea)
          | (s2, .error e) => (s2, e)
          | (s2, .ok bytes) =>
            let old := ofBytes bytes
            let res := wordsOf (Rule.regs ty) old
            if op = 0x80 then (s2, .ok (loadWords ty bytes))
            else if op = 0x88 then put s2 (combineAtomic (Rule.sub f) ty (Rule.msat f) old (ofWords b)) res
            else if old = ofWords b then put s2 (ofWords cc) res
            else (s2, .ok res)

/-- Two requests for the commit lock in order: by clock, then by core (R16), then by lane (R351). -/
def State.lockRank (s : State) (p : Nat × Nat) : Nat :=
  (p.1 * 1024 + (match s.thread? p.2 with | some t => (match s.block? t.block with | some b => b.core.getD 0 | none => 0) | none => 0)) * 64 + p.2 % 64

/-- Lanes in lock mode that do not hold the commit lock: their request joins the queue (R345). -/
def State.awaitLock (s : State) (keys : List Nat) : State :=
  { s with x := { s.x with
      queue := (keys.filter (fun k => !s.x.queue.any (fun p => p.2 == k))).foldl
        (fun q k => insertBy s.lockRank (s.clock, k) q) s.x.queue } }

/-- The lanes of an instruction that must have the commit lock before they access (R345). -/
def State.needLock (s : State) (ls : List LaneV) : List Nat :=
  (ls.filter (fun l => match (s.thread? l.key).bind (·.tx) with
    | some x => x.lock && s.x.holder != some l.key && !x.doomed
    | none => false)).map (·.key)

/-- Some lane's transactional access names a granule that another transaction is committing, and is held (R340). -/
def State.txHeld (s : State) (op : Nat) (f : Slot) (blk : Nat) (ls : List LaneV) : Bool :=
  ls.any (fun l => l.inTx && s.ticketHolds (nameAsid (s.ctxOf blk).asid (globalEa f l.th)) (globalEa f l.th) (opWidth op f) (some l.key))

end Sys2Proof.Machine
end

