-- ==== Sys2Proof/Machine/Loads.lean ====
section
/-! DEFINITION. The instructions that each lane executes by itself on memory: loads, stores, full and empty granules,
prefetch, flush, atomics, polls and POISON.CLEAR (R239 to R263, R276), and the scratchpad forms SBAR.ARRIVE and SBAR.TEST
(R331, R332). -/

namespace Sys2Proof.Machine

open Sys2Proof

/-- What an instruction does in a lane with a transaction open (R247, R346). -/
inductive TxUse where
  /-- A transactional access. -/
  | access
  /-- As outside. -/
  | plain
  /-- No effect, and no abort. -/
  | skip
  /-- No effect; the transaction aborts with INSTR. -/
  | abort
  deriving DecidableEq, Repr

/-- Registers of operands B and C of a memory instruction (R239, R331). -/
def opB (op : Nat) (f : Slot) : Nat :=
  if [0x81, 0x83, 0x85, 0x88, 0x89, 0x8A, 0x8B].contains op then Rule.regs (Rule.ty f)
  else if [0x86, 0xB3, 0xB4, 0xB5].contains op then 1 else 0
def opC (op : Nat) (f : Slot) : Nat := if op = 0x89 then Rule.regs (Rule.ty f) else if op = 0x8B then 1 else 0

/-- The range of FEMARK (R251), which is checked as a whole. That a length of zero does not spare the start its checks is the model's
choice (assumption log 55). -/
def State.checkMark (s : State) (core blk : Nat) (ea : Int) (len : Nat) : Checked :=
  if ea % 16 ≠ 0 || len % 16 ≠ 0 then .trap ⟨.misaligned, 0, some (wrap 64 ea), true⟩
  else if ea < 0 || (s.scratchSize blk : Int) < ea + len then .trap ⟨.scratchBound, 0, some (wrap 64 ea), true⟩
  else if s.lockConflict 0x86 core (some blk) 0 ea.toNat (ea.toNat + len) then .trap ⟨.rangeLock, 0, some ea.toNat, true⟩
  else .go ea.toNat

/-- The address checks of a lane (R241, R251). -/
def State.checkLane (s : State) (op : Nat) (f : Slot) (core blk : Nat) (l : LaneV) : Checked :=
  if op = 0x86 then s.checkMark core blk (scratchEa f l.th) (l.th.val f.b.toNat 1)
  else if opScratch op || op = 0xB5 then s.checkScratch op core blk (scratchEa f l.th) (opWidth op f)
  else s.checkGlobal op core blk (globalEa f l.th) (opWidth op f)

/-- The lane record of an access that sets out. -/
def accessLane (op : Nat) (f : Slot) (l : LaneV) (ea : Nat) (stage : LaneStage) : LaneOp :=
  laneOp l ea (l.th.words f.b.toNat (opB op f)) (l.th.words f.c.toNat (opC op f)) stage

/-- What the lanes of a memory instruction come to at issue. -/
structure Started where
  lanes : List LaneOp
  traps : List (Nat × Trap)
  aborts : List (Nat × Abort × Nat)
  /-- Page faults of transactional accesses (R346). -/
  faults : List (Nat × Nat × Kind)
  /-- A transactional access is held, and the instruction waits. -/
  held : Bool

/-- One executing lane is added. -/
def State.startLane (s : State) (op : Nat) (f : Slot) (use_ : TxUse) (g : Group) (core : Nat) (l : LaneV) (r : Started) :
    State × Started :=
  let chk := s.checkLane op f core g.block l
  if l.inTx && use_ == .abort then (s, { r with aborts := r.aborts ++ [(l.key, .instr, 0)] })
  else if l.inTx && use_ == .skip then (s, r)
  else if l.inTx && use_ == .access then
    match chk with
    | .trap t => (s, { r with traps := r.traps ++ [(l.key, t)] })
    | .fault ea => (s, { r with faults := r.faults ++ [(l.key, ea, .nonCanon)] })
    | .go ea =>
      match s.txAccess op f core l.key (s.ctxOf g.block) ea (l.th.words f.b.toNat (opB op f)) (l.th.words f.c.toNat (opC op f)) with
      | (s1, .ok res) => (s1, { r with lanes := r.lanes ++ [{ accessLane op f l ea .done with res := res }] })
      | (s1, .abort c) => (s1, { r with aborts := r.aborts ++ [(l.key, c, 0)] })
      | (s1, .fault k a) => (s1, { r with faults := r.faults ++ [(l.key, a, k)] })
      | (s1, .hold) => (s1, { r with held := true })
  else
    match chk with
    | .trap t => if op = 0x87 then (s, r) else (s, { r with traps := r.traps ++ [(l.key, t)] })
    | .fault ea => (s, { r with lanes := r.lanes ++ [accessLane op f l ea .attr] })
    | .go ea => (s, { r with lanes := r.lanes ++ [accessLane op f l ea (if opScratch op then .ready else .attr)] })

/-- The executing lanes, ascending. -/
def State.startLanes (s : State) (op : Nat) (f : Slot) (use_ : TxUse) (g : Group) (core : Nat) :
    List LaneV → Started → State × Started
  | [], r => (s, r)
  | l :: ls, r =>
    let x := s.startLane op f use_ g core l r
    State.startLanes x.1 op f use_ g core ls x.2

/-- The accesses of an instruction that has issued set out. -/
def State.setting (s : State) (op id : Nat) : State := if opScratch op then s.scratchOp id else s.setOut id

/-- A memory instruction that each lane executes by itself: lanes in lock mode ask for the commit lock first (R345); each
lane is checked (R241); traps and aborts are taken; the accesses of the other lanes are outstanding. An instruction all of
whose executing lanes trap or abort does not change its flag (R158). -/
def State.memIssue (s : State) (op : Nat) (f : Slot) (use_ : TxUse) : Result :=
  s.issue op f (fun gid g ls =>
    let run := ls.filter (·.run)
    let lock := if use_ == .access then s.needLock run else []
    if !lock.isEmpty then ((s.awaitLock lock).park gid .lock).after
    else if use_ == .access && s.txHeld op f g.block run then s.held
    else
      let core := s.coreOfBlock g.block
      let r := s.startLanes op f use_ g core run ⟨[], [], [], [], false⟩
      if r.2.held then s.held else
      let out := !r.2.lanes.isEmpty || (r.2.traps.isEmpty && r.2.aborts.isEmpty && r.2.faults.isEmpty)
      let n := if out then r.1.startOp gid g op f r.2.lanes else (r.1, 0)
      let s1 := if r.2.faults.isEmpty then n.1 else n.1.groupFault gid g (s.pageOf (s.ctxOf g.block).asid) (recordWrite op) r.2.faults
      let fa := r.2.faults.map (fun p => (p.1, Abort.fault, p.2.2.code))
      let s2 := s1.finish gid g ls ⟨[], [], r.2.traps, r.2.aborts ++ fa⟩
      (if out then s2.1.setting op n.2 else s2.1, s2.2))

/-- LD (R248). -/
def execLd (f : Slot) (s : State) : Result := s.memIssue 0x80 f .access
/-- ST (R248). -/
def execSt (f : Slot) (s : State) : Result := s.memIssue 0x81 f .access
/-- LDS (R248). -/
def execLds (f : Slot) (s : State) : Result := s.memIssue 0x82 f .plain
/-- STS (R248). -/
def execSts (f : Slot) (s : State) : Result := s.memIssue 0x83 f .plain
/-- LDF.W (R249). -/
def execLdfW (f : Slot) (s : State) : Result := s.memIssue 0x84 f .abort
/-- LDF.C (R249). -/
def execLdfC (f : Slot) (s : State) : Result := s.memIssue 0x84 f .abort
/-- STF.W (R249). -/
def execStfW (f : Slot) (s : State) : Result := s.memIssue 0x85 f .abort
/-- STF.S (R249). -/
def execStfS (f : Slot) (s : State) : Result := s.memIssue 0x85 f .abort
/-- FEMARK.EMPTY (R251). -/
def execFemarkEmpty (f : Slot) (s : State) : Result := s.memIssue 0x86 f .abort
/-- FEMARK.FULL (R251). -/
def execFemarkFull (f : Slot) (s : State) : Result := s.memIssue 0x86 f .abort
/-- PREF.L1 (R252). -/
def execPrefL1 (f : Slot) (s : State) : Result := s.memIssue 0x87 f .skip
/-- PREF.TARN (R252). -/
def execPrefTarn (f : Slot) (s : State) : Result := s.memIssue 0x87 f .skip
/-- ATOM (R255, R257). -/
def execAtom (f : Slot) (s : State) : Result := s.memIssue 0x88 f .access
/-- CAS (R255). -/
def execCas (f : Slot) (s : State) : Result := s.memIssue 0x89 f .access
/-- RED (R261). -/
def execRed (f : Slot) (s : State) : Result := s.memIssue 0x8A f .abort
/-- POLL (R262). -/
def execPoll (f : Slot) (s : State) : Result := s.memIssue 0x8B f .abort
/-- CFLUSH.WB (R253). -/
def execCflushWb (f : Slot) (s : State) : Result := s.memIssue 0x8F f .abort
/-- CFLUSH.INV (R253). -/
def execCflushInv (f : Slot) (s : State) : Result := s.memIssue 0x8F f .abort
/-- CINV (R254). -/
def execCinv (f : Slot) (s : State) : Result := s.memIssue 0x90 f .abort
/-- SBAR.ARRIVE (R332). -/
def execSbarArrive (f : Slot) (s : State) : Result := s.memIssue 0xB3 f .abort
/-- SBAR.TEST (R332). -/
def execSbarTest (f : Slot) (s : State) : Result := s.memIssue 0xB4 f .abort

/-- A privileged instruction: in a grid launched without privilege the group takes PRIVILEGE (R272, R446). -/
def State.asPrivileged (s : State) (op : Nat) (f : Slot) (body : State → Result) : Result :=
  match s.group? s.cur.group with
  | none => .next s
  | some g =>
    if (s.ctxOf g.block).priv then body s
    else s.issue op f (fun gid g ls => s.groupTrap gid g ls .privilege)

/-- POISON.CLEAR (R276). -/
def execPoisonClear (f : Slot) (s : State) : Result := s.asPrivileged 0xA6 f (fun s => s.memIssue 0xA6 f .abort)

/-! ## POLL's back-off (R262, R263) -/

/-- A polling lane reads again. -/
def State.pollAgain (s : State) (id lane : Nat) : State :=
  (s.updLane id lane (fun l => { l with stage := if l.attr.isSome then .ready else .attr })).setOut id

/-- A lane of an outstanding POLL that backs off, its block resident. -/
def State.pollWaiting (s : State) (id lane : Nat) : Option (Op × LaneOp) :=
  match s.op? id with
  | none => none
  | some o =>
    if o.opc = 0x8B && s.live o.block then (o.lanes.find? (fun l => l.lane == lane && l.stage == .wait)).map (fun l => (o, l))
    else none

/-- POLL_BACKOFF_END: the back-off's time has passed, its line was invalidated or updated, or the limit has elapsed. -/
def execPollBackoffEnd (s : State) : Result :=
  match s.pollWaiting s.sel.x s.sel.y with
  | some (o, l) => if l.due ≤ s.clock || limitElapsed s.clock o.issued l then .next (s.pollAgain s.sel.x s.sel.y) else .next s
  | none => .next s

/-- POLL_LIMIT_ELAPSED: one final read at once. -/
def execPollLimitElapsed (s : State) : Result :=
  match s.pollWaiting s.sel.x s.sel.y with
  | some (o, l) => if limitElapsed s.clock o.issued l then .next (s.pollAgain s.sel.x s.sel.y) else .next s
  | none => .next s

/-! ## The stages of a request -/

/-- ATTRIBUTE_REQUEST (R96). -/
def execAttributeRequest (s : State) : Result := .next (s.attributeFor s.sel.x)

/-- A stage of the request `sel.x`, where the request stands at it. -/
def State.atStage (s : State) (st : ReqStage) (given : List Byte) (rid : Nat) : State :=
  match s.req? rid with
  | some q => if q.stage == st then s.advanceReq rid given else s
  | none => s

/-- HOME_SLICE_REQUEST (R101). -/
def execHomeSliceRequest (s : State) : Result := .next (s.atStage .home [] s.sel.x)
/-- SHARD_WALK_COMPLETE (R100). -/
def execShardWalkComplete (s : State) : Result := .next (s.atStage .shard [] s.sel.x)
/-- MEMORY_CONTROLLER_ACCESS (R101): `remote` is what another package or a PCIe device supplies. -/
def execMemoryControllerAccess (req : Nat) (remote : List Byte) (s : State) : Result := .next (s.atStage .controller remote req)
/-- LINE_FILL_RETURN (R101). -/
def execLineFillReturn (s : State) : Result := .next (s.atStage .fill [] s.sel.x)

end Sys2Proof.Machine
end

