-- ==== Sys2Proof/Machine/Copy.lean ====
section
/-! DEFINITION. COPY, COPYM and DISCARD (R240, R264 to R271), and the steps of copies (R267 to R270). -/

namespace Sys2Proof.Machine

open Sys2Proof

/-! ## Operands and checks at issue -/

/-- What the checks of R266 find. -/
inductive CopyCheck where
  /-- A length of zero: nothing is copied. -/
  | nothing
  | trap (t : Trap)
  | fault (ea : Nat) (write : Bool)
  | go (src dst len : Nat)
  deriving DecidableEq, Repr

/-- An end of a copy: in scratchpad or not, and its address. -/
structure CopyEnd where
  pad : Bool
  at_ : Int
  deriving DecidableEq, Repr

/-- The address of an end that is not an exact sum is one modulo 2 ^ 64 (R169, R241). -/
def padEnd (v : Nat) (off : BitVec 32) : CopyEnd := ⟨true, (v : Int) + sext32 off⟩
def memEnd (v : Nat) (off : BitVec 32) : CopyEnd := ⟨false, (addI32 v off : Nat)⟩

/-- Source, destination and length of COPY (R266) and COPYM (R269). -/
def copyOperands (op : Nat) (f : Slot) (t : Thread) : CopyEnd × CopyEnd × Nat :=
  if op = 0x8C then
    let d := Rule.sub f
    (if d = 0 || d = 2 then memEnd (t.val f.a.toNat 2) f.i32 else padEnd (t.val f.a.toNat 1) f.i32,
     if d = 0 || d = 3 then padEnd (t.val f.d.toNat 1) 0 else memEnd (t.val f.d.toNat 2) 0,
     t.val f.b.toNat 1)
  else (memEnd (t.val f.a.toNat 2) f.i32, padEnd (t.val f.b.toNat 1) 0, t.val (f.b.toNat + 1) 1)

/-- An end's check 3 of R266. -/
def State.endCheck (s : State) (blk : Nat) (e : CopyEnd) (len : Nat) (write : Bool) : Option CopyCheck :=
  if e.pad then
    if e.at_ < 0 || (s.scratchSize blk : Int) < e.at_ + len then some (.trap ⟨.scratchBound, 0, some (wrap 64 e.at_), write⟩) else none
  else if 2 ^ 57 ≤ e.at_.toNat then some (.fault e.at_.toNat write) else none

/-- The lock that an end takes. -/
def State.endLock (s : State) (core blk owner : Nat) (dst : Bool) (e : CopyEnd) (len : Nat) : RangeLock :=
  ⟨core, owner, dst, if e.pad then some blk else none, if e.pad then 0 else nameAsid (s.ctxOf blk).asid e.at_.toNat, e.at_.toNat,
    e.at_.toNat + len⟩

/-- Two ranges of one space share a byte. -/
def RangeLock.meets (a b : RangeLock) : Bool := a.overlaps b.core b.block b.asid b.lo b.hi

/-- The checks of R266, in their order. -/
def State.copyCheck (s : State) (core blk : Nat) (src dst : CopyEnd) (len : Nat) : CopyCheck :=
  if len % 16 ≠ 0 || 16777216 < len then .trap ⟨.copyLen, 0, none, false⟩
  else if dst.at_ % 16 ≠ 0 then .trap ⟨.misaligned, 0, some (wrap 64 dst.at_), true⟩
  else if src.at_ % 16 ≠ 0 then .trap ⟨.misaligned, 0, some (wrap 64 src.at_), false⟩
  else if len = 0 then .nothing
  else
    match s.endCheck blk dst len true with
    | some r => r
    | none =>
      match s.endCheck blk src len false with
      | some r => r
      | none =>
        let d := s.endLock core blk 0 true dst len
        let c := s.endLock core blk 0 false src len
        if s.v.locks.any (fun k => k.meets d) then .trap ⟨.rangeLock, 0, some dst.at_.toNat, true⟩
        else if s.v.locks.any (fun k => k.dst && k.meets c) then .trap ⟨.rangeLock, 0, some src.at_.toNat, false⟩
        else if c.meets d then .trap ⟨.rangeLock, 0, some dst.at_.toNat, true⟩
        else .go src.at_.toNat dst.at_.toNat len

/-! ## Instructions of the whole group -/

/-- The instruction is made once, with the operands of the leader lane (R240). A lane with an open transaction makes every
such lane abort and the instruction do nothing (R247). -/
def State.groupWide (s : State) (op : Nat) (f : Slot) (body : Nat → Group → List LaneV → LaneV → List LaneV → After) : Result :=
  s.issue op f (fun gid g ls =>
    let run := ls.filter (·.run)
    match run with
    | [] => (((s.startOp gid g op f []).1).advance gid g ls).after
    | l :: rest =>
      if run.any (·.inTx) then
        s.finish gid g ls ⟨[], [], [], (run.filter (·.inTx)).map (fun l => (l.key, .instr, 0))⟩
      else body gid g ls l (l :: rest))

/-- The leader lane takes a trap, and nothing else happens (R158). -/
def State.leaderTrap (s : State) (gid : Nat) (g : Group) (ls : List LaneV) (l : LaneV) (t : Trap) : After :=
  s.finish gid g ls ⟨[], [], [(l.key, t)], []⟩

/-- Outstanding lanes of an instruction made once: they end together. -/
def sentLanes (run : List LaneV) (ea : Nat) : List LaneOp := run.map (fun l => laneOp l ea [] [] .sent)

/-- The copy that an instruction starts. -/
def State.beginCopy (s : State) (op : Nat) (f : Slot) : Result :=
  s.groupWide op f (fun gid g ls l run =>
    let core := s.coreOfBlock g.block
    let o := copyOperands op f l.th
    let lanes := if op = 0x8C then [l] else run
    match s.copyCheck core g.block o.1 o.2.1 o.2.2 with
    | .trap t => s.leaderTrap gid g ls l t
    | .nothing =>
      let n := s.startOp gid g op f (sentLanes lanes 0)
      ((n.1.updOp n.2 (fun o => { o with move := some ⟨0, 0, 0, [], [], [], []⟩ })).advance gid g ls).after
    | .fault ea w =>
      let n := s.startOp gid g op f (sentLanes lanes ea)
      let m : Move := ⟨o.1.at_.toNat, o.2.1.at_.toNat, o.2.2, [], [], [], []⟩  -- never moves anything: see Op.refaults
      (((n.1.updOp n.2 (fun o => { o with move := some m })).advance gid g ls).faultLanes n.2 [l.lane] .nonCanon w).after
    | .go src dst len =>
      if s.freeLocks core < (if op = 0x8C then 2 else 1) then s.held
      else
        let n := s.startOp gid g op f (sentLanes lanes src)
        let mask := l.th.val f.c.toNat 1
        let size := ((s.block? g.block).map (·.gangSize)).getD 0
        let pos := (List.range (min 16 size)).filter (fun p => bit mask p)
        let m : Move := ⟨src, dst, len, [], if op = 0x8C then [] else pos, [], []⟩
        let k := [n.1.endLock core g.block n.2 false o.1 len]
          ++ (if op = 0x8C then [n.1.endLock core g.block n.2 true o.2.1 len] else [])
        let s1 := n.1.setLocks (n.1.v.locks ++ k)
        let s2 := s1.updOp n.2 (fun o => { o with move := some (if op = 0x8C then m.restart [0] else m) })
        let s3 := if op = 0x8C && o.2.1.pad then s2.updBlock g.block (fun b => b.markRange dst len false) else s2
        (s3.advance gid g ls).after)

/-- COPY (R266). -/
def execCopy (f : Slot) (s : State) : Result := s.beginCopy 0x8C f
/-- COPYM (R269). -/
def execCopym (f : Slot) (s : State) : Result := s.beginCopy 0x8D f

/-! ## Running a copy -/

/-- The leader lane of an instruction made once. -/
def Op.leader (o : Op) : Option LaneOp := minBy (·.lane) o.lanes

/-- The agent as which an instruction of a block accesses memory. -/
def State.agentOf (s : State) (blk key : Nat) : Agent := ⟨s.coreOfBlock blk, s.ctxOf blk, some key⟩

/-- A page fault of an instruction made once: its leader lane is reported at the address (R268). -/
def State.faultLeader (s : State) (id : Nat) (l : LaneOp) (k : Kind) (va : Nat) (write : Bool) : State :=
  (s.updLane id l.lane (fun l => { l with ea := va })).faultLanes id [l.lane] k write

/-- A copy ends at once on a poisoned line, and its leader lane takes POISONED (R268). -/
def State.poisonLeader (s : State) (id : Nat) (o : Op) (l : LaneOp) (va : Nat) : State :=
  (((s.trapLanes id [l.lane] (fun _ => ⟨.poisoned, 0, some va, false⟩)).handedOut id).finishOp id).tryPlans o.block

/-- Scratchpad bytes are written: stage barriers and waiting granules look again. -/
def State.writePad (s : State) (blk off : Nat) (b : List Byte) : State :=
  (s.updBlock blk (fun x => x.setBytes off b)).wakeStage blk

/-- The bytes of a copy's source from an address on. -/
def State.copyLoad (s : State) (o : Op) (ag : Agent) (pad : Bool) (src n : Nat) : State × Except MemErr (List Byte) :=
  if pad then (s, .ok (match s.block? o.block with | some b => b.bytes src n | none => [])) else s.load ag src n

/-- The line of a global destination address, where it lies wholly within the destination: its first address and bytes. -/
def State.wholeLine (s : State) (ag : Agent) (va lo len : Nat) : Option (Nat × Nat) :=
  match s.checkAddr ag va .write false with
  | (s1, .ok a) =>
    let n := s1.lineSize a (nameAsid ag.ctx.asid va) va
    let base := va / n * n
    if lo ≤ base && base + n ≤ lo + len then some (base, n) else none
  | _ => none

/-- A part of a copy that is one whole line of a global destination is written in one access, which clears the line's poison (R142,
R267). -/
def State.copyLine (s : State) (o : Op) (ag : Agent) (pad : Bool) (m : Move) (base n : Nat) : State × Except MemErr Unit :=
  match s.copyLoad o ag pad (m.src + (base - m.dst)) n with
  | (s1, .error e) => (s1, .error e)
  | (s1, .ok b) => s1.writePiece ag base b true

/-- A copy's accesses wait for the earlier accesses and fences of its thread as those of any instruction do (R312, R315, R317, R325);
with .REL its writes wait for every earlier access (R266). -/
def State.copyBlocked (s : State) (id : Nat) (o : Op) (l : LaneOp) (srcPad dstPad : Bool) (src dst : Nat) : Bool :=
  s.poBlocked id l.key true (fun p x =>
      if opScratch p.opc then (srcPad && opWrites p.opc && x.ea / 16 == src / 16) || (dstPad && x.ea / 16 == dst / 16)
      else (!srcPad && opWrites p.opc && x.ea / 512 == src / 512) || (!dstPad && x.ea / 512 == dst / 512))
    || (opReleases o.opc o.f && !s.fenceMet id o l)

/-- One granule of a copy or of a delivery: `code` is the position times 2 ^ 21 plus the granule's number (R267, R269). -/
def State.copyPart (s : State) (id code : Nat) : State :=
  match s.op? id with
  | none => s
  | some o =>
    match o.move, o.leader with
    | some m, some l =>
      let i := code % 2 ^ 21
      let src := m.src + 16 * i
      let dst := m.dst + 16 * i
      let srcPad := o.opc = 0x8C && (Rule.sub o.f = 1 || Rule.sub o.f = 3)
      let dstPad := o.opc = 0x8D || Rule.sub o.f = 0 || Rule.sub o.f = 3
      let target := if o.opc = 0x8D then (s.receiver o (code / 2 ^ 21)).map Prod.fst else some o.block
      if !m.todo.contains code || !s.live o.block || l.stage != .sent
        || s.copyBlocked id o l srcPad (dstPad && target == some o.block) src dst then s
      else
        let ag := s.agentOf o.block l.key
        let fail (s1 : State) (e : MemErr) (write : Bool) : State :=
          match e with
          | .page k a => s1.faultLeader id l k a write
          | .poisoned a => s1.poisonLeader id o l a
          | .held => s
        let done (s : State) (gone : Nat → Bool) : State :=
          s.updOp id (fun o => { o with move := o.move.map (fun m => { m with todo := m.todo.filter (fun c => !gone c) }) })
        match s.copyLoad o ag srcPad src 16 with
        | (s1, .error e) => fail s1 e false
        | (s1, .ok b) =>
          if dstPad then
            match target with
            | some blk => done (s1.writePad blk dst b) (fun c => c == code)
            | none => done s1 (fun c => c == code)
          else
            match s1.store ag dst b with
            | (s2, .ok _) => done s2 (fun c => c == code)
            | (s2, .error (.poisoned a)) =>
              (match s.wholeLine ag dst m.dst m.len with
              | none => fail s2 (.poisoned a) true
              | some (base, n) =>
                match s.copyLine o ag srcPad m base n with
                | (s3, .error e) => fail s3 e true
                | (s3, .ok _) => done s3 (fun c => decide (base ≤ m.dst + 16 * c) && decide (m.dst + 16 * c < base + n)))
            | (s2, .error e) => fail s2 e true
    | _, _ => s

/-- COPY_GRANULE (R267). -/
def execCopyGranule (s : State) : Result :=
  match s.op? s.sel.x with
  | some o => if o.opc = 0x8C || o.opc = 0x8D then .next (s.copyPart s.sel.x s.sel.y) else .next s
  | none => .next s

/-- The copy has nothing more to move. -/
def Op.copied (o : Op) : Bool :=
  (o.opc == 0x8C || o.opc == 0x8D) && o.leader.all (fun l => l.stage == .sent)
    && (match o.move with | some m => m.todo.isEmpty && m.wait.isEmpty && m.busy.isEmpty | none => true)

/-- The full bits that a copy sets are a release of its issuing thread: they wait for the thread's earlier accesses (R314, R323). -/
def State.fullReady (s : State) (id : Nat) (o : Op) : Bool := o.leader.all (fun l => s.fenceMet id o l)

/-- COPY_END: full bits, then in one cycle the flag and the locks (R267); COPYM writes its status (R269). -/
def State.endCopy (s : State) (id : Nat) : State :=
  match s.op? id with
  | none => s
  | some o =>
    let pad := o.opc = 0x8C && (Rule.sub o.f = 0 || Rule.sub o.f = 3)
    if !o.copied || !s.live o.block || (pad && !s.fullReady id o) then s
    else
      match o.move with
      | none => s.finishOp id
      | some m =>
        let s1 := if pad then s.updBlock o.block (fun b => b.markRange m.dst m.len true) else s
        let res := if o.opc = 0x8D then wordsOf 1 (maskOf m.dropped) else []
        (s1.updOp id (fun o => { o with lanes := o.lanes.map (fun l => { l with stage := .done, res := res }) })).finishOp id

def execCopyEnd (s : State) : Result := .next (s.endCopy s.sel.x)

/-! ## Deliveries (R269, R270) -/

/-- The block has retired, its scratchpad being kept for a delivery that is under way (R270). -/
def State.retired (s : State) (blk : Nat) : Bool := !s.v.threads.any (fun p => p.2.block == blk)

/-- COPYM_DELIVERY_BEGIN of the position `pos` of instruction `id`. -/
def State.beginDelivery (s : State) (id pos : Nat) : State :=
  match s.op? id with
  | none => s
  | some o =>
    match o.move with
    | none => s
    | some m =>
      if o.opc ≠ 0x8D || !m.wait.contains pos || !s.live o.block then s
      else
        let m1 := { m with wait := m.wait.filter (fun p => p != pos) }
        match s.receiver o pos with
        | none => s.updOp id (fun o => { o with move := some { m1 with dropped := m1.dropped ++ [pos] } })
        | some (blk, b) =>
          if s.retired blk || s.scratchSize blk < m.dst + m.len then
            s.updOp id (fun o => { o with move := some { m1 with dropped := m1.dropped ++ [pos] } })
          else
            let go (s : State) : State :=
              (s.updBlock blk (fun b => b.markRange m.dst m.len false)).updOp id (fun o =>
                { o with move := some { m1 with busy := m1.busy ++ [pos], todo := m1.todo ++ (m1.restart [pos]).todo } })
            match b.core with
            | none => go s
            | some c =>
              if b.saving || s.freeLocks c = 0 then s
              else go (s.setLocks (s.v.locks ++ [⟨c, id, true, some blk, 0, m.dst, m.dst + m.len⟩]))

def execCopymDeliveryBegin (s : State) : Result := .next (s.beginDelivery s.sel.x s.sel.y)

/-- COPYM_DELIVERY_END: the granules become full, the receiver's lock goes, and a receiver that retired meanwhile is freed. -/
def State.endDelivery (s : State) (id pos : Nat) : State :=
  match s.op? id with
  | none => s
  | some o =>
    match o.move with
    | none => s
    | some m =>
      if o.opc ≠ 0x8D || !m.busy.contains pos || m.todo.any (fun c => c / 2 ^ 21 == pos) || !s.fullReady id o then s
      else
        let s1 := s.updOp id (fun o => { o with move := some { m with busy := m.busy.filter (fun p => p != pos) } })
        match s.receiver o pos with
        | none => s1
        | some (blk, _) =>
          let s2 := s1.updBlock blk (fun b => b.markRange m.dst m.len true)
          let s3 := s2.setLocks (s2.v.locks.filter (fun k => !(k.owner == id && k.dst && k.block == some blk)))
          if s3.v.threads.any (fun p => p.2.block == blk) then s3 else s3.retireBlock blk

def execCopymDeliveryEnd (s : State) : Result := .next (s.endDelivery s.sel.x s.sel.y)

/-! ## Discarding (R137, R271) -/

/-- A page found by a walk of a range, or the fault of the walk. -/
inductive Found where
  | page (a : Attr)
  | fault (k : Kind) (va : Nat)
  deriving DecidableEq, Repr

/-- Leaf pages of a table that meet a range, ascending; a part that no valid leaf maps gives nothing (R137). -/
def State.leavesIn (s : State) (secure : Bool) (asid lo hi : Nat) : List Nat → Nat → Nat → List Found
  | [], _, _ => []
  | level :: rest, table, va0 =>
    let span := 2 ^ (12 + 9 * level)
    let first := if lo ≤ va0 then 0 else (lo - va0) / span
    let last := if va0 + 512 * span ≤ hi then 512 else (hi - va0 + span - 1) / span
    ((List.range 512).filter (fun i => decide (first ≤ i) && decide (i < last))).flatMap (fun i =>
      let va := va0 + i * span
      let pa := table + 8 * i
      if !s.ownMemory table then [.fault .attr (max lo va)]
      else
        match s.tableEntry secure pa with
        | .error k => [.fault k (max lo va)]
        | .ok e =>
          if !bit e 0 then []
          else if level = 0 || bit e 6 then
            if 3 ≤ level then [.fault .attr (max lo va)]
            else
              match s.leafAttr asid va level e pa with
              | .error k => [.fault k (max lo va)]
              | .ok a => if a.va = va then [.page a] else []
          else State.leavesIn s secure asid lo hi rest (bits e 12 40 * 4096) va)

/-- Pages of a range of one name. -/
def State.pagesOf (s : State) (secure : Bool) (asid lo hi : Nat) : List Found :=
  let t := s.r.asidTab.toNat
  let base := bits t 15 37 * 32768
  if hi ≤ lo then []
  else if !s.translating then [.fault .notValid lo]
  else if !s.ownMemory base then [.fault .attr lo]
  else match s.tableEntry secure (base + 8 * asid) with
    | .error k => [.fault k lo]
    | .ok e =>
      if !bit e 0 then []
      else if bits e 52 12 ≠ 0 || bits e 1 11 ≠ 0 then [.fault .attr lo]
      else s.leavesIn secure asid lo hi [4, 3, 2, 1, 0] (bits e 12 40 * 4096) 0

/-- The pages of a range of addresses: the private half under the ASID, the global window under name 0 (R84). -/
def State.pagesOfRange (s : State) (c : Ctx) (lo hi : Nat) : List Found :=
  (if c.asid = 0 then [] else s.pagesOf c.secure c.asid lo (min hi (2 ^ 56))) ++ s.pagesOf c.secure 0 (max lo (2 ^ 56)) hi

/-- The transactions that a write of every granule of a range of a page would doom, each granule at its own home slice
(R339). -/
def State.doomedIn (s : State) (a : Attr) (va len : Nat) : List Nat :=
  (s.x.sigs.filter (fun p => (granules16 va len).any (fun g => sigHit p.read a.asid g && s.slicePlace a a.asid g == some p.slice))).map (·.key)

/-- The holder of the commit lock is among them, and the write waits (R345). -/
def State.holderIn (s : State) (keys : List Nat) : Bool := match s.x.holder with | some h => keys.contains h | none => false

/-- Drop every line, copy, write-back and image of a range without writing anything back. -/
def State.dropLines (s : State) (asid va len : Nat) : State :=
  let out (a v n : Nat) : Bool := !(a == asid && v < va + len && va < v + n)
  s.setMem { s.m with
    lines := s.m.lines.filter (fun l => out l.asid l.va l.data.length)
    copies := s.m.copies.filter (fun c => out c.attr.asid c.va c.size)
    wbq := s.m.wbq.filter (fun w => out w.asid w.va w.data.length)
    images := cutImages s.m.images asid va len }

/-- The SIZE code of a page (R477). -/
def sizeCode (n : Nat) : Nat := if n = 4096 then 0 else if n = 65536 then 1 else if n = 2097152 then 2 else 3

/-- Steps 1 to 3 of R137 for one page. Requests that a home has taken for its lines, and has not served, follow the drop: their
stores revive the page, and their reads give zero (R138, R139). -/
def State.discardPage (s : State) (a : Attr) : State :=
  let s1 := (s.dropLines a.asid a.va a.size).resend a.asid a.va a.size
  let s2 := ((s1.invalidate a.asid a.va a.size).doom (s.doomedIn a a.va a.size)).snoopHarts a.asid a.va a.size none true
  let mark (x : Attr) : Attr := { x with entry := Nat.lor x.entry 2048 }
  let s3 := match s2.paClass a.leaf with
    | .memory off => s2.setMem { s2.m with
        mem := (leafEntries a off).foldl (fun m o =>
          Memory.writes m o (bytesOf 8 (Nat.lor (ofBytes (s2.physBytes o 8)) 2048))) s2.m.mem
        tlb := s2.m.tlb.map (fun (p : Nat × Attr) => if covers a p.2.asid p.2.va then (p.1, mark p.2) else p)
        attrs := s2.m.attrs.map (fun (p : Nat × Attr) => if covers a p.2.asid p.2.va then (p.1, mark p.2) else p) }
    | _ => s2
  s3.reclaimRecord a.va a.frame a.asid (sizeCode a.size) 0

/-- What a DISCARD ends in. -/
inductive Discarded where
  | done
  | fault (k : Kind) (va : Nat)
  /-- At this page it waits for the holder of the commit lock, or for a transaction that is being published (R340, R345). -/
  | held (va : Nat)
  deriving DecidableEq, Repr

/-- Discard the pages that lie wholly in the range, in ascending order. -/
def State.discardPages (s : State) (c : Ctx) (lo hi : Nat) : List Found → State × Discarded
  | [] => (s, .done)
  | .fault k va :: _ => (s, .fault k va)
  | .page a :: t =>
    if a.va < lo || hi < a.va + a.size then State.discardPages s c lo hi t
    else
      match s.permit c a .write with
      | some k => (s, .fault k a.va)
      | none =>
        if s.ticketHolds a.asid a.va a.size none || s.holderIn (s.doomedIn a a.va a.size) then (s, .held a.va)
        else State.discardPages (s.discardPage a) c lo hi t

/-- DISCARD (R271). A length of zero does nothing wherever the range starts: that this stands before the check of 2 ^ 57 is the model's
choice (assumption log 41). -/
def execDiscard (f : Slot) (s : State) : Result :=
  s.groupWide 0x8E f (fun gid g ls l _ =>
    let lo := globalEa f l.th
    let len := l.th.val f.b.toNat 2
    let core := s.coreOfBlock g.block
    let m : Move := ⟨lo, lo, len, [], [], [], []⟩
    let lock := len != 0 && lo < 2 ^ 57 && s.lockConflict 0x8E core none (nameAsid (s.ctxOf g.block).asid lo) lo (lo + len)
    if len ≠ 0 && 2 ^ 57 < lo + len then
      let n := s.startOp gid g 0x8E f (sentLanes [l] lo)
      (((n.1.updOp n.2 (fun o => { o with move := some m })).advance gid g ls).faultLanes n.2 [l.lane] .nonCanon true).after
    else if lock then s.leaderTrap gid g ls l ⟨.rangeLock, 0, some lo, false⟩
    else
      let n := s.startOp gid g 0x8E f (sentLanes [l] lo)
      ((n.1.updOp n.2 (fun o => { o with move := some m })).advance gid g ls).after)

/-- An outstanding DISCARD does its range, from where it came to when it was held or faulted: no page is discarded twice. -/
def State.discardOp (s : State) (id : Nat) : State :=
  match s.op? id with
  | none => s
  | some o =>
    match o.move, o.leader with
    | some m, some l =>
      let hi := m.src + m.len
      let behind := s.poBlocked id l.key true (fun p x => !opScratch p.opc && m.src / 512 ≤ x.ea / 512 && x.ea < hi)
      if l.stage != .sent || behind then s
      else
        let c := s.ctxOf o.block
        let reached (s : State) (va : Nat) : State := s.updOp id (fun o => { o with move := o.move.map (fun m => { m with dst := va }) })
        match s.discardPages c m.dst hi (s.pagesOfRange c m.dst hi) with
        | (s1, .done) => s1.finishOp id
        | (s1, .fault k va) => (reached s1 va).faultLeader id l k va true
        | (s1, .held va) => reached s1 va
    | _, _ => s.finishOp id

end Sys2Proof.Machine
end

