-- ==== Sys2Proof/Machine/Tarns.lean ====
section
/-! DEFINITION. TARN and XLATE instructions (R116 to R126, R272 to R275, R104, R105), share retirement (R127 to R129), the
directory (R131 to R135), poison (R140), refresh (R143, R144) and write-backs (R102). -/

namespace Sys2Proof.Machine

open Sys2Proof

/-! ## TDB images (R110, R117 to R119) -/

/-- The five operations on a Tarn. -/
inductive TarnOp where
  | def_ | grow | shrink | move | retire
  deriving DecidableEq, Repr

/-- Reserved fields of an image are zero (R110). -/
def imageClean (d : BitVec 512) : Bool :=
  tdbField d 424 88 == 0 && tdbField d 309 11 == 0 && tdbField d 232 24 == 0 && tdbField d 143 17 == 0
    && tdbField d 56 8 == 0 && tdbField d 22 2 == 0

/-- A mapping: slice, bank and way masks. -/
structure Mapping where
  slices : Nat
  banks : Nat
  ways : Nat
  deriving DecidableEq, Repr

def mappingOf (d : BitVec 512) : Mapping := ⟨tdbField d 64 72, tdbField d 40 16, tdbField d 24 16⟩

/-- Every bit of the first mask is in the second. -/
def subMask (a b : Nat) : Bool := Nat.land a b == a

/-- The bank set and way mask of the first mapping lie in those of the second. -/
def Mapping.within (a b : Mapping) : Bool := subMask a.slices b.slices && subMask a.banks b.banks && subMask a.ways b.ways

/-- Shares of a mapping, as 16 × bank + way. -/
def Mapping.shares (m : Mapping) : List Nat :=
  (onesOf 72 m.slices).flatMap (fun sl => (onesOf 16 m.banks).flatMap (fun b => (onesOf 16 m.ways).map (fun w => 16 * (16 * sl + b) + w)))

def Mapping.has (m : Mapping) (share : Nat) : Bool := mapHas m.slices m.banks m.ways share

/-- Fields that GROW, SHRINK and MOVE keep (R117). -/
def sameFixed (a b : BitVec 512) : Bool :=
  tdbField a 12 2 == tdbField b 12 2 && tdbField a 14 2 == tdbField b 14 2 && tdbField a 16 2 == tdbField b 16 2
    && tdbField a 20 1 == tdbField b 20 1 && tdbField a 256 41 == tdbField b 256 41 && tdbField a 297 12 == tdbField b 297 12

def isAuto (d : BitVec 512) : Bool := tdbField d 21 1 == 1
def reqSlices (d : BitVec 512) : Nat := tdbField d 136 7

/-- The slices of a compute die: 16 each (R1). -/
def dieSlices (die : Nat) : List Nat := (List.range 16).map (fun i => 16 * die + i)

/-- The order in which AUTO takes slices (R119). -/
def sliceOrder (d : BitVec 512) : List Nat :=
  let dies := (List.range 4).filterMap (fun k =>
    let p := tdbField d (192 + 8 * k) 8
    if 128 ≤ p then some (p % 128 / 32) else none)
  let first := (dies.eraseDups).flatMap dieSlices
  first ++ (List.range 72).filter (fun s => !first.contains s)

/-- A slice qualifies for AUTO (R119). -/
def State.qualifies (s : State) (t : Nat) (d : BitVec 512) (slice : Nat) : Bool :=
  ((Mapping.mk (2 ^ slice) (tdbField d 40 16) (tdbField d 24 16)).shares).all (fun sh =>
    let h := s.shareHolder sh
    (h == 0 || h == t) && !s.shareGone sh)

/-- The SLICEMASK that AUTO chooses; none where too few slices qualify (R119). -/
def State.autoSlices (s : State) (op : TarnOp) (t : Nat) (d : BitVec 512) : Option Nat :=
  let cur := onesOf 72 (tdbField (s.tdb t) 64 72)
  let n := reqSlices d
  let fit := (sliceOrder d).filter (s.qualifies t d)
  match op with
  | .grow =>
    if !cur.all (s.qualifies t d) then none
    else
      let more := (fit.filter (fun x => !cur.contains x)).take (n - cur.length)
      if cur.length + more.length < n then none else some (maskOf (cur ++ more))
  | .shrink =>
    let l := (fit.filter (fun x => cur.contains x)).take n
    if l.length < n then none else some (maskOf l)
  | _ =>
    let l := fit.take n
    if l.length < n then none else some (maskOf l)

/-- Outcomes of R118. -/
inductive TarnVerdict where
  | refused (code : Nat)
  /-- Accepted with this image. -/
  | accepted (d : BitVec 512)
  deriving DecidableEq, Repr

/-- A share retirement of the Tarn's runs. -/
def State.retiringIn (s : State) (t : Nat) : Bool := s.m.retiring.any (fun p => tarnHas (s.tdb t) p.1)

/-- Tarns RESIZING or DRAINING. -/
def State.busyTarns (s : State) : Nat := (s.m.tdbs.filter (fun p => tdbState p.2 == 1 || tdbState p.2 == 2)).length

/-- The device is busy for an operation on a Tarn (R118). -/
def State.tarnBusy (s : State) (op : TarnOp) (t : Nat) : Bool :=
  let st := tdbState (s.tdb t)
  (if op == .def_ then st != 3 else st != 0 || s.retiringIn t) || 8 ≤ s.busyTarns

/-- BADFIELD of an image (R118). -/
def State.badImage (s : State) (op : TarnOp) (t : Nat) (d : BitVec 512) : Bool :=
  let old := s.tdb t
  let n := reqSlices d
  let count := popCount 72 (tdbField old 64 72)
  let m := mappingOf d
  let o := mappingOf old
  !imageClean d || t == 0 || (!isAuto d && m.slices == 0) || m.banks == 0 || m.ways == 0 || tdbRpol d == 3
    || (isAuto d && (n == 0 || 72 < n))
    || (op != .def_ && !sameFixed d old)
    || (op == .grow && !(if isAuto d then subMask o.banks m.banks && subMask o.ways m.ways && count ≤ n else o.within m))
    || (op == .shrink && !(if isAuto d then subMask m.banks o.banks && subMask m.ways o.ways && n ≤ count else m.within o))
    || (tdbRpol d != 2 && tdbField d 256 41 != 0)

/-- The outcome of an image operation, checked in the order of R118. -/
def State.judgeTarn (s : State) (op : TarnOp) (secure : Bool) (d : BitVec 512) : TarnVerdict :=
  let t := tdbField d 0 10
  if !secure && (tdbWorld (s.tdb t) || tdbWorld d) then .refused 4
  else if s.badImage op t d then .refused 3
  else if s.tarnBusy op t then .refused 1
  else
    match (if isAuto d then s.autoSlices op t d else some (tdbField d 64 72)) with
    | none => .refused 2
    | some sl =>
      let d1 := tdbPut d 64 72 sl
      let old : Mapping := if op == .def_ then ⟨0, 0, 0⟩ else mappingOf (s.tdb t)
      let added := (mappingOf d1).shares.filter (fun sh => !old.has sh)
      if added.any (fun sh => s.shareHolder sh != 0 || s.shareGone sh) then .refused 2 else .accepted d1

/-- The outcome of TARN.RETIRE (R118, R273): `v` is the register. -/
def State.judgeRetire (s : State) (secure : Bool) (v : Nat) : TarnVerdict :=
  let t := v % 1024
  if !secure && tdbWorld (s.tdb t) then .refused 4
  else if 1024 ≤ v || t = 0 then .refused 3
  else if s.tarnBusy .retire t then .refused 1
  else .accepted (s.tdb t)

/-! ## Shares and trees -/

/-- Retired shares in a Tarn's mapping, at most 255 (R129). -/
def State.holesOf (s : State) (d : BitVec 512) : Nat := min 255 (s.m.retired.filter (fun sh => (mappingOf d).has sh)).length

def State.setTdb (s : State) (t : Nat) (d : BitVec 512) : State := s.setMem { s.m with tdbs := Tab.set s.m.tdbs t d }

/-- The ways that a Tarn uses in a bank: none in a bank outside its mapping, or while it is RETIRED (R113). -/
def State.usedWays (s : State) (t bank : Nat) : List Nat :=
  let d := s.tdb t
  if t ≠ 0 && (tdbState d == 3 || !(bit (tdbField d 64 72) (bank / 16) && bit (tdbField d 40 16) (bank % 16))) then []
  else s.waysOf t bank

/-- Trees of banks in which the ways that their Tarn uses changed from `s0` to `s` are cleared (R113). -/
def State.retree (s0 s : State) : State :=
  s.setMem { s.m with trees := s.m.trees.filter (fun p =>
    let t := p.1 / 1024 / 1152
    let bank := p.1 / 1024 % 1152
    s0.usedWays t bank == s.usedWays t bank) }

/-- Shares leave Tarn 0: its lines there are in memory and dropped before they do (R120). A line that is dropped leaves nothing in its
share, so the share of a secure Tarn is clear. -/
def State.takeShares (s : State) (shares : List Nat) : State :=
  (s.m.lines.filter (fun l => l.tarn == 0 && shares.contains (16 * l.bank + l.way))).foldl State.evictNow s

/-- STATE and GEN of an entry to ACTIVE or RETIRED (R116). -/
def entered_ (d : BitVec 512) (st gen : Nat) : BitVec 512 := tdbPut (tdbPut d 10 2 st) 160 32 ((gen + 1) % 2 ^ 32)

/-- The RW fields of an image over the RO fields of the Tarn (R110, R117). -/
def withImage (old d : BitVec 512) : BitVec 512 :=
  let ro (e : BitVec 512) (lo len : Nat) : BitVec 512 := tdbPut e lo len (tdbField old lo len)
  ro (ro (ro (ro (ro (ro d 10 2) 160 32) 224 8) 320 72) 392 16) 408 16

/-- Live transactions' signatures reach every slice of the new bank set (R125). -/
def State.mergeSigs (s : State) (old new : Mapping) : State :=
  let from_ := onesOf 72 old.slices
  let into := onesOf 72 new.slices
  let keys := (s.x.sigs.map (·.key)).eraseDups
  let add (l : List SigPair) (k : Nat) : List SigPair :=
    let mine := s.x.sigs.filter (fun p => p.key == k && from_.contains p.slice)
    if mine.isEmpty then l
    else
      let r := mine.foldl (fun a p => a ||| p.read) (0 : BitVec 1024)
      let w := mine.foldl (fun a p => a ||| p.write) (0 : BitVec 1024)
      into.foldl (fun l sl =>
        if l.any (fun p => p.slice == sl && p.key == k) then
          l.map (fun p => if p.slice == sl && p.key == k then { p with read := p.read ||| r, write := p.write ||| w } else p)
        else l ++ [⟨sl, k, r, w⟩]) l
  { s with x := { s.x with sigs := keys.foldl add s.x.sigs } }

/-- The device accepts an operation (R116, R117). -/
def State.acceptTarn (s : State) (op : TarnOp) (d : BitVec 512) : State :=
  let t := tdbField d 0 10
  let old := s.tdb t
  let om := mappingOf old
  let nm := mappingOf d
  State.retree s <| match op with
  | .def_ =>
    let s1 := s.takeShares nm.shares
    let e := entered_ (withImage old d) 0 (tdbField old 160 32)
    s1.setTdb t (tdbPut (tdbPut (tdbPut (tdbPut e 224 8 0) 320 72 0) 392 16 0) 408 16 0)
  | .retire => s.setTdb t (tdbPut old 10 2 2)
  | _ =>
    let s1 := (s.takeShares (nm.shares.filter (fun sh => !om.has sh))).mergeSigs om nm
    let e := tdbPut (withImage old d) 10 2 1
    let e1 := tdbPut (tdbPut (tdbPut e 320 72 om.slices) 392 16 om.banks) 408 16 om.ways
    s1.setTdb t e1

/-! ## The instructions (R240, R273, R274) -/

/-- TARN.DEF, GROW, SHRINK and MOVE: the image's address is checked at issue (R83, R273); the device reads it and acts later. -/
def State.tarnIssue (s : State) (op : Nat) (f : Slot) : Result :=
  s.asPrivileged op f (fun s => s.groupWide op f (fun gid g ls l run =>
    let va := l.th.val f.a.toNat (if op = 0xA4 then 1 else 2)
    if op ≠ 0xA4 && va % 64 ≠ 0 then s.leaderTrap gid g ls l ⟨.misaligned, 0, some va, false⟩
    else
      let n := s.startOp gid g op f (sentLanes run va)
      let s1 := n.1.advance gid g ls
      (if op ≠ 0xA4 && 2 ^ 57 ≤ va then s1.faultLanes n.2 [l.lane] .nonCanon false else s1).after))

def execTarnDef (f : Slot) (s : State) : Result := s.tarnIssue 0xA0 f
def execTarnGrow (f : Slot) (s : State) : Result := s.tarnIssue 0xA1 f
def execTarnShrink (f : Slot) (s : State) : Result := s.tarnIssue 0xA2 f
def execTarnMove (f : Slot) (s : State) : Result := s.tarnIssue 0xA3 f
def execTarnRetire (f : Slot) (s : State) : Result := s.tarnIssue 0xA4 f

def tarnOpOf (op : Nat) : TarnOp :=
  if op = 0xA0 then .def_ else if op = 0xA1 then .grow else if op = 0xA2 then .shrink else if op = 0xA3 then .move else .retire

/-- An instruction made once ends with the same words in D of every lane. -/
def State.finishWith (s : State) (id : Nat) (res : List Word) : State :=
  (s.updOp id (fun o => { o with lanes := o.lanes.map (fun l => { l with stage := .done, res := res }) })).finishOp id

/-- The outcome and GEN of a TARN instruction (R274). -/
def State.tarnResult (s : State) (id code t : Nat) : State :=
  s.finishWith id [BitVec.ofNat 32 code, BitVec.ofNat 32 (tdbField (s.tdb t) 160 32)]

/-- A TARN instruction reaches the device; the read of its image keeps to the order of its thread (R315, R325). -/
def State.submitTarn (s : State) (id : Nat) : State :=
  match s.op? id with
  | none => s
  | some o =>
    if o.tag ≠ 0 || !s.going id o then s
    else
      match o.leader with
      | none => s.finishOp id
      | some l =>
        if l.stage != .sent then s
        else
          let c := s.ctxOf o.block
          let act (s : State) (v : TarnVerdict) (t : Nat) : State :=
            match v with
            | .refused code => s.tarnResult id code t
            | .accepted d =>
              let s1 := s.acceptTarn (tarnOpOf o.opc) d
              if o.opc = 0xA0 then s1.tarnResult id 0 t else s1.updOp id (fun o => { o with tag := t })
          if o.opc = 0xA4 then act s (s.judgeRetire c.secure l.ea) (l.ea % 1024)
          else if s.poBlocked id l.key false (fun p x => !opScratch p.opc && opWrites p.opc && x.ea / 512 == l.ea / 512) then s
          else
            match s.load (s.agentOf o.block l.key) l.ea 64 with
            | (s1, .error (.page k a)) => s1.faultLeader id l k a false
            | (s1, .error (.poisoned a)) => s1.poisonLeader id o l a
            | (_, .error .held) => s
            | (s1, .ok b) =>
              let d : BitVec 512 := BitVec.ofNat 512 (ofBytes b)
              act s1 (s1.judgeTarn (tarnOpOf o.opc) c.secure d) (tdbField d 0 10)

/-! ## Migration (R122 to R124) -/

/-- A line stands where its Tarn's present mapping puts it. -/
def State.placedLine (s : State) (l : Line) : Bool :=
  match s.spotOf l.tarn l.asid l.va with
  | .bank b set pin => l.bank == b && l.set == set && (match pin with | some w => l.way == w | none => (s.waysOf l.tarn b).contains l.way)
  | _ => false

/-- A slice's entry for a line goes, the rest of the span that held it staying. -/
def State.dirCut (s : State) (slice asid va line : Nat) : State :=
  match s.m.dir.find? (fun e => e.slice == slice && e.asid == asid && e.va ≤ va && va < e.va + e.size) with
  | none => s
  | some e =>
    let rest := (splitDir e va line 10).filter (fun p => !(p.va ≤ va && va < p.va + p.size))
    let s1 := s.dirRoom slice asid va (rest.length - 1) 10
    s1.setMem { s1.m with dir := s1.m.dir.flatMap (fun x => if x != e then [x] else rest) }

/-- The directory entry of a line becomes a single-line entry at its new home slice (R124). -/
def State.moveDir (s : State) (l : Line) (slice : Nat) : State :=
  let n := l.data.length
  match s.m.dir.find? (fun e => e.slice == l.bank / 16 && e.asid == l.asid && e.va ≤ l.va && l.va < e.va + e.size) with
  | none => s
  | some e =>
    let s1 := ((s.dirCut (l.bank / 16) l.asid l.va n).dirCut slice l.asid l.va n).dirRoom slice l.asid l.va 1 4
    s1.setMem { s1.m with dir := s1.m.dir ++ [{ e with slice := slice, va := l.va, size := n }] }

/-- One line of a RESIZING Tarn moves to its new home, once its old home has completed the requests for it that it accepted (R123);
one of a DRAINING Tarn is handled. A pinned line displaces none: a line of the Tarn that still stands in its new place is under way
too. -/
def State.moveLine (s : State) (l : Line) : State :=
  if s.lineBusy l.asid l.va l.data.length then s
  else if tdbState (s.tdb l.tarn) = 2 then s.evict l
  else if s.placedLine l then s
  else
    match s.spotOf l.tarn l.asid l.va with
    | .bank b set pin =>
      let s1 := s.setMem { s.m with lines := s.m.lines.filter (fun x => !sameLine x l) }
      let s2 := s1.install l.tarn l.asid l.va b set pin l.data
      (s2.updLine l (fun x => { x with dirty := l.dirty })).moveDir l (b / 16)
    | _ => s.evict l

/-- TARN_LINE_MOVE of the line at (`sel.y`, `sel.z`) of Tarn `sel.x`. -/
def execTarnLineMove (s : State) : Result :=
  match s.lineAt s.sel.x s.sel.y s.sel.z with
  | some l => .next (if tdbState (s.tdb l.tarn) = 1 || tdbState (s.tdb l.tarn) = 2 then s.moveLine l else s)
  | none => .next s

/-- The TARN instruction that waits for a Tarn reports DONE. -/
def State.tarnDone (s : State) (t : Nat) : State :=
  (s.v.ops.filter (fun p => 0xA1 ≤ p.2.opc && p.2.opc ≤ 0xA4 && p.2.tag == t)).foldl (fun s p => s.tarnResult p.1 0 t) s

/-- TARN_RESIZE_COMPLETE (R116): what left the shares that Tarn 0 takes is in memory first (R120). -/
def execTarnResizeComplete (s : State) : Result :=
  let t := s.sel.x
  let d := s.tdb t
  if tdbState d = 1 && t != 0 && (s.m.lines.filter (fun l => l.tarn == t)).all s.placedLine then
    let e := entered_ (tdbPut (tdbPut (tdbPut (tdbPut d 224 8 (s.holesOf d)) 320 72 0) 392 16 0) 408 16 0) 0 (tdbField d 160 32)
    .next ((State.retree s (s.drainAll.setTdb t e)).tarnDone t)
  else .next s

/-- Requests that a Tarn's homes have taken stand before them again. -/
def State.resendTarn (s : State) (t : Nat) : State :=
  s.setReqs (Tab.mapv s.v.reqs (fun q =>
    if q.stage != .home && q.attr.home < 2 && q.attr.tarn == t then
      { q with
        stage := .home
        data := [] }
    else q))

/-- TARN_DRAIN_COMPLETE (R116): the lines that remain are handled, their data reaches memory, and every share returns to Tarn 0. -/
def execTarnDrainComplete (s : State) : Result :=
  let t := s.sel.x
  let d := s.tdb t
  if tdbState d = 2 && t != 0 then
    let s1 := ((s.m.lines.filter (fun l => l.tarn == t)).foldl State.evict s).drainAll
    .next ((State.retree s ((s1.setTdb t (entered_ d 3 (tdbField d 160 32))).resendTarn t)).tarnDone t)
  else .next s

/-! ## XLATE.INV (R104, R105, R275) -/

/-- The names that XLATE.INV acts on: ASID, first address and end. -/
def xlateNames (op sub start len asid : Nat) : List (Nat × Nat × Nat) :=
  if op ≠ 0xA5 || (sub < 2 && len = 0) then []
  else if sub < 2 then
    (if start < 2 ^ 56 then [(asid, start, min (start + len) (2 ^ 56))] else [])
      ++ (if 2 ^ 56 < start + len then [(0, max start (2 ^ 56), start + len)] else [])
  else if asid = 0 then [(0, 2 ^ 56, 2 ^ 57)]
  else [(asid, 0, 2 ^ 56)]

/-- XLATE.INV: checks at issue (R275). That a length of zero does nothing, wherever above 2 ^ 57 the range would start, is the model's
choice (assumption log 41). -/
def State.xlateIssue (s : State) (f : Slot) : Result :=
  s.asPrivileged 0xA5 f (fun s => s.groupWide 0xA5 f (fun gid g ls l _ =>
    let ranged := Rule.sub f < 2
    let start := if ranged then l.th.val f.a.toNat 2 else 0
    let len := if ranged then l.th.val f.b.toNat 2 else 0
    let m : Move := ⟨start, l.th.val f.c.toNat 1 % 4096, len, [], [], [], []⟩
    if ranged && (start % 4096 ≠ 0 || len % 4096 ≠ 0) then s.leaderTrap gid g ls l ⟨.misaligned, 0, some start, false⟩
    else
      let n := s.startOp gid g 0xA5 f (sentLanes [l] start)
      let s1 := (n.1.updOp n.2 (fun o => { o with move := some m })).advance gid g ls
      if ranged && len ≠ 0 && 2 ^ 57 < start + len then (s1.faultLanes n.2 [l.lane] .nonCanon false).after else s1.after))

def execXlateInvAttr (f : Slot) (s : State) : Result := s.xlateIssue f
def execXlateInvLines (f : Slot) (s : State) : Result := s.xlateIssue f
def execXlateInvAttrall (f : Slot) (s : State) : Result := s.xlateIssue f
def execXlateInvLinesall (f : Slot) (s : State) : Result := s.xlateIssue f

/-- A range of one name contains or meets a span. -/
def meetsName (r : Nat × Nat × Nat) (asid va n : Nat) : Bool := r.1 == asid && r.2.1 < r.2.2 && r.2.1 < va + n && va < r.2.2

/-- A slice tests a granule as one homed at it. A granule whose page has no translation left has no home to go by, and every slice
tests it, which is the model's choice (assumption log 42). -/
def State.testedAt (s : State) (slice asid va : Nat) : Bool :=
  match (s.translate true asid va).2 with
  | .ok a => a.home < 2 && s.slicePlace a asid va == some slice
  | .error _ => true

/-- The transactions that XLATE.INV.LINES dooms (R339): a granule of the range matches at its home slice, or is logged. -/
def State.doomedByInv (s : State) (r : Nat × Nat × Nat) : List Nat :=
  (s.x.sigs.filter (fun p => (granules16 r.2.1 (r.2.2 - r.2.1)).any (fun g =>
      sigHit p.read r.1 g && s.testedAt p.slice r.1 g))).map (·.key)
    ++ (s.v.threads.filter (fun p => match p.2.tx with
        | some x => x.log.any (fun b => meetsName r b.asid b.va 16)
        | none => false)).map Prod.fst

/-- R104 over one range of a name: what is dirty goes back while the shards still hold its translation, which R106 has made invalid in
the tables by then; then attributes, translations and copies go. -/
def State.invalidateName (s : State) (lines : Bool) (r : Nat × Nat × Nat) : State :=
  let len := r.2.2 - r.2.1
  let s1 :=
    if !lines then s
    else
      let d := s.doom (s.doomedByInv r)
      ((d.m.lines.filter (fun l => meetsName r l.asid l.va l.data.length)).foldl State.evict d).drain r.1 r.2.1 len
  let mine := s1.m.copies.filter (fun k => k.dirty && k.attr.home == 3 && meetsName r k.attr.asid k.va k.size)
  let s2 := mine.foldl (fun s k => s.doWriteBack ⟨k.attr.asid, k.va, k.data⟩) s1
  let drop (l : List (Nat × Attr)) : List (Nat × Attr) := l.filter (fun p => !meetsName r p.2.asid p.2.va p.2.size)
  let s3 := (s2.setMem { s2.m with attrs := drop s2.m.attrs, tlb := drop s2.m.tlb }).dropCopies (fun k =>
    meetsName r k.attr.asid k.va k.size)
  (s3.invalidate r.1 r.2.1 len).snoopHarts r.1 r.2.1 len none true

/-- Accesses of the range that have not been made ask for their attributes anew, those that a save recorded included: requests that
have not been translated again are withdrawn (R105, R106). A POLL of a HOME 2 or 3 page that backs off reads again only when that ends
(R263). -/
def State.renewNames (s : State) (names : List (Nat × Nat × Nat)) : State :=
  let old (a : Attr) : Bool := names.any (fun r => meetsName r a.asid a.va a.size)
  let s1 := s.setReqs (s.v.reqs.filter (fun q => !old q.2.attr))
  let s2 := s1.setOps (Tab.mapv s1.v.ops (fun o =>
    { o with lanes := o.lanes.map (fun l =>
      match l.attr, l.stage with
      | some _, .done => l
      | some a, .fault _ => if old a then { l with attr := none } else l
      | some a, .wait => if old a then { l with attr := none, stage := if 2 ≤ a.home then .wait else .attr } else l
      | some a, _ => if old a then { l with attr := none, stage := .attr } else l
      | none, _ => l) }))
  (s.v.ops.filter (fun p => p.2.lanes.any (fun l => l.attr.any old))).foldl (fun s p => s.repark p.1) s2

/-- XLATE_INV_COMPLETE: every request of the range that was translated has reached its controller (R105). A save records an
instruction that is outstanding, and it acts and completes after the resume, which is the model's choice (assumption log 42). -/
def execXlateInvComplete (s : State) : Result :=
  match s.op? s.sel.x with
  | none => .next s
  | some o =>
    if o.opc ≠ 0xA5 || !s.going s.sel.x o then .next s
    else
      match o.move, o.leader with
      | some m, some l =>
        let sub := Rule.sub o.f
        let names := xlateNames o.opc sub m.src m.len m.dst
        let lines := sub % 2 = 1
        let under (q : Req) : Bool :=
          (q.stage == .controller || q.stage == .fill) && names.any (fun r => meetsName r q.attr.asid q.attr.va q.attr.size)
        if l.stage != .sent then .next s
        else if sub < 2 && m.len ≠ 0 && 2 ^ 57 < m.src + m.len then .next (s.faultLeader s.sel.x l .nonCanon m.src false)
        else if s.v.reqs.any (fun q => under q.2) then .next s
        else if names.any (fun r => s.ticketHolds r.1 r.2.1 (r.2.2 - r.2.1) none)
            || lines && names.any (fun r => s.holderIn (s.doomedByInv r)) then .next s
        else .next ((names.foldl (fun s r => s.invalidateName lines r) s).renewNames names |>.finishOp s.sel.x)
      | _, _ => .next (s.finishOp s.sel.x)

/-! ## Share retirement (R127, R128) -/

def SYS_SHARES : Nat := 18432

/-- A share stops taking fills. -/
def State.startRetiring (s : State) (share : Nat) (asked : Bool) : State :=
  if s.m.retiring.any (fun p => p.1 == share) then
    s.setMem { s.m with retiring := s.m.retiring.map (fun p => if p.1 == share then (p.1, p.2 || asked) else p) }
  else
    State.retree s (s.setMem { s.m with retiring := s.m.retiring ++ [(share, asked)] })

/-- SHARERET_WRITE (R127). -/
def execShareretWrite (value : Dword) (s : State) : Result :=
  let share := value.toNat % 32768
  let put (s : State) (v : Nat) : State := { s with r := { s.r with shareRet := BitVec.ofNat 64 v } }
  if bit s.r.shareRet.toNat 31 then .next s
  else if SYS_SHARES ≤ share then .next (put s (share + 2 * 2 ^ 29))
  else if s.m.retired.contains share then .next (put s (share + 2 ^ 29))
  else .next (put (s.startRetiring share true) (share + 2 ^ 31))

/-- The memory granules of a line are poisoned (R128, R140). -/
def State.poisonLine (s : State) (asid va size : Nat) : State :=
  match s.translate true asid va with
  | (s1, .ok a) => s1.poisonRange (a.frame + (va - a.va)) size
  | (s1, .error _) => s1

/-- A line of a share being retired is handled; no transaction aborts (R128). -/
def State.retireLine (s : State) (unreadable : List Nat) (l : Line) : State :=
  let s1 := s.invalidate l.asid l.va l.data.length
  let s2 := s1.setMem { s1.m with lines := s1.m.lines.filter (fun x => !sameLine x l) }
  if !l.dirty then s2
  else if unreadable.contains l.set then s2.poisonLine l.asid l.va l.data.length
  else (s2.drain l.asid l.va l.data.length).doWriteBack ⟨l.asid, l.va, l.data⟩

/-- SHARE_RETIREMENT_COMPLETE: `unreadable` names the sets whose dirty line ECC cannot correct (R128). -/
def execShareRetirementComplete (share : Nat) (unreadable : List Nat) (s : State) : Result :=
  match s.m.retiring.find? (fun p => p.1 == share) with
  | none => .next s
  | some p =>
    let holder := s.shareHolder share
    let s1 := (s.m.lines.filter (fun l => 16 * l.bank + l.way == share)).foldl (fun s l => s.retireLine unreadable l) s
    let s2 := s1.setMem { s1.m with retired := insertNat share s1.m.retired, retiring := s1.m.retiring.filter (fun q => q.1 != share) }
    let s3 := (if holder = 0 then s2 else s2.setTdb holder (tdbPut (s2.tdb holder) 224 8 (s2.holesOf (s2.tdb holder)))).raiseIntr 5
    .next (if p.2 then { s3 with r := { s3.r with shareRet := BitVec.ofNat 64 (s3.r.shareRet.toNat % 2 ^ 29) } } else s3)

/-- UNCORRECTABLE_ECC_ERROR in share `sel.x` (R127). -/
def execUncorrectableEccError (s : State) : Result :=
  let sh := s.sel.x
  if SYS_SHARES ≤ sh || s.shareGone sh then .next s
  else
    let again := match Tab.look s.m.eccAt sh with | some t => decide (s.clock - t < 2 ^ 30) | none => false
    let s1 := s.setMem { s.m with eccAt := Tab.set s.m.eccAt sh s.clock }
    .next (if again then s1.startRetiring sh false else s1)

/-! ## Poison (R140) -/

/-- Lines of Tarns whose memory holds a physical address, with the first physical address of each. -/
def State.linesAtPa (s : State) (pa : Nat) : List (Line × Nat) :=
  s.m.lines.filterMap (fun l =>
    match s.walk true l.asid l.va with
    | .ok a =>
      let p := a.frame + (l.va - a.va)
      if p ≤ pa && pa < p + l.data.length then some (l, p) else none
    | .error _ => none)

/-- The data of this package's memory at a physical address is lost: the granules of its line are poisoned, and every copy is dropped
(R140, R141). -/
def State.loseMemory (s : State) (pa : Nat) : State :=
  let s1 := (s.poisonRange (pa / 64 * 64) 64).dropCopies (fun c =>
    c.attr.home == 3 && c.attr.frame + (c.va - c.attr.va) ≤ pa && pa < c.attr.frame + (c.va - c.attr.va) + c.size)
  (s.linesAtPa pa).foldl (fun s p =>
    let s2 := ((s.invalidate p.1.asid p.1.va p.1.data.length).snoopHarts p.1.asid p.1.va p.1.data.length none true).poisonRange p.2 p.1.data.length
    s2.setMem { s2.m with lines := s2.m.lines.filter (fun x => !sameLine x p.1) }) s1

/-- MEMORY_UNCORRECTABLE_ERROR at physical address `sel.x`. -/
def execMemoryUncorrectableError (s : State) : Result := .next (if s.ownMemory s.sel.x then s.loseMemory s.sel.x else s)

/-- The only modified copy of a line is lost: the line is poisoned, and its home drops every copy (R140). -/
def State.loseLine (s : State) (asid va size : Nat) : State :=
  let s1 := (s.drain asid va size).poisonLine asid va size
  let s2 := ((s1.invalidate asid va size).snoopHarts asid va size none true).dropCopies (fun c => c.attr.asid == asid && c.va < va + size && va < c.va + c.size)
  s2.setMem { s2.m with lines := s2.m.lines.filter (fun l => !(l.asid == asid && l.va < va + size && va < l.va + l.data.length)) }

/-- A host core that is offline has no transaction, no wait and no ticket. -/
def State.stopHart (s : State) (h : Nat) : State :=
  let s1 := s.updHart h (fun x =>
    { x with
      running := false
      tx := none
      wait := none })
  { s1 with x := { s1.x with tickets := s1.x.tickets.filter (fun t => !(t.host && t.key == h)) } }

/-- AGENT_DEATH of agent `sel.x`: it is taken offline, its modified copies are lost and their lines poisoned. -/
def execAgentDeath (s : State) : Result :=
  let a := s.sel.x
  let s1 := (s.m.copies.filter (fun c => c.agent == a && c.dirty)).foldl (fun s c => s.loseLine c.attr.asid c.va c.size) s
  let s2 := s1.setMem { s1.m with copies := s1.m.copies.filter (fun c => c.agent != a), attrs := s1.m.attrs.filter (fun p => p.1 != a) }
  .next (if a < 512 then s2.updCore a (fun c => { c with stopped := true, mode := 2 })
    else if a < 576 then s2.stopHart (a - 512)
    else s2)

/-! ## Directory, snoops, write-backs (R133, R135, R102) -/

/-- The merged entry of two siblings, where they agree (R133). -/
def mergeDir (now : Nat) (a b : DirEntry) : Option DirEntry :=
  let quiet := 65536 ≤ now - a.last && 65536 ≤ now - b.last
  let agree := a.state == b.state && (a.state != 2 || a.holders == b.holders)
  if quiet && agree && a.size == b.size && a.size < 65536 && a.va % (2 * a.size) == 0 && b.va == a.va + a.size then
    some { a with size := 2 * a.size, holders := b.holders.foldl (fun l h => insertNat h l) a.holders, last := max a.last b.last }
  else none

/-- DIRECTORY_MERGE of the entry at (`sel.y`, `sel.z`) of slice `sel.x` and its upper sibling. -/
def execDirectoryMerge (s : State) : Result :=
  let at_ (va : Nat) : Option DirEntry := s.m.dir.find? (fun e => e.slice == s.sel.x && e.asid == s.sel.y && e.va == va)
  match at_ s.sel.z with
  | none => .next s
  | some a =>
    match at_ (a.va + a.size) with
    | none => .next s
    | some b =>
      match mergeDir s.clock a b with
      | none => .next s
      | some e => .next (s.setMem { s.m with dir := (s.m.dir.filter (fun x => x != b)).map (fun x => if x == a then e else x) })

/-- A hart that marked a line of an address for writing, or where the snoop invalidates for reading, aborts with CONFLICT, and its
ticket goes (R349, R350). -/
def State.snoopHart (s : State) (h asid va : Nat) (invalidate : Bool) : State :=
  let hit (l : Nat × Nat × Nat) : Bool := l.1 == asid && l.2.1 ≤ va && va < l.2.1 + l.2.2
  match (s.hart h).tx with
  | none => s
  | some t =>
    if t.writtenLines.any hit || (invalidate && t.readLines.any hit) then s.rollHart h Abort.conflict.code 0 else s

/-- SNOOP_RECEIVED: the agent's copy goes where the snoop invalidates. With a request of the agent for the line pending, it completes neither
and reports the conflict to the home, which orders the two: the snoop comes first and takes the copy, and the request stands before the
home again; a fill in flight is not installed (R135, R136, R320). -/
def execSnoopReceived (agent asid va : Nat) (invalidate : Bool) (s : State) : Result :=
  let pending (q : Req) : Bool := q.asid == asid && q.va ≤ va && va < q.va + q.size && q.attr.home < 2
    && (match s.op? q.op with | some o => s.coreOfBlock o.block == agent | none => false)
  let again (q : Req) : Req :=
    { q with
      noCopy := q.noCopy || (invalidate && q.stage != .home)
      stage := .home
      data := [] }
  let s0 := s.setReqs (Tab.mapv s.v.reqs (fun q => if pending q then again q else q))
  let s1 := if !invalidate then s0
    else s0.dropCopies (fun c => c.agent == agent && c.attr.home != 3 && c.attr.asid == asid && c.va ≤ va && va < c.va + c.size)
  .next (if 512 ≤ agent && agent < 576 then s1.snoopHart (agent - 512) asid va invalidate else s1)

/-- WRITE_BACK of entry `sel.x` of the queue (R102), behind earlier ones of its line. -/
def execWriteBack (s : State) : Result :=
  match s.m.wbq[s.sel.x]? with
  | none => .next s
  | some w =>
    let before := (s.m.wbq.take s.sel.x).any (fun o => o.asid == w.asid && o.va < w.va + w.data.length && w.va < o.va + o.data.length)
    if before then .next s
    else .next ((s.setMem { s.m with wbq := s.m.wbq.eraseIdx s.sel.x }).doWriteBack w)

/-! ## Refresh (R143, R144) -/

/-- Cycles in which a read was blocked are counted; how many, the spec leaves open up to its bound (R143, R144). -/
def State.refreshStall (s : State) (instance_ : Nat) : State :=
  let n := (Config.freeDword s.fresh).toNat % 1231
  let t := (Tab.get s.r.memlat instance_ 0 + n) % 2 ^ 64
  { s with fresh := s.fresh + 1, r := { s.r with memlat := Tab.set s.r.memlat instance_ t } }

/-- REFRESH_DUE: postponed up to eight times while class-3 requests wait, then forced for all banks. `controller` is its
SYS.MEMLAT instance. -/
def execRefreshDue (controller bank : Nat) (class3 : Bool) (s : State) : Result :=
  let k := controller * 4096 + bank
  let owed := Tab.get s.m.owedRefresh k 0
  if !class3 then .next (s.refreshStall controller)
  else if owed < 8 then .next (s.setMem { s.m with owedRefresh := Tab.set s.m.owedRefresh k (owed + 1) })
  else .next ((s.setMem { s.m with owedRefresh := s.m.owedRefresh.filter (fun p => p.1 / 4096 != controller) }).refreshStall controller)

/-- REFRESH_REPAY of bank `sel.y` of controller `sel.x`. -/
def execRefreshRepay (s : State) : Result :=
  let k := s.sel.x * 4096 + s.sel.y
  if Tab.get s.m.owedRefresh k 0 = 0 then .next s
  else .next ((s.setMem { s.m with owedRefresh := Tab.del s.m.owedRefresh k }).refreshStall s.sel.x)

/-- ECC_SCRUB (R431): it reads a bank; its requests wait up to 8 cycles, and nothing changes. -/
def execEccScrub (s : State) : Result := .next s

end Sys2Proof.Machine
end

