-- ==== Sys2Proof/Machine/Order.lean ====
section
/-! DEFINITION. Fences (R324, R325), block barriers (R326 to R329), stage-barrier waits (R332), and the instructions that
open, abort and report transactions (R334, R335, R342 to R346). -/

namespace Sys2Proof.Machine

open Sys2Proof

/-- The executing lanes whose transaction aborts with INSTR, for an instruction that has no effect there (R346). -/
def instrAborts (ls : List LaneV) : List (Nat × Abort × Nat) :=
  (ls.filter (fun l => l.run && l.inTx)).map (fun l => (l.key, .instr, 0))

/-- Executing lanes without a transaction. -/
def plainLanes (ls : List LaneV) : List LaneV := ls.filter (fun l => l.run && !l.inTx)

/-- FENCE (R325): outstanding in each executing lane until what it orders has completed. -/
def execFence (f : Slot) (s : State) : Result :=
  s.issue 0xB0 f (fun gid g ls =>
    let lanes := plainLanes ls
    let aborts := instrAborts ls
    if lanes.isEmpty && !aborts.isEmpty then s.finish gid g ls ⟨[], [], [], aborts⟩
    else ((s.startOp gid g 0xB0 f (lanes.map (fun l => laneOp l 0 [] [] .sent))).1).finish gid g ls ⟨[], [], [], aborts⟩)

/-! ## Block barriers -/

def barNo (f : Slot) : Nat := f.i32.toNat % 16

/-- An access that an instruction makes for a thread has still to be performed. -/
def State.accessOpen (s : State) (a : Nat × Nat) : Bool := (s.op? a.1).any (fun o => o.lanes.any (fun l => l.key == a.2 && o.toAccess l))

/-- The accesses of a thread that have still to be performed, by instruction. -/
def State.openAccesses (s : State) (key : Nat) : List (Nat × Nat) :=
  ((s.v.ops.filter (fun p => inPo p.2.opc && p.2.opc != 0x0C && !opReceives p.2.opc)).map (fun p => (p.1, key))).filter s.accessOpen

/-- One lane of BarArrive (R328), which comes after the accesses that its thread has open (R329). -/
def State.arriveLane (s : State) (blk n : Nat) (l : LaneV) : State :=
  let phase := match s.block? blk with | some b => (b.bar n).phase | none => false
  let m : BitVec 16 := 1#16 <<< n
  (s.updThread l.key (fun t =>
    { t with barPend := t.barPend ||| m, barPhase := if phase then t.barPhase ||| m else t.barPhase &&& ~~~m })).updBlock blk
    (fun b => { b with bars := Tab.set b.bars n { b.bar n with
        arrived := (b.bar n).arrived + 1
        before := (b.bar n).before ++ s.openAccesses l.key } })

/-- The phase completes where every expected thread has arrived (R328). -/
def State.tryPhase (s : State) (blk n : Nat) : State :=
  match s.block? blk with
  | none => s
  | some b => if (b.bar n).expected ≤ (b.bar n).arrived then s.completePhase blk n else s

/-- BAR.ARRIVE (R328). -/
def execBarArrive (f : Slot) (s : State) : Result :=
  s.issue 0xB1 f (fun gid g ls =>
    let n := barNo f
    let lanes := plainLanes ls
    let again := lanes.filter (fun l => l.th.barPend.getLsbD n)
    let s1 := (lanes.filter (fun l => !l.th.barPend.getLsbD n)).foldl (fun s l => s.arriveLane g.block n l) s
    let r := s1.finish gid g ls ⟨[], [], again.map (fun l => (l.key, ⟨.barrier, 0, none, false⟩)), instrAborts ls⟩
    (r.1.tryPhase g.block n, r.2))

/-- A lane waits in BAR.WAIT: its arrival is pending, and its phase is still open, or what the arrivals came after has still to be
performed (R329). -/
def State.waitsAt (s : State) (b : Block) (n : Nat) (t : Thread) : Bool :=
  t.barPend.getLsbD n && (t.barPhase.getLsbD n == (b.bar n).phase || (b.bar n).prior.any s.accessOpen)

/-- Barriers of a block whose last phase waits for accesses that have now been performed: the groups at a barrier go on (R329). -/
def State.settleBars (s : State) (blk : Nat) : State :=
  match s.block? blk with
  | none => s
  | some b =>
    let met (p : Nat × Bar) : Bool := !p.2.prior.isEmpty && !p.2.prior.any s.accessOpen
    if !b.bars.any met then s
    else
      let s1 := s.updBlock blk (fun b => { b with bars := b.bars.map (fun p => if met p then (p.1, { p.2 with prior := [] }) else p) })
      (s1.groupsOfBlock blk).foldl (fun s p => s.unpark p.1 (fun x => x == .barrier)) s1

/-- BAR.WAIT (R328, R329): a waiting lane keeps the group in the Backwater at this instruction until the phase completes. -/
def execBarWait (f : Slot) (s : State) : Result :=
  s.issue 0xB2 f (fun gid g ls =>
    let n := barNo f
    match s.block? g.block with
    | none => s.after
    | some b =>
      let lanes := plainLanes ls
      let s1 := s.eachLane (lanes.filter (fun l => !s.waitsAt b n l.th)) (fun _ t => { t with barPend := t.barPend &&& ~~~(1#16 <<< n) })
      if lanes.any (fun l => s.waitsAt b n l.th) then (s1.park gid .barrier).after
      else s1.finish gid g ls ⟨[], [], [], instrAborts ls⟩)

/-- SBAR.WAIT (R332): its read of the word waits for what the thread's order puts before it (R315, R325); lanes whose check fails trap; a lane whose phase equals its token keeps the group in the Backwater. -/
def execSbarWait (f : Slot) (s : State) : Result :=
  s.issue 0xB5 f (fun gid g ls =>
    let core := s.coreOfBlock g.block
    let chk := (plainLanes ls).map (fun l => (l, s.checkLane 0xB5 f core g.block l))
    let traps := chk.filterMap (fun (p : LaneV × Checked) => match p.2 with | .trap t => some (p.1.key, t) | _ => none)
    let waits (p : LaneV × Checked) : Bool :=
      match p.2, s.block? g.block with
      | .go ea, some b => ofBytes (b.bytes ea 2) == p.1.th.val f.b.toNat 1 % 65536
      | _, _ => false
    let behind (p : LaneV × Checked) : Bool :=
      match p.2 with
      | .go ea => s.poBlocked s.nextId p.1.key false (fun q x => opScratch q.opc && opWrites q.opc && x.ea / 16 == ea / 16)
      | _ => false
    if chk.any behind then s.held
    else if chk.any waits then (s.park gid .stage).after else s.finish gid g ls ⟨[], [], traps, instrAborts ls⟩)

/-! ## Transactions (R335, R342 to R346) -/

/-- A transaction as TBEGIN opens it (R335): the snapshot is what the instruction reads. -/
def openTx (src : Thread) (pc : Pc) (d clock : Nat) : Tx :=
  { depth := 1, regs := src.regs, preds := src.preds, draws := src.draws, pc, dreg := d, start := clock, retries := 0,
    lock := false, log := [], buf := [], doomed := false, ticket := none, pending := none }

/-- TBEGIN in one lane. -/
def beginTx (pc : Pc) (d clock : Nat) (src t : Thread) : Thread :=
  match t.tx with
  | none => { t.setReg d 0 with tx := some (openTx src pc d clock), lastAbort := (0, 0) }
  | some x => { t.setReg d 0 with tx := some { x with depth := x.depth + 1 } }

def txDepth (t : Thread) : Nat := match t.tx with | some x => x.depth | none => 0

/-- TBEGIN (R335): a depth above 15 aborts with NEST. -/
def execTbegin (f : Slot) (s : State) : Result :=
  s.issue 0xB6 f (fun gid g ls =>
    let run := ls.filter (·.run)
    let s1 := s.eachLane (run.filter (fun l => decide (txDepth l.th < 15))) (fun l t => beginTx g.pc f.d.toNat s.clock l.th t)
    s1.finish gid g ls ⟨[], [], [], (run.filter (fun l => decide (15 ≤ txDepth l.th))).map (fun l => (l.key, .nest, 0))⟩)

/-- TABORT (R346): EXPLICIT with its code; outside a transaction no effect. -/
def execTabort (f : Slot) (s : State) : Result :=
  s.issue 0xB8 f (fun gid g ls =>
    s.finish gid g ls ⟨[], [], [], (ls.filter (fun l => l.run && l.inTx)).map (fun l => (l.key, .explicit, f.i32.toNat % 256))⟩)

/-- The live status of a thread (R343). -/
def liveStatus (t : Thread) : Nat :=
  match t.tx with
  | some x => statusWord x.depth true x.lock x.retries t.lastAbort.2 t.lastAbort.1
  | none => statusWord 0 false false 0 t.lastAbort.2 t.lastAbort.1

/-- TSTAT (R343). -/
def execTstat (f : Slot) (s : State) : Result := s.lanewiseD 0xB9 f 1 (fun _ l => liveStatus l.th)

/-- A lane that waits for a ticket leaves its TCOMMIT. -/
def State.leaveCommit (s : State) (key : Nat) : State :=
  let mine := (s.v.ops.filter (fun p => p.2.opc == 0xB7 && p.2.lanes.any (fun l => l.key == key && l.stage == .sent))).map Prod.fst
  mine.foldl (fun s id =>
    (s.updOp id (fun o => { o with lanes := o.lanes.filter (fun l => l.key != key || l.stage != .sent) })).repark id) s

/-- An abort of a lane that is not issuing is decided (R344): the thread's next PC is NextPc of its TBEGIN. A thread in a cove leaves
it at once. -/
def State.decideAbort (s : State) (key : Nat) (c : Abort) (code : Nat) : State :=
  let s := s.leaveCommit key
  match s.thread? key, s.v.groups.find? (fun p => p.2.members.contains key) with
  | some t, some (gid, g) =>
    match t.tx with
    | none => s
    | some x =>
      if x.pending.isSome then s
      else
        let back := nextPc x.pc
        if g.st == .cove then ((s.abortNow key c code false).updThread key (fun t => { t with pc := back })).refile gid key
        else
          let here := g.members.filterMap (fun k => match s.thread? k with
            | some t => if t.held.isNone then some (k, g.pc) else none
            | none => none)
          ((s.markAbort key c code).updGroup gid (fun g => { g with plan := some (redirect g here key back) })).unpark gid
            (fun p => p == .lock)
  | _, _ => s

/-- Lanes that are not issuing abort together (R344): their groups regroup once for all of them. -/
def State.asyncAborts (s : State) (l : List (Nat × Abort × Nat)) : State :=
  let s1 := l.foldl (fun s p => s.decideAbort p.1 p.2.1 p.2.2) s
  ((s1.v.groups.filter (fun p => p.2.plan.isSome && p.2.members.any (fun k => l.any (fun q => q.1 == k)))).map Prod.fst).foldl State.deferPlan s1

def State.asyncAbort (s : State) (key : Nat) (c : Abort) (code : Nat) : State := s.asyncAborts [(key, c, code)]

/-- A host transaction has run its time (R349). -/
def State.hartTimeout (s : State) (h : Nat) : State :=
  match (s.hart h).tx with
  | none => s
  | some x =>
    if x.start + 1048576 ≤ s.clock && x.ticket.isNone then s.rollHart h Abort.timeout.code 0 else s

/-- TX_TIMEOUT of thread `sel.x`, or with `sel.y` 1 of hart `sel.x`: the attempt has run 1,048,576 cycles; a doomed one aborts
with CONFLICT (R339, R342). -/
def execTxTimeout (s : State) : Result :=
  if s.sel.y = 1 then .next (s.hartTimeout s.sel.x)
  else
    match (s.thread? s.sel.x).bind (fun t => t.tx.map (fun x => (t, x))) with
    | none => .next s
    | some (t, x) =>
      if x.start + 1048576 ≤ s.clock && x.ticket.isNone && s.live t.block then
        .next (s.asyncAbort s.sel.x (if x.doomed then .conflict else .timeout) 0)
      else .next s

/-- COMMIT_LOCK_GRANT (R345): the first of the queue takes the free lock, and its group goes on. -/
def execCommitLockGrant (s : State) : Result :=
  match s.x.holder, s.x.queue with
  | none, (_, k) :: rest =>
    let s1 : State := { s with x := { s.x with holder := some k, queue := rest } }
    match s1.v.groups.find? (fun p => p.2.members.contains k) with
    | some (gid, _) => .next (s1.unpark gid (fun p => p == .lock))
    | none => .next s1
  | _, _ => .next s

end Sys2Proof.Machine
end

