-- ==== Sys2Proof/Machine/Commit.lean ====
section
/-! DEFINITION. TCOMMIT, tickets, votes and publication (R340, R341, R345). -/

namespace Sys2Proof.Machine

open Sys2Proof

/-- A granule is read or written by a transaction. -/
def Tx.touches (x : Tx) (asid va : Nat) : Bool :=
  x.log.any (fun b => b.asid == asid && b.va == va) || x.buf.any (fun b => b.asid == asid && b.va == va)

/-- The granules that a transaction writes. -/
def Tx.writes (x : Tx) : List (Nat × Nat) := x.buf.map (fun b => (b.asid, b.va))

/-- The loop of Commit (R340) over lanes in its order: survivors, and the lanes that abort. -/
def resolveLanes : List (LaneV × Tx) → List (Nat × Nat) → List LaneV × List (Nat × Abort × Nat)
  | [], _ => ([], [])
  | (l, x) :: t, w =>
    if x.doomed then
      let r := resolveLanes t w
      (r.1, (l.key, .conflict, 0) :: r.2)
    else if w.any (fun p => x.touches p.1 p.2) then
      let r := resolveLanes t w
      (r.1, (l.key, .lane, 0) :: r.2)
    else
      let r := resolveLanes t (w ++ x.writes)
      (l :: r.1, r.2)

/-- TCOMMIT (R335, R340). Its group issues nothing more until the lanes that commit are resolved, so that what follows it in a lane
comes after the commit point (R341), and an aborted lane is still at it (R344; assumption log 35). A lane without a transaction
gets NOTX, one at depth 2 or more goes one level up, and those at depth 1 are resolved against one another; the survivors wait
for their tickets. -/
def execTcommit (f : Slot) (s : State) : Result :=
  s.issue 0xB7 f (fun gid g ls =>
    let run := ls.filter (·.run)
    let outer := run.filter (fun l => txDepth l.th == 1)
    let inner := run.filter (fun l => 2 ≤ txDepth l.th)
    let withTx := outer.filterMap (fun l => l.th.tx.map (fun x => (l, x)))
    let order := withTx.filter (fun (p : LaneV × Tx) => p.2.lock) ++ withTx.filter (fun (p : LaneV × Tx) => !p.2.lock)
    let r := resolveLanes order []
    let mk (l : LaneV) : Option LaneOp :=
      if txDepth l.th = 0 then some { laneOp l 0 [] [] .done with res := wordsOf 1 (statusWord 0 false false 0 0 14) }
      else if 2 ≤ txDepth l.th then some { laneOp l 0 [] [] .done with res := [0] }
      else if r.1.any (fun x => x.key == l.key) then some (laneOp l 0 [] [] .sent)
      else none
    let lanes := run.filterMap mk
    let s1 := s.eachLane inner (fun _ t => { t with tx := t.tx.map (fun x => { x with depth := x.depth - 1 }) })
    if lanes.isEmpty && !r.2.isEmpty then s1.finish gid g ls ⟨[], [], [], r.2⟩
    else
      let n := s1.startOp gid g 0xB7 f lanes
      let r := n.1.finish gid g ls ⟨[], [], [], r.2⟩
      (r.1.repark n.2, r.2))

/-- COMMIT_TICKET_REQUEST of the TCOMMIT `sel.x`: its survivors take consecutive tickets, the lane in lock mode first (R340). -/
def execCommitTicketRequest (s : State) : Result :=
  match s.op? s.sel.x with
  | none => .next s
  | some o =>
    let want := o.lanes.filter (fun l => l.stage == .sent && (match (s.thread? l.key).bind (·.tx) with
      | some x => x.ticket.isNone && x.pending.isNone
      | none => false))
    let locked (l : LaneOp) : Bool := match (s.thread? l.key).bind (·.tx) with | some x => x.lock | none => false
    if o.opc ≠ 0xB7 || !s.live o.block || want.any (fun l => s.laneBlocked s.sel.x o l) then .next s
    else
      .next ((want.filter locked ++ want.filter (fun l => !locked l)).foldl (fun s l =>
        let n := s.x.next
        let todo := (s.x.sigs.filter (fun p => p.key == l.key)).map (·.slice)
        let s1 : State := { s with x := { s.x with next := (n + 1) % 2 ^ 64, tickets := s.x.tickets ++ [⟨n, false, l.key, todo, [], s.sel.x⟩] } }
        s1.updTx l.key (fun x => { x with ticket := some n })) s)

/-- The attributes of a granule's page. -/
def State.granuleAttr (s : State) (asid va : Nat) : Option Attr :=
  match s.translate true asid va with | (_, .ok a) => some a | (_, .error _) => none

/-- What a slice's vote comes to. -/
inductive Vote where
  | accept
  | reject (e : Abort)
  /-- The line is being served for an earlier request (R136). -/
  | wait
  deriving DecidableEq, Repr

/-- A granule can be served at its home now: its attributes, or the abort (R337, R340). A page whose leaf is gone is no longer what
the transaction saw. -/
def State.servable (s : State) (asid va : Nat) : Except Abort Attr :=
  match s.granuleAttr asid va with
  | none => .error .conflict
  | some a => if 2 ≤ a.home || tdbState (s.tdb a.tarn) == 3 || (s.slicePlace a asid va).isNone then .error .memType else .ok a

/-- Every granule of a list is still what the transaction logged. -/
def State.validate (s : State) (core : Nat) (c : Ctx) : List Logged → State × Vote
  | [] => (s, .accept)
  | b :: t =>
    match s.servable b.asid b.va with
    | .error e => (s, .reject e)
    | .ok a =>
      match s.txFetch core c a b.asid b.va with
      | (s1, .error .hold) => (s1, .wait)
      | (s1, .error (.abort e)) => (s1, .reject e)
      | (s1, .error _) => (s1, .reject .conflict)
      | (s1, .ok v) => if v == b.bytes then State.validate s1 core c t else (s1, .reject .conflict)

/-- The granules that a transaction writes can be served at their homes; their bytes are not read (R337). -/
def State.writable (s : State) : List Buffered → Vote
  | [] => .accept
  | b :: t =>
    match s.servable b.asid b.va with
    | .error e => .reject e
    | .ok _ => State.writable s t

/-- A granule is homed at a slice. -/
def State.atSlice (s : State) (slice asid va : Nat) : Bool :=
  match s.granuleAttr asid va with
  | some a => (match s.slicePlace a asid va with | some sl => sl == slice | none => true)
  | none => true

/-- A slice's vote on a ticket of a lane (R340, R345). -/
def State.voteOf (s : State) (slice key : Nat) : State × Vote :=
  match s.thread? key with
  | none => (s, .reject .conflict)
  | some t =>
    match t.tx with
    | none => (s, .reject .conflict)
    | some x =>
      if x.doomed then (s, .reject .conflict)
      else
        match s.validate (s.coreOfBlock t.block) (s.ctxOf t.block) (x.log.filter (fun b => s.atSlice slice b.asid b.va)) with
        | (s1, .accept) =>
          let mine := x.buf.filter (fun b => s1.atSlice slice b.asid b.va)
          match s1.writable mine with
          | .accept =>
            let dooms := mine.any (fun b => s1.heldForLock (some slice) b.asid b.va 16 (some key))
            (s1, if dooms then .reject .conflict else .accept)
          | v => (s1, v)
        | r => r

def State.updTicket (s : State) (n : Nat) (h : Ticket → Ticket) : State :=
  { s with x := { s.x with tickets := s.x.tickets.map (fun t => if t.n == n then h t else t) } }

/-- A lane's commit fails: its ticket is resolved, and it aborts (R340). -/
def State.rejectTicket (s : State) (t : Ticket) (e : Abort) : State :=
  let s1 : State := { s with x := { s.x with tickets := s.x.tickets.filter (fun u => u.n != t.n) } }
  let s2 := s1.updTx t.key (fun x => { x with ticket := none })
  let s3 := s2.updOp t.op (fun o => { o with lanes := o.lanes.filter (fun l => l.key != t.key) })
  s3.asyncAbort t.key e 0

/-- A ticket that is not resolved touches a slice (R340): a lane's, by the slices where it has signature pairs; a hart's, by the
lines that it marked. -/
def State.ticketTouches (s : State) (u : Ticket) (slice : Nat) : Bool :=
  if u.host then
    match (s.hart u.key).tx with
    | some x => (x.readLines ++ x.writtenLines).any (fun l => s.atSlice slice l.1 l.2.1)
    | none => false
  else u.todo.contains slice || u.accepted.contains slice

/-- SLICE_VOTE on ticket `sel.x` at slice `sel.y`, every lower ticket that touches the slice being resolved (R340). -/
def execSliceVote (s : State) : Result :=
  match s.x.tickets.find? (fun t => t.n == s.sel.x) with
  | none => .next s
  | some t =>
    let lower := s.x.tickets.any (fun u => u.n < t.n && s.ticketTouches u s.sel.y)
    if t.host || !t.todo.contains s.sel.y || lower then .next s
    else
      match s.voteOf s.sel.y t.key with
      | (_, .wait) => .next s
      | (s1, .reject e) => .next (s1.rejectTicket t e)
      | (s1, .accept) =>
        .next (s1.updTicket t.n (fun u => { u with todo := u.todo.filter (fun x => x != s.sel.y), accepted := u.accepted ++ [s.sel.y] }))

/-- Runs of written bytes of a granule: offset and bytes. -/
def writtenBytes (b : Buffered) : List (Nat × Byte) :=
  (List.range 16).filterMap (fun i => (b.bytes.getD i none).map (fun x => (i, x)))

/-- One granule of a transaction is applied at its home (R340): a discarded page is revived (R139), other transactions are
doomed (R339). None: its line is being served for an earlier request (R136). A granule that has become poisoned since the vote, or
whose page has gone, takes no write (assumption log 35). -/
def State.publishGranule (s : State) (core : Nat) (c : Ctx) (key : Nat) (b : Buffered) : Option State :=
  match s.granuleAttr b.asid b.va with
  | none => some s
  | some a =>
    match (s.countDemand core c a).stages core c Need.update 6 (s.newReq 0 b.asid b.va a []) with
    | (s1, .serve w) =>
      let r := s1.readAt s1.regRead core a w b.asid b.va 16 []
      some (r.2.writeAt ⟨false, c.secure⟩ core a w b.asid b.va ((r.1.zip b.bytes).map (fun p => p.2.getD p.1)) (some key))
    | (_, .hold) => none
    | (s1, _) => some s1

/-- Every granule of a transaction's buffer is applied; none where one must wait. -/
def State.publishAll (s : State) (core : Nat) (c : Ctx) (key : Nat) : List Buffered → Option State
  | [] => some s
  | b :: t =>
    match s.publishGranule core c key b with
    | none => none
    | some s1 => State.publishAll s1 core c key t

/-- TX_PUBLISH of ticket `sel.x`: with every vote to accept, its writes are applied, and the lane has committed. -/
def execTxPublish (s : State) : Result :=
  match s.x.tickets.find? (fun t => t.n == s.sel.x) with
  | none => .next s
  | some t =>
    if t.host || !t.todo.isEmpty then .next s
    else
      match s.thread? t.key with
      | none => .next { s with x := { s.x with tickets := s.x.tickets.filter (fun u => u.n != t.n) } }
      | some th =>
        let core := s.coreOfBlock th.block
        let c := s.ctxOf th.block
        let buf : List Buffered := match th.tx with | some x => x.buf | none => []
        match s.publishAll core c t.key buf with
        | none => .next s
        | some s1 =>
          let s2 := (s1.clearTx t.key).updThread t.key (fun th => { th with tx := none, lastAbort := (0, 0) })
          .next ((s2.updOp t.op (fun o =>
            { o with lanes := o.lanes.map (fun l => if l.key == t.key then { l with stage := .done, res := [0] } else l) })).repark t.op)

end Sys2Proof.Machine
end

