-- ==== Sys2Proof/Machine/Convert.lean ====
section
/-! DEFINITION. Conversion: opcodes 0x60 to 0x63 (R294 to R298). -/

namespace Sys2Proof.Machine

open Sys2Proof

/-- The value of a source element: code 0b1000 of XF4 is the extra value (R64), that of MXF4 is −0 (R63). -/
def decodeSrc (ty v extra : Nat) : Val :=
  if Rule.isInt ty then Val.ofInt (readInt ty v)
  else if ty = 17 && v % 16 = 8 then decodeF fmtF8E4 (extra % 256)
  else decodeF (fmtOf ty) v

/-- Flush of a wide source towards a destination that is not narrow (R295). -/
def flushSrc (ftz : Bool) (src dst v : Nat) (x : Val) : Val :=
  if ftz && Rule.isWide src && !Rule.isNarrow dst && isSubnormal (fmtOf src) (v % 2 ^ (fmtOf src).bits) then .zero x.neg else x

/-- One conversion of R295: the bits written, and the draw counter after it. -/
def convert (draw : BitVec 32 → Nat) (n : BitVec 32) (src dst mode : Nat) (sat ftz : Bool) (v extra : Nat) :
    Nat × BitVec 32 :=
  if Rule.isInt src && Rule.isInt dst then (writeInt dst (satInt sat dst (readInt src v)), n)
  else
    let x := flushSrc ftz src dst v (decodeSrc src v extra)
    if Rule.isInt dst then
      (writeInt dst (floatToInt dst mode (if mode = 5 then draw n else 0) x), if mode = 5 then n + 1 else n)
    else
      let r := roundDraw draw n (fmtOf dst) mode sat x
      (flushF (fmtOf dst) (ftz && Rule.isWide dst) x r.1, r.2)

/-- CVT (R295). -/
def execCvt (f : Slot) (s : State) : Result :=
  s.lanewise 0x60 f (fun g l t =>
    let src := Rule.src f
    let r := convert (s.drawer t.block t.tid) t.draws src (Rule.ty f) (Rule.rnd f) (Rule.sat f) (Rule.ftz f)
      (readA f l.th (Rule.regs src)) (if src = 17 then readB1 f g l.th else 0)
    { t with draws := r.2 }.setVal f.d.toNat (wOf f) r.1)

/-- The exact value that CVTS rounds (R296): the source over, or times, the scale factor. -/
def scaledVal (f : Slot) (a b : Nat) : Val :=
  let src := Rule.src f
  let sigma := Val.mul (decodeScale b) (decodeScale (b / 256))
  if Rule.isNarrow (Rule.ty f) then Val.div (readF (fmtOf src) (Rule.ftz f) a) sigma
  else Val.mul (decodeSrc src a (b / 65536)) sigma

/-- CVTS (R296). -/
def execCvts (f : Slot) (s : State) : Result :=
  s.lanewise 0x61 f (fun g l t =>
    let x := scaledVal f (readA f l.th 1) (readB1 f g l.th)
    let fm := fmtOf (Rule.ty f)
    let r := roundDraw (s.drawer t.block t.tid) t.draws fm (Rule.rnd f) (Rule.sat f) x
    { t with draws := r.2 }.setVal f.d.toNat 1 (flushF fm (Rule.ftz f && Rule.isWide (Rule.ty f)) x r.1))

/-- Width of the elements of a packed register, and the type that R295 converts them as (R297, R298). -/
def packBits (ty : Nat) : Nat := if ty = 20 || ty = 21 then 16 else if ty = 17 || ty = 18 then 4 else 8
def packTy (ty : Nat) : Nat := if ty = 20 then 11 else if ty = 21 then 12 else ty

/-- A register with one element replaced. -/
def putElem (w v j e : Nat) : Nat := v - bits v (w * j) w * 2 ^ (w * j) + e % 2 ^ w * 2 ^ (w * j)

/-- PACK (R297): element 2j from A, then element 2j + 1 from B. -/
def execPack (f : Slot) (s : State) : Result :=
  s.lanewise 0x62 f (fun g l t =>
    let w := packBits (Rule.ty f)
    let j := 2 * Rule.sub f
    let draw := s.drawer t.block t.tid
    let conv (n : BitVec 32) (v : Nat) := convert draw n (Rule.src f) (packTy (Rule.ty f)) (Rule.rnd f) (Rule.sat f) (Rule.ftz f) v 0
    let x := conv t.draws (readA f l.th 1)
    let y := conv x.2 (readB1 f g l.th)
    let old := if w = 16 then 0 else readD f l.th 1
    { t with draws := y.2 }.setVal f.d.toNat 1 (putElem w (putElem w old j x.1) (j + 1) y.1))

/-- UNPACK (R298). -/
def execUnpack (f : Slot) (s : State) : Result :=
  s.lanewiseD 0x63 f 1 (fun g l =>
    let src := Rule.src f
    let w := packBits src
    let e := bits (readA f l.th 1) (w * Rule.sub f) w
    if Rule.isInt src then writeInt (Rule.ty f) (readInt src e)
    else codeOf (fmtOf (Rule.ty f)) (decodeSrc (packTy src) e (if src = 17 then readB1 f g l.th else 0)))

end Sys2Proof.Machine
end

