-- ==== Sys2Proof/Machine/Matrix.lean ====
section
/-! DEFINITION. The matrix engine: accumulator windows (R359 to R363), operand reservations (R364 to R369), products (R374 to
R378), MREAD and MWRITE (R379), MLOAD and its deliveries (R370 to R373), the reservation table and its passes (R354 to R357,
R429), and engine reset (R382, R383). Opcodes 0xC0 to 0xCB. -/

namespace Sys2Proof.Machine

open Sys2Proof

/-! ## Reservations and their elements (R364 to R366) -/

/-- Bytes from one row of elements to the next (R366). -/
def Resv.pitch (r : Resv) : Nat := 16 * ((r.k * tyWidth r.fmt + 127) / 128)

/-- Blocks of 32 positions in a row. -/
def Resv.blocks (r : Resv) : Nat := (r.k + 31) / 32

def Resv.byte (r : Resv) (i : Nat) : Nat := (Tab.get r.data i 0).toNat

/-- The code of element (row, k) (R66, R67, R366). -/
def Resv.code (r : Resv) (row k : Nat) : Nat :=
  let p := row * r.pitch
  match tyWidth r.fmt with
  | 4 => bits (r.byte (p + k / 2)) (4 * (k % 2)) 4
  | 8 => r.byte (p + k)
  | _ => r.byte (p + 2 * k) + 256 * r.byte (p + 2 * k + 1)

/-- The value of element (row, k) with its scales (R58, R63, R64, R68). -/
def Resv.elem (r : Resv) (row k : Nat) : Val :=
  let j := row * r.blocks + k / 32
  if r.fmt = 17 then
    Val.mul (Val.mul (decodeSrc 17 (r.code row k) (r.byte (r.offX + j))) (decodeScale (r.byte (r.offS + row))))
      (decodeScale (r.byte (r.offC + k / 32)))
  else if r.scaled then Val.mul (decodeSrc r.fmt (r.code row k) 0) (decodeScale (r.byte (r.offS + j)))
  else decodeSrc r.fmt (r.code row k) 0

/-- The integer of element (row, k). -/
def Resv.int (r : Resv) (row k : Nat) : Int := readInt r.fmt (r.code row k)

/-- Positions per engine cycle (R375). -/
def depthOf (fmt : Nat) : Nat := match tyWidth fmt with | 4 => 4 | 8 => 2 | _ => 1

def isInt8 (fmt : Nat) : Bool := fmt == 1 || fmt == 5

/-- The reservation of a block in a slot. -/
def Block.resvAt (b : Block) (slot : Nat) : Option Resv := b.resv.find? (fun r => r.slot == slot)

/-- The reservation that OBRES asks for, or none for BADDESC (R365 to R367). BADDESC for K = 0, which R365 does not allow and R367 does not
name, is the model's choice (assumption log 62). -/
def describe (desc offs g : Nat) : Option Resv :=
  let fmt := bits desc 0 5
  let r : Resv :=
    { slot := 0, fmt, scaled := bit desc 5, rows := bits desc 8 7 + 1, k := bits desc 16 16, offS := bits offs 0 19,
      offC := bits offs 20 19, offX := bits offs 40 19, g, full := bit desc 7, data := [] }
  let n := g * 4096
  let scales := r.rows * r.blocks
  let clean := desc / 2 ^ 32 = 0 && !bit desc 15 && !bit desc 6 && offs / 2 ^ 59 = 0 && !bit offs 39 && !bit offs 19
  let format := if fmt = 17 || fmt = 18 then r.scaled else if fmt = 15 || fmt = 16 then true
    else [1, 5, 11, 12].contains fmt && !r.scaled
  let arrays :=
    if fmt = 17 then decide (r.offS + r.rows ≤ n) && decide (r.offC + r.blocks ≤ n) && decide (r.offX + scales ≤ n)
    else r.offC = 0 && r.offX = 0 && (if r.scaled then decide (r.offS + scales ≤ n) else r.offS = 0)
  if clean && format && decide (0 < r.k) && decide (0 < g) && decide (g ≤ 128) && decide (r.rows * r.pitch ≤ n) && arrays
  then some r else none

/-! ## Engines -/

/-- Blocks resident in a cluster. -/
def State.blocksAt (s : State) (e : Nat) : List (Nat × Block) :=
  s.v.blocks.filter (fun p => match p.2.core with | some c => clusterOf c == e | none => false)

/-- The lowest base of consecutive free rows of an engine. -/
def State.freeRows (s : State) (e n : Nat) : Option Nat :=
  let ws := (s.blocksAt e).filterMap (fun p => p.2.window)
  lowest (513 - n) (fun base => ws.all (fun w => base + n ≤ w.base || w.base + w.rows ≤ base))

/-- Free granules and free reservation records of an engine (R352). -/
def State.freeGranules (s : State) (e : Nat) : Nat :=
  128 - ((s.blocksAt e).flatMap (fun p => p.2.resv.map (·.g))).foldl (· + ·) 0
def State.freeRecordsAt (s : State) (e : Nat) : Nat := 128 - ((s.blocksAt e).flatMap (fun p => p.2.resv)).length

/-- A device register among `Sys.other` is given a value. -/
def State.setOther (s : State) (off v : Nat) : State :=
  { s with r := { s.r with other := Tab.set s.r.other off (BitVec.ofNat 64 v) } }

/-- SYS.MATENG of an engine (R382). -/
def mateng (e : Nat) : Nat := 0x800 + 8 * e
def State.engineReg (s : State) (e : Nat) : Nat := (Tab.get s.r.other (mateng e) 0).toNat
def State.resetting (s : State) (e : Nat) : Bool := bits (s.engineReg e) 2 2 == 1

/-- The engine that serves a resident block. -/
def State.engineOf (s : State) (blk : Nat) : Option Nat := (s.block? blk).bind (fun b => b.core.map clusterOf)

def isProduct (op : Nat) : Bool := 0xC4 ≤ op && op ≤ 0xC8

/-- Entries of an engine's reservation table (R352). -/
def State.entriesOf (s : State) (e : Nat) : List (Nat × Op) :=
  s.v.ops.filter (fun p => isMatrix p.2.opc && p.2.posted.isSome && s.engineOf p.2.block == some e)

def State.classOf (s : State) (blk : Nat) : Nat := match s.block? blk with | some b => b.cls | none => 0

/-- The number of the entry that an instruction of a class takes: a class-3 one takes the lowest free of 28 to 31 first, which is the
model's choice (assumption log 43); another takes none of them (R352). -/
def State.freeEntry (s : State) (e cls : Nat) : Option Nat :=
  let used := (s.entriesOf e).map (fun p => p.2.entry)
  ((if cls = 3 then [28, 29, 30, 31] else []) ++ List.range 28).find? (fun k => !used.contains k)

/-- An entry that a class may use is free (R352, R354, R383). -/
def State.matrixRoom (s : State) (e cls : Nat) : Bool := !s.resetting e && (s.freeEntry e cls).isSome

/-- An instruction takes an entry of its engine's table: its place among arrivals, and the entry's number (R352, R355). -/
def State.post (s : State) (e cls id : Nat) : State :=
  let n := s.newId
  n.2.updOp id (fun o =>
    { o with
      posted := some n.1
      entry := (s.freeEntry e cls).getD 0
      arrived := s.clock })

/-! ## Issue (R353, R354, R45) -/

/-- What a matrix instruction comes to. -/
inductive MatPlan where
  | trap (c : Cause)
  /-- The guard is false in every lane. -/
  | nothing
  /-- Lanes with a transaction open abort (R358). -/
  | abort
  /-- It does not issue: no entry of the table, or of the range-lock table, is free (R354, R371). -/
  | wait
  /-- It posts an entry: a row or source, its lanes, its transfer, and the range-lock entry it takes. -/
  | go (tag : Nat) (lanes : List LaneOp) (move : Option Move) (lock : Option RangeLock)

/-- The checks that come before those of the instruction: R45, then transactions. -/
def State.matrixFirst (s : State) (g : Group) (ls : List LaneV) (next : MatPlan) : MatPlan :=
  if !s.converged g || (ls.any (·.run) && !ls.all (·.run)) then .trap .convergence
  else if !ls.any (·.run) then .nothing
  else if ls.any (·.inTx) then .abort
  else next

/-- Rows of the group's window (R360). -/
def Group.rowsFit (g : Group) (c n : Nat) : Bool := g.awbase + c + n ≤ g.awlimit

/-- M, N and K of a product (R374). -/
def mOf (f : Slot) : Nat := bits f.i32.toNat 0 7 + 1
def nOf (f : Slot) : Nat := bits f.i32.toNat 7 7 + 1
def kOf (f : Slot) : Nat := bits f.i32.toNat 16 16

/-- A region of `n` rows and `m` positions that an operand word names (R369). -/
def Block.region (b : Block) (w n m : Nat) : Option Resv :=
  match b.resvAt (w % 32) with
  | none => none
  | some r =>
    if bits w 5 3 = 0 && !bit w 15 && bits w 16 16 % 32 = 0 && decide (bits w 8 7 + n ≤ r.rows) && decide (bits w 16 16 + m ≤ r.k)
    then some r else none

/-- The operand checks of a product (R374, R375): false is OPERAND. -/
def Block.productOk (b : Block) (op : Nat) (f : Slot) (wa wb : Nat) : Bool :=
  let ta := Rule.ty f
  let tb := if Rule.src f = 0 then ta else Rule.src f
  let sat (r : Resv) : Bool := !Rule.sat f || isInt8 r.fmt
  match op with
  | 0xC4 => match b.region wa (mOf f) (kOf f), b.region wb (nOf f) (kOf f) with
    | some x, some y => !x.scaled && !y.scaled && x.fmt == ta && y.fmt == tb
    | _, _ => false
  | 0xC5 => match b.region wa (mOf f) (kOf f), b.region wb (nOf f) (kOf f) with
    | some x, some y => x.scaled && y.scaled && tyWidth x.fmt == tyWidth y.fmt
    | _, _ => false
  | 0xC6 => match b.region wa (nOf f) (mOf f) with
    | some x => sat x
    | none => false
  | 0xC7 => match b.region wa (mOf f) (kOf f), b.region wb 1 (nOf f) with
    | some x, some p => sat x && !p.scaled && p.fmt == 5
    | _, _ => false
  | _ => match b.region wa (mOf f) (kOf f) with
    | some x => sat x
    | none => false

/-- The engine that serves a gang member, if it is resident. -/
def Block.engine? (b : Block) : Option Nat := b.core.map clusterOf

/-- Members of the gang of a block. -/
def State.member (s : State) (b : Block) (p : Nat) : Option (Nat × Block) :=
  s.v.blocks.find? (fun x => x.2.launch == b.launch && x.2.gang == b.gang && x.2.gangPos == p)

/-- Slot and offset that operand B of MLOAD names (R370), and whether a transfer of `len` bytes lands there (R372). -/
def Block.lands (b : Block) (dst len : Nat) : Bool :=
  match b.resvAt (bits dst 24 5) with | some r => decide (bits dst 0 19 + len ≤ r.g * 4096) | none => false

/-- The checks of MLOAD, and its entry (R370, R371). -/
def State.mloadPlan (s : State) (g : Group) (ls : List LaneV) (b : Block) (core : Nat) (f : Slot) (t : Thread) : MatPlan :=
  let mask := bits f.i32.toNat 0 16
  let a := t.val f.a.toNat 1
  let dst := t.val f.b.toNat 1
  let len := t.val f.c.toNat 1
  let rcv := if mask = 0 then [b.gangPos] else (List.range (min 16 b.gangSize)).filter (fun p => bit mask p)
  let peer := if Rule.sub f = 0 then some (g.block, b) else s.member b (bits f.i32.toNat 16 4)
  let engines := (rcv.filterMap (fun p => (s.member b p).bind (fun q => q.2.engine?))).eraseDups
  if bits dst 19 5 ≠ 0 || bits dst 29 3 ≠ 0 then .trap .operand
  else match peer with
  | none => .trap .operand
  | some (sb, src) =>
    if src.core.map clusterOf ≠ some (clusterOf core) then .trap .operand
    else if 8 < engines.length then .trap .operand
    else if a % 16 ≠ 0 || len % 16 ≠ 0 || bits dst 0 19 % 16 ≠ 0 then .trap .misaligned
    else if s.scratchSize sb < a + len then .trap .scratchBound
    else if s.v.locks.any (fun k => k.dst && k.overlaps (src.core.getD 0) (some sb) 0 a (a + len)) then .trap .rangeLock
    else if rcv.contains b.gangPos && !b.lands dst len then .trap .operand
    else
      let lanes := ls.map (fun l => laneOp l 0 [] [] .sent)
      if len = 0 then .go sb lanes (some ⟨a, dst, 0, [], [], [], []⟩) none
      else if s.freeLocks (src.core.getD 0) = 0 then .wait
      else .go sb lanes (some ⟨a, dst, len, [], rcv, [], []⟩) (some ⟨src.core.getD 0, 0, false, some sb, 0, a, a + len⟩)

/-- What a matrix instruction of a group comes to, the room in the table apart. -/
def State.matrixBody (s : State) (g : Group) (ls : List LaneV) (b : Block) (core op : Nat) (f : Slot) (t : Thread) : MatPlan :=
  let base := (b.window.map (·.base)).getD 0
  let c := t.val f.d.toNat 1
  let row (x : Nat) : Nat := g.awbase + x - base
  let all (words : List Word) : List LaneOp := ls.map (fun l => laneOp l 0 words [] .sent)
  if op ≤ 0xC8 && b.window.isNone then .trap .window
  else if op = 0xC1 then .go 0 (all (t.words f.a.toNat 2 ++ t.words f.b.toNat 2 ++ t.words f.c.toNat 1)) none none
  else if op = 0xC2 then .go 0 (all (t.words f.a.toNat 1)) none none
  else if op = 0xC3 then s.mloadPlan g ls b core f t
  else if op ≤ 0xC8 then
    if !b.productOk op f (t.val f.a.toNat 1) (t.val f.b.toNat 1) then .trap .operand
    else if !g.rowsFit c (mOf f) then .trap .window
    else .go (row c) (all (t.words f.a.toNat 1 ++ t.words f.b.toNat 1)) none none
  else if op = 0xC9 then if g.rowsFit c f.i32.toNat then .go (row c) (all []) none none else .trap .window
  else
    let r (l : LaneV) : Nat := l.th.val f.a.toNat 1
    if !ls.all (fun l => g.rowsFit (r l) 1) then .trap .window
    else
      .go 0 (ls.map (fun l =>
        laneOp l (row (r l)) (if op = 0xCB then l.th.words f.b.toNat (Rule.regs (Rule.ty f)) else []) [l.th.draws] .sent)) none none

/-- What a matrix instruction of a group comes to. -/
def State.matrixPlan (s : State) (g : Group) (ls : List LaneV) (op : Nat) (f : Slot) : MatPlan :=
  s.matrixFirst g ls (match s.block? g.block, ls with
    | some b, l :: _ =>
      let core := b.core.getD 0
      match s.matrixBody g ls b core op f l.th with
      | .go tag lanes move lock => if s.matrixRoom (clusterOf core) b.cls then .go tag lanes move lock else .wait
      | p => p
    | _, _ => .nothing)

/-- The issue of a matrix instruction that posts an entry (R354). An MREAD with RS is charged its two draws when it is posted, and stays
charged where a reset drops it: when it takes them the spec leaves open, and this is the model's choice (assumption log 43). -/
def State.matrixIssue (s : State) (op : Nat) (f : Slot) : Result :=
  s.issue op f (fun gid g ls =>
    match s.matrixPlan g ls op f with
    | .trap c => s.groupTrap gid g ls c
    | .nothing => ((s.startOp gid g op f []).1.advance gid g ls).after
    | .abort => s.finish gid g ls ⟨[], [], [], instrAborts ls⟩
    | .wait => s.held
    | .go tag lanes move lock =>
      let n := s.startOp gid g op f lanes
      let s1 := (n.1.post (clusterOf (s.coreOfBlock g.block)) (s.classOf g.block) n.2).updOp n.2 (fun o =>
        { o with
          tag := tag
          move := move })
      let s2 := match lock with
        | some k => s1.setLocks (s1.v.locks ++ [{ k with owner := n.2 }])
        | none => s1
      let s3 := if op = 0xCA && Rule.rnd f = 5 then s2.eachLane ls (fun _ t => { t with draws := t.draws + 2 }) else s2
      (s3.advance gid g ls).after)

/-- OBRES (R367). -/
def execObres (f : Slot) (s : State) : Result := s.matrixIssue 0xC1 f
/-- OBFREE (R368). -/
def execObfree (f : Slot) (s : State) : Result := s.matrixIssue 0xC2 f
/-- MLOAD (R371). -/
def execMload (f : Slot) (s : State) : Result := s.matrixIssue 0xC3 f
/-- MLOAD.PEER (R371). -/
def execMloadPeer (f : Slot) (s : State) : Result := s.matrixIssue 0xC3 f
/-- MMA (R376). -/
def execMma (f : Slot) (s : State) : Result := s.matrixIssue 0xC4 f
/-- MMAS (R376). -/
def execMmas (f : Slot) (s : State) : Result := s.matrixIssue 0xC5 f
/-- MTRANS (R376). -/
def execMtrans (f : Slot) (s : State) : Result := s.matrixIssue 0xC6 f
/-- MPERM (R376). -/
def execMperm (f : Slot) (s : State) : Result := s.matrixIssue 0xC7 f
/-- MRSUM (R376). -/
def execMrsum (f : Slot) (s : State) : Result := s.matrixIssue 0xC8 f
/-- MZERO (R378). -/
def execMzero (f : Slot) (s : State) : Result := s.matrixIssue 0xC9 f
/-- MREAD (R379). -/
def execMread (f : Slot) (s : State) : Result := s.matrixIssue 0xCA f
/-- MWRITE (R379). -/
def execMwrite (f : Slot) (s : State) : Result := s.matrixIssue 0xCB f

/-! ## MWIN (R361, R362) -/

/-- Give every group and cove of a block its window bounds. -/
def State.setBounds (s : State) (blk lo hi : Nat) : State :=
  s.setGroups (Tab.mapv s.v.groups (fun g => if g.block == blk then { g with awbase := lo, awlimit := hi } else g))

/-- Status and state of MWIN. -/
def State.mwin (s : State) (gid : Nat) (g : Group) (b : Block) (f : Slot) (t : Thread) : State × Nat :=
  let n := f.i32.toNat
  let core := b.core.getD 0
  let e := clusterOf core
  match Rule.sub f, b.window with
  | 0, some _ => (s, 2)
  | 0, none =>
    let rows := ((s.record? g.block).map (·.mrows)).getD 0
    if rows < n then (s, 1)
    else match s.freeRows e n with
      | none => (s, 1)
      | some base =>
        ((s.updBlock g.block (fun b => { b with window := some ⟨e, base, n⟩, rows := [] })).setBounds g.block base (base + n), 0)
  | 1, some w =>
    let o := t.val f.a.toNat 1
    if w.rows < o + n then (s, 3)
    else (s.updGroup gid (fun g => { g with awbase := w.base + o, awlimit := w.base + o + n }), 0)
  | 2, some _ =>
    if !b.resv.isEmpty || s.v.ops.any (fun p => p.2.block == g.block && isMatrix p.2.opc && !p.2.lanes.isEmpty) then (s, 4)
    else ((s.updBlock g.block (fun b => { b with window := none, rows := [] })).setBounds g.block 0 0, 0)
  | 3, some w => (s, (g.awbase - w.base) + (g.awlimit - g.awbase) * 2 ^ 10 + w.rows * 2 ^ 20)
  | 3, none => (s, 0)
  | _, _ => (s, 5)

/-- A form of MWIN: fixed-latency, its status in every lane. -/
def State.mwinIssue (s : State) (f : Slot) : Result :=
  s.issue 0xC0 f (fun gid g ls =>
    match s.matrixFirst g ls (.go 0 [] none none), s.block? g.block, ls with
    | .trap c, _, _ => s.groupTrap gid g ls c
    | .abort, _, _ => s.finish gid g ls ⟨[], [], [], instrAborts ls⟩
    | .go _ _ _ _, some b, l :: _ =>
      let r := s.mwin gid g b f l.th
      ((r.1.writeD f 1 ls (fun _ => r.2)).advance gid g ls).after
    | _, _, _ => (s.advance gid g ls).after)

/-- MWIN.ALLOC (R362). -/
def execMwinAlloc (f : Slot) (s : State) : Result := s.mwinIssue f
/-- MWIN.SUB (R362). -/
def execMwinSub (f : Slot) (s : State) : Result := s.mwinIssue f
/-- MWIN.FREE (R362). -/
def execMwinFree (f : Slot) (s : State) : Result := s.mwinIssue f
/-- MWIN.QUERY (R362). -/
def execMwinQuery (f : Slot) (s : State) : Result := s.mwinIssue f

/-! ## Accumulators and products (R376) -/

/-- A word of a block's rows, counted from the window's base. -/
def Block.acc (b : Block) (r c : Nat) : Word := Tab.get b.rows (128 * r + c) 0
def Block.setAcc (b : Block) (r c : Nat) (w : Word) : Block :=
  { b with rows := if w = 0 then Tab.del b.rows (128 * r + c) else Tab.set b.rows (128 * r + c) w }

/-- The two regions of a product with their operand words. -/
structure Factors where
  a : Resv
  wa : Nat
  b : Resv
  wb : Nat

/-- Elements (row, k) of a region. -/
def regionVal (r : Resv) (w row k : Nat) : Val := r.elem (bits w 8 7 + row) (bits w 16 16 + k)
def regionInt (r : Resv) (w row k : Nat) : Int := r.int (bits w 8 7 + row) (bits w 16 16 + k)

/-- π(n) of MPERM. -/
def permAt (x : Factors) (n : Nat) : Nat := x.b.code (bits x.wb 8 7) (bits x.wb 16 16 + n)

/-- One term of the sum of R376; a generated zero is +0 whatever the other factor holds. -/
def termVal (op : Nat) (x : Factors) (i n k : Nat) : Val :=
  match op with
  | 0xC4 => Val.mul (regionVal x.a x.wa i k) (regionVal x.b x.wb n k)
  | 0xC5 => Val.mul (regionVal x.a x.wa i k) (regionVal x.b x.wb n k)
  | 0xC6 => if k = i then regionVal x.a x.wa n k else .zero false
  | 0xC7 => if k = permAt x n then regionVal x.a x.wa i k else .zero false
  | _ => regionVal x.a x.wa i k
def termInt (op : Nat) (x : Factors) (i n k : Nat) : Int :=
  match op with
  | 0xC4 => regionInt x.a x.wa i k * regionInt x.b x.wb n k
  | 0xC6 => if k = i then regionInt x.a x.wa n k else 0
  | 0xC7 => if k = permAt x n then regionInt x.a x.wa i k else 0
  | _ => regionInt x.a x.wa i k

/-- The K count of a product. -/
def countOf (op : Nat) (f : Slot) : Nat := if op = 0xC6 then mOf f else kOf f

/-- One chunk added to one accumulator word (R76 to R78, R376). -/
def chunkWord (op : Nat) (f : Slot) (x : Factors) (j i n : Nat) (acc : Word) : Word :=
  let kc := countOf op f
  let ks := (List.range 32).map (fun q => 32 * j + q) |>.filter (fun k => decide (k < kc))
  if isInt8 x.a.fmt then
    let a := signed 32 acc.toNat + (ks.map (termInt op x i n)).foldl (· + ·) 0
    BitVec.ofNat 32 (wrap 32 (if Rule.sat f then clampInt 3 a else a))
  else
    let terms := ks.map (termVal op x i n) ++ (if ks.length < 32 then [.zero false] else [])
    let sum := roundF fmtF32 0 false 0 (Val.sum false terms)
    BitVec.ofNat 32 (roundF fmtF32 0 false 0 (Val.add false (decodeF fmtF32 sum) (decodeF fmtF32 acc.toNat)))

/-- One chunk added to every word of the tile. -/
def Block.addChunk (b : Block) (op : Nat) (f : Slot) (x : Factors) (r0 j : Nat) : Block :=
  (List.range (mOf f)).foldl (fun b i =>
    (List.range (nOf f)).foldl (fun b n => b.setAcc (r0 + i) n (chunkWord op f x j i n (b.acc (r0 + i) n))) b) b

/-- The operand words that an entry holds for lane 0. -/
def Op.word (o : Op) (i : Nat) : Nat := match o.lanes with | l :: _ => (l.b.getD i 0).toNat | [] => 0

/-- The regions of a product entry; MTRANS and MRSUM have one. -/
def Block.factors (b : Block) (o : Op) : Option Factors :=
  let two := o.opc = 0xC4 || o.opc = 0xC5 || o.opc = 0xC7
  match b.resvAt (o.word 0 % 32), b.resvAt (o.word (if two then 1 else 0) % 32) with
  | some x, some y => some ⟨x, o.word 0, y, o.word 1⟩
  | _, _ => none

/-- Chunks of a product, and of one pass: 128 cycles of `d` positions (R356, R357). -/
def Op.chunks (o : Op) : Nat := (countOf o.opc o.f + 31) / 32
def passChunks (fmt : Nat) : Nat := 4 * depthOf fmt

/-! ## Order in the table (R355, R356) -/

/-- Rows that an entry touches, counted from the window's base, and whether it writes them. -/
def Op.rowsUsed (o : Op) : List (Nat × Nat) × Bool :=
  if isProduct o.opc then ([(o.tag, mOf o.f)], true)
  else if o.opc = 0xC9 then ([(o.tag, o.f.i32.toNat)], true)
  else if o.opc = 0xCA then (o.lanes.map (fun l => (l.ea, 1)), false)
  else if o.opc = 0xCB then (o.lanes.map (fun l => (l.ea, 1)), true)
  else ([], false)

/-- Reservation slots that an entry names, and whether it writes them; an MLOAD writes one where its own block is a receiver
not yet served. -/
def State.slotsUsed (s : State) (o : Op) : List Nat × Bool :=
  match o.opc with
  | 0xC2 => ([o.word 0], true)
  | 0xC3 =>
    match o.move, s.block? o.block with
    | some m, some b => (if m.wait.contains b.gangPos || m.busy.contains b.gangPos then [bits m.dst 24 5] else [], true)
    | _, _ => ([], true)
  | 0xC4 => ([o.word 0 % 32, o.word 1 % 32], false)
  | 0xC5 => ([o.word 0 % 32, o.word 1 % 32], false)
  | 0xC6 => ([o.word 0 % 32], false)
  | 0xC7 => ([o.word 0 % 32, o.word 1 % 32], false)
  | 0xC8 => ([o.word 0 % 32], false)
  | _ => ([], false)

def rangesMeet (a b : List (Nat × Nat)) : Bool := a.any (fun x => b.any (fun y => x.1 < y.1 + y.2 && y.1 < x.1 + x.2))

/-- Entry `y` waits for the earlier entry `x` of its block (R355). -/
def State.conflict (s : State) (x y : Op) : Bool :=
  (rangesMeet x.rowsUsed.1 y.rowsUsed.1 && (x.rowsUsed.2 || y.rowsUsed.2))
    || ((s.slotsUsed x).1.any (fun k => (s.slotsUsed y).1.contains k) && ((s.slotsUsed x).2 || (s.slotsUsed y).2))

/-- Earlier entries of the same block that have not completed; those not posted again after a resume come in the order of
their issue (R381). -/
def State.earlier (s : State) (id : Nat) (o : Op) : List (Nat × Op) :=
  s.v.ops.filter (fun p => p.1 < id && p.2.block == o.block && isMatrix p.2.opc && !p.2.lanes.isEmpty)

/-- A delivery into a slot of a block is under way. -/
def State.deliveryAt (s : State) (blk slot : Nat) : Bool :=
  s.v.ops.any (fun p => p.2.opc == 0xC3 && (match p.2.move with
    | some m => bits m.dst 24 5 == slot && m.busy.any (fun q => match s.receiver p.2 q with | some r => r.1 == blk | none => false)
    | none => false))

/-- R355 lets an entry proceed; OBFREE waits too for a delivery into its slot (R372). -/
def State.proceeds (s : State) (id : Nat) (o : Op) : Bool :=
  !(s.earlier id o).any (fun p => s.conflict p.2 o) && !(o.opc == 0xC2 && s.deliveryAt o.block (o.word 0))

/-- An entry may be granted a pass (R356). During a save of its block only those that R380 completes are granted one. -/
def State.eligible (s : State) (id : Nat) (o : Op) : Bool :=
  match s.block? o.block with
  | none => false
  | some b =>
    isMatrix o.opc && o.opc != 0xC3 && o.posted.isSome && !o.served && !o.lanes.isEmpty && !(b.saving && isProduct o.opc)
      && s.proceeds id o
      && (!isProduct o.opc || (s.slotsUsed o).1.all (fun k => match b.resvAt k with | some r => r.full | none => false))

/-- Rank of an entry: class 3, aged entries, then the other classes, each by the clock of arrival, then by core (R356, R429). -/
def State.passRank (s : State) (o : Op) : Nat :=
  let cls := s.classOf o.block
  let tier := if cls = 3 then 0 else if 255 ≤ o.age then 1 else 4 - cls
  ((tier * 2 ^ 64 + min o.arrived (2 ^ 64 - 1)) * 512 + s.coreOfBlock o.block) * 2 ^ 64 + min (o.posted.getD 0) (2 ^ 64 - 1)

/-- MATRIX_PASS_GRANT: no pass runs, and an entry is eligible (R356). -/
def State.grantPass (s : State) (e : Nat) : State :=
  let l := (s.entriesOf e).filter (fun p => s.eligible p.1 p.2)
  if (Tab.look s.v.passes e).isSome || s.resetting e then s
  else
    match minBy (fun p => s.passRank p.2) l with
    | none => s
    | some (id, _) =>
      let s1 := s.setOps (s.v.ops.map (fun p =>
        if p.1 == id then (p.1, { p.2 with age := 0 })
        else if l.any (fun q => q.1 == p.1) && s.classOf p.2.block != 3 then (p.1, { p.2 with age := min 255 (p.2.age + 1) })
        else p))
      { s1 with v := { s1.v with passes := Tab.set s1.v.passes e (id, s1.clock) } }

def execMatrixPassGrant (s : State) : Result := .next (s.grantPass s.sel.x)

/-! ## What a pass does -/

/-- Every lane of an entry has its result, and the entry is served. -/
def State.serveAll (s : State) (id : Nat) (res : LaneOp → List Word) : State :=
  s.updOp id (fun o => { o with served := true, lanes := o.lanes.map (fun l => { l with stage := .done, res := res l }) })

/-- Status of OBRES and the reservation it makes (R367). -/
def State.reserve (s : State) (e : Nat) (b : Block) (mgran : Nat) (o : Op) : Nat × Option Resv :=
  match describe (o.word 0 + 2 ^ 32 * o.word 1) (o.word 2 + 2 ^ 32 * o.word 3) (o.word 4) with
  | none => (3 * 256, none)
  | some r =>
    match lowest 32 (fun k => (b.resvAt k).isNone) with
    | none => (2 * 256, none)
    | some k =>
      if s.freeGranules e < r.g || s.freeRecordsAt e = 0 || mgran < (b.resv.map (·.g)).foldl (· + ·) r.g then (256, none)
      else (k, some { r with slot := k })

/-- A word of MREAD as it is written (R379): `draw` gives the draws that RS takes. -/
def readOut (f : Slot) (draw : BitVec 32 → Nat) (n : BitVec 32) (w0 w1 : Word) : List Word :=
  if Rule.ty f = 10 then [w0, w1]
  else
    let fm := fmtOf (Rule.ty f)
    let r0 := roundDraw draw n fm (Rule.rnd f) false (decodeF fmtF32 w0.toNat)
    let r1 := roundDraw draw r0.2 fm (Rule.rnd f) false (decodeF fmtF32 w1.toNat)
    [BitVec.ofNat 32 (ofElems (Rule.ty f) [r0.1, r1.1])]

/-- The two words that MWRITE stores (R379): halves are widened exactly. -/
def writeIn (f : Slot) (b : List Word) : Word × Word :=
  if Rule.ty f = 10 then (b.getD 0 0, b.getD 1 0)
  else
    let v := (b.getD 0 0).toNat
    let wide (j : Nat) : Word := BitVec.ofNat 32 (roundF fmtF32 0 false 0 (decodeF (fmtOf (Rule.ty f)) (elemAt (Rule.ty f) v j)))
    (wide 0, wide 1)

/-- The work of one pass of an entry. -/
def State.passWork (s : State) (e id : Nat) (o : Op) (b : Block) : State :=
  match o.opc with
  | 0xC1 =>
    let r := s.reserve e b (((s.record? o.block).map (·.mgran)).getD 0) o
    let s1 := match r.2 with
      | some x => s.updBlock o.block (fun b => { b with resv := insertBy (·.slot) x b.resv })
      | none => s
    s1.serveAll id (fun _ => [BitVec.ofNat 32 r.1])
  | 0xC2 =>
    (s.updBlock o.block (fun b => { b with resv := b.resv.filter (fun r => r.slot != o.word 0) })).serveAll id (fun _ => [])
  | 0xC9 =>
    (s.updBlock o.block (fun b =>
      { b with rows := b.rows.filter (fun p => p.1 / 128 < o.tag || o.tag + o.f.i32.toNat ≤ p.1 / 128) })).serveAll id (fun _ => [])
  | 0xCA =>
    s.serveAll id (fun l =>
      readOut o.f (match s.thread? l.key with | some t => s.drawer t.block t.tid | none => fun _ => 0) (l.c.getD 0 0)
        (b.acc l.ea (2 * l.lane)) (b.acc l.ea (2 * l.lane + 1)))
  | 0xCB =>
    (s.updBlock o.block (fun b => o.lanes.foldl (fun b l =>
      let w := writeIn o.f l.b
      (b.setAcc l.ea (2 * l.lane) w.1).setAcc l.ea (2 * l.lane + 1) w.2) b)).serveAll id (fun _ => [])
  | _ =>
    match b.factors o with
    | none => s.serveAll id (fun _ => [])
    | some x =>
      let last := min o.chunks (o.chunk + passChunks x.a.fmt)
      let js := (List.range (last - o.chunk)).map (fun q => o.chunk + q)
      let s1 := s.updBlock o.block (fun b => js.foldl (fun b j => b.addChunk o.opc o.f x o.tag j) b)
      let s2 := s1.updOp id (fun o => { o with chunk := last })
      if o.chunks ≤ last then s2.serveAll id (fun _ => []) else s2

/-- MATRIX_PASS_END. -/
def State.endPass (s : State) (e : Nat) : State :=
  match Tab.look s.v.passes e with
  | none => s
  | some (id, _) =>
    let s1 : State := { s with v := { s.v with passes := Tab.del s.v.passes e } }
    match s.op? id with
    | none => s1
    | some o =>
      match s.block? o.block with
      | none => s1
      | some b => s1.passWork e id o b

def execMatrixPassEnd (s : State) : Result := .next (s.endPass s.sel.x)

/-! ## MLOAD's deliveries (R371, R372) -/

/-- A delivery is not made: its position is reported. -/
def State.dropDelivery (s : State) (id pos : Nat) : State :=
  s.updOp id (fun o => { o with move := o.move.map (fun m =>
    { m with
      wait := m.wait.filter (fun p => p != pos)
      busy := m.busy.filter (fun p => p != pos)
      dropped := m.dropped ++ [pos] }) })

/-- The reservation in a slot of a block changes. -/
def State.updResv (s : State) (blk slot : Nat) (h : Resv → Resv) : State :=
  s.updBlock blk (fun b => { b with resv := b.resv.map (fun r => if r.slot == slot then h r else r) })

/-- The source bytes of an MLOAD, read once, as words of its lanes; of a source that has retired the spec gives no
values (assumption log 2). -/
def State.readSource (s : State) (id : Nat) (o : Op) (m : Move) : State :=
  let r := match s.block? o.tag with
    | some b => (b.bytes m.src m.len, s)
    | none => s.freeBytes m.len
  let ws := wordsOf (m.len / 4) (ofBytes r.1)
  r.2.updOp id (fun o => { o with lanes := o.lanes.map (fun l => { l with c := ws }) })

/-- A delivery may begin (R355): no other delivery into the slot is under way; and of the receiver's entries that arrived before, none
reads the slot while it is FULL, and none is still to write it, an MLOAD of its own included. What a saved receiver has recorded
arrives anew at its resume (R372, R381). -/
def State.deliverable (s : State) (id : Nat) (o : Op) (blk slot : Nat) (b : Block) (r : Resv) : Bool :=
  let ahead := s.v.ops.filter (fun p =>
    p.2.block == blk && isMatrix p.2.opc && !p.2.lanes.isEmpty && p.1 != id
      && (if blk = o.block then decide (p.1 < id) else b.core.isSome && p.2.posted.isSome))
  !s.deliveryAt blk slot && !ahead.any (fun p =>
    let u := s.slotsUsed p.2
    u.1.contains slot && (u.2 || r.full))

/-- MLOAD_DELIVERY_BEGIN of position `pos` of instruction `id`. -/
def State.beginLoad (s : State) (id pos : Nat) : State :=
  match s.op? id with
  | none => s
  | some o =>
    match o.move, o.leader with
    | some m, some l =>
      if o.opc ≠ 0xC3 || !m.wait.contains pos || o.posted.isNone || !s.live o.block || !s.fenceMet id o l then s
      else
        match s.receiver o pos with
        | none => s.dropDelivery id pos
        | some (blk, b) =>
          let slot := bits m.dst 24 5
          match b.resvAt slot with
          | none => s.dropDelivery id pos
          | some r =>
            if s.retired blk then s.dropDelivery id pos
            else if b.saving || !s.deliverable id o blk slot b r then s
            else if !b.lands m.dst m.len then s.dropDelivery id pos
            else
              let s1 := if l.c.isEmpty then s.readSource id o m else s
              let s2 := s1.updOp id (fun o => { o with move := o.move.map (fun m =>
                { m with
                  wait := m.wait.filter (fun p => p != pos)
                  busy := m.busy ++ [pos] }) })
              s2.updResv blk slot (fun r => { r with full := false })
    | _, _ => s

def execMloadDeliveryBegin (s : State) : Result := .next (s.beginLoad s.sel.x s.sel.y)

/-- Bytes of a reservation are written. -/
def Resv.put (r : Resv) (at_ : Nat) : List Byte → Resv
  | [] => r
  | b :: t => Resv.put { r with data := if b = 0 then Tab.del r.data at_ else Tab.set r.data at_ b } (at_ + 1) t

/-- MLOAD_DELIVERY_END: the last granule is written, and the reservation is FULL. A receiver that retired meanwhile is
freed. -/
def State.endLoad (s : State) (id pos : Nat) : State :=
  match s.op? id with
  | none => s
  | some o =>
    match o.move, o.leader with
    | some m, some l =>
      if o.opc ≠ 0xC3 || !m.busy.contains pos then s
      else
        let bytes := bytesOf m.len (ofWords l.c)
        let s1 := s.updOp id (fun o => { o with move := o.move.map (fun m => { m with busy := m.busy.filter (fun p => p != pos) }) })
        match s.receiver o pos with
        | none => s1
        | some (blk, _) =>
          let s2 := s1.updResv blk (bits m.dst 24 5) (fun r => { r.put (bits m.dst 0 19) bytes with full := true })
          if s2.v.threads.any (fun p => p.2.block == blk) then s2 else s2.retireBlock blk
    | _, _ => s

def execMloadDeliveryEnd (s : State) : Result := .next (s.endLoad s.sel.x s.sel.y)

/-- An MLOAD has nothing more to deliver. -/
def Op.loaded (o : Op) : Bool := o.opc == 0xC3 && (match o.move with | some m => m.wait.isEmpty && m.busy.isEmpty | none => true)

/-- MATRIX_ENTRY_COMPLETE (R354): the result is written, the flag falls, and the entry is freed. -/
def State.completeEntry (s : State) (id : Nat) : State :=
  match s.op? id with
  | none => s
  | some o =>
    if !isMatrix o.opc || o.posted.isNone then s
    else if o.loaded then
      (s.serveAll id (fun _ => [BitVec.ofNat 32 (maskOf (match o.move with | some m => m.dropped | none => []))])).finishOp id
    else if o.served then s.finishOp id
    else s

def execMatrixEntryComplete (s : State) : Result := .next (s.completeEntry s.sel.x)

/-! ## Recorded entries after a resume (R381) -/

/-- Post what finds room, in order. -/
def State.postEntries (s : State) (e cls : Nat) : List Nat → State
  | [] => s
  | id :: t =>
    if s.matrixRoom e cls then State.postEntries (s.post e cls id) e cls t else s

/-- Recorded entries of every resident block are posted as room allows. -/
def State.postRecorded (s : State) : State :=
  s.v.blocks.foldl (fun s p =>
    match p.2.core with
    | some c => if p.2.saving then s else s.postEntries (clusterOf c) p.2.cls (s.unposted p.1)
    | none => s) s

/-! ## Engine reset (R382, R383) -/

/-- A dropped entry, whether its pass has ended or not: its flag falls, and a dropped MREAD writes zeros. An MLOAD stays until its
deliveries have ended. -/
def State.dropEntry (s : State) (id : Nat) : State :=
  match s.op? id with
  | none => s
  | some o =>
    if o.opc = 0xC3 then s
    else (s.serveAll id (fun _ => if o.opc = 0xCA then List.replicate (Rule.regs (Rule.ty o.f)) 0 else [])).finishOp id

/-- Deliveries of an instruction into the given blocks are dropped. -/
def State.dropInto (s : State) (blks : List Nat) (id : Nat) : State :=
  match s.op? id with
  | none => s
  | some o =>
    match o.move with
    | none => s
    | some m =>
      let hit := m.busy.filter (fun p => match s.receiver o p with | some r => blks.contains r.1 | none => false)
      hit.foldl (fun s p => s.dropDelivery id p) s

/-- SYS.MATENG of an engine while it resets: RESETS rises, and WDOG says who started it. -/
def State.noteReset (s : State) (e : Nat) (wdog : Bool) : State :=
  let v := ((bits (s.engineReg e) 16 32 + 1) % 2 ^ 32) * 65536 + 4 + (if wdog then 2 else 0)
  s.setOther (mateng e) v

/-- The reset of an engine, in the order of R383. -/
def State.resetEngine (s : State) (e : Nat) (wdog : Bool) : State :=
  if s.resetting e || 128 ≤ e then s
  else
    let blks := ((s.blocksAt e).filter (fun p => p.2.window.isSome)).map Prod.fst
    let s1 := (s.entriesOf e).foldl (fun s p => s.dropEntry p.1) (s.noteReset e wdog)
    let s2 : State := { s1 with v := { s1.v with passes := Tab.del s1.v.passes e } }
    let s3 := (s2.v.ops.filter (fun p => p.2.opc == 0xC3)).foldl (fun s p => s.dropInto blks p.1) s2
    let s3 := if wdog then s3.raiseIntr 4 else s3
    let s4 := blks.foldl (fun s b => s.updBlock b (fun b => { b with rows := [], resv := [] })) s3
    s4.setGroups (Tab.mapv s4.v.groups (fun g => if blks.contains g.block then { g with engineReset := true } else g))

/-- ENGINE_RESET_WRITE: SYS.MATENG.RESET is written with 1. -/
def execEngineResetWrite (s : State) : Result := .next (s.resetEngine s.sel.x false)

/-- ENGINE_WATCHDOG: the running pass has not ended within 65,536 cycles. -/
def execEngineWatchdog (s : State) : Result :=
  match Tab.look s.v.passes s.sel.x with
  | some (_, at_) => if at_ + 65536 ≤ s.clock then .next (s.resetEngine s.sel.x true) else .next s
  | none => .next s

/-- ENGINE_RESET_END: STATE returns to RUNNING. -/
def execEngineResetEnd (s : State) : Result :=
  if s.resetting s.sel.x then
    .next (s.setOther (mateng s.sel.x) (Nat.xor (s.engineReg s.sel.x) 4))
  else .next s

end Sys2Proof.Machine
end

