-- ==== Sys2Proof/Machine/Flow.lean ====
section
/-! DEFINITION. The flow instructions 0xE0 to 0xEA and their units: the Weir (R388 to R403), the Inlet (R404 to R409),
Stillwater (R410 to R412) and channels (R413 to R415). -/

namespace Sys2Proof.Machine

open Sys2Proof

/-! ## Issue (R385, R386) -/

/-- Operand words of a lane: the registers of B, and the leader's or the lane's own register A. -/
def flowLane (f : Slot) (bw : Nat) (a : Nat) (l : LaneV) : LaneOp :=
  laneOp l 0 (l.th.words f.b.toNat bw) [BitVec.ofNat 32 a] .sent

/-- A flow instruction issues, with the registers that `lane` gives each executing lane. -/
def State.flowIssue (s : State) (op : Nat) (f : Slot) (lane : LaneV → LaneV → LaneOp) : Result :=
  s.groupWide op f (fun gid g ls l run =>
    ((s.startOp gid g op f (run.map (lane l))).1.advance gid g ls).after)

/-- Every executing lane carries the leader's A, and its own `bw` registers of B. -/
def State.leaderFlow (s : State) (op : Nat) (f : Slot) (bw : Nat) : Result :=
  s.flowIssue op f (fun lead l => flowLane f bw (lead.th.val f.a.toNat 1) l)

/-- Every executing lane carries its own A. -/
def State.ownFlow (s : State) (op : Nat) (f : Slot) (bw : Nat) : Result :=
  s.flowIssue op f (fun _ l => flowLane f bw (l.th.val f.a.toNat 1) l)

/-- WEIR.OPEN (R392). -/
def execWeirOpen (f : Slot) (s : State) : Result :=
  s.flowIssue 0xE0 f (fun lead l => { flowLane f 0 0 l with ea := lead.th.val f.a.toNat 2 })
/-- WEIR.PUSH (R393). -/
def execWeirPush (f : Slot) (s : State) : Result := s.leaderFlow 0xE1 f 4
/-- WEIR.TAKE (R396). -/
def execWeirTake (f : Slot) (s : State) : Result := s.leaderFlow 0xE2 f 0
/-- WEIR.DONE (R398). -/
def execWeirDone (f : Slot) (s : State) : Result := s.leaderFlow 0xE3 f 0
/-- WEIR.CLOSE.END (R401). -/
def execWeirCloseEnd (f : Slot) (s : State) : Result := s.leaderFlow 0xE4 f 0
/-- WEIR.CLOSE.KILL (R401). -/
def execWeirCloseKill (f : Slot) (s : State) : Result := s.leaderFlow 0xE4 f 0
/-- INLET.ADD (R406). -/
def execInletAdd (f : Slot) (s : State) : Result := s.ownFlow 0xE5 f 2
/-- INLET.TAKE (R407). -/
def execInletTake (f : Slot) (s : State) : Result := s.leaderFlow 0xE6 f 0
/-- INLET.DONE (R408). -/
def execInletDone (f : Slot) (s : State) : Result := s.ownFlow 0xE7 f 0
/-- STILL.WAIT.TEST (R411). -/
def execStillWaitTest (f : Slot) (s : State) : Result := s.leaderFlow 0xE8 f 0
/-- STILL.WAIT.HOLD (R411). -/
def execStillWaitHold (f : Slot) (s : State) : Result := s.leaderFlow 0xE8 f 0
/-- STILL.WAIT.UNHOLD (R411). -/
def execStillWaitUnhold (f : Slot) (s : State) : Result := s.leaderFlow 0xE8 f 0

/-! ## Handles (R388, R389) -/

/-- The context that a handle names for a block's threads; none is STALE. -/
def State.weirOf (s : State) (blk h : Nat) : Option (Nat × Weir) :=
  let e := h % 256
  match s.block? blk, Tab.look s.f.weirs e with
  | some b, some w => if w.state != .free && w.gen == h / 256 && w.launch == b.launch then some (e, w) else none
  | _, _ => none

/-- The handle that an outstanding instruction names. -/
def Op.handle (o : Op) : Nat := match o.lanes with | l :: _ => (l.c.getD 0 0).toNat | [] => 0

/-! ## Landing areas (R397, R398) -/

/-- The transfer of a .G or .S form: state array, landing offset and bytes of a body, and its lock; or the leader's trap. -/
def State.landing (s : State) (g : Group) (w : Weir) (off : Nat) : Except Trap Move :=
  let core := s.coreOfBlock g.block
  let n := 16 * w.stride
  if n = 0 then .error ⟨.operand, 0, none, false⟩
  else if off % 16 ≠ 0 then .error ⟨.misaligned, 0, some off, true⟩
  else if s.scratchSize g.block < off + 256 * n then .error ⟨.scratchBound, 0, some off, true⟩
  else if s.v.locks.any (fun k => k.overlaps core (some g.block) 0 off (off + 256 * n)) then .error ⟨.rangeLock, 0, some off, true⟩
  else .ok ⟨w.stateBase, off, n, [], [], [], []⟩

/-- A form with a landing area issues: TAKE.G takes a DST entry and empties the area, DONE.S a SRC entry. -/
def State.landingIssue (s : State) (op : Nat) (f : Slot) : Result :=
  s.groupWide op f (fun gid g ls l run =>
    let h := l.th.val f.a.toNat 1
    let off := l.th.val f.b.toNat 1
    let core := s.coreOfBlock g.block
    let start (s : State) : State × Nat := s.startOp gid g op f (run.map (flowLane f 0 h))
    match s.weirOf g.block h with
    | none => ((start s).1.advance gid g ls).after
    | some (_, w) =>
      match s.landing g w off with
      | .error t => s.leaderTrap gid g ls l t
      | .ok m =>
        if s.freeLocks core = 0 then s.held
        else
          let n := start s
          let s1 := n.1.updOp n.2 (fun o => { o with move := some m })
          let s2 := s1.setLocks (s1.v.locks ++ [⟨core, n.2, op == 0xE2, some g.block, 0, off, off + 256 * m.len⟩])
          let s3 := if op = 0xE2 then s2.updBlock g.block (fun b => b.markRange off (256 * m.len) false) else s2
          (s3.advance gid g ls).after)

/-- WEIR.TAKE.G (R397). -/
def execWeirTakeG (f : Slot) (s : State) : Result := s.landingIssue 0xE2 f
/-- WEIR.DONE.S (R398). -/
def execWeirDoneS (f : Slot) (s : State) : Result := s.landingIssue 0xE3 f

/-- Range-lock entries that a flow instruction takes at issue. -/
def State.landingLocks (s : State) (g : Group) (op : Nat) (f : Slot) : Nat :=
  match (s.lanesOf g f).filter (·.run) with
  | [] => 0
  | l :: t =>
    if !(op = 0xE2 || op = 0xE3) || Rule.sub f = 0 || (l :: t).any (·.inTx) then 0
    else match s.weirOf g.block (l.th.val f.a.toNat 1) with
      | none => 0
      | some (_, w) => (match s.landing g w (l.th.val f.b.toNat 1) with | .ok _ => 1 | .error _ => 0)

/-! ## WEIR.OPEN (R390, R392) -/

/-- The context that a descriptor describes; none is DESC. -/
def weirDescribe (b : Block) (c : Ctx) (d : Nat) : Option Weir :=
  let body := bits d 0 64
  let ring := bits d 64 64
  let st := bits d 128 64
  let n := bits d 192 25
  let log := bits d 224 5
  let stride := bits d 232 5
  if d / 2 ^ 250 ≠ 0 || bits d 237 3 ≠ 0 || bits d 229 3 ≠ 0 || bits d 217 7 ≠ 0 then none
  else if n = 0 || 16777216 < n || log < 6 || 16 < log || 16 < stride then none
  else if 2 ^ 57 ≤ body || 2 ^ 57 ≤ ring || 2 ^ 57 ≤ st || body % 4096 ≠ 0 || ring % (32 * 2 ^ log) ≠ 0 || st % 16 ≠ 0 then none
  else
    some { gen := 0, state := .open_, place := none, launch := b.launch, launchGen := 0, asid := c.asid, priv := c.priv,
           secure := c.secure, nbody := n, ringLog := log, stride := stride, domain := if bit d 248 then some (bits d 240 8) else none,
           bodyBase := body, ringBase := ring, stateBase := st, next := 0, pending := [] }

/-- TARN or WORLD for the first page of a range that breaks R391. -/
def State.weirPages (s : State) (c : Ctx) : Nat → Nat → Nat → State × Nat
  | 0, _, _ => (s, 0)
  | n + 1, va, hi =>
    if hi ≤ va then (s, 0)
    else if 2 ^ 57 ≤ va then (s, 3)
    else match s.translate c.secure (nameAsid c.asid va) va with
      | (s1, .error k) => (s1, if k == .world then 4 else 3)
      | (s1, .ok a) =>
        let d := s1.tdb a.tarn
        if a.world && !c.secure then (s1, 4)
        else if a.home ≠ 1 || !a.read || !a.write || tdbRpol d ≠ 2 || tdbWorld d != c.secure then (s1, 3)
        else State.weirPages s1 c n (a.va + a.size) hi

/-- Zero the bodies of a new context. -/
def State.weirZero (s : State) (w : Weir) : Nat → State × Own Unit
  | 0 => (s, .ok ())
  | n + 1 =>
    match State.weirZero s w n with
    | (s1, .error x) => (s1, .error x)
    | (s1, .ok _) => s1.weirPut w [(n, 0, 0)]

/-- A hardware context of a die is taken. -/
def State.weirPlaced (s : State) (die k : Nat) : Bool := s.f.weirs.any (fun p => p.2.state != .free && p.2.place == some (die, k))
def State.weirEntryFree (s : State) (e : Nat) : Bool := match Tab.look s.f.weirs e with | some w => w.state == .free | none => true

/-- The generation that follows (R389). -/
def nextGen (g : Nat) : Nat := if g = 16777215 then 1 else g + 1

/-- Open a context for a block, or the refusal code; none where a write of a body is held. -/
def State.weirOpen (s : State) (core : Nat) (b : Block) (c : Ctx) (d : Nat) : Option (State × Nat) :=
  match weirDescribe b c d with
  | none => some (s, 2)
  | some w =>
    match s.weirPages c 40000 w.bodyBase (w.bodyBase + 8 * w.nbody) with
    | (s1, 0) =>
      match s1.weirPages c 40000 w.ringBase (w.ringBase + 32 * 2 ^ w.ringLog) with
      | (s2, 0) =>
        let die := dieOf core
        match lowest 16 (fun k => !s2.weirPlaced die k && s2.weirEntryFree (16 * die + k)) with
        | none => some (s2, 1)
        | some k =>
          let e := 16 * die + k
          let gen := nextGen (match Tab.look s2.f.weirs e with | some o => o.gen | none => 0)
          let lg := match s2.launch? b.launch with | some l => l.gen | none => 0
          let w1 := { w with gen := gen, place := some (die, k), launchGen := lg }
          let s3 := s2.setFlow { s2.f with weirs := Tab.set s2.f.weirs e w1 }
          match if bit d 249 then s3.weirZero w1 w1.nbody else (s3, .ok ()) with
          | (s4, .ok _) => some (s4, gen * 256 + e)
          | (s4, .error x) => (s4.weirFailed e x).map (fun s => (s, gen * 256 + e))
      | (s2, k) => some (s2, k)
    | (s1, k) => some (s1, k)

/-- An outstanding WEIR.OPEN is carried out. -/
def State.openOp (s : State) (id : Nat) (o : Op) : State :=
  match o.leader, s.block? o.block with
  | some l, some b =>
    if l.stage != .sent then s
    else if l.ea % 64 ≠ 0 then s.finishWith id [5]
    else
      match s.load (s.agentOf o.block l.key) l.ea 64 with
      | (s1, .error (.page k a)) => s1.faultLeader id l k a false
      | (s1, .error (.poisoned a)) => s1.poisonLeader id o l a
      | (_, .error .held) => s
      | (s1, .ok d) =>
        match s1.weirOpen (b.core.getD 0) b (s1.ctxOf o.block) (ofBytes d) with
        | none => s
        | some r => s.stilled (r.1.finishWith id [BitVec.ofNat 32 r.2])
  | _, _ => s.finishOp id

/-! ## WEIR.PUSH (R393, R394) -/

/-- Each executing lane's result words, in order, and the end of the instruction. -/
def State.finishLanes (s : State) (id : Nat) (res : List (Nat × List Word)) : State :=
  (s.updOp id (fun o => { o with lanes := o.lanes.map (fun l =>
    { l with
      stage := .done
      res := ((res.find? (fun (p : Nat × List Word) => p.1 == l.lane)).map Prod.snd).getD [] }) })).finishOp id

/-- A record that R393 calls bad. -/
def badRecord (w : Weir) (rec_ : List Byte) : Bool :=
  (List.range 4).any (fun j => bodyAt rec_ j != weirNone && decide (w.nbody ≤ bodyAt rec_ j)) || ofBytes (rec_.drop 12) == 0xFFFFFFFF

/-- The ring has no room for one more constraint. -/
def ringFull (w : Weir) : Bool := match w.pending with | (q, _) :: _ => decide (q + 2 ^ w.ringLog ≤ w.next) | [] => false

/-- Write the tickets of a record's slots into its ring entry. -/
def State.putTickets (s : State) (w : Weir) (rec_ : List Byte) (tails : List (Nat × Nat × Nat)) : List Nat → State × Own Unit
  | [] => (s, .ok ())
  | j :: t =>
    match tails.find? (fun (p : Nat × Nat × Nat) => p.1 == bodyAt rec_ j) with
    | none => State.putTickets s w rec_ tails t
    | some p =>
      match s.ownStore w.agent (w.entryVa w.next + 16 + 4 * j) (bytesOf 4 p.2.2) with
      | (s1, .ok _) => State.putTickets s1 w rec_ tails t
      | (s1, .error x) => (s1, .error x)

/-- Accept a record: its ring entry, its tickets and the TAIL of its bodies. -/
def State.acceptRecord (s : State) (e : Nat) (w : Weir) (rec_ : List Byte) : State × Own Unit :=
  match s.weirHeads w ((bodySlots rec_).map Prod.snd) with
  | (s1, .error x) => (s1, .error x)
  | (s1, .ok hs) =>
    match s1.ownStore w.agent (w.entryVa w.next) rec_ with
    | (s2, .error x) => (s2, .error x)
    | (s2, .ok _) =>
      match s2.putTickets w rec_ hs [0, 1, 2, 3] with
      | (s3, .error x) => (s3, .error x)
      | (s3, .ok _) =>
        match s3.weirPut w (hs.map (fun (p : Nat × Nat × Nat) => (p.1, p.2.1, (p.2.2 + 1) % 2 ^ 32))) with
        | (s4, .error x) => (s4, .error x)
        | (s4, .ok _) =>
          (s4.updWeir e (fun w => { w with next := w.next + 1, pending := w.pending ++ [(w.next, none)] }), .ok ())

/-- The lanes of a PUSH in order: statuses. `full` says that an earlier lane was refused with FULL; a fault of the Weir's own
access makes that lane and the later ones FAULTED. None: an access is held. -/
def State.pushLanes (s : State) (e : Nat) (full : Bool) : List LaneOp → Option (State × List (Nat × List Word))
  | [] => some (s, [])
  | l :: t =>
    let rec_ := bytesOf 16 (ofWords l.b)
    let go (s : State) (full : Bool) (code : Nat) : Option (State × List (Nat × List Word)) :=
      (State.pushLanes s e full t).map (fun r => (r.1, (l.lane, [BitVec.ofNat 32 code]) :: r.2))
    match Tab.look s.f.weirs e with
    | none => go s full 4
    | some w =>
      if w.state == .faulted then go s full 5
      else if full then go s true 1
      else if badRecord w rec_ then go s false 2
      else if ringFull w then go s true 1
      else
        match s.acceptRecord e w rec_ with
        | (s1, .ok _) => go s1 false 0
        | (_, .error true) => none
        | (s1, .error false) => go (s1.weirFault e) false 5

def State.pushOp (s : State) (id : Nat) (o : Op) : State :=
  let all (c : Nat) : State := s.finishWith id [BitVec.ofNat 32 c]
  match s.weirOf o.block o.handle with
  | none => all 4
  | some (e, w) =>
    if w.state == .faulted then all 5
    else if w.state == .closed then all 3
    else
      match s.pushLanes e false (sortBy (·.lane) o.lanes) with
      | none => s
      | some r => s.stilled (r.1.finishLanes id r.2)

/-! ## WEIR.TAKE (R395 to R397) -/

/-- The pending constraints out of hand that are releasable, in stream order, with their records. -/
def State.releasable (s : State) (w : Weir) : List (Nat × Option Nat) → State × Own (List (Nat × List Byte))
  | [] => (s, .ok [])
  | (_, some _) :: t => State.releasable s w t
  | (q, none) :: t =>
    match s.ownLoad w.agent (w.entryVa q) 32 with
    | (s1, .error x) => (s1, .error x)
    | (s1, .ok en) =>
      let slots := bodySlots (en.take 16)
      match s1.weirHeads w (slots.map Prod.snd) with
      | (s2, .error x) => (s2, .error x)
      | (s2, .ok hs) =>
        let ok := slots.all (fun (p : Nat × Nat) => hs.any (fun (h : Nat × Nat × Nat) =>
          h.1 == p.2 && h.2.1 == ofBytes ((en.drop (16 + 4 * p.1)).take 4)))
        match State.releasable s2 w t with
        | (s3, .error x) => (s3, .error x)
        | (s3, .ok r) => (s3, .ok (if ok then (q, en.take 16) :: r else r))

/-- The words of a lane that receives nothing. -/
def takeCode (c : Nat) : List Word := [BitVec.ofNat 32 c, 0, 0, 0xFFFFFFFF]

/-- The thread holds a constraint in hand on the context. -/
def Weir.holds (w : Weir) (key : Nat) : Bool := w.pending.any (fun p => p.2 == some key)

/-- Hand constraints to lanes in order: results by lane, and which sequence number went to which thread. -/
def handOut (w : Weir) (other : Nat) : List LaneOp → List (Nat × List Byte) → List (Nat × List Word) × List (Nat × Nat)
  | [], _ => ([], [])
  | l :: t, rs =>
    if w.holds l.key then
      let r := handOut w other t rs
      ((l.lane, takeCode 3) :: r.1, r.2)
    else match rs with
      | [] => let r := handOut w other t []
              ((l.lane, takeCode other) :: r.1, r.2)
      | (q, b) :: rs' => let r := handOut w other t rs'
                         ((l.lane, wordsOf 4 (ofBytes b)) :: r.1, (q, l.key) :: r.2)

/-- A TAKE ends: a landing area becomes full, and its lock goes. -/
def State.endTake (s : State) (id : Nat) (o : Op) (res : List (Nat × List Word)) : State :=
  let s1 := match o.move with
    | some m => s.updBlock o.block (fun b => b.markRange m.dst (256 * m.len) true)
    | none => s
  s1.finishLanes id res

/-- 4,096 cycles have passed since a TAKE reached the Weir. -/
def Op.takeExpired (o : Op) (now : Nat) : Bool := o.arrived + 4096 ≤ now

/-- What serving a TAKE comes to: the state, and whether it took a service. -/
def State.serveTake (s : State) (id : Nat) (o : Op) : State × Bool :=
  let lanes := sortBy (·.lane) o.lanes
  let same (c : Nat) : List (Nat × List Word) := lanes.map (fun l => (l.lane, takeCode c))
  match s.weirOf o.block o.handle with
  | none => (s.endTake id o (same 2), true)
  | some (e, w) =>
    if w.state == .faulted then (s.endTake id o (same 4), true)
    else if lanes.all (fun l => w.holds l.key) then (s.endTake id o (same 3), true)
    else
      match s.releasable w w.pending with
      | (_, .error true) => (s, false)
      | (s1, .error false) => ((s1.weirFault e).endTake id o (same 4), true)
      | (s1, .ok []) =>
        if w.state == .closed && w.pending.all (fun p => p.2.isSome) then (s1.endTake id o (handOut w 1 lanes []).1, true)
        else if o.takeExpired s.clock then (s1.endTake id o (handOut w 5 lanes []).1, true)
        else (s, false)
      | (s1, .ok rs) =>
        let r := handOut w 0 lanes rs
        let s2 := s1.updWeir e (fun w => { w with pending := w.pending.map (fun p =>
          match r.2.find? (fun (q : Nat × Nat) => q.1 == p.1) with | some q => (p.1, some q.2) | none => p) })
        match o.move with
        | none => (s2.finishLanes id r.1, true)
        | some _ =>
          (s2.updOp id (fun o => { o with
            served := true
            lanes := o.lanes.map (fun l =>
              { l with res := ((r.1.find? (fun (p : Nat × List Word) => p.1 == l.lane)).map Prod.snd).getD [] }) }), true)

/-- The die whose Weir a TAKE reaches: that which holds its context, else its own core's. -/
def State.takeDie (s : State) (o : Op) : Nat :=
  match s.weirOf o.block o.handle with
  | some (_, w) => (match w.place with | some p => p.1 | none => dieOf (s.coreOfBlock o.block))
  | none => dieOf (s.coreOfBlock o.block)

/-- Order of arrival at a unit: by clock, then by agent, then by group record (R394). -/
def State.arrivalRank (s : State) (o : Op) : Nat :=
  (o.arrived * 1024 + s.coreOfBlock o.block) * 128 + (match s.group? o.group with | some g => g.record | none => 0)

/-- TAKEs that wait at a die's Weir, class 3 first, then by arrival (R396). -/
def State.takesAt (s : State) (die : Nat) : List (Nat × Op) :=
  let l := sortBy (fun p => s.arrivalRank p.2) (s.v.ops.filter (fun p =>
    p.2.opc == 0xE2 && !p.2.served && !p.2.lanes.isEmpty && s.live p.2.block && s.takeDie p.2 == die))
  l.filter (fun p => s.classOf p.2.block == 3) ++ l.filter (fun p => s.classOf p.2.block != 3)

/-- The first that can complete is served. -/
def State.takeService (s : State) : List (Nat × Op) → State
  | [] => s
  | (id, o) :: t => (match s.serveTake id o with | (s1, true) => s1 | (_, false) => State.takeService s t)

/-- WEIR_TAKE_SERVICE of a die. -/
def execWeirTakeService (s : State) : Result := .next (s.stilled (s.takeService (s.takesAt s.sel.x)))

/-- WEIR_TAKE_TIMEOUT: 4,096 cycles since the TAKE `sel.x` reached the Weir. Its completion uses a service like any other, which the Weir
gives in its order (R396). -/
def execWeirTakeTimeout (s : State) : Result :=
  match s.op? s.sel.x with
  | some o =>
    if o.opc = 0xE2 && !o.served && !o.lanes.isEmpty && s.live o.block && o.takeExpired s.clock then
      .next (s.stilled (s.takeService (s.takesAt (s.takeDie o))))
    else .next s
  | none => .next s

/-! ## Gather and scatter (R397, R398) -/

/-- What a chain of copies comes to. -/
inductive Moved where
  | done
  | page (k : Kind) (va : Nat) (write : Bool)
  | poisoned (va : Nat)
  | held
  deriving DecidableEq, Repr

/-- Slots of a lane's record whose body is not none: scratchpad offset and address. -/
def moveParts (m : Move) (lane : Nat) (rec_ : List Byte) : List (Nat × Nat) :=
  (List.range 4).filterMap (fun j =>
    let b := bodyAt rec_ j
    if b = weirNone then none else some (m.dst + (4 * lane + j) * m.len, wrap 64 (m.src + b * m.len)))

/-- Copy body state into the landing area. -/
def State.gather (s : State) (ag : Agent) (blk n : Nat) : List (Nat × Nat) → State × Moved
  | [] => (s, .done)
  | (off, va) :: t =>
    match s.load ag va n with
    | (s1, .error (.page k a)) => (s1, .page k a false)
    | (s1, .error (.poisoned a)) => (s1, .poisoned a)
    | (s1, .error .held) => (s1, .held)
    | (s1, .ok b) => State.gather (s1.writePad blk off b) ag blk n t

/-- Copy the landing area back. -/
def State.scatter (s : State) (ag : Agent) (blk n : Nat) : List (Nat × Nat) → State × Moved
  | [] => (s, .done)
  | (off, va) :: t =>
    match s.store ag va (match s.block? blk with | some b => b.bytes off n | none => []) with
    | (s1, .error (.page k a)) => (s1, .page k a true)
    | (s1, .error (.poisoned a)) => (s1, .poisoned a)
    | (s1, .error .held) => (s1, .held)
    | (s1, .ok _) => State.scatter s1 ag blk n t

/-- The end of a gather or scatter: `after` on success; a page fault is reported, poison ends it (R268). -/
def State.afterMove (s0 : State) (id : Nat) (o : Op) (l : LaneOp) (r : State × Moved) (after : State → State) : State :=
  match r.2 with
  | .done => after r.1
  | .page k va w => r.1.faultLeader id l k va w
  | .poisoned va => r.1.poisonLeader id o l va
  | .held => s0

/-- A gather's reads wait for what the thread's order puts before them, as a copy's do (R312, R315, R325). -/
def State.gatherBlocked (s : State) (id : Nat) (l : LaneOp) (n : Nat) (parts : List (Nat × Nat)) : Bool :=
  s.poBlocked id l.key false (fun p x => !opScratch p.opc && opWrites p.opc
    && parts.any (fun q => x.ea / 512 ≤ (q.2 + n - 1) / 512 && q.2 / 512 ≤ x.ea / 512))

/-- WEIR_GATHER_COMPLETE. -/
def execWeirGatherComplete (s : State) : Result :=
  let id := s.sel.x
  match s.op? id with
  | none => .next s
  | some o =>
    match o.move, o.leader with
    | some m, some l =>
      if o.opc ≠ 0xE2 || !o.served || l.stage != .sent || !s.live o.block then .next s
      else
        let got := (sortBy (·.lane) o.lanes).filter (fun l => l.res.getD 3 0xFFFFFFFF != 0xFFFFFFFF)
        let parts := got.flatMap (fun l => moveParts m l.lane (bytesOf 16 (ofWords l.res)))
        if s.gatherBlocked id l m.len parts || !s.fullReady id o then .next s
        else .next (s.afterMove id o l (s.gather (s.agentOf o.block l.key) o.block m.len parts)
          (fun s => s.endTake id o (o.lanes.map (fun l => (l.lane, l.res)))))
    | _, _ => .next s

/-! ## Order within a thread (R399, R409, R412, R415) -/

/-- A flow instruction that others synchronise with takes effect once what comes before it in its threads has: their
accesses, and their earlier INLET.ADD and WEIR.PUSH. Events that count towards a domain's BUSY state are among them (R412). -/
def State.flowReady (s : State) (id : Nat) (o : Op) : Bool :=
  o.lanes.all (fun l => s.fenceMet id o l) && !s.v.ops.any (fun p =>
    p.1 < id && (p.2.opc == 0xE1 || p.2.opc == 0xE5) && p.2.lanes.any (fun x => o.lanes.any (fun l => l.key == x.key)))

/-! ## WEIR.DONE and WEIR.CLOSE (R398, R401) -/

/-- The constraint in hand of a thread. -/
def Weir.inHand (w : Weir) (key : Nat) : Option Nat := (w.pending.find? (fun p => p.2 == some key)).map Prod.fst

/-- Make done what the lanes hold; none where an access is held. -/
def State.doneLanes (s : State) (e : Nat) (w : Weir) (lanes : List LaneOp) : Option State :=
  s.weirDones ((lanes.filterMap (fun l => w.inHand l.key)).map (fun q => (e, q)))

/-- WEIR.DONE without a scatter to make. -/
def State.doneOp (s : State) (id : Nat) (o : Op) : State :=
  match s.weirOf o.block o.handle with
  | none => s.finishOp id
  | some (e, w) =>
    match s.doneLanes e w (sortBy (·.lane) o.lanes) with
    | none => s
    | some s1 => s.stilled (s1.finishOp id)

/-- The writes of a scatter: each lane's record is read from the ring. -/
def State.scatterParts (s : State) (w : Weir) (m : Move) : List LaneOp → State × Own (List (Nat × Nat))
  | [] => (s, .ok [])
  | l :: t =>
    match w.inHand l.key with
    | none => State.scatterParts s w m t
    | some q =>
      match s.ownLoad w.agent (w.entryVa q) 16 with
      | (s1, .error x) => (s1, .error x)
      | (s1, .ok rec_) =>
        match State.scatterParts s1 w m t with
        | (s2, .error x) => (s2, .error x)
        | (s2, .ok r) => (s2, .ok (moveParts m l.lane rec_ ++ r))

/-- The writes that a scatter in flight has left where its context was killed: scratchpad offset and address (R401). -/
def Move.left (m : Move) : List (Nat × Nat) := m.wait.map (fun c => (c / 2 ^ 64, c % 2 ^ 64))

/-- WEIR_SCATTER_COMPLETE. A scatter whose context was killed meanwhile completes its writes, and advances no HEAD (R401). -/
def execWeirScatterComplete (s : State) : Result :=
  let id := s.sel.x
  match s.op? id with
  | none => .next s
  | some o =>
    match o.move, o.leader with
    | some m, some l =>
      if o.opc ≠ 0xE3 || l.stage != .sent || !s.live o.block || !s.flowReady id o then .next s
      else if o.served then
        .next (s.afterMove id o l (s.scatter (s.agentOf o.block l.key) o.block m.len m.left) (fun s => s.finishOp id))
      else
        let lanes := sortBy (·.lane) o.lanes
        match s.weirOf o.block o.handle with
        | none => .next (s.finishOp id)
        | some (e, w) =>
          if w.state == .faulted then .next (s.finishOp id)
          else
            match s.scatterParts w m lanes with
            | (_, .error true) => .next s
            | (s1, .error false) => .next ((s1.weirFault e).finishOp id)
            | (s1, .ok parts) =>
              .next (s.stilled (s.afterMove id o l (s1.scatter (s1.agentOf o.block l.key) o.block m.len parts)
                (fun s2 => match s2.doneLanes e w lanes with | some s3 => s3.finishOp id | none => s)))
    | _, _ => .next s

/-- Scatters of a context that have reached it and not completed. -/
def State.scattersOf (s : State) (blk h : Nat) : List (Nat × Op) :=
  s.v.ops.filter (fun p =>
    p.2.opc == 0xE3 && p.2.move.isSome && !p.2.served && p.2.handle == h && s.live p.2.block && s.flowReady p.1 p.2
      && s.weirOf p.2.block h == s.weirOf blk h)

/-- What scatters in flight have still to write is fixed before their context is killed; none where a read of the ring is held. -/
def State.keepScatters (s : State) (w : Weir) : List (Nat × Op) → Option State
  | [] => some s
  | (id, o) :: t =>
    let keep (s : State) (parts : List (Nat × Nat)) : State := s.updOp id (fun o =>
      { o with
        served := true
        move := o.move.map (fun m => { m with wait := parts.map (fun p => p.1 * 2 ^ 64 + p.2) }) })
    match o.move with
    | none => State.keepScatters s w t
    | some m =>
      match s.scatterParts w m (sortBy (·.lane) o.lanes) with
      | (_, .error true) => none
      | (s1, .error false) => State.keepScatters (keep s1 []) w t
      | (s1, .ok parts) => State.keepScatters (keep s1 parts) w t

/-- WEIR.CLOSE. -/
def State.closeOp (s : State) (id : Nat) (o : Op) : State :=
  match s.weirOf o.block o.handle with
  | none => s.finishWith id [1]
  | some (e, w) =>
    if Rule.sub o.f = 1 then
      match s.keepScatters w (s.scattersOf o.block o.handle) with
      | none => s
      | some s1 => s.stilled ((s1.weirFree e).finishWith id [0])
    else if w.state != .open_ then s.finishWith id [2]
    else s.stilled (((s.updWeir e (fun w => { w with state := .closed })).weirSettle e).finishWith id [0])

/-- WEIR_OWN_ACCESS_FAULT of an entry: an access that the Weir needs now faults (R402). -/
def execWeirOwnAccessFault (s : State) : Result :=
  match Tab.look s.f.weirs s.sel.x with
  | some w =>
    if (w.state == .open_ || w.state == .closed) && w.place.isSome then
      (match s.releasable w (w.pending.map (fun p => (p.1, none))) with
        | (s1, .error false) => .next (s1.weirFault s.sel.x)
        | _ => .next s)
    else .next s
  | none => .next s

/-! ## The Inlet (R404 to R408) -/

/-- The agent as which the Inlet accesses a ring. -/
def InletList.agent (l : InletList) : Agent := ⟨707, ⟨0, true, l.secure, 0⟩, none⟩
def InletList.itemVa (l : InletList) (i : Nat) : Nat := l.ringBase + 8 * ((l.taken + i) % 2 ^ l.ringLog)

/-- OFF, WORLD or FAULTED of a list for a context; 0 is usable. -/
def State.listCode (s : State) (secure : Bool) (n : Nat) : Nat :=
  match Tab.look s.f.lists n with
  | none => 2
  | some l => if l.secure && !secure then 3 else if l.faulted then 4 else 0

/-- One lane of INLET.ADD: its status. None: the write is held. -/
def State.addItem (s : State) (secure : Bool) (n : Nat) (item : List Byte) : Option (State × Nat) :=
  match Tab.look s.f.lists n, s.listCode secure n with
  | some l, 0 =>
    if 2 ^ l.ringLog ≤ l.count then some (s, 1)
    else
      match s.ownStore l.agent (l.itemVa l.count) item with
      | (s1, .ok _) => some (s1.updList n (fun l => { l with count := l.count + 1 }), 0)
      | (_, .error true) => none
      | (s1, .error false) => some (s1.updList n (fun l => { l with faulted := true }), 4)
  | _, c => some (s, c)

def State.addItems (s : State) (secure : Bool) : List LaneOp → Option (State × List (Nat × List Word))
  | [] => some (s, [])
  | l :: t =>
    match s.addItem secure ((l.c.getD 0 0).toNat % 4096) (bytesOf 8 (ofWords l.b)) with
    | none => none
    | some r => (State.addItems r.1 secure t).map (fun u => (u.1, (l.lane, [BitVec.ofNat 32 r.2]) :: u.2))

def State.inletAddOp (s : State) (id : Nat) (o : Op) : State :=
  match s.addItems (s.ctxOf o.block).secure (sortBy (·.lane) o.lanes) with
  | none => s
  | some r => s.stilled (r.1.finishLanes id r.2)

/-- The oldest items of a list. -/
def State.takeItems (s : State) (l : InletList) : Nat → Nat → State × Own (List (List Byte))
  | _, 0 => (s, .ok [])
  | i, k + 1 =>
    match s.ownLoad l.agent (l.itemVa i) 8 with
    | (s1, .error x) => (s1, .error x)
    | (s1, .ok b) =>
      match State.takeItems s1 l (i + 1) k with
      | (s2, .error x) => (s2, .error x)
      | (s2, .ok r) => (s2, .ok (b :: r))

def State.inletTakeOp (s : State) (id : Nat) (o : Op) : State :=
  let n := o.handle % 4096
  let lanes := sortBy (·.lane) o.lanes
  let refuse (s : State) (c : Nat) : State := s.finishWith id [0, 0, 0, BitVec.ofNat 32 (256 + c)]
  match Tab.look s.f.lists n, s.listCode (s.ctxOf o.block).secure n with
  | some l, 0 =>
    let k := min lanes.length l.count
    match s.takeItems l 0 k with
    | (_, .error true) => s
    | (s1, .error false) => refuse (s1.updList n (fun l => { l with faulted := true })) 4
    | (s1, .ok items) =>
      let s2 := s1.updList n (fun l => { l with taken := l.taken + k, count := l.count - k, inHand := l.inHand + k })
      let word (i : Nat) : List Word :=
        (match items[i]? with | some b => wordsOf 2 (ofBytes b) ++ [1] | none => [0, 0, 0]) ++ [BitVec.ofNat 32 k]
      s.stilled (s2.finishLanes id ((lanes.zip (List.range lanes.length)).map (fun (p : LaneOp × Nat) => (p.1.lane, word p.2))))
  | _, c => refuse s c

def State.inletDoneOp (s : State) (id : Nat) (o : Op) : State :=
  s.stilled (((sortBy (·.lane) o.lanes).foldl (fun s l =>
    s.updList ((l.c.getD 0 0).toNat % 4096) (fun x => { x with inHand := x.inHand - 1 })) s).finishOp id)

/-- INLET_RING_FAULT of a list: an access to its ring now faults. -/
def execInletRingFault (s : State) : Result :=
  match Tab.look s.f.lists s.sel.x with
  | some l =>
    if l.faulted then .next s
    else
      (match s.ownLoad l.agent (l.itemVa 0) 8 with
        | (s1, .error false) => .next (s1.updList s.sel.x (fun l => { l with faulted := true }))
        | _ => .next s)
  | none => .next s

/-- The list that a descriptor makes usable (R405). -/
def listOf (d : Nat) : Option InletList :=
  let log := bits d 64 5
  let base := bits d 0 64
  if d / 2 ^ 83 ≠ 0 || bits d 69 3 ≠ 0 || !bit d 82 || log < 6 || 20 < log || base / 2 ^ 56 ≠ 1 || base % (8 * 2 ^ log) ≠ 0 then none
  else some ⟨bit d 81, if bit d 80 then some (bits d 72 8) else none, log, base, 0, 0, 0, false⟩

/-- The usable lists of the table at a physical address. -/
def State.readLists (s : State) (base : Nat) : Tab InletList :=
  (List.range 4096).filterMap (fun i =>
    match s.paClass (base + 32 * i) with
    | .memory off => if s.poisonedAt off 32 then none else (listOf (ofBytes (s.physBytes off 32))).map (fun l => (i, l))
    | _ => none)

/-- INLET_ENABLE: a write of SYS.INLETTAB (R404). -/
def execInletEnable (value : Dword) (s : State) : Result :=
  let v := bits value.toNat 17 35 * 2 ^ 17 + value.toNat % 2
  let was := bit s.r.inletTab.toNat 0
  let idle := s.f.lists.all (fun p => p.2.count == 0 && p.2.inHand == 0)
  if was && !bit v 0 && !idle then .next s
  else
    let s1 : State := { s with r := { s.r with inletTab := BitVec.ofNat 64 v } }
    .next (if was && bit v 0 then s1
      else if bit v 0 then s1.setFlow { s1.f with lists := s1.readLists (bits v 17 35 * 2 ^ 17) }
      else s1.setFlow { s1.f with lists := [] })

/-! ## Stillwater (R411) -/

/-- The word of STILL.WAIT and .TEST. -/
def State.stillWord (s : State) (d : Nat) : Nat := (if s.domainBusy d then 0 else 2 ^ 31) + (s.domain d).2 % 2 ^ 31

/-- .TEST, .HOLD and .UNHOLD. -/
def State.stillOp (s : State) (id : Nat) (o : Op) : State :=
  let d := o.handle % 256
  let v := s.domain d
  let put (n : Nat) : State := s.setFlow { s.f with domains := Tab.set s.f.domains d (n, v.2) }
  match Rule.sub o.f with
  | 1 => s.finishWith id [BitVec.ofNat 32 (s.stillWord d)]
  | 2 => if v.1 = 65535 then s.finishWith id [0xFFFFFFFF] else (put (v.1 + 1)).finishWith id [BitVec.ofNat 32 (v.1 + 1)]
  | 3 => if v.1 = 0 then s.finishWith id [0] else s.stilled ((put (v.1 - 1)).finishWith id [BitVec.ofNat 32 (v.1 - 1)])
  | _ => s

/-- A waiting STILL.WAIT whose domain is QUIET is served. -/
def State.stillServe (s : State) (id : Nat) (o : Op) : State :=
  let d := o.handle % 256
  if o.opc != 0xE8 || Rule.sub o.f != 0 || !o.lanes.any (fun l => l.stage == .sent) || s.domainBusy d || !s.live o.block then s
  else
    (s.updOp id (fun o => { o with lanes := o.lanes.map (fun l =>
      { l with
        stage := .done
        res := [BitVec.ofNat 32 (s.stillWord d)] }) })).repark id

/-- STILL.WAIT (R411). -/
def execStillWait (f : Slot) (s : State) : Result :=
  s.groupWide 0xE8 f (fun gid g ls l run =>
    let n := s.startOp gid g 0xE8 f (run.map (flowLane f 0 (l.th.val f.a.toNat 1)))
    let s1 := n.1.advance gid g ls
    match s1.op? n.2 with
    | some o => ((s1.stillServe n.2 o).repark n.2).after
    | none => s1.after)

/-! ## Channels (R413, R414) -/

/-- Slots of a channel of a block's gang; none where it is not declared. -/
def State.chanSlots (s : State) (blk k : Nat) : Option Nat :=
  match s.record? blk with | some r => if k < r.nchan then some (r.chans.getD k 0 + 1) else none | none => none

/-- Messages that a channel holds. -/
def State.messages (s : State) (gang k : Nat) : List Dword := Tab.get s.f.chans (chanKey gang k) []
def State.setMessages (s : State) (gang k : Nat) (l : List Dword) : State :=
  s.setFlow { s.f with chans := if l.isEmpty then Tab.del s.f.chans (chanKey gang k) else Tab.set s.f.chans (chanKey gang k) l }

def chanNo (f : Slot) : Nat := f.i32.toNat % 16

/-- An instruction waits at a channel. -/
def Op.waitsChan (o : Op) : Bool := (o.opc == 0xE9 || o.opc == 0xEA) && o.lanes.any (fun l => l.stage == .sent)

/-- An instruction of the same kind that arrived earlier waits at the same channel (R394, R414). -/
def State.chanBehind (s : State) (id : Nat) (o : Op) (b : Block) : Bool :=
  s.v.ops.any (fun p => p.1 != id && decide (s.arrivalRank p.2 < s.arrivalRank o) && p.2.opc == o.opc && p.2.waitsChan && chanNo p.2.f == chanNo o.f && s.live p.2.block
    && (match s.block? p.2.block with | some x => x.gang == b.gang | none => false))

/-- The message that a lane of a RECV gets: lanes in order, oldest first (R414). -/
def recvWords (lanes : List LaneOp) (held : List Dword) (l : LaneOp) : List Word :=
  match (lanes.zip held).find? (fun (p : LaneOp × Dword) => p.1.lane == l.lane) with | some p => wordsOf 2 p.2.toNat | none => []

/-- Serve an instruction that waits at a channel, if it can be. -/
def State.chanServe (s : State) (id : Nat) (o : Op) : State :=
  match s.block? o.block with
  | none => s
  | some b =>
    let k := chanNo o.f
    let held := s.messages b.gang k
    let lanes := sortBy (·.lane) o.lanes
    let e := lanes.length
    let n := (s.chanSlots o.block k).getD 0
    if !o.waitsChan || !s.live o.block || s.chanBehind id o b then s
    else if o.opc = 0xE9 then
      if n < held.length + e || !o.lanes.all (fun l => s.fenceMet id o l) then s
      else
        let s1 := s.setMessages b.gang k (held ++ lanes.map (fun l => BitVec.ofNat 64 (ofWords l.b)))
        (s1.updOp id (fun o => { o with lanes := o.lanes.map (fun l => { l with stage := .done }) })).repark id
    else if held.length < e then s
    else
      let s1 := s.setMessages b.gang k (held.drop e)
      (s1.updOp id (fun o => { o with lanes := o.lanes.map (fun l =>
        { l with
          stage := .done
          res := recvWords lanes held l }) })).repark id

/-- CHAN.SEND and CHAN.RECV. -/
def State.chanIssue (s : State) (op : Nat) (f : Slot) : Result :=
  s.groupWide op f (fun gid g ls l run =>
    match s.chanSlots g.block (chanNo f) with
    | none => s.leaderTrap gid g ls l ⟨.operand, 0, none, false⟩
    | some n =>
      if n < run.length then s.leaderTrap gid g ls l ⟨.operand, 0, none, false⟩
      else
        let p := s.startOp gid g op f (run.map (flowLane f 2 0))
        let s1 := p.1.advance gid g ls
        match s1.op? p.2 with
        | some o => ((s1.chanServe p.2 o).repark p.2).after
        | none => s1.after)

/-- CHAN.SEND (R414). -/
def execChanSend (f : Slot) (s : State) : Result := s.chanIssue 0xE9 f
/-- CHAN.RECV (R414). -/
def execChanRecv (f : Slot) (s : State) : Result := s.chanIssue 0xEA f

/-- Serve what waits at channels and at Stillwater: RECV before SEND, as often as there are waiting instructions. -/
def State.flowSettle (s : State) : State :=
  let waiting := s.v.ops.filter (fun p => p.2.waitsChan || (p.2.opc == 0xE8 && Rule.sub p.2.f == 0))
  let one (s : State) (opc : Nat) : State :=
    waiting.foldl (fun s p => if p.2.opc != opc then s else
      match s.op? p.1 with
      | some o => if opc = 0xE8 then s.stillServe p.1 o else s.chanServe p.1 o
      | none => s) s
  waiting.foldl (fun s _ => one (one (one s 0xEA) 0xE9) 0xE8) s

/-! ## The requests that need no wait -/

/-- A flow instruction reaches its unit (opcodes 0xE0 to 0xE8, the waiting forms apart). -/
def State.flowOp (s : State) (id : Nat) (o : Op) : State :=
  match o.opc with
  | 0xE0 => if s.flowReady id o then s.openOp id o else s
  | 0xE1 => if s.flowReady id o then s.pushOp id o else s
  | 0xE3 => if o.move.isSome then s else if s.flowReady id o then s.doneOp id o else s
  | 0xE4 => if s.flowReady id o then s.closeOp id o else s
  | 0xE5 => if s.flowReady id o then s.inletAddOp id o else s
  | 0xE6 => if s.flowReady id o then s.inletTakeOp id o else s
  | 0xE7 => if s.flowReady id o then s.inletDoneOp id o else s
  | 0xE8 => if Rule.sub o.f < 2 || s.flowReady id o then s.stillOp id o else s
  | _ => s

end Sys2Proof.Machine
end

