-- ==== Sys2Proof/Machine/Launch.lean ====
section
/-! DEFINITION. Launch records (R417, R418), their submission (R207 to R211, R419, R420), and LAUNCH, LWAIT and LSTAT (R208 to
R214). -/

namespace Sys2Proof.Machine

open Sys2Proof

/-! ## Launch records -/

/-- The fields of a launch record of 1,024 bits (R417). -/
def parseRecord (d : Nat) (own : Nat) : Record :=
  { entry := BitVec.ofNat 64 d
    gdimx := bits d 64 32
    gdimy := bits d 96 16
    gdimz := bits d 112 16
    ntid := bits d 128 11
    regs := 8 * bits d 144 6
    scratch := bits d 152 20
    gangp := bits d 176 4
    gangf := bits d 180 4
    pclass := bits d 184 2
    fclass := bits d 186 2
    cls := bits d 188 2
    priv := bit d 190
    secure := bit d 191
    retry := bits d 192 6
    pvalid := bits d 200 4
    tolerant := bits d 204 4
    nchan := bits d 208 5
    mgran := bits d 216 8
    mrows := bits d 224 10
    asid := if bits d 234 12 = 0 then own else bits d 234 12
    preds := (List.range 4).map (fun k => bits d (256 + 32 * k) 32)
    seed := BitVec.ofNat 64 (bits d 384 64)
    hints := (List.range 4).map (fun k => bits d (448 + 16 * k) 16)
    chans := (List.range 16).map (fun k => bits d (512 + 8 * k) 8)
    handler := BitVec.ofNat 64 (bits d 640 64)
    saveBase := bits d 704 64
    saveLen := bits d 768 64 }

/-- The buddy block of a scratchpad size (R425). -/
def buddySize (scratch : Nat) : Nat :=
  if scratch = 0 then 0 else if scratch ≤ 4096 then 4096 else 2 ^ (Nat.log2 (scratch - 1) + 1)

/-- ImageSize (R435). -/
def Record.imageSize (r : Record) : Nat :=
  let c := (r.ntid + 63) / 64
  let s := buddySize r.scratch
  let slots := ((r.chans.take r.nchan).map (· + 1)).foldl (· + ·) 0
  (16384 + c * (256 * r.regs + 4096) + s + s / 128 + 512 * r.mrows + 4160 * r.mgran + 8 * slots + 4095) / 4096 * 4096

/-- Image slots of a launch (R435). -/
def Record.imageSlots (r : Record) : Nat := (r.saveLen - 65536) / r.imageSize

/-- Chunks that a block takes (R23). -/
def Record.chunks (r : Record) : Nat := (r.ntid + 63) / 64

/-- A reserved bit of the record is set. -/
def recordReserved (d : Nat) : Bool :=
  d / 2 ^ 832 != 0 || bits d 246 10 != 0 || bits d 213 3 != 0 || bits d 198 2 != 0 || bits d 172 4 != 0 || bits d 150 2 != 0
    || bits d 139 5 != 0

/-- The checks of R418: true is accepted. -/
def recordOk (d : Nat) (r : Record) (own : Nat) (priv : Bool) : Bool :=
  !recordReserved d && r.entry != 0 && pcForm r.entry.toNat && pcForm r.handler.toNat
    && decide (r.total ≤ 2 ^ 32) && decide (0 < r.total) && decide (1 ≤ r.ntid) && decide (r.ntid ≤ 1024)
    && decide (8 ≤ r.regs) && decide (r.regs ≤ 256) && decide (r.scratch ≤ 524288) && decide (r.nchan ≤ 16)
    && decide (r.mgran ≤ 128) && decide (r.mrows ≤ 512) && r.mrows % 16 == 0
    && decide (r.gangf ≤ r.gangp) && decide (r.pclass ≤ r.cls) && decide (r.fclass ≤ r.cls)
    && (r.chans.drop r.nchan).all (fun c => c == 0)
    && (List.range 4).all (fun k => !bit r.pvalid k || r.preds.getD k 0 / 256 != 0)
    && r.hints.all (fun h => !bit h 15 || (bits h 0 10 != 0 && bits h 10 5 == 0))
    && decide (r.chunks * r.regs ≤ 2048)
    && (!r.priv || priv) && (bits d 234 12 == 0 || bits d 234 12 == own || priv)
    && r.saveBase % 65536 == 0 && decide (r.saveBase < 2 ^ 57) && decide (65536 ≤ r.saveLen) && decide (r.gangp + 1 ≤ r.imageSlots)

/-! ## The launch table (R207, R419, R420) -/

/-- The code of a state (R212). -/
def LState.code : LState → Nat
  | .waiting => 1 | .queued => 2 | .running => 3 | .saved => 4 | .done => 5 | .poisoned => 6

/-- The state code of a handle (R212), SELF apart. -/
def State.launchCode (s : State) (h : Nat) : Nat :=
  if h / 256 = 0 then 0
  else match s.launch? (h % 256) with
    | some l => if l.gen = h / 256 then l.state.code else 7
    | none => 7

/-- An entry is free: never taken, or in a final state (R419). -/
def State.entryFree (s : State) (i : Nat) : Bool := match s.launch? i with | some l => l.state.final | none => true

/-- The final state of a predecessor, if it has reached one; a stale handle counts as DONE (R420). -/
def State.predState (s : State) (h : Nat) : Option LState :=
  match s.launchCode h with
  | 5 => some .done
  | 6 => some .poisoned
  | 7 => some .done
  | _ => none

/-- Enter an accepted record at an entry: its handle. -/
def State.enterLaunch (s : State) (i : Nat) (r : Record) : State × Nat :=
  let gen := nextGen (match s.launch? i with | some l => l.gen | none => 0)
  let fin := (List.range 4).map (fun k => if bit r.pvalid k then s.predState (r.preds.getD k 0) else none)
  let bad := (List.range 4).any (fun k => bit r.pvalid k && fin.getD k none == some .poisoned && !bit r.tolerant k)
  let ready := (List.range 4).all (fun k => !bit r.pvalid k || (fin.getD k none).isSome)
  let l : Launch :=
    { gen := gen
      state := if bad then .poisoned else if ready then .queued else .waiting
      record := r
      next := 0
      retiredBlocks := 0
      predFinal := fin
      age := 0
      rank := s.clock
      suspended := false
      killed := false
      slice := none }
  (s.setLaunches (Tab.set s.l.launches i l), gen * 256 + i)

/-- Submit of R209 once the record has been read: the handle or the refusal. -/
def State.submitRecord (s : State) (d own : Nat) (priv secure : Bool) : State × Nat :=
  let r := parseRecord d own
  if !recordOk d r own priv then (s, 2)
  else if r.secure && !secure then (s, 3)
  else match lowest 256 s.entryFree with
    | none => (s, 1)
    | some i => s.enterLaunch i r

/-! ## LAUNCH (R208, R209) -/

/-- LAUNCH: each lane without a transaction submits a record. -/
def execLaunch (f : Slot) (s : State) : Result :=
  s.issue 0x0B f (fun gid g ls =>
    let lanes := plainLanes ls
    let aborts := instrAborts ls
    if lanes.isEmpty && !aborts.isEmpty then s.finish gid g ls ⟨[], [], [], aborts⟩
    else
      (s.startOp gid g 0x0B f (lanes.map (fun l => laneOp l (globalEa f l.th) [] [] .sent))).1.finish gid g ls
        ⟨[], [], [], aborts⟩)

/-- A lane has its result. -/
def State.laneResult (s : State) (id lane v : Nat) : State :=
  s.updLane id lane (fun l =>
    { l with
      stage := .done
      res := [BitVec.ofNat 32 v] })

/-- Earlier accesses of the thread still hold back the record's read (R211, and coherence of one location). -/
def State.submitBlocked (s : State) (id : Nat) (o : Op) (l : LaneOp) : Bool :=
  s.laneBlocked id o l || s.laneBlocked id o { l with ea := l.ea + 64 }

/-- LAUNCH_SUBMISSION of a lane: lanes are taken in ascending order. -/
def State.submitLane (s : State) (id lane : Nat) : State :=
  match s.op? id with
  | none => s
  | some o =>
    match minBy (·.lane) (o.lanes.filter (fun l => l.stage == .sent)) with
    | none => s
    | some l =>
      if o.opc ≠ 0x0B || l.lane ≠ lane || !s.going id o || s.submitBlocked id o l then s
      else if l.ea % 128 ≠ 0 then s.laneResult id lane 4
      else
        let c := s.ctxOf o.block
        match s.load (s.agentOf o.block l.key) l.ea 128 with
        | (s1, .error (.page k _)) =>
          s1.faultLanes id ((o.lanes.filter (fun x => x.stage == .sent && x.ea % 128 == 0 && s1.pageOf c.asid x.ea == s1.pageOf c.asid l.ea)).map (·.lane)) k false
        | (s1, .error (.poisoned a)) => (s1.trapLanes id [lane] (fun _ => ⟨.poisoned, 0, some a, false⟩)).tryPlans o.block
        | (_, .error .held) => s
        | (s1, .ok d) =>
          let r := s1.submitRecord (ofBytes d) c.asid c.priv c.secure
          r.1.laneResult id lane r.2

def execLaunchSubmission (s : State) : Result := .next (s.submitLane s.sel.x s.sel.y)

/-! ## LWAIT and LSTAT (R212, R213) -/

/-- LWAIT and LSTAT issue, inside a transaction as outside (R194): each executing lane's handle waits to be served. -/
def State.launchQuery (s : State) (op : Nat) (f : Slot) : Result :=
  s.issue op f (fun gid g ls =>
    ((s.startOp gid g op f ((ls.filter (·.run)).map (fun l => laneOp l 0 (l.th.words f.a.toNat 1) [] .sent))).1.advance gid g ls).after)

/-- LWAIT (R212). -/
def execLwait (f : Slot) (s : State) : Result := s.launchQuery 0x0C f
/-- LSTAT (R212). -/
def execLstat (f : Slot) (s : State) : Result := s.launchQuery 0x0D f

/-- The word that LWAIT gives a lane; none while it waits. -/
def State.waitWord (s : State) (launch h : Nat) : Option Nat :=
  let c := s.launchCode h
  if c = 0 || c = 7 then some c else if h % 256 = launch then some 8 else if 5 ≤ c then some c else none

/-- The word that a lane of LWAIT or LSTAT gets now; none while it waits. -/
def State.queryWord (s : State) (o : Op) (l : LaneOp) : Option Nat :=
  let h := (l.b.getD 0 0).toNat
  if o.opc = 0x0C then s.waitWord (((s.block? o.block).map (·.launch)).getD 256) h else some (s.launchCode h)

/-- Lanes of a query that a test picks get their word as soon as there is one, whatever becomes of the entry afterwards (R212). -/
def State.takeWords (s : State) (id : Nat) (pick : LaneOp → Bool) : State :=
  s.updOp id (fun o => { o with lanes := o.lanes.map (fun l =>
    if l.stage == .done || !pick l then l
    else match s.queryWord o l with
      | some w =>
        { l with
          stage := .done
          res := [BitVec.ofNat 32 w] }
      | none => { l with stage := .wait }) })

/-- LWAIT or LSTAT reaches the launch table, and completes once every lane has its word. -/
def State.queryOp (s : State) (id : Nat) (_o : Op) : State :=
  let s1 := s.takeWords id (fun _ => true)
  if (s1.op? id).any (fun o => o.lanes.all LaneOp.ended) then s1.finishOp id else s1

/-- Lanes that wait at the launch table get their word when their launch reaches its final state (R212). -/
def State.settleQueries (s : State) : State :=
  ((s.v.ops.filter (fun p => p.2.opc == 0x0C && p.2.lanes.any (fun l => l.stage == .wait))).map Prod.fst).foldl
    (fun s id => s.takeWords id (fun l => l.stage == .wait)) s

end Sys2Proof.Machine
end

