-- ==== Sys2Proof/Machine/Lines.lean ====
section
/-! DEFINITION. Entering a line (R148, R149, R152, R154, R177), the timers of coves and held threads (R35, R39 to R41, R203), and
TRAPRET and PRIO (R446 to R449). -/

namespace Sys2Proof.Machine

open Sys2Proof

/-! ## Line entry -/

/-- The lanes of a group at the PC being entered. -/
def State.lanesAt (s : State) (g : Group) : List LaneV := s.lanesOf g (slotOf 0)

/-- A group trap at the PC being entered. -/
def State.entryTrap (s : State) (gid : Nat) (g : Group) (c : Cause) : State :=
  s.settleHandler (s.groupTrap gid g (s.lanesAt g) c) gid g

/-- A trap that every lane takes for itself at the PC being entered. -/
def State.entryLanes (s : State) (gid : Nat) (g : Group) (t : Trap) : State :=
  let ls := s.lanesAt g
  s.settleHandler (s.finish gid g ls ⟨[], [], ls.map (fun l => (l.key, t)), []⟩) gid g

/-- The line is at hand: it is entered once the flags of WAIT are zero, and the tags of those flags go (R154). -/
def State.meetWait (s : State) (gid : Nat) (l : BitVec 512) : State :=
  match s.group? gid with
  | none => s
  | some g =>
    let line : Fetched := ⟨lineOf g.pc.toNat, l, g.maskClear (lineWait l)⟩
    let s1 := s.updGroup gid (fun g => { g with line := some line, refetch := false })
    if g.maskClear (lineWait l) then s1.updGroup gid (fun g => g.clearOwed (lineWait l)) else s1.park gid .wait

/-- The checks on a delivered line after its parity: the TARGETS bit where launch entry brings the group here (R152, R178),
then the line word (R149). -/
def State.enterLine (s : State) (gid : Nat) (g : Group) (l : BitVec 512) : State :=
  if g.fresh && !bit (lineTargets l) (slotNo g.pc.toNat) then s.entryLanes gid g ⟨.target, 0, none, false⟩
  else
    let s1 := s.updGroup gid (fun g => { g with fresh := false })
    if !lineWordOk l then s1.entryTrap gid g .illegal else s1.meetWait gid l

/-- What the fetch of the line being entered comes to (R492). `ok` is given the line; `again` is the state where the fetch is
held. -/
def State.entryFetch (s : State) (gid : Nat) (g : Group) (again : State) (ok : State → BitVec 512 → State) : State :=
  let at_ := lineOf g.pc.toNat
  match s.fetch (s.coreOfBlock g.block) (s.ctxOf g.block) at_ with
  | (s1, .error (.page k a)) => s1.groupFault gid g lineOf false ((s1.lanesAt g).map (fun l => (l.key, a, k)))
  | (s1, .error (.poisoned a)) => s1.entryLanes gid g ⟨.poisoned, 0, some a, false⟩
  | (_, .error .held) => again
  | (s1, .ok l) => ok s1 l

/-- A group that is to enter a line now. -/
def State.entering (s : State) (gid : Nat) : Option Group :=
  match s.group? gid with
  | none => none
  | some g =>
    let here := match g.line with | some l => l.entered && l.addr == lineOf g.pc.toNat | none => false
    if g.st == .ready && !here && s.live g.block && !(s.coreOf (s.coreOfBlock g.block)).stopped then some g else none

/-- The copy that the group already holds of the line it is to enter. -/
def Group.heldLine (g : Group) : Option (BitVec 512) :=
  match g.line with
  | some l => if l.addr == lineOf g.pc.toNat then some l.bits else none
  | none => none

/-- LINE_ENTRY of group `sel.x`. -/
def execLineEntry (s : State) : Result :=
  let gid := s.sel.x
  let s0 := s.setCur ⟨gid, none, false, none, 0⟩
  match s0.entering gid with
  | none => .next s
  | some g =>
    match g.heldLine with
    | some l => .next (s0.meetWait gid l)
    | none =>
      .next (s0.entryFetch gid g s0 (fun s1 l =>
        if lineParityOk l then s1.enterLine gid g l
        else
          let at_ := lineOf g.pc.toNat
          let s2 := s1.dropInst (s1.coreOfBlock g.block) (nameAsid (s1.ctxOf g.block).asid at_) at_
          s2.updGroup gid (fun g => { g with refetch := true })))

/-- PARITY_REFETCH of group `sel.x`: the second copy is entered, or the group takes PARITY (R148). -/
def execParityRefetch (s : State) : Result :=
  let gid := s.sel.x
  let s0 := s.setCur ⟨gid, none, false, none, 0⟩
  match s0.entering gid with
  | none => .next s
  | some g =>
    if !g.refetch then .next s
    else
      .next ((s0.updGroup gid (fun g => { g with refetch := false })).entryFetch gid g s0 (fun s1 l =>
        if lineParityOk l then s1.enterLine gid g l else s1.entryTrap gid g .parity))

/-! ## Timers and waits of groups -/

/-- REGROUP_FLAG_WAIT_END of group `sel.x`: its flags are zero, and it files its threads, or issues again what waited
(R35, R344). -/
def execRegroupFlagWaitEnd (s : State) : Result :=
  match s.group? s.sel.x with
  | none => .next s
  | some g =>
    if !(g.parks.contains .regroup) || !s.groupIdle s.sel.x g || !s.live g.block then .next s
    else if g.plan.isSome then .next (s.tryPlan s.sel.x)
    else .next (s.unpark s.sel.x (fun p => p == .regroup))

/-- COVE_AGE_TIMEOUT of cove `sel.x` (R40, R41). -/
def execCoveAgeTimeout (s : State) : Result :=
  match s.group? s.sel.x with
  | none => .next s
  | some g =>
    if s.coveFree g && g.due ≤ s.clock && s.live g.block then .next (s.issueCove s.sel.x) else .next s

/-- YIELD_RELEASE_TIMEOUT of cove `sel.x`: 64 cycles have passed since a YIELD that filed into it (R203). -/
def execYieldReleaseTimeout (s : State) : Result :=
  match s.group? s.sel.x with
  | none => .next s
  | some g =>
    if g.st == .cove && s.live g.block then
      .next ((s.updGroup s.sel.x (fun g =>
        { g with releases := g.releases.map (fun r => if r.due ≤ s.clock then { r with groups := [] } else r) })).checkCoves g.block)
    else .next s

/-- HELD_THREAD_AGE_TIMEOUT of group `sel.x`: in a Backwater wait the PC of the thread that has been held longest becomes current
(R50); a group that is not parked makes it so at its next regrouping point or Backwater wait, which reads the count itself. -/
def execHeldThreadAgeTimeout (s : State) : Result := .next (s.expireHeld s.sel.x)

/-! ## TRAPRET and PRIO -/

/-- Executing lanes of TRAPRET that return: in their handler, with no transaction open (R448). -/
def returning (ls : List LaneV) : List LaneV := ls.filter (fun l => l.run && !l.inTx && l.th.handler)

/-- Threads return from their handlers (R448). In the lower slot of a pair they do so once the higher slot has executed (R161). -/
def State.leaveHandler (s : State) (gid : Nat) (g : Group) (ls : List LaneV) (r : Fin) : After :=
  if s.cur.pair.isSome && s.cur.snap.isNone && r.traps.isEmpty && r.aborts.isEmpty then
    ((s.setCur { s.cur with pair := some (r.next.map (fun p => (p.1, p.2, r.xfer.contains p.1))) }).advance gid g ls).after
  else s.finish gid g ls r

/-- TRAPRET (R448). -/
def execTrapret (f : Slot) (s : State) : Result :=
  s.issue 0xF2 f (fun gid g ls =>
    let go := returning ls
    (s.eachLane go (fun _ t => trapReturn none t)).leaveHandler gid g ls
      ⟨go.map (fun l => (l.key, l.th.resume)), [], [], instrAborts ls⟩)

/-- TRAPRET.TO (R448): a transfer, whose target is checked. -/
def execTrapretTo (f : Slot) (s : State) : Result :=
  s.issue 0xF2 f (fun gid g ls =>
    let c := s.checkTargets (s.coreOfBlock g.block) (s.ctxOf g.block)
      ((returning ls).map (fun l => (l, Target.pc (some (readA f l.th 2)))))
    if checksHeld c.2 then s.held
    else if !(faultedChecks c.2).isEmpty then (c.1.groupFault gid g lineOf false (faultedChecks c.2)).after
    else
      let good := c.2.filter (fun p => p.2.1 == .ok)
      (c.1.eachLane (good.map Prod.fst) (fun _ t => trapReturn none t)).leaveHandler gid g ls
        ⟨good.map (fun p => (p.1.key, BitVec.ofNat 64 p.2.2)), good.map (fun p => p.1.key),
          c.2.filterMap (fun p => (targetTrap p.2.1).map (fun t => (p.1.key, t))), instrAborts ls⟩)

/-- TRAPRET.GETPC (R448). -/
def execTrapretGetpc (f : Slot) (s : State) : Result :=
  s.lanewiseD 0xF2 f 2 (fun _ l => if l.th.handler then l.th.trapPc.toNat else 0)

/-- TRAPRET.GETCAUSE (R448). -/
def execTrapretGetcause (f : Slot) (s : State) : Result :=
  s.lanewiseD 0xF2 f 1 (fun _ l => if l.th.handler then l.th.trapCause.toNat else 0)

/-- TRAPRET.GETADDR (R448). -/
def execTrapretGetaddr (f : Slot) (s : State) : Result :=
  s.lanewiseD 0xF2 f 2 (fun _ l => if l.th.handler then l.th.trapAddr.toNat else 0)

/-- PRIO (R449): the leader's class, capped at CLASS, becomes the block's, and the previous one goes to every executing
lane. -/
def execPrio (f : Slot) (s : State) : Result :=
  s.issue 0xF3 f (fun gid g ls =>
    let run := ls.filter (·.run)
    match run, s.block? g.block, s.record? g.block with
    | l :: _, some b, some r =>
      let s1 := s.updBlock g.block (fun b => { b with cls := min (readA f l.th 1 % 4) r.cls })
      ((s1.eachLane run (fun _ t => t.setVal f.d.toNat 1 b.cls)).advance gid g ls).after
    | _, _, _ => (s.advance gid g ls).after)

end Sys2Proof.Machine
end

