-- ==== Sys2Proof/Machine/Save.lean ====
section
/-! DEFINITION. Context saves and resumes (R25, R31, R57, R246, R347, R380, R381, R387, R403, R435 to R438), and CTX.SAVE and
CTX.LOAD (R446, R447). -/

namespace Sys2Proof.Machine

open Sys2Proof

/-! ## The start of a save -/

/-- Resident blocks of a block's gang, itself among them. -/
def State.gangOf (s : State) (b : Block) : List Nat :=
  (s.v.blocks.filter (fun p => p.2.launch == b.launch && p.2.gang == b.gang && p.2.core.isSome)).map Prod.fst

/-- The threads whose transactions a save aborts with PREEMPT: open, without a ticket, no abort awaiting its answer (R347). -/
def State.preempted (s : State) (blk : Nat) : List Nat :=
  (s.v.threads.filter (fun p => p.2.block == blk && (match p.2.tx with
    | some x => x.ticket.isNone && x.pending.isNone
    | none => false))).map Prod.fst

/-- The block's launch has been killed: its resident blocks are freed, not saved (R422). -/
def State.killedBlock (s : State) (b : Block) : Bool := (s.launchOf b).any (·.killed)

/-- The save of one block begins: the transactions that it ends end together (R347). -/
def State.beginOne (s : State) (blk : Nat) : State :=
  match s.block? blk with
  | none => s
  | some b =>
    if b.core.isNone || b.saving || s.killedBlock b then s
    else (s.asyncAborts ((s.preempted blk).map (fun k => (k, .preempt, 0)))).updBlock blk (fun b => { b with saving := true })

/-- The save of a block begins, and with it that of its gang (R426, R436). -/
def State.beginSave (s : State) (blk : Nat) : State :=
  match s.block? blk with
  | none => s
  | some b => (s.gangOf b).foldl State.beginOne s

/-! ## The end of a save -/

/-- Opcodes whose completion STORE_ACK reports. -/
def ackOp (op : Nat) : Bool := [0x81, 0x83, 0x85, 0x8A].contains op

/-- Opcodes that complete once each of their lanes has ended. -/
def laneDone (o : Op) : Bool :=
  o.lanes.isEmpty || [0x0B, 0x15, 0x80, 0x82, 0x84, 0x86, 0x87, 0x88, 0x89, 0x8B, 0x8F, 0x90, 0xA6, 0xB3, 0xB4, 0xB7, 0xE9, 0xEA].contains o.opc
    || (0x50 ≤ o.opc && o.opc ≤ 0x58) || (o.opc == 0xE8 && Rule.sub o.f == 0)

/-- An instruction of a block being saved that completes before the save does: all its lanes have ended, or it is a FENCE
(R246, R281, R325). -/
def State.mustEnd (s : State) (id : Nat) (o : Op) : Bool :=
  if o.opc = 0xB0 then s.fenceDue id o
  else (ackOp o.opc || laneDone o) && o.lanes.all LaneOp.ended

/-- The save of a block waits for nothing more (R246, R270, R347, R380). A delivery of a copy that a save cancels in its turn is not
waited for (R436): the save of a gang would never end. -/
def State.saveDue (s : State) (blk : Nat) (b : Block) : Bool :=
  let ops := s.v.ops.filter (fun p => p.2.block == blk)
  b.saving && b.core.isSome
    && !s.x.tickets.any (fun t => !t.host && (match s.thread? t.key with | some th => th.block == blk | none => false))
    && !s.v.reqs.any (fun q => q.2.stage != .home && ops.any (fun p => p.1 == q.2.op))
    && !ops.any (fun p => s.mustEnd p.1 p.2)
    && !s.v.ops.any (fun p => s.delivers blk p.2 && !(s.block? p.2.block).any (fun x => x.saving))
    && !s.v.passes.any (fun p => ops.any (fun o => o.1 == p.2.1))
    && !ops.any (fun p => isMatrix p.2.opc && (p.2.served || s.eligible p.1 p.2))

/-- The core writes back and drops its dirty HOME 3 lines of an ASID (R436). -/
def State.dropDirty (s : State) (core asid : Nat) : State :=
  let hit (c : Copy) : Bool := c.agent == core && !c.inst && c.attr.home == 3 && c.attr.asid == asid && c.dirty
  let s1 := (s.m.copies.filter hit).foldl (fun s c => s.doWriteBack ⟨asid, c.va, c.data⟩) s
  s1.setMem { s1.m with copies := s1.m.copies.filter (fun c => !hit c) }

/-- An instruction as its image records it: requests not yet made are made on resume; copies, deliveries and loads start
again, a matrix entry is posted again, an LWAIT asks anew (R214, R246, R380, R387, R436). -/
def recordOp (clock : Nat) (o : Op) : Op :=
  let o1 : Op := { o with
    lanes := o.lanes.map (fun l =>
      { l with
        stage :=
          if l.stage == .sent && (0x80 ≤ o.opc && o.opc ≤ 0x8B || o.opc == 0x8F || o.opc == 0x90 || o.opc == 0xA6) then .ready
          else if o.opc == 0x0C then .sent
          else l.stage
        c := if o.opc == 0xC3 then [] else l.c })
    posted := none
    issued := if o.opc == 0x8B then clock - o.issued else o.issued }
  match o.move with
  | none => o1
  | some m =>
    if o.opc = 0x8C then o1.restart
    else if o.opc = 0x8D || o.opc = 0xC3 then { o1 with move := some { m with wait := m.busy ++ m.wait, busy := [], todo := [] } }
    else o1

/-- The core number under which the range locks of a saved block are kept. -/
def savedCore (blk : Nat) : Nat := 4096 + blk

/-- The instructions of a block are recorded, and its range locks move into its image; locks that its deliveries took in
other cores go, and a receiver that retired meanwhile is freed (R270, R436); a reform is withdrawn (R475). -/
def State.recordOps (s : State) (blk : Nat) : State :=
  let mine := (s.v.ops.filter (fun p => p.2.block == blk)).map Prod.fst
  let into := (s.v.ops.filter (fun p => p.2.block == blk)).flatMap (fun p => match p.2.move with
    | some m => m.busy.filterMap (fun q => (s.receiver p.2 q).map Prod.fst)
    | none => [])
  let s1 := s.setReqs (s.v.reqs.filter (fun q => !mine.contains q.2.op))
  let s2 := s1.setOps (s1.v.ops.map (fun p => if p.2.block == blk then (p.1, recordOp s.clock p.2) else p))
  let s3 := s2.setLocks ((s2.v.locks.filter (fun k => !(mine.contains k.owner && k.dst
      && (s.op? k.owner).any (fun o => o.opc == 0x8D)))).map
    (fun k => if mine.contains k.owner then { k with core := savedCore blk } else k))
  let s4 := (s3.v.ops.filter (fun p => p.2.block == blk && p.2.opc == 0x8C && (Rule.sub p.2.f == 0 || Rule.sub p.2.f == 3))).foldl
    (fun s p => match p.2.move with
      | some m => s.updBlock blk (fun b => b.markRange m.dst m.len false)
      | none => s) s3
  let s5 : State := { s4 with c := Tab.mapv s4.c (fun c => { c with reform := c.reform.filter (fun r => !mine.contains r.op) }) }
  into.foldl (fun s b => if s.v.threads.any (fun p => p.2.block == b) then s else s.retireBlock b) s5

/-- What remains of the aborts of a block's transactions when its save ends (R347): a group that is idle goes through every step of R344,
but that a FAULT awaits its answer; elsewhere step 2 is done, and with it the signature pairs and the commit lock are given up. The
next PCs stand in the group's decision. -/
def State.endAborts (s : State) (blk : Nat) : State :=
  (s.groupsOfBlock blk).foldl (fun s p =>
    p.2.members.foldl (fun s k =>
      match ((s.thread? k).bind (·.tx)).bind (·.pending) with
      | some (c, code) => if c == .fault || !s.groupIdle p.1 p.2 then s.rollBack k else s.abortNow k c code false
      | none => s) s) s

/-- Counts that stop while the block is saved are kept (R39, R41). That the 64 cycles of a YIELD's condition stop with them is the
model's choice: R203 does not say (assumption log 50). -/
def State.freeze (s : State) (blk : Nat) : State :=
  let s1 := s.setThreads (Tab.mapv s.v.threads (fun t =>
    if t.block == blk then { t with held := t.held.map (fun h => { h with since := s.clock - h.since }) } else t))
  s1.setGroups (Tab.mapv s1.v.groups (fun g =>
    if g.block == blk then
      { g with
        plan := g.plan.map (fun p => { p with yield := p.yield.map (fun y => (y.1, s.clock - y.2)) })
        due := g.due - s.clock
        releases := g.releases.map (fun r => { r with due := r.due - s.clock }) }
    else g))

/-- They go on (R41, R437); a transaction that runs again starts its attempt now (R347), and a request that is issued again
reaches its unit now (R381, R387). That a READY group's eligible time counts from the resume is the model's choice: R33 does not
say what a save does to it (assumption log 44). -/
def State.thaw (s : State) (blk : Nat) : State :=
  let s1 := s.setThreads (Tab.mapv s.v.threads (fun t =>
    if t.block == blk then
      { t with
        held := t.held.map (fun h => { h with since := s.clock - h.since })
        tx := t.tx.map (fun x => if x.pending.isNone then { x with start := s.clock } else x) }
    else t))
  let s2 := s1.setGroups (Tab.mapv s1.v.groups (fun g =>
    if g.block == blk then
      { g with
        plan := g.plan.map (fun p => { p with yield := p.yield.map (fun y => (y.1, s.clock - y.2)) })
        due := if g.due = 0 then s.clock - 1 else g.due + s.clock
        since := s.clock
        releases := g.releases.map (fun r => { r with due := r.due + s.clock }) }
    else g))
  s2.setOps (Tab.mapv s2.v.ops (fun o =>
    if o.block == blk then
      { o with
        issued := if o.opc == 0x8B then s.clock - o.issued else o.issued
        arrived := s.clock
        lanes := o.lanes.map (fun l => { l with due := 0 }) }
    else o))

/-! ## The image (R435, R438) -/

/-- Why a page of the save area cannot be written. -/
def saveKind (secure : Bool) (a : Attr) : Option Kind :=
  if a.read && a.write && !a.user && a.home < 2 && a.world == secure then none else some .attr

/-- The first failure among pieces of the save area, each within one page. -/
def State.saveCheck (s : State) (asid : Nat) (secure : Bool) : List (Nat × Nat) → State × Option MemErr
  | [] => (s, none)
  | (va, n) :: rest =>
    match s.translate secure (nameAsid asid va) va with
    | (s1, .error k) => (s1, some (.page k va))
    | (s1, .ok a) =>
      match saveKind secure a with
      | some k => (s1, some (.page k va))
      | none =>
        match s1.paClass (a.frame + (va - a.va)) with
        | .memory off =>
          (match minBy id ((s1.m.poison).filter (fun g => off / 64 ≤ g && g ≤ (off + n - 1) / 64)) with
          | some g => (s1, some (.poisoned (va + (64 * g - off))))
          | none => State.saveCheck s1 asid secure rest)
        | _ => State.saveCheck s1 asid secure rest

/-- The transactions that a write to a range of the save area dooms, each granule at its own home slice (R339). -/
def State.doomedByImage (s : State) (asid va len : Nat) : List Nat :=
  (pieces va len 4096).flatMap (fun p => match (s.translate true (nameAsid asid p.1) p.1).2 with
    | .ok a => s.doomedIn a p.1 p.2
    | .error _ => [])

/-- A write to a range of the save area waits at its home: for a transaction that is being published, or for the holder of the
commit lock (R340, R345). -/
def State.imageHeld (s : State) (asid va len : Nat) : Bool :=
  s.ticketHolds (nameAsid asid va) va len none || s.holderIn (s.doomedByImage asid va len)

/-- Bytes of the save area are written: their contents are the image's own, of which the spec gives no layout (assumption
log 6). -/
def State.writeImage (s : State) (asid va len : Nat) : State :=
  let n := nameAsid asid va
  let s1 := ((s.invalidate n va len).doom (s.doomedByImage asid va len)).snoopHarts n va len none true
  let s2 := s1.setMem { s1.m with images := cutImages s1.m.images n va len ++ [(n, va, va + len, s1.fresh)] }
  { s2 with fresh := s2.fresh + len }

/-- Write a piece of the save area, or kill the launch (R438). -/
def State.saveBytes (s : State) (launch : Nat) (r : Record) (blk va len : Nat) : State × Bool :=
  match s.saveCheck r.asid r.secure (pieces va len 4096) with
  | (s1, none) => (s1.writeImage r.asid va len, true)
  | (s1, some (.page k a)) =>
    (((s1.postReport 2 0 a blk 0xFF true k.code Cause.pageFault.code .nobody).1).killLaunch launch, false)
  | (s1, some (.poisoned a)) =>
    (((s1.postReport 2 0 a blk 0xFF true 0 Cause.poisoned.code .nobody).1).killLaunch launch, false)
  | (s1, some .held) => (s1, true)

/-- Some write of a save waits at its home: of the block's image, or of the Weir contexts. -/
def State.saveHeld (s : State) (r : Record) (image : Nat) : Bool :=
  s.imageHeld r.asid (r.saveBase + 65536 + image * r.imageSize) r.imageSize || s.imageHeld r.asid r.saveBase 65536

/-- Weir contexts of a launch that a Weir holds. -/
def State.weirsOf (s : State) (launch : Nat) : List Nat :=
  (s.f.weirs.filter (fun p => p.2.launch == launch && p.2.state != .free)).map Prod.fst

/-- With the last resident block of a grid, its Weir contexts are saved (R403). -/
def State.saveWeirs (s : State) (launch : Nat) (r : Record) (blk : Nat) : State × Bool :=
  let es := (s.weirsOf launch).filter (fun e => match Tab.look s.f.weirs e with | some w => w.place.isSome | none => false)
  if (s.blocksOf launch).any (fun p => p.1 != blk && p.2.core.isSome) || es.isEmpty then (s, true)
  else
    let r1 := s.saveBytes launch r blk r.saveBase (1024 * es.length)
    if r1.2 then (es.foldl (fun s e => s.updWeir e (fun w => { w with place := none })) r1.1, true) else r1

/-! ## Resuming (R57, R381, R403, R437) -/

/-- Free buddy blocks: offset and size, whole blocks first (R425). -/
def freeBuddies (used : List (Nat × Nat)) : Nat → Nat → Nat → List (Nat × Nat)
  | 0, _, _ => []
  | n + 1, off, size =>
    if !used.any (fun u => off < u.1 + u.2 && u.1 < off + size) then [(off, size)]
    else freeBuddies used n off (size / 2) ++ freeBuddies used n (off + size / 2) (size / 2)

/-- The buddy block that a scratchpad takes: the smallest free block that is large enough, at the lowest offset; one of size 0
for none (R425). -/
def chooseBuddy (used : List (Nat × Nat)) (size : Nat) : Option (Nat × Nat) :=
  if size = 0 then some (0, 0)
  else
    (minBy (fun (p : Nat × Nat) => p.2 * 2 ^ 20 + p.1) ((freeBuddies used 8 0 524288).filter (fun p => size ≤ p.2))).map
      (fun p => (p.1, size))

/-- Blocks resident on a core. -/
def State.blocksOn (s : State) (core : Nat) : List (Nat × Block) := s.v.blocks.filter (fun p => p.2.core == some core)

/-- Buddy blocks in use on a core. -/
def State.buddiesUsed (s : State) (core : Nat) : List (Nat × Nat) :=
  ((s.blocksOn core).map (fun p => p.2.buddy)).filter (fun b => b.2 != 0)

/-- Free chunks of a core, ascending (R23). -/
def State.freeChunks (s : State) (core : Nat) : List Nat :=
  let used := (s.blocksOn core).flatMap (fun p => p.2.chunks)
  (List.range 32).filter (fun c => !used.contains c)

/-- Registers in use on every lane of a core (R24). -/
def State.regsUsed (s : State) (core : Nat) : Nat :=
  ((s.blocksOn core).map (fun p => p.2.chunks.length * s.declared p.1)).foldl (· + ·) 0

/-- Chunks, registers and a buddy block for a block of a launch (R423). -/
def State.roomFor (s : State) (core : Nat) (r : Record) : Bool :=
  decide (r.chunks ≤ (s.freeChunks core).length) && decide (s.regsUsed core + r.chunks * r.regs ≤ 2048)
    && (chooseBuddy (s.buddiesUsed core) (buddySize r.scratch)).isSome

/-- Free hardware contexts of a die's Weir, ascending. -/
def State.freeWeirs (s : State) (die : Nat) : List Nat := (List.range 16).filter (fun k => !s.weirPlaced die k)

/-- A saved block fits a core (R57, R381, R403, R423). -/
def State.fitsSaved (s : State) (core blk : Nat) (b : Block) (r : Record) : Bool :=
  let gs := s.groupsOfBlock blk
  let e := clusterOf core
  s.roomFor core r
    && decide (gs.length ≤ (s.freeRecords core).length)
    && decide (s.covesInUse core + (gs.filter (fun p => p.2.st == .cove)).length ≤ 64)
    && decide ((s.v.locks.filter (fun k => k.core == savedCore blk)).length ≤ s.freeLocks core)
    && (match b.window with | some w => (s.freeRows e w.rows).isSome | none => true)
    && decide ((b.resv.map (·.g)).foldl (· + ·) 0 ≤ s.freeGranules e)
    && decide (b.resv.length ≤ s.freeRecordsAt e)
    && ((s.blocksOf b.launch).any (fun p => p.2.core.isSome)
        || decide ((s.weirsOf b.launch).length ≤ (s.freeWeirs (dieOf core)).length))
    && !s.deliveryInto blk

/-- The records of a block's groups on its new core, lowest first. -/
def State.giveRecords (s : State) : List Nat → List Nat → State
  | g :: gs, r :: rs => State.giveRecords (s.updGroup g (fun x => { x with record := r })) gs rs
  | _, _ => s

/-- Weir contexts are restored into free hardware contexts of a die. -/
def State.placeWeirs (s : State) (die : Nat) : List Nat → List Nat → State
  | e :: es, k :: ks => State.placeWeirs (s.updWeir e (fun w => { w with place := some (die, k) })) die es ks
  | _, _ => s

/-- Answers that came while the block was saved act now, in the order in which they came (R444, R445). -/
def State.lateAnswers (s : State) (blk : Nat) : State :=
  (s.l.reports.filter (fun r => r.answer.isSome)).foldl (fun s r =>
    match r.who with
    | .op id lanes =>
      match s.op? id with
      | some o =>
        if o.block = blk then
          (s.setReports (s.l.reports.filter (fun x => x.id != r.id))).answerOp id lanes (r.answer.getD 0)
        else s
      | none => s
    | _ => s) s

/-- Cycles of a class's slice; 0: none (R433). -/
def State.sliceLen (s : State) (cls : Nat) : Nat := if cls < 3 then bits s.r.slice.toNat (16 * cls) 16 * 4096 else 0

/-- A launch that passes from QUEUED or SAVED to RUNNING starts its slice counter (R434). -/
def State.startSlice (s : State) (i : Nat) : State :=
  s.updLaunch i (fun l =>
    if l.state == .queued || l.state == .saved then
      { l with slice := if s.sliceLen l.record.cls = 0 then none else some (s.clock + s.sliceLen l.record.cls) }
    else l)

/-- A saved block becomes resident on a core that fits it (R437). Coves saved with no count left issue before anything else of the
block (R56). -/
def State.resume (s : State) (core blk : Nat) : State :=
  match s.block? blk, s.record? blk with
  | some b, some r =>
    let e := clusterOf core
    let first := !(s.blocksOf b.launch).any (fun p => p.2.core.isSome)
    let gs := (s.groupsOfBlock blk).map Prod.fst
    let recs := s.freeRecords core
    let buddy := (chooseBuddy (s.buddiesUsed core) (buddySize r.scratch)).getD (0, 0)
    let win := b.window.map (fun w => (⟨e, (s.freeRows e w.rows).getD 0, w.rows⟩ : Window))
    let n := s.newId
    let s1 := n.2.updBlock blk (fun b =>
      { b with
        core := some core
        chunks := (s.freeChunks core).take r.chunks
        buddy := buddy
        window := win
        saving := false
        placed := n.1 })
    let s2 := match b.window, win with
      | some o, some w => s1.setGroups (Tab.mapv s1.v.groups (fun g =>
          if g.block == blk then { g with awbase := g.awbase - o.base + w.base, awlimit := g.awlimit - o.base + w.base } else g))
      | _, _ => s1
    let s3 := s2.giveRecords gs recs
    let s4 := s3.setLocks (s3.v.locks.map (fun k => if k.core == savedCore blk then { k with core := core } else k))
    let s5 := if first then s4.placeWeirs (dieOf core) (s4.weirsOf b.launch) (s4.freeWeirs (dieOf core)) else s4
    let s6 := ((s5.updCore core (fun c => { c with asid := r.asid })).thaw blk).checkCoves blk
    let s7 := s6.lateAnswers blk
    let s8 := (gs.foldl (fun s g => s.tryAnswers g) s7).tryPlans blk
    (((s8.v.ops.filter (fun p => p.2.block == blk && inPo p.2.opc && (opReads p.2.opc || opWrites p.2.opc))).foldl
      (fun s p => s.setting p.2.opc p.1) s8).startSlice b.launch).refreshLaunch b.launch
  | _, _ => s

/-! ## The end of a save, continued -/

/-- A lane remap: the failed slice is recorded, and MODE follows from the number of failures (R55). -/
def CoreSt.remap (c : CoreSt) : CoreSt :=
  { c with
    mode := min 2 c.nfail
    skipA := if c.nfail = 0 then c.slice else c.skipA
    skipB := if c.nfail = 1 then c.slice else c.skipB
    nfail := c.nfail + 1
    stopped := false
    victims := [] }

/-- Resume on a core, in order, each of the blocks saved from it that it fits (R55). A block of a gang is resumed with its gang, under
R426. -/
def State.resumeAll (s : State) (core : Nat) : List Nat → State
  | [] => s
  | blk :: rest =>
    match s.block? blk, s.record? blk, (s.block? blk).bind s.launchOf with
    | some b, some r, some l =>
      let open_ := !l.suspended && !l.killed && !s.l.suspAsids.contains r.asid && !s.l.closedDies.contains (dieOf core)
      State.resumeAll (if b.core.isNone && open_ && r.gangp = 0 && s.fitsSaved core blk b r then s.resume core blk else s) core rest
    | _, _, _ => State.resumeAll s core rest

/-- A core that stopped for a failed lane slice holds no block any more: the remap, then the resumes (R55). -/
def State.remapCore (s : State) (core : Nat) : State :=
  let c := s.coreOf core
  if !c.stopped || c.mode = 2 || !(s.blocksOn core).isEmpty then s
  else
    let s1 := s.updCore core CoreSt.remap
    if (s1.coreOf core).mode < 2 then s1.resumeAll core c.victims else s1

/-- The end of the save of one block. The image of a launch killed meanwhile is discarded (R450). -/
def State.endSave (s : State) (blk : Nat) : State :=
  match s.block? blk, s.record? blk with
  | some b, some r =>
    if !s.saveDue blk b || s.saveHeld r b.image then s
    else
      let core := b.core.getD 0
      let s1 := ((((s.endAborts blk).recordOps blk).freeze blk).dropDirty core r.asid).updBlock blk (fun b => { b with saving := false })
      let w := s1.saveBytes b.launch r blk (r.saveBase + 65536 + b.image * r.imageSize) r.imageSize
      let x := if w.2 then w.1.saveWeirs b.launch r blk else w
      if !x.2 then x.1.remapCore core
      else
        let y := (x.1.updBlock blk (fun b => { b with core := none, chunks := [] })).refreshLaunch b.launch
        (if s.killedBlock b then y.killLaunch b.launch else y).remapCore core
  | _, _ => s

/-- BLOCK_SAVE_COMPLETE of block `sel.x` (R436). -/
def execBlockSaveComplete (s : State) : Result := .next (s.endSave s.sel.x)

/-- LANE_SLICE_FAILURE (R55): the core stops issuing and its blocks are saved; the groups whose registers cannot be read take
LANEFAULT when they next issue. -/
def execLaneSliceFailure (core slice : Nat) (unreadable : List Nat) (s : State) : Result :=
  if 512 ≤ core || 65 ≤ slice || (s.coreOf core).stopped || (s.coreOf core).mode = 2 then .next s
  else
    let vs := (sortBy (fun (p : Nat × Block) => p.2.placed) (s.blocksOn core)).map Prod.fst
    let s1 := s.updCore core (fun c => { c with stopped := true, slice := slice, victims := vs })
    let s2 := s1.setGroups (s1.v.groups.map (fun p =>
      if unreadable.contains p.1 && vs.contains p.2.block then (p.1, { p.2 with laneFault := true }) else p))
    .next ((vs.foldl State.beginSave s2).remapCore core)

/-! ## CTX.SAVE and CTX.LOAD (R447, R456) -/

/-- What a context operation names. -/
inductive CtxTarget where
  | launch (handle : Nat)
  | asid (a : Nat)
  | die (d : Nat)
  deriving DecidableEq, Repr

/-- The target of a form (R446): SUB and the leader's value. -/
def ctxTarget (sub v : Nat) : CtxTarget := if sub = 0 then .launch v else if sub = 1 then .asid (v % 4096) else .die (v % 8)

/-- The target does not exist: STALE or RANGE. -/
def State.ctxRefused (s : State) (t : CtxTarget) : Option Nat :=
  match t with
  | .launch h => if s.launchCode h = 0 || s.launchCode h = 7 then some 1 else none
  | .asid _ => none
  | .die d => if 3 < d then some 3 else none

/-- Suspend or close a target, or clear that; SYS.DIECTL.STATE of a die follows, and an isolated die stays as it is (R487). -/
def State.ctxMark (s : State) (t : CtxTarget) (on : Bool) : State :=
  let put (l : List Nat) (x : Nat) : List Nat := if on then insertNat x l else l.filter (fun y => y != x)
  match t with
  | .launch h => s.updLaunch (h % 256) (fun l => { l with suspended := on })
  | .asid a => { s with l := { s.l with suspAsids := put s.l.suspAsids a } }
  | .die d =>
    let v := (Tab.get s.r.dieCtl d 0).toNat
    if bits v 2 2 = 2 then s
    else
      { s with
        l := { s.l with closedDies := put s.l.closedDies d }
        r := { s.r with dieCtl := Tab.set s.r.dieCtl d (BitVec.ofNat 64 (v / 16 * 16 + (if on then 4 else 0))) } }

/-- The block belongs to a target. -/
def State.ctxHits (s : State) (t : CtxTarget) (blk : Nat) (b : Block) : Bool :=
  match t with
  | .launch h => b.launch == h % 256
  | .asid a => (s.ctxOf blk).asid == a
  | .die d => b.core.any (fun c => dieOf c == d)

/-- The block is excluded for its issuer: its own launch, or for .DIE the issuing block, and with it the rest of its gang, which is
saved only as a whole (R436; that R447 leaves the whole gang out is the model's reading, assumption log 51). -/
def State.ctxOwn (s : State) (t : CtxTarget) (issuer blk : Nat) : Bool :=
  match t with
  | .die _ => (s.block? issuer).any (fun i => (s.gangOf i).contains blk)
  | _ => (s.block? issuer).any (fun i => (s.block? blk).any (fun b => i.launch == b.launch))

/-- Suspend a target and begin to save its blocks: the outcome code and the blocks saved. -/
def State.ctxSave (s : State) (t : CtxTarget) (issuer : Option Nat) : State × Nat × List Nat :=
  match s.ctxRefused t with
  | some c => (s, c, [])
  | none =>
    let hit := (s.v.blocks.filter (fun p => p.2.core.isSome && s.ctxHits t p.1 p.2)).map Prod.fst
    let own := match issuer with | some i => hit.filter (fun b => s.ctxOwn t i b) | none => []
    let go := hit.filter (fun b => !own.contains b)
    (go.foldl State.beginSave (s.ctxMark t true), if own.isEmpty then 0 else 2, go)

/-- Clear a suspension or closure: the outcome code. -/
def State.ctxLoad (s : State) (t : CtxTarget) : State × Nat :=
  match s.ctxRefused t with
  | some c => (s, c)
  | none => (s.ctxMark t false, 0)

/-- CTX.SAVE and CTX.LOAD issue: the code is known, and a save is awaited. -/
def State.ctxIssue (s : State) (op : Nat) (f : Slot) : Result :=
  s.asPrivileged op f (fun s => s.groupWide op f (fun gid g ls l run =>
    let t := ctxTarget (Rule.sub f) (readA f l.th 1)
    let n := s.startOp gid g op f (sentLanes run 0)
    let r := if op = 0xF0 then n.1.ctxSave t (some g.block) else ((n.1.ctxLoad t).1, (n.1.ctxLoad t).2, [])
    ((r.1.updOp n.2 (fun o => { o with tag := r.2.1, move := some ⟨0, 0, 0, r.2.2, [], [], []⟩ })).advance gid g ls).after))

/-- CTX.SAVE.LAUNCH (R447). -/
def execCtxSaveLaunch (f : Slot) (s : State) : Result := s.ctxIssue 0xF0 f
/-- CTX.SAVE.ASID (R447). -/
def execCtxSaveAsid (f : Slot) (s : State) : Result := s.ctxIssue 0xF0 f
/-- CTX.SAVE.DIE (R447). -/
def execCtxSaveDie (f : Slot) (s : State) : Result := s.ctxIssue 0xF0 f
/-- CTX.LOAD.LAUNCH (R447). -/
def execCtxLoadLaunch (f : Slot) (s : State) : Result := s.ctxIssue 0xF1 f
/-- CTX.LOAD.ASID (R447). -/
def execCtxLoadAsid (f : Slot) (s : State) : Result := s.ctxIssue 0xF1 f
/-- CTX.LOAD.DIE (R447). -/
def execCtxLoadDie (f : Slot) (s : State) : Result := s.ctxIssue 0xF1 f

/-- Saves of these blocks are still under way. -/
def State.savesRun (s : State) (blks : List Nat) : Bool := blks.any (fun b => (s.block? b).any (fun x => x.saving))

/-- An outstanding CTX.SAVE or CTX.LOAD completes when its saves have (R447). -/
def State.ctxOp (s : State) (id : Nat) (o : Op) : State :=
  let todo := match o.move with | some m => m.todo | none => []
  if s.savesRun todo then s else s.finishWith id [BitVec.ofNat 32 o.tag]

end Sys2Proof.Machine
end

