-- ==== Sys2Proof/Machine/Place.lean ====
section
/-! DEFINITION. Placement: the pull of a core, gangs, class-3 claims and slices (R30, R423 to R434). -/

namespace Sys2Proof.Machine

open Sys2Proof

/-! ## Which launches a core may place -/

/-- Effective class as a rank: class 3, aged launches, classes 2, 1 and 0 (R429). -/
def Launch.tier (l : Launch) : Nat := if l.record.cls = 3 then 0 else if 255 ≤ l.age then 1 else 4 - l.record.cls

/-- The launch is eligible (R423, R447). -/
def State.eligibleLaunch (s : State) (l : Launch) : Bool :=
  (l.state == .queued || l.state == .running || l.state == .saved) && !l.killed && !l.suspended
    && !s.l.suspAsids.contains l.record.asid

/-- The core places blocks of a class (R53, R55, R427, R447). -/
def State.openCore (s : State) (core cls : Nat) : Bool :=
  let c := s.coreOf core
  decide (c.mode ≤ 1) && !c.stopped && !s.l.closedDies.contains (dieOf core)
    && (cls == 3 || !s.l.claims.any (fun p => p.1 == core))

/-- Another index of the launch is left, with an image slot for it (R423, R435). -/
def State.hasNew (s : State) (i : Nat) (l : Launch) : Bool :=
  decide (l.next < l.record.total) && decide ((s.blocksOf i).length < l.record.imageSlots)

/-- A new block of the launch fits the core (R24, R30, R423); where the grid's Weir contexts are saved, its Weir takes them
too (R403). -/
def State.fitsNew (s : State) (core i : Nat) (l : Launch) : Bool :=
  s.hasNew i l && s.roomFor core l.record && decide (l.record.chunks ≤ (s.freeRecords core).length)
    && ((s.blocksOf i).any (fun p => p.2.core.isSome) || decide ((s.weirsOf i).length ≤ (s.freeWeirs (dieOf core)).length))

/-- Saved blocks of a launch. -/
def State.savedOf (s : State) (i : Nat) : List (Nat × Block) := (s.blocksOf i).filter (fun p => p.2.core.isNone)

/-- A valid hint's Tarn prefers the core's cluster (R423). -/
def State.hinted (s : State) (core : Nat) (r : Record) : Bool :=
  r.hints.any (fun h => bit h 15 && (List.range 4).any (fun k =>
    let p := tdbField (s.tdb (bits h 0 10)) (192 + 8 * k) 8
    bit p 7 && p % 128 == clusterOf core))

/-! ## Placing a block (R23, R30) -/

/-- The lowest image slot that no block of the launch holds (R435). -/
def State.freeImage (s : State) (i n : Nat) : Nat :=
  (lowest n (fun k => !(s.blocksOf i).any (fun p => p.2.image == k))).getD 0

/-- The threads of a new block. -/
def newThreads (blk : Nat) (r : Record) (chunks : List Nat) : Tab Thread :=
  (List.range r.ntid).map (fun t =>
    (threadKey blk t, freshThread blk t (64 * chunks.getD (t / 64) 0 + t % 64) r.entry [] (BitVec.allOnes 16)))

/-- The groups of a new block, one for each chunk, in the lowest free records. -/
def State.addGroups (s : State) (blk : Nat) (r : Record) : List Nat → List Nat → State
  | k :: ks, rec_ :: recs =>
    let n := s.newId
    let members := ((List.range 64).map (fun j => 64 * k + j)).filter (fun t => t < r.ntid)
    let g := { emptyGroup blk rec_ .ready (members.map (threadKey blk)) r.entry (0, 0) s.clock with
      whole := members.length == 64, fresh := true }
    State.addGroups (n.2.setGroups (Tab.set n.2.v.groups n.1 g)) blk r ks recs
  | _, _ => s

/-- A place in a gang: its number, the position, the size and the traffic class (R426). -/
structure GangPlace where
  gang : Nat
  pos : Nat
  size : Nat
  traffic : Nat
  deriving DecidableEq, Repr

/-- The next block of a launch is placed on a core (R23 to R25, R30, R423 to R425). -/
def State.placeNew (s : State) (core i : Nat) (p : GangPlace) : State :=
  match s.launch? i with
  | none => s
  | some l =>
    let r := l.record
    let first := !(s.blocksOf i).any (fun p => p.2.core.isSome)
    let chunks := (s.freeChunks core).take r.chunks
    let n := s.newId
    let b : Block :=
      { launch := i
        index := l.next
        core := some core
        slots := chunks
        chunks := chunks
        scratch := []
        full := []
        buddy := (chooseBuddy (s.buddiesUsed core) (buddySize r.scratch)).getD (0, 0)
        bars := (List.range 16).map (fun k => (k, ⟨false, 0, r.ntid, [], [], none⟩))
        pool := []
        image := s.freeImage i r.imageSlots
        cls := r.cls
        gang := p.gang
        gangPos := p.pos
        gangSize := p.size
        traffic := p.traffic
        window := none
        rows := []
        resv := []
        saving := false
        placed := n.1 }
    let recs := s.freeRecords core
    let s1 := n.2.setBlocks (Tab.set n.2.v.blocks n.1 b)
    let s2 := s1.setThreads (s1.v.threads ++ newThreads n.1 r chunks)
    let s3 := (s2.addGroups n.1 r (List.range r.chunks) recs).updCore core (fun c => { c with asid := r.asid })
    let s4 := if first then s3.placeWeirs (dieOf core) (s3.weirsOf i) (s3.freeWeirs (dieOf core)) else s3
    let s5 := (s4.startSlice i).updLaunch i (fun l => { l with next := l.next + 1, age := 0 })
    s5.refreshLaunch i

/-- A new gang number. -/
def State.newGang (s : State) : Nat × State := (s.l.gangNext, { s with l := { s.l with gangNext := s.l.gangNext + 1 } })

/-- Blocks of a launch that are unplaced or saved. -/
def State.waitingBlocks (s : State) (i : Nat) (l : Launch) : Nat := (l.record.total - l.next) + (s.savedOf i).length

/-- A claim of the launch on the core ends with the placement of its block; where another core took the block, the claims made last
end, so that a launch never claims more cores than it has blocks to place (R427; which of them end: assumption log 57). -/
def State.endClaim (s : State) (core i : Nat) : State :=
  let rest := s.l.claims.filter (fun c => c != (core, i))
  let most := ((s.launch? i).map (s.waitingBlocks i)).getD 0
  let kept := (rest.filter (fun c => c.2 == i)).take most
  { s with l := { s.l with claims := rest.filter (fun c => c.2 != i || kept.contains c) } }

/-! ## Gangs (R426) -/

/-- The saved gang of a launch that resumes next: its blocks in order of position. A gang is saved once none of its blocks
is resident. -/
def State.savedGang (s : State) (i : Nat) : List Nat :=
  let bs := s.blocksOf i
  match bs.find? (fun p => !bs.any (fun q => q.2.gang == p.2.gang && q.2.core.isSome)) with
  | none => []
  | some p => (sortBy (fun (q : Nat × Block) => q.2.gangPos) (bs.filter (fun q => q.2.gang == p.2.gang))).map Prod.fst

/-- Members that the next gang of a launch needs: a saved gang whole, else its preferred size or the indices that remain. -/
def State.gangNeed (s : State) (i : Nat) (l : Launch) : Nat :=
  match s.savedGang i with
  | [] => min (l.record.gangp + 1) (l.record.total - l.next)
  | bs => bs.length

/-- A gang launch has a gang to place or resume. -/
def State.gangWants (s : State) (i : Nat) (l : Launch) : Bool :=
  decide (0 < l.record.gangp) && s.eligibleLaunch l && (!(s.savedGang i).isEmpty || s.hasNew i l)

/-- Members of the next gang that image slots allow (R423, R435); none where they do not make up its fallback size. -/
def State.gangAim (s : State) (i : Nat) (l : Launch) : Nat :=
  match s.savedGang i with
  | [] =>
    let aim := min (s.gangNeed i l) (l.record.imageSlots - (s.blocksOf i).length)
    if aim < min (l.record.gangf + 1) (l.record.total - l.next) then 0 else aim
  | bs => bs.length

/-- Member `k` of the next gang fits the core. -/
def State.memberFits (s : State) (core i k : Nat) (saved : List Nat) : Bool :=
  match s.launch? i with
  | none => false
  | some l =>
    s.openCore core l.record.cls &&
      (match saved with
       | [] => s.fitsNew core i l
       | bs => match s.block? (bs.getD k 0) with
         | some b => s.fitsSaved core (bs.getD k 0) b l.record
         | none => false)

/-- Member `k` takes its place. -/
def State.memberTake (s : State) (core i k : Nat) (saved : List Nat) (p : GangPlace) : State :=
  match saved with
  | [] => (s.placeNew core i { p with pos := k }).endClaim core i
  | bs => (s.resume core (bs.getD k 0)).endClaim core i

/-- Members 0, 1, … take the given cores in order. -/
def State.takeAll (s : State) (i : Nat) (saved : List Nat) (p : GangPlace) : Nat → List Nat → State
  | _, [] => s
  | k, c :: cs => State.takeAll (s.memberTake c i k saved p) i saved p (k + 1) cs

/-- Reservations that still hold, in order: each member fits once those before it have their place. -/
def State.holding (s : State) (i : Nat) (saved : List Nat) : Nat → List Nat → List Nat
  | _, [] => []
  | k, c :: cs =>
    if s.memberFits c i k saved then c :: State.holding (s.memberTake c i k saved ⟨0, 0, 1, 0⟩) i saved (k + 1) cs
    else State.holding s i saved k cs

/-- The state as it would be with every reservation of gangs of the given rank or a better one taken. -/
def State.withReserved (s : State) (tier : Nat) : State :=
  s.l.gangs.foldl (fun t w =>
    match s.launch? w.launch with
    | some l => if l.tier ≤ tier then t.takeAll w.launch (s.savedGang w.launch) ⟨0, 0, 1, 0⟩ 0 w.cores else t
    | none => t) s

/-- The state as a launch of a rank finds it: what gangs of that rank or a better one reserved is taken (R426). -/
def State.reservedView (s : State) (tier : Nat) : State := if s.l.gangs.isEmpty then s else s.withReserved tier

/-- Place up to `n` new blocks of a launch without gangs (R424), reservations of equal or better rank left alone. -/
def State.placeSome (s : State) (core i : Nat) : Nat → State
  | 0 => s
  | n + 1 =>
    match s.launch? i with
    | none => s
    | some l =>
      if !(s.reservedView l.tier).fitsNew core i l then s
      else
        let g := s.newGang
        State.placeSome ((g.2.placeNew core i ⟨g.1, 0, 1, l.record.pclass⟩).endClaim core i) core i n

/-- Blocks of a record that a core could take besides what it holds (R426). -/
def State.capacity (s : State) (core : Nat) (r : Record) : Nat :=
  if !s.openCore core r.cls || r.chunks = 0 then 0
  else
    let sz := buddySize r.scratch
    let pads := if sz = 0 then 32 else ((freeBuddies (s.buddiesUsed core) 8 0 524288).map (fun p => p.2 / sz)).foldl (· + ·) 0
    min (min ((s.freeChunks core).length / r.chunks) ((2048 - s.regsUsed core) / (r.chunks * max 1 r.regs)))
      (min ((s.freeRecords core).length / r.chunks) pads)

/-- The die with the most free capacity for a launch, the lowest on a tie. -/
def State.bestDie (s : State) (r : Record) : Nat :=
  let cap (d : Nat) : Nat := ((List.range 128).map (fun k => s.capacity (128 * d + k) r)).foldl (· + ·) 0
  (minBy (fun (p : Nat × Nat) => 65536 - p.2) ((List.range 4).map (fun d => (d, cap d)))).elim 0 Prod.fst

/-- The launches in the order of R423, gangs apart. -/
def State.launchOrder (s : State) : List (Nat × Launch) :=
  sortBy (fun (p : Nat × Launch) =>
    (((p.2.tier * 2 + (if (s.savedOf p.1).isEmpty then 1 else 0)) * 2 ^ 64 + min p.2.rank (2 ^ 64 - 1)) * 256) + p.1) s.l.launches

/-- Change the reservations of a launch's gang. -/
def State.updGang (s : State) (i : Nat) (h : GangWait → GangWait) : State :=
  { s with l := { s.l with gangs := s.l.gangs.map (fun w => if w.launch == i then h w else w) } }

/-- A gang of a class reserves on the die. -/
def State.reserving (s : State) (die cls : Nat) : Bool :=
  s.l.gangs.any (fun w => w.die == die && (s.launch? w.launch).any (fun l => l.record.cls == cls))

/-- A gang launch without reservations gets the die that suits it best, if no gang of its class holds reservations there. -/
def State.assignDie (s : State) (die : Nat) : List (Nat × Launch) → State
  | [] => s
  | (i, l) :: rest =>
    if s.gangWants i l && !s.l.gangs.any (fun w => w.launch == i) && !s.reserving die l.record.cls && s.bestDie l.record == die then
      State.assignDie { s with l := { s.l with gangs := s.l.gangs ++ [⟨i, die, [], s.clock⟩] } } die rest
    else State.assignDie s die rest

/-- Place a gang on its reserved cores: the first `size` of them (R426); its claims end (R427). -/
def State.placeGang (s : State) (i size traffic : Nat) (cores : List Nat) : State :=
  let saved := s.savedGang i
  let s0 : State := { s with l := { s.l with
    gangs := s.l.gangs.filter (fun w => w.launch != i)
    claims := s.l.claims.filter (fun c => c.2 != i) } }
  let g := s0.newGang
  (g.2.takeAll i saved ⟨g.1, 0, size, traffic⟩ 0 (cores.take size)).updLaunch i (fun l => { l with age := 0 })

/-- One gang of a die looks at a core: what no longer holds is released, the core's capacity is reserved while more is needed,
and a complete gang is placed. -/
def State.gangLook (s : State) (core : Nat) (w : GangWait) : State :=
  match s.launch? w.launch with
  | none => s
  | some l =>
    if !s.gangWants w.launch l || s.l.closedDies.contains w.die then
      { s with l := { s.l with gangs := s.l.gangs.filter (fun x => x.launch != w.launch) } }
    else
      let saved := s.savedGang w.launch
      let others : State := State.withReserved { s with l := { s.l with gangs := s.l.gangs.filter (fun x => x.launch != w.launch) } } l.tier
      let held := others.holding w.launch saved 0 (w.cores ++ List.replicate 16 core)
      let need := s.gangNeed w.launch l
      let cores := held.take need
      if cores.length = need then s.placeGang w.launch need l.record.pclass cores
      else s.updGang w.launch (fun w => { w with cores := cores })

/-- GANG_RESERVATION of core `sel.x`. -/
def State.reserveGangs (s : State) (core : Nat) : State :=
  let s1 := s.assignDie (dieOf core) s.launchOrder
  let ws := s1.l.gangs.filter (fun w => w.die == dieOf core)
  let rank (w : GangWait) : Nat := match s1.launch? w.launch with | some l => l.tier | none => 9
  (sortBy rank ws).foldl (fun s w => s.gangLook core w) s1

def execGangReservation (s : State) : Result := if s.sel.x < 512 then .next (s.reserveGangs s.sel.x) else .next s

/-- The gang of a launch has waited for its fallback (R426). -/
def State.fallbackDue (s : State) (i : Nat) : Bool :=
  match s.l.gangs.find? (fun w => w.launch == i), s.launch? i with
  | some w, some l =>
    s.gangWants i l && (s.savedGang i).isEmpty && decide (w.since + bits s.r.gangctl.toNat 0 16 * 64 ≤ s.clock)
      && decide (min (l.record.gangf + 1) (l.record.total - l.next) ≤ w.cores.length)
  | _, _ => false

/-- GANG_FALLBACK_TIMEOUT of entry `sel.x`: placed with size F and traffic class FCLASS, surplus reservations released. -/
def execGangFallbackTimeout (s : State) : Result :=
  match s.l.gangs.find? (fun w => w.launch == s.sel.x), s.launch? s.sel.x with
  | some w, some l =>
    if !s.fallbackDue s.sel.x then .next s
    else
      let size := min (l.record.gangf + 1) (l.record.total - l.next)
      let others : State := State.withReserved { s with l := { s.l with gangs := s.l.gangs.filter (fun x => x.launch != s.sel.x) } } l.tier
      let cores := others.holding s.sel.x [] 0 w.cores
      if size ≤ cores.length then .next (s.placeGang s.sel.x size l.record.fclass cores)
      else .next (s.updGang s.sel.x (fun w => { w with cores := cores }))
  | _, _ => .next s

/-! ## The pull of a core (R423, R424, R429) -/

/-- What a launch offers a core: a saved block that fits, or a new one. -/
inductive Offer where
  | saved (blk : Nat)
  | new
  deriving DecidableEq, Repr

/-- The offer of a launch without gangs to a core, reservations of equal or better rank left alone. -/
def State.offer (s : State) (core i : Nat) (l : Launch) : Option Offer :=
  if l.record.gangp ≠ 0 || !s.eligibleLaunch l || !s.openCore core l.record.cls then none
  else
    let t := s.reservedView l.tier
    match (s.savedOf i).find? (fun p => t.fitsSaved core p.1 p.2 l.record) with
    | some p => some (.saved p.1)
    | none => if t.fitsNew core i l then some .new else none

/-- Offers to a core with their place in the order of R423. -/
def State.offers (s : State) (core : Nat) : List (Nat × Offer × Nat) :=
  s.l.launches.filterMap (fun p =>
    match s.offer core p.1 p.2 with
    | none => none
    | some o =>
      let a := match o with | .saved _ => 0 | .new => 1
      let h := if s.hinted core p.2.record then 0 else 1
      some (p.1, o, (((p.2.tier * 2 + a) * 2 + h) * 2 ^ 64 + min p.2.rank (2 ^ 64 - 1)) * 256 + p.1))

/-- A launch of class 0 to 2 ages by 1 (R429). -/
def Launch.older (l : Launch) : Launch := if l.record.cls = 3 then l else { l with age := min 255 (l.age + 1) }

/-- BLOCK_PLACEMENT of core `sel.x`: what the core has freed goes to the gangs that reserve on its die first (R426). -/
def State.pull (s0 : State) (core : Nat) : State :=
  let s := s0.reserveGangs core
  let os := s.offers core
  match minBy (fun p => p.2.2) os with
  | none => s
  | some (i, o, _) =>
    let s1 := s.setLaunches (s.l.launches.map (fun p =>
      if p.1 != i && os.any (fun q => q.1 == p.1) then (p.1, p.2.older) else p))
    match o with
    | .saved blk => ((s1.resume core blk).updLaunch i (fun l => { l with age := 0 })).endClaim core i
    | .new => s1.placeSome core i 8

def execBlockPlacement (s : State) : Result := if s.sel.x < 512 then .next (s.pull s.sel.x) else .next s

/-! ## Class-3 claims (R427) -/

/-- A block of the launch, saved or new, fits the core. -/
def State.fitsAny (s : State) (core i : Nat) (l : Launch) : Bool :=
  s.openCore core l.record.cls &&
    ((s.savedOf i).any (fun p => s.fitsSaved core p.1 p.2 l.record) || s.fitsNew core i l)

/-- A block of the launch takes its place there, a saved one first. -/
def State.takeAny (s : State) (core i : Nat) (l : Launch) : State :=
  match (s.savedOf i).find? (fun p => s.fitsSaved core p.1 p.2 l.record) with
  | some p => s.resume core p.1
  | none => s.placeNew core i ⟨0, 0, 1, 0⟩

/-- The blocks of a core that give way to class 3, in order: lowest class first, most recently placed first. -/
def State.yielding (s : State) (core : Nat) : List Nat :=
  (sortBy (fun (p : Nat × Block) => p.2.cls * 2 ^ 64 + (2 ^ 64 - 1 - min p.2.placed (2 ^ 64 - 1)))
    ((s.blocksOn core).filter (fun p => p.2.cls < 3))).map Prod.fst

/-- The state as it would be with a block away. -/
def State.without (s : State) (blk : Nat) : State :=
  s.updBlock blk (fun b =>
    { b with
      core := none
      chunks := [] })

/-- The shortest run of those blocks whose saving makes the core fit; none where nothing helps. -/
def State.victims (fits : State → Nat → Bool) (core : Nat) : State → List Nat → Option (List Nat)
  | s, [] => if fits s core then some [] else none
  | s, b :: bs => if fits s core then some [] else (State.victims fits core (s.without b) bs).map (fun v => b :: v)

/-- The core that needs the fewest blocks saved, the lowest on a tie, with those blocks. -/
def State.bestClaim (s : State) (fits : State → Nat → Bool) (cores : List Nat) : Option (Nat × List Nat) :=
  minBy (fun p => p.2.length * 512 + p.1) (cores.filterMap (fun c =>
    if s.openCore c 3 && !s.l.claims.any (fun p => p.1 == c) then
      match State.victims fits c s (s.yielding c) with
      | some (b :: bs) => some (c, b :: bs)
      | _ => none
    else none))

/-- The claims for blocks `k`, `k + 1`, … of a launch, each on a core of its own: the cores with the blocks to be saved there. -/
def claimsFor (fits : Nat → State → Nat → Bool) (take : Nat → State → Nat → State) :
    Nat → Nat → List Nat → State → List (Nat × List Nat)
  | 0, _, _, _ => []
  | n + 1, k, cores, s =>
    match s.bestClaim (fits k) cores with
    | none => []
    | some (c, vs) =>
      (c, vs) :: claimsFor fits take n (k + 1) (cores.filter (fun x => x != c)) (take k (vs.foldl State.without s) c)

/-- Blocks of a launch without gangs that no core can take as it stands: saved ones that fit nowhere, and new ones beyond the
capacity of all cores and the image slots. -/
def State.shortOf (s : State) (i : Nat) (l : Launch) : Nat :=
  let fit := (s.savedOf i).filter (fun p =>
    (List.range 512).any (fun c => s.openCore c l.record.cls && s.fitsSaved c p.1 p.2 l.record))
  let room := ((List.range 512).map (fun c => s.capacity c l.record)).foldl (· + ·) 0
  let new := min (l.record.total - l.next) (l.record.imageSlots - (s.blocksOf i).length)
  ((s.savedOf i).length - fit.length) + (new - (room - fit.length))

/-- Cores of a die that the next gang of a launch could take as they stand, one for each member. -/
def State.gangRoom (s : State) (i : Nat) (l : Launch) (die : Nat) : List Nat :=
  let need := s.gangAim i l
  (s.holding i (s.savedGang i) 0 ((List.range 128).flatMap (fun c => List.replicate need (128 * die + c)))).take need

/-- The launch cannot be placed for want of resources: some core is open to it and it has a block with an image slot, or a gang with
image slots for its size or its fallback size, and no core, or no die, has the room (R423, R434). -/
def State.stuck (s : State) (i : Nat) (l : Launch) : Bool :=
  (List.range 512).any (fun c => s.openCore c l.record.cls)
    && (if l.record.gangp = 0 then
      (!(s.savedOf i).isEmpty || s.hasNew i l) && !(List.range 512).any (fun c => s.fitsAny c i l)
    else (List.range 4).all (fun d => decide ((s.gangRoom i l d).length < s.gangAim i l)))

/-- What a gang claims on a die: the cores that its members can take as they stand, and the claims for the others; none where
they do not make up the gang. -/
def State.dieClaim (s : State) (i : Nat) (l : Launch) (die : Nat) : Option (List Nat × List (Nat × List Nat)) :=
  let saved := s.savedGang i
  let room := s.gangRoom i l die
  let short := s.gangAim i l - room.length
  let t := s.takeAll i saved ⟨0, 0, 1, 0⟩ 0 room
  let cs := claimsFor (fun k s c => s.memberFits c i k saved) (fun k s c => s.memberTake c i k saved ⟨0, 0, 1, 0⟩) short room.length
    ((List.range 128).map (fun c => 128 * die + c)) t
  if cs.length = short then some (room, cs) else none

/-- The die that a gang claims: the one on which the fewest blocks have to be saved, the lowest on a tie. -/
def State.bestDieClaim (s : State) (i : Nat) (l : Launch) : Option (Nat × List Nat × List (Nat × List Nat)) :=
  minBy (fun p => (p.2.2.flatMap Prod.snd).length * 4 + p.1) ((List.range 4).filterMap (fun d =>
    if s.reserving d l.record.cls then none else (s.dieClaim i l d).map (fun c => (d, c))))

/-- Cores are claimed: other gangs lose what they reserved there (R450), and the blocks that stand in the way are saved. -/
def State.makeClaims (s : State) (i : Nat) (cs : List (Nat × List Nat)) : State :=
  let gangs := s.l.gangs.map (fun w =>
    if w.launch != i then { w with cores := w.cores.filter (fun c => !cs.any (fun p => p.1 == c)) } else w)
  (cs.flatMap Prod.snd).foldl State.beginSave
    { s with l := { s.l with
        claims := s.l.claims ++ cs.map (fun p => (p.1, i))
        gangs := gangs } }

/-- Claimed cores on which the launch's block still does not fit and no save runs: what stands in the way there is saved. -/
def State.pressClaims (s : State) (i : Nat) (l : Launch) : State :=
  let mine := s.l.gangs.find? (fun w => w.launch == i)
  let held := (mine.map (·.cores)).getD []
  let fits (t : State) (c : Nat) : Bool :=
    if l.record.gangp = 0 then t.fitsAny c i l else t.memberFits c i held.length (t.savedGang i)
  let t := s.reservedView l.tier
  let slow := (s.l.claims.filter (fun p =>
    p.2 == i && !held.contains p.1 && !fits t p.1 && !(s.blocksOn p.1).any (fun b => b.2.saving))).map Prod.fst
  (slow.flatMap (fun c => (State.victims fits c t (s.yielding c)).getD [])).foldl State.beginSave s

/-- CLASS3_CLAIM of entry `sel.x`: cores are claimed for the blocks that no core can take, for a gang on one die. -/
def State.claim (s : State) (i : Nat) : State :=
  match s.launch? i with
  | none => s
  | some l =>
    if l.record.cls ≠ 3 || !s.eligibleLaunch l then s
    else if s.l.claims.any (fun p => p.2 == i) && l.record.gangp ≠ 0 then s.pressClaims i l
    else if l.record.gangp ≠ 0 then
      if !s.gangWants i l || !s.stuck i l then s
      else
        let others : State := { s with l := { s.l with gangs := s.l.gangs.filter (fun w => w.launch != i) } }
        match (others.reservedView l.tier).bestDieClaim i l with
        | none => s
        | some (d, room, cs) =>
          let since := ((s.l.gangs.find? (fun w => w.launch == i)).map (·.since)).getD s.clock
          let s1 : State := { others with l := { others.l with gangs := others.l.gangs ++ [⟨i, d, room, since⟩] } }
          s1.makeClaims i cs
    else
      let s1 := s.pressClaims i l
      let t := s1.reservedView l.tier
      let open_ := (s1.l.claims.filter (fun p => p.2 == i && !t.fitsAny p.1 i l)).length
      s1.makeClaims i (claimsFor (fun _ s c => s.fitsAny c i l) (fun _ s c => s.takeAny c i l) (t.shortOf i l - open_) 0
        (List.range 512) t)

def execClass3Claim (s : State) : Result := .next (s.claim s.sel.x)

/-! ## Slices (R434) -/

/-- Some other launch whose effective class is that of this one's class or higher is eligible and cannot be placed for want of
resources. -/
def State.waitsFor (s : State) (i : Nat) (l : Launch) : Bool :=
  s.l.launches.any (fun p =>
    p.1 != i && s.eligibleLaunch p.2 && decide (p.2.tier ≤ 4 - l.record.cls) && decide (0 < s.waitingBlocks p.1 p.2) && s.stuck p.1 p.2)

/-- SLICE_EXPIRY of entry `sel.x`. -/
def State.expire (s : State) (i : Nat) : State :=
  match s.launch? i with
  | none => s
  | some l =>
    match l.slice with
    | none => s
    | some t =>
      if s.clock < t || l.state != .running then s
      else
        let len := s.sliceLen l.record.cls
        let again (l : Launch) : Launch := { l with slice := if len = 0 then none else some (s.clock + len) }
        if s.waitsFor i l then
          let hit := ((s.blocksOf i).filter (fun p => p.2.core.isSome)).map Prod.fst
          (hit.foldl State.beginSave s).updLaunch i (fun l => { again l with rank := s.clock })
        else s.updLaunch i again

def execSliceExpiry (s : State) : Result := .next (s.expire s.sel.x)

end Sys2Proof.Machine
end

