-- ==== Sys2Proof/Machine/Faults.lean ====
section
/-! DEFINITION. The fault ring and its answers (R441 to R445), the writes of SYS.FAULTQ and SYS.RECLAIM (R441, R443, R477), and
SYS.CTXCMD (R456). -/

namespace Sys2Proof.Machine

open Sys2Proof

/-! ## Answers (R444, R445) -/

/-- The outstanding TYPE 0 report that a SEQ names. -/
def State.reportOf (s : State) (seq : Nat) : Option Report :=
  s.l.reports.find? (fun r => r.type == 0 && r.seq == some seq && r.answer.isNone && r.who != .nobody)

def State.dropReport (s : State) (id : Nat) : State := s.setReports (s.l.reports.filter (fun r => r.id != id))

/-- REPLAY (0) or DELIVER (1): acted on now, or kept, in the order of the answers, in the image of a block that is saved or being
saved (R445). -/
def State.answer (s : State) (seq action : Nat) : State :=
  match s.reportOf seq with
  | none => s
  | some r =>
    match r.who with
    | .op id lanes =>
      if (s.op? id).any (fun o => s.live o.block) then (s.dropReport r.id).answerOp id lanes action
      else s.setReports (s.l.reports.filter (fun x => x.id != r.id) ++ [{ r with answer := some action }])
    | .group gid => (s.dropReport r.id).answerGroup gid r.id action
    | .nobody => s

/-- KILL: the launch of the record (R422). -/
def State.answerKill (s : State) (seq : Nat) : State :=
  match s.reportOf seq with
  | none => s
  | some r =>
    match s.launch? (r.handle % 256) with
    | some l => if l.gen = r.handle / 256 && !l.state.final then (s.dropReport r.id).killLaunch (r.handle % 256) else s.dropReport r.id
    | none => s.dropReport r.id

/-- FAULTACK_REPLAY. -/
def execFaultackReplay (seq : Word) (s : State) : Result := .next (s.answer seq.toNat 0)
/-- FAULTACK_DELIVER. -/
def execFaultackDeliver (seq : Word) (s : State) : Result := .next (s.answer seq.toNat 1)
/-- FAULTACK_KILL. -/
def execFaultackKill (seq : Word) (s : State) : Result := .next (s.answerKill seq.toNat)

/-! ## Records (R441 to R443) -/

/-- The 256 bits of a fault record (R442). -/
def Report.bits (r : Report) (seq : Nat) : Nat :=
  r.lanes % 2 ^ 64 * 2 ^ 192 + r.addr % 2 ^ 64 * 2 ^ 128 + seq * 2 ^ 96 + r.handle * 2 ^ 64 + r.asid * 2 ^ 52 + r.core * 2 ^ 42
    + r.group * 2 ^ 34 + (if r.write then 2 ^ 33 else 0) + 2 ^ 32 + r.type * 2 ^ 29 + r.code % 65536 * 256 + r.cause

/-- The physical address of the slot at the write index. -/
def State.faultSlot (s : State) : Nat := Sys2Proof.Machine.bits s.r.faultq.toNat 12 40 * 4096 + 32 * s.l.fqIndex

/-- The device reads the byte of the ring's next slot that holds VALID. -/
def State.faultPeek (s : State) : List Byte × State := s.ringBytes (s.faultSlot + 4) 1

/-- The ring's next slot is free: its VALID bit is 0. -/
def State.faultRoom (s : State) : Bool := !bit (ofBytes s.faultPeek.1) 0

/-- FAULT_RECORD_WRITE: the oldest waiting report is written (R441 to R443). -/
def State.writeRecord (s0 : State) : State :=
  match s0.l.reports.find? (fun r => r.seq.isNone) with
  | none => s0
  | some r =>
    let q := s0.r.faultq.toNat
    let s := s0.faultPeek.2
    if !bit q 0 then s0
    else if !s0.faultRoom then s
    else
      let seq := s.l.fqSeq
      let slots := 128 * 2 ^ min (Sys2Proof.Machine.bits q 1 4) 9
      let s1 := (s.ctrlWrite ⟨false, true⟩ s.faultSlot (bytesOf 32 (r.bits seq))).raiseIntr 0
      let s2 : State := { s1 with l := { s1.l with
        fqSeq := if seq = 0xFFFFFFFF then 1 else seq + 1
        fqIndex := if s.l.fqIndex + 1 = slots then 0 else s.l.fqIndex + 1 } }
      if r.type = 0 && r.who != .nobody then
        s2.setReports (s2.l.reports.map (fun x => if x.id == r.id then { x with seq := some seq } else x))
      else s2.dropReport r.id

def execFaultRecordWrite (s : State) : Result := .next s.writeRecord

/-- FAULTQ_WRITE: BASE, SIZE and EN; the write index returns to 0 (R441, R443). -/
def execFaultqWrite (value : Dword) (s : State) : Result :=
  let s1 := s.setSys { s.r with faultq := value &&& 0x000FFFFFFFFFF01F#64 }
  .next { s1 with l := { s1.l with fqIndex := 0 } }

/-- RECLAIM_WRITE: as FAULTQ; LOST is read-only (R477, R443). -/
def execReclaimWrite (value : Dword) (s : State) : Result :=
  let s1 := s.setSys { s.r with reclaim := (value &&& 0x000FFFFFFFFFF01F#64) ||| (s.r.reclaim &&& 0xFFF0000000000000#64) }
  .next { s1 with l := { s1.l with rcIndex := 0 } }

/-! ## SYS.CTXCMD (R456) -/

/-- The last operation still runs. -/
def State.ctxRuns (s : State) : Bool := s.savesRun s.r.ctxBusy

/-- A write of SYS.CTXCMD; ignored while an operation runs. -/
def State.ctxCommand (s : State) (load : Bool) (t : CtxTarget) : State :=
  if s.ctxRuns then s
  else
    let r := if load then ((s.ctxLoad t).1, (s.ctxLoad t).2, []) else s.ctxSave t none
    r.1.setSys { r.1.r with ctxStatus := r.2.1, ctxBusy := r.2.2 }

/-- CTXCMD_SAVE_LAUNCH (R456). -/
def execCtxcmdSaveLaunch (target : Word) (s : State) : Result := .next (s.ctxCommand false (ctxTarget 0 target.toNat))
/-- CTXCMD_SAVE_ASID (R456). -/
def execCtxcmdSaveAsid (target : Word) (s : State) : Result := .next (s.ctxCommand false (ctxTarget 1 target.toNat))
/-- CTXCMD_SAVE_DIE (R456). -/
def execCtxcmdSaveDie (target : Word) (s : State) : Result := .next (s.ctxCommand false (ctxTarget 2 target.toNat))
/-- CTXCMD_LOAD_LAUNCH (R456). -/
def execCtxcmdLoadLaunch (target : Word) (s : State) : Result := .next (s.ctxCommand true (ctxTarget 0 target.toNat))
/-- CTXCMD_LOAD_ASID (R456). -/
def execCtxcmdLoadAsid (target : Word) (s : State) : Result := .next (s.ctxCommand true (ctxTarget 1 target.toNat))
/-- CTXCMD_LOAD_DIE (R456). -/
def execCtxcmdLoadDie (target : Word) (s : State) : Result := .next (s.ctxCommand true (ctxTarget 2 target.toNat))

end Sys2Proof.Machine
end

