-- ==== Sys2Proof/Machine/Coll.lean ====
section
/-! DEFINITION. The collective unit (R466 to R475): COLL.ALLRED, COLL.BCAST, COLL.WAIT and COLL.REFORM, the rounds and reforms that
they start, and the writes of SYS.COMM. -/

namespace Sys2Proof.Machine

open Sys2Proof

/-! ## SYS.COMM and the slots (R466) -/

def commOff (n : Nat) : Nat := 0x200 + 8 * n
def State.comm (s : State) (n : Nat) : Nat := (Tab.get s.r.other (commOff n) commReset).toNat
def State.commAlive (s : State) (n : Nat) : Nat := bits (s.comm n) 16 8
def State.commSuspect (s : State) (n : Nat) : Nat := bits (s.comm n) 8 8
def State.commEpoch (s : State) (n : Nat) : Nat := bits (s.comm n) 48 16

/-- The register's value from its fields. -/
def commValue (epoch timeout alive suspect members : Nat) : Nat :=
  epoch % 65536 * 2 ^ 48 + timeout % 65536 * 2 ^ 32 + alive % 256 * 65536 + suspect % 256 * 256 + members % 256

def State.setComm (s : State) (n v : Nat) : State := s.setOther (commOff n) v

/-- TIMEOUT in core cycles: 100 ns are 300 of them (R466, R488). -/
def State.commTimeout (s : State) (n : Nat) : Nat := max 1 (bits (s.comm n) 32 16) * 300

def State.slot (s : State) (n : Nat) : CollSlot := Tab.get s.c n ⟨1, [], none, [], none⟩
def State.updSlot (s : State) (n : Nat) (h : CollSlot → CollSlot) : State := { s with c := Tab.set s.c n (h (s.slot n)) }

/-- Rounds of a slot that have not ended. -/
def CollSlot.open_ (c : CollSlot) : List Round := c.rounds.filter (fun r => r.outcome.isNone)

/-- The reform in progress: its instruction is outstanding in a resident block (R475). -/
def State.reforming (s : State) (n : Nat) : Option Reform :=
  (s.slot n).reform.filter (fun r => match s.op? r.op with | some o => s.live o.block | none => false)

/-- Rank of a package in a ring (R466). -/
def rankIn (ring p : Nat) : Nat := popCount p ring

/-- A round, a reform or a WAIT of a slot is outstanding in the package (R466, R491). -/
def State.commBusy (s : State) (n : Nat) : Bool :=
  !(s.slot n).open_.isEmpty || (s.reforming n).isSome
    || s.v.ops.any (fun p => p.2.opc == 0xF6 && p.2.lanes.any (fun l => bits (l.b.getD 0 0).toNat 28 4 == n))

/-- COMM_MEMBERS_WRITE of a slot: MEMBERS, unless a round, a reform or a WAIT of it is outstanding; TIMEOUT (R466, R491). -/
def execCommMembersWrite (slot : Nat) (value : Dword) (s : State) : Result :=
  if 16 ≤ slot then .next s
  else
    let v := value.toNat
    let old := s.comm slot
    if s.commBusy slot then
      .next (s.setComm slot (commValue (bits old 48 16) (bits v 32 16) (bits old 16 8) (bits old 8 8) old))
    else
      .next ((s.setComm slot (commValue 0 (bits v 32 16) (Nat.land (v % 256) s.r.alive) 0 v)).updSlot slot (fun _ => ⟨1, [], none, [], none⟩))

/-! ## What the unit sends -/

/-- A message to other packages: kind (0 part, 1 result, 2 abort, 3 set), slot and number, data. -/
def State.tell (s : State) (mask kind slot seq : Nat) (data : List Byte) : State :=
  { s with out := s.out ++ ((onesOf 8 mask).filter (fun p => p != s.r.pkg)).map (fun p =>
    (⟨.link, 4096 + kind, p, bytesOf 1 slot ++ bytesOf 2 seq ++ data⟩ : Out)) }

/-- A round's header as it goes with each part (R469; the form of the message is the model's: assumption log 26). -/
def headerBytes (h : CollHeader) : List Byte :=
  bytesOf 1 (if h.bcast then 1 else 0) ++ bytesOf 1 h.op ++ bytesOf 1 h.ty ++ bytesOf 4 h.len ++ bytesOf 1 h.root

/-- A part of a round, of its input or of its result, goes out with the round's header (R469, R470). -/
def State.tellPart (s : State) (mask : Nat) (result : Bool) (n : Nat) (r : Round) (b : List Byte) : State :=
  s.tell mask (if result then 1 else 0) n r.seq (headerBytes r.header ++ b)

/-! ## The life of a round -/

def State.updRound (s : State) (n seq : Nat) (h : Round → Round) : State :=
  s.updSlot n (fun c => { c with rounds := c.rounds.map (fun r => if r.seq == seq && r.outcome.isNone then h r else r) })

/-- A round ends at this member. -/
def State.endRound (s : State) (n seq code suspect : Nat) : State :=
  s.updRound n seq (fun r => { r with outcome := some (code, suspect), input := [], parts := [] })

/-- Packages named silent are added to SUSPECT. -/
def State.addSuspect (s : State) (n mask : Nat) : State :=
  let v := s.comm n
  s.setComm n (commValue (bits v 48 16) (bits v 32 16) (bits v 16 8) (Nat.lor (bits v 8 8) mask) v)

/-- The member's own access to its buffer faults or meets poison: FAULT, and an ABORT to the others (R472). -/
def State.roundFault (s : State) (n : Nat) (r : Round) : State :=
  (s.tell r.ring 2 n r.seq (bytesOf 2 256)).endRound n r.seq 4 (s.commSuspect n)

/-- The agent as which the unit accesses a round's buffer (R460). -/
def Round.agent (r : Round) : Agent := ⟨708, ⟨r.asid, r.priv, r.secure, 0⟩, none⟩

def Round.members (r : Round) : Nat := popCount 8 r.ring

/-- First granule of a segment (R469). -/
def segStart (granules n j : Nat) : Nat := j * granules / n

/-- Byte offset and length of the segment of a rank. -/
def Round.seg (r : Round) (j : Nat) : Nat × Nat :=
  let g := r.header.len / 16
  let lo := segStart g r.members j
  (16 * lo, 16 * (segStart g r.members (j + 1) - lo))

/-- Write granules of a buffer in order; none faults, and a held line leaves everything as it was. -/
def State.putGranules (s : State) (ag : Agent) (va : Nat) : Nat → List Byte → Option (State × Bool)
  | 0, _ => some (s, true)
  | n + 1, b =>
    match s.store ag va (b.take 16) with
    | (s1, .ok _) => State.putGranules s1 ag (va + 16) n (b.drop 16)
    | (_, .error .held) => none
    | (s1, .error _) => some (s1, false)

/-- Write a part of the result; a fault ends the round. -/
def State.putResult (s : State) (n : Nat) (r : Round) (off : Nat) (b : List Byte) : Option (State × Bool) :=
  match s.putGranules r.agent (r.addr + off) (b.length / 16) b with
  | none => none
  | some (s1, true) => some (s1, true)
  | some (s1, false) => some (s1.roundFault n r, false)

/-- Elements of a byte string. -/
def elemsOf (w : Nat) : Nat → List Byte → List Nat
  | 0, _ => []
  | n + 1, b => ofBytes (b.take w) :: elemsOf w n (b.drop w)

/-- Combine two inputs element by element (R257, R258, R469). -/
def combineBytes (op ty : Nat) (a b : List Byte) : List Byte :=
  let w := tyWidth ty / 8
  let n := a.length / w
  (List.zipWith (combineAtomic op ty false) (elemsOf w n a) (elemsOf w n b)).flatMap (bytesOf w)

/-- Inputs of a segment in rank order: the member's own, and those received. -/
def Round.inputs (r : Round) (own : Nat) : List (List Byte) :=
  let sg := r.seg (rankIn r.ring own)
  (onesOf 8 r.ring).filterMap (fun p =>
    if p = own then some ((r.input.drop sg.1).take sg.2)
    else (r.parts.find? (fun (q : Nat × Bool × List Byte) => q.1 == p && !q.2.1)).map (fun q => q.2.2))

/-- Results of a member's own segment: the inputs combined in ascending rank. -/
def Round.result (r : Round) (own : Nat) : List Byte :=
  match r.inputs own with
  | [] => []
  | x :: xs => xs.foldl (combineBytes r.header.op r.header.ty) x

/-- Parts of a kind that have been received. -/
def Round.got (r : Round) (result : Bool) : Nat := (r.parts.filter (fun p => p.2.1 == result)).length

/-- The round is complete at this member. -/
def Round.complete (r : Round) (own : Nat) : Bool :=
  if r.header.bcast then r.header.root == own || r.got true == 1
  else r.got false + 1 == r.members && r.got true + 1 == r.members

/-- End a round that is complete with DONE. -/
def State.roundDone (s : State) (n seq : Nat) : State :=
  match (s.slot n).rounds.find? (fun r => r.seq == seq && r.outcome.isNone) with
  | none => s
  | some r => if r.complete s.r.pkg then s.endRound n seq 0 0 else s

/-! ## Issue and acceptance (R467, R468) -/

/-- COLL.ALLRED and COLL.BCAST issue: the address operand is checked at issue (R83, R467). -/
def State.collStart (s : State) (op : Nat) (f : Slot) : Result :=
  s.groupWide op f (fun gid g ls l run =>
    let addr := l.th.val f.a.toNat 2
    let len := l.th.val f.b.toNat 1
    if addr % 16 ≠ 0 then s.leaderTrap gid g ls l ⟨.misaligned, 0, some addr, true⟩
    else if len % 16 ≠ 0 || 16777216 < len then s.leaderTrap gid g ls l ⟨.copyLen, 0, none, false⟩
    else
      let n := s.startOp gid g op f ((sentLanes run addr).map (fun x => { x with b := [BitVec.ofNat 32 len], c := [l.th.reg f.c.toNat] }))
      let s1 := n.1.advance gid g ls
      (if 2 ^ 57 ≤ addr then s1.faultLanes n.2 [l.lane] .nonCanon true else s1).after)

/-- COLL.ALLRED (R467). -/
def execCollAllred (f : Slot) (s : State) : Result := s.collStart 0xF4 f
/-- COLL.BCAST (R467). -/
def execCollBcast (f : Slot) (s : State) : Result := s.collStart 0xF5 f

/-- The token of R468. -/
def tokenOf (slot epoch seq : Nat) : Nat := slot % 16 * 2 ^ 28 + epoch % 4096 * 65536 + seq % 65536

/-- The refusal code of a slot, in the order of R468; a reform accepted in this cycle counts first (R491). -/
def State.collRefusal (s : State) (n : Nat) : Option Nat :=
  if (s.reforming n).isSome || (s.slot n).reformed == some s.clock then some 3
  else if !bit (s.commAlive n) s.r.pkg then some 1
  else if 16 ≤ (s.slot n).open_.length then some 2
  else none

/-- The first steps of an accepted round: its input is read and sent. -/
def State.beginRound (s : State) (n : Nat) (r : Round) (input : List Byte) : State :=
  let s1 := s.updRound n r.seq (fun r => { r with sent := true, input := input })
  if r.header.bcast then
    (if r.header.root = s.r.pkg then (s1.tellPart r.ring true n r input).roundDone n r.seq else s1)
  else
    let s2 := (onesOf 8 r.ring).foldl (fun (s : State) p =>
      let sg := r.seg (rankIn r.ring p)
      s.tellPart (2 ^ p) false n r ((input.drop sg.1).take sg.2)) s1
    s2.roundDone n r.seq

/-- A round reaches the unit. -/
def State.collAccept (s : State) (id : Nat) (o : Op) : State :=
  match o.leader with
  | none => s.finishOp id
  | some l =>
    let cw := (l.c.getD 0 0).toNat
    let n := cw % 16
    let len := (l.b.getD 0 0).toNat
    if l.stage != .sent || !s.flowReady id { o with lanes := [l] } then s
    else if 2 ^ 57 ≤ l.ea then s.faultLanes id [l.lane] .nonCanon true
    else
      match s.collRefusal n with
      | some code => s.finishWith id [BitVec.ofNat 32 (tokenOf n code 0)]
      | none =>
        let c := s.ctxOf o.block
        let seq := (s.slot n).next
        let ring := s.commAlive n
        let h : CollHeader :=
          { bcast := o.opc == 0xF5
            op := if o.opc = 0xF5 then 0 else Rule.sub o.f
            ty := if o.opc = 0xF5 then 0 else Rule.ty o.f
            len := len
            root := if o.opc = 0xF5 then bits cw 8 3 else 0 }
        let r : Round :=
          { epoch := s.commEpoch n
            seq := seq
            header := h
            ring := ring
            addr := l.ea
            asid := c.asid
            priv := c.priv
            secure := c.secure
            sent := false
            due := s.clock + s.commTimeout n
            input := []
            parts := []
            outcome := none }
        let take (s : State) : State :=
          (s.updSlot n (fun x =>
            { x with
              next := if seq = 65535 then 1 else seq + 1
              rounds := x.rounds.filter (fun q => q.seq != seq) ++ [r] })).finishWith id
            [BitVec.ofNat 32 (tokenOf n (s.commEpoch n) seq)]
        if h.bcast && !bit ring h.root then (take s).endRound n seq 6 0
        else if h.bcast && h.root != s.r.pkg then (take s).beginRound n r []
        else
          match s.load r.agent l.ea len with
          | (s1, .ok b) => (take s1).beginRound n r b
          | (_, .error .held) => s
          | (s1, .error _) => (take s1).roundFault n r

/-! ## What the other members send (R469 to R472) -/

/-- A message waits at its slot. -/
def State.keepMail (s : State) (n : Nat) (m : CollMail) : State := s.updSlot n (fun c => { c with mail := c.mail ++ [m] })

/-- A number that one of the next 16 rounds of a slot takes here: another member may have accepted that round already (R468). -/
def State.roundAhead (s : State) (n seq : Nat) : Bool :=
  1 ≤ seq && seq ≤ 65535 && decide ((seq + 65535 - (s.slot n).next) % 65535 < 16)

/-- The open round that a message names. -/
def State.openRound (s : State) (n seq : Nat) : Option Round := (s.slot n).open_.find? (fun r => r.seq == seq && r.sent)

/-- An input part of an ALLRED: with the last one the member's own segment is computed, written and sent. -/
def State.takeInput (s : State) (n sender : Nat) (r : Round) (b : List Byte) : Option State :=
  let r1 := { r with parts := r.parts ++ [(sender, false, b)] }
  if r1.got false + 1 ≠ r1.members then some (s.updRound n r.seq (fun _ => r1))
  else
    let sg := r1.seg (rankIn r1.ring s.r.pkg)
    let res := r1.result s.r.pkg
    match s.putResult n r1 sg.1 res with
    | none => none
    | some (s1, true) => some (((s1.updRound n r.seq (fun _ => r1)).tellPart r1.ring true n r1 res).roundDone n r1.seq)
    | some (s1, false) => some s1

/-- A part of the result: it is written as it arrives. -/
def State.takeResult (s : State) (n sender : Nat) (r : Round) (off : Nat) (b : List Byte) : Option State :=
  match s.putResult n r off b with
  | none => none
  | some (s1, true) => some ((s1.updRound n r.seq (fun r => { r with parts := r.parts ++ [(sender, true, [])] })).roundDone n r.seq)
  | some (s1, false) => some s1

/-- A part for an open round: none where the write that it makes is held. Parts that the round does not expect have no effect. -/
def State.takePart (s : State) (n : Nat) (r : Round) (sender : Nat) (h : CollHeader) (result : Bool) (b : List Byte) : Option State :=
  let own := s.r.pkg
  if sender = own || !bit r.ring sender || r.parts.any (fun p => p.1 == sender && p.2.1 == result) then some s
  else if h != r.header then some (s.endRound n r.seq 2 0)
  else if r.header.bcast then
    (if result && sender = r.header.root && own != r.header.root && b.length = r.header.len then s.takeResult n sender r 0 b else some s)
  else
    let sg := r.seg (rankIn r.ring (if result then sender else own))
    if b.length ≠ sg.2 then some s else if result then s.takeResult n sender r sg.1 b else s.takeInput n sender r b

/-- A part arrives: it waits for a round that is still to be accepted here, or for its write. -/
def State.collPart (s : State) (n seq sender : Nat) (h : CollHeader) (result : Bool) (b : List Byte) : State :=
  let mail : CollMail := .part seq sender h result b
  match s.openRound n seq with
  | none => if s.roundAhead n seq then s.keepMail n mail else s
  | some r => (s.takePart n r sender h result b).getD (s.keepMail n mail)

/-- COLL_PART_RECEIVED. -/
def execCollPartReceived (slot seq sender : Nat) (header : CollHeader) (result : Bool) (part : List Byte) (s : State) : Result :=
  .next (s.collPart slot seq sender header result part)

/-- A round of this epoch that has ended here. -/
def State.endedRound (s : State) (n seq : Nat) : Bool :=
  (s.slot n).rounds.any (fun r => r.seq == seq && r.epoch == s.commEpoch n && r.outcome.isSome)

/-- An ABORT arrives: PEERLOST with the silent members, or ABORTED after another member's FAULT (R472). It waits for a round that is
still to be accepted here; where the round has ended here, the members it names join SUSPECT (R491). -/
def State.collAbort (s : State) (n seq : Nat) (silent : BitVec 8) (fault : Bool) : State :=
  let s1 := if fault then s else s.addSuspect n silent.toNat
  match s.openRound n seq with
  | none =>
    if s.roundAhead n seq then s1.keepMail n (.abort seq silent fault) else if s.endedRound n seq then s1 else s
  | some r => s1.endRound n r.seq (if fault then 5 else 1) (s1.commSuspect n)

/-- COLL_ABORT_RECEIVED. -/
def execCollAbortReceived (slot seq : Nat) (silent : BitVec 8) (fault : Bool) (s : State) : Result :=
  .next (s.collAbort slot seq silent fault)

/-- Members whose part is missing. -/
def Round.silent (r : Round) (own : Nat) : Nat :=
  let lacks (p : Nat) (result : Bool) : Bool := !r.parts.any (fun q => q.1 == p && q.2.1 == result)
  maskOf ((onesOf 8 r.ring).filter (fun p =>
    p != own && (if r.header.bcast then p == r.header.root && lacks p true else lacks p false || lacks p true)))

/-- COLL_TIMEOUT of round `sel.y` of slot `sel.x` (R472). A member whose result is missing is silent only where every input part
has arrived or its own has not. -/
def execCollTimeout (s : State) : Result :=
  match s.openRound s.sel.x s.sel.y with
  | none => .next s
  | some r =>
    if s.clock < r.due then .next s
    else
      let noInput := maskOf ((onesOf 8 r.ring).filter (fun p => p != s.r.pkg && !r.parts.any (fun q => q.1 == p && !q.2.1)))
      let silent := if !r.header.bcast && noInput != 0 then noInput else r.silent s.r.pkg
      let s1 := s.addSuspect s.sel.x silent
      .next ((s1.tell r.ring 2 s.sel.x r.seq (bytesOf 2 silent)).endRound s.sel.x r.seq 1 (s1.commSuspect s.sel.x))

/-- A package is lost: the rounds that count it end with PEERLOST (R465, R472). -/
def State.loseRounds (s : State) (q : Nat) : State :=
  (List.range 16).foldl (fun (s : State) n =>
    ((s.slot n).open_.filter (fun r => bit r.ring q)).foldl (fun (s : State) r =>
      let s1 := s.addSuspect n (2 ^ q)
      s1.endRound n r.seq 1 (s1.commSuspect n)) s) s

/-! ## COLL.WAIT (R473) -/

/-- COLL.WAIT issues with the leader's token. -/
def State.collWaitIssue (s : State) (f : Slot) : Result :=
  s.groupWide 0xF6 f (fun gid g ls l run =>
    ((s.startOp gid g 0xF6 f ((sentLanes run 0).map (fun x => { x with b := [l.th.reg f.a.toNat] }))).1.advance gid g ls).after)

/-- COLL.WAIT (R473). -/
def execCollWait (f : Slot) (s : State) : Result := s.collWaitIssue f
/-- COLL.WAIT.S (R473). -/
def execCollWaitS (f : Slot) (s : State) : Result := s.collWaitIssue f

/-- The status word of the round that a token names; none while it runs. -/
def State.roundWord (s : State) (token : Nat) : Option Nat :=
  let n := bits token 28 4
  if token % 65536 = 0 || bits token 16 12 ≠ s.commEpoch n % 4096 then some 3
  else
    match (s.slot n).rounds.find? (fun r => r.seq == token % 65536) with
    | some r => r.outcome.map (fun o => o.2 * 256 + o.1)
    | none => none

/-- An outstanding COLL.WAIT ends once its round has. -/
def State.collWaitOp (s : State) (id : Nat) (o : Op) : State :=
  match o.leader with
  | none => s.finishOp id
  | some l =>
    match s.roundWord (l.b.getD 0 0).toNat with
    | none => s
    | some w =>
      if Rule.sub o.f = 1 || w % 256 = 0 then s.finishWith id [BitVec.ofNat 32 w]
      else ((s.trapLanes id [l.lane] (fun _ => ⟨.peerLost, 0, none, false⟩)).finishOp id).tryPlans o.block

/-! ## COLL.REFORM (R474) -/

/-- COLL.REFORM issues with the leader's slot. -/
def execCollReform (f : Slot) (s : State) : Result :=
  s.groupWide 0xF7 f (fun gid g ls l run =>
    ((s.startOp gid g 0xF7 f ((sentLanes run 0).map (fun x => { x with b := [l.th.reg f.c.toNat] }))).1.advance gid g ls).after)

/-- The end of a reform with the set S. -/
def State.endReform (s : State) (n : Nat) (r : Reform) : State :=
  let v := s.comm n
  let member := bit r.set s.r.pkg
  let s1 := if member then s.setComm n (commValue (bits v 48 16 + 1) (bits v 32 16) r.set 0 v) else s
  let s2 := s1.updSlot n (fun c =>
    { next := if member then 1 else c.next
      rounds := c.rounds.map (fun q => if q.outcome.isNone then { q with outcome := some (3, 0), input := [], parts := [] } else q)
      reform := none
      mail := c.mail.filter (fun m => match m with | .set _ _ => true | _ => false)
      reformed := c.reformed })
  let word := (if member then 0 else 1) + s2.commAlive n * 256 + s2.commEpoch n * 65536
  s2.finishWith r.op [BitVec.ofNat 32 word]

/-- Carry a reform on: where every set of an exchange is in (`late`: those missing count as silent), the next exchange begins or
the reform ends. -/
def State.stepReform (s : State) (n : Nat) (late : Bool) : Nat → State
  | 0 => s
  | k + 1 =>
    match s.reforming n with
    | none => s
    | some r =>
      let others := (onesOf 8 r.set).filter (fun p => p != s.r.pkg)
      let missing := others.filter (fun p => !r.got.any (fun q => q.1 == p))
      if !missing.isEmpty && !late then s
      else
        let met := (r.got.filter (fun q => others.contains q.1)).foldl (fun m q => Nat.land m q.2) r.set
        let next := Nat.xor met (Nat.land met (maskOf missing))
        if (next = r.set && r.got.all (fun q => q.2 == r.set)) || 64 ≤ r.count + 1 then s.endReform n { r with set := next }
        else
          let s1 := s.updSlot n (fun c =>
            { c with reform := some { r with set := next, got := [], count := r.count + 1, due := s.clock + s.commTimeout n } })
          State.stepReform (s1.tell next 3 n 0 (bytesOf 1 next)) n false k

/-- A reform begins. -/
def State.collReformOp (s : State) (id : Nat) (o : Op) : State :=
  match o.leader with
  | none => s.finishOp id
  | some l =>
    let n := (l.b.getD 0 0).toNat % 16
    if (s.reforming n).isSome then s
    else
      let set := Nat.xor (s.commAlive n) (Nat.land (s.commAlive n) (s.commSuspect n))
      let r : Reform := ⟨id, set, [], 0, s.clock + s.commTimeout n⟩
      ((s.updSlot n (fun c =>
        { c with
          reform := some r
          reformed := some s.clock })).tell set 3 n 0 (bytesOf 1 set)).stepReform n false 65

/-- The set that a package sends for an exchange arrives: it waits for this member's reform, or for its next exchange. -/
def State.collSet (s : State) (n sender set : Nat) : State :=
  match s.reforming n with
  | none => if sender != s.r.pkg && bit (s.commAlive n) sender then s.keepMail n (.set sender set) else s
  | some r =>
    if sender = s.r.pkg || !bit r.set sender then s
    else if r.got.any (fun q => q.1 == sender) then s.keepMail n (.set sender set)
    else (s.updSlot n (fun c => { c with reform := some { r with got := r.got ++ [(sender, set)] } })).stepReform n false 65

/-- REFORM_EXCHANGE. -/
def execReformExchange (slot sender : Nat) (set : BitVec 8) (s : State) : Result := .next (s.collSet slot sender set.toNat)

/-- What a message that waits comes to now. -/
def State.openMail (s : State) (n : Nat) : CollMail → State
  | .part seq sender h result b => s.collPart n seq sender h result b
  | .abort seq silent fault => s.collAbort n seq silent fault
  | .set sender set => s.collSet n sender set

/-- Messages that waited at a slot, in their order. -/
def State.settleSlotMail (s : State) (n : Nat) : State :=
  (s.slot n).mail.foldl (fun s m => s.openMail n m) (s.updSlot n (fun c => { c with mail := [] }))

/-- Messages that waited at the collective unit. -/
def State.settleMail (s : State) : State :=
  ((s.c.filter (fun p => !p.2.mail.isEmpty)).map Prod.fst).foldl State.settleSlotMail s

/-- REFORM_EXCHANGE_TIMEOUT of slot `sel.x`: packages that sent no set within TIMEOUT leave it. -/
def execReformExchangeTimeout (s : State) : Result :=
  match s.reforming s.sel.x with
  | none => .next s
  | some r => if r.due ≤ s.clock then .next (s.stepReform s.sel.x true 65) else .next s

/-- A collective instruction reaches the unit. -/
def State.collOp (s : State) (id : Nat) (o : Op) : State :=
  match o.opc with
  | 0xF6 => s.collWaitOp id o
  | 0xF7 => s.collReformOp id o
  | _ => s.collAccept id o

end Sys2Proof.Machine
end

