-- ==== Sys2Proof/Machine/Complete.lean ====
section
/-! DEFINITION. VARIABLE_LATENCY_COMPLETE and STORE_ACK: outstanding instructions reach their unit, or complete (R153, R248). -/

namespace Sys2Proof.Machine

open Sys2Proof

/-- An outstanding instruction of a resident block that all of its parts have been done for completes. -/
def State.endOp (s : State) (id : Nat) (o : Op) : State :=
  if o.lanes.all LaneOp.ended then (s.finishOp id).tryPlans o.block else s

/-- A unit takes up an instruction that has reached it: opcodes served whole. -/
def State.unitOp (s : State) (id : Nat) (o : Op) : State :=
  match o.opc with
  | 0x0C => s.queryOp id o
  | 0x0D => s.queryOp id o
  | 0x8E => s.discardOp id
  | 0xA0 => if o.tag = 0 then s.submitTarn id else s
  | 0xA1 => if o.tag = 0 then s.submitTarn id else s
  | 0xA2 => if o.tag = 0 then s.submitTarn id else s
  | 0xA3 => if o.tag = 0 then s.submitTarn id else s
  | 0xA4 => if o.tag = 0 then s.submitTarn id else s
  | 0xF0 => s.ctxOp id o
  | 0xF1 => s.ctxOp id o
  | _ => if 0xE0 ≤ o.opc && o.opc ≤ 0xE8 then s.flowOp id o else if 0xF4 ≤ o.opc && o.opc ≤ 0xF7 then s.collOp id o else s

/-- The block of an outstanding instruction is resident. -/
def State.residentOp (s : State) (o : Op) : Bool := (s.block? o.block).any (fun b => b.core.isSome)

/-- VARIABLE_LATENCY_COMPLETE of instruction `sel.x`. -/
def State.complete (s : State) (id : Nat) : State :=
  match s.op? id with
  | none => s
  | some o =>
    if !s.residentOp o then s
    else if o.opc = 0xB0 && !o.lanes.isEmpty then
      (if o.lanes.all (fun l => s.fenceMet id o l) then (s.finishOp id).tryPlans o.block else s)
    else if laneDone o && !ackOp o.opc then s.endOp id o
    else if s.going id o then s.unitOp id o
    else s

def execVariableLatencyComplete (s : State) : Result := .next (s.stilled (s.complete s.sel.x))

/-- STORE_ACK of instruction `sel.x`: its home, controller or L1 has acknowledged every lane (R248, R325). -/
def execStoreAck (s : State) : Result :=
  match s.op? s.sel.x with
  | none => .next s
  | some o => if ackOp o.opc && s.residentOp o then .next (s.endOp s.sel.x o) else .next s

end Sys2Proof.Machine
end

