-- ==== Sys2Proof/Machine/Exchange.lean ====
section
/-! DEFINITION. Lane exchange: opcodes 0x68 to 0x70 (R299 to R304, R79, R80). -/

namespace Sys2Proof.Machine

open Sys2Proof

/-- What a lane supplies: its A if it holds a thread at the PC, whatever its guard, else zero (R299). -/
def suppliedBy (f : Slot) (ls : List LaneV) (src : Nat) : Nat :=
  match ls.find? (fun l => l.lane == src) with
  | some l => readA f l.th (wOf f)
  | none => 0

/-- An exchange: each executing lane writes what a source lane supplies. -/
def State.exchange (s : State) (op : Nat) (f : Slot) (src : Group → LaneV → Nat) : Result :=
  s.acrossLanes op f (fun g ls l t => t.setVal f.d.toNat (wOf f) (suppliedBy f ls (src g l)))

/-- QSWAP (R300). -/
def execQswap (f : Slot) (s : State) : Result := s.exchange 0x68 f (fun _ l => Nat.xor l.lane (Rule.sub f + 1))
/-- QBCAST (R300). -/
def execQbcast (f : Slot) (s : State) : Result := s.exchange 0x69 f (fun _ l => l.lane / 4 * 4 + Rule.sub f)

/-- Lanes of a segment (R301). -/
def segment (f : Slot) : Nat := 64 / 2 ^ Rule.sub f

/-- SHFL (R301). -/
def execShfl (f : Slot) (s : State) : Result :=
  s.exchange 0x6A f (fun g l => l.lane / segment f * segment f + readB1 f g l.th % segment f)
/-- SHFLUP (R301). -/
def execShflup (f : Slot) (s : State) : Result :=
  s.exchange 0x6B f (fun g l => let k := readB1 f g l.th; if k ≤ l.lane % segment f then l.lane - k else l.lane)
/-- SHFLDN (R301). -/
def execShfldn (f : Slot) (s : State) : Result :=
  s.exchange 0x6C f (fun g l => let k := readB1 f g l.th; if l.lane % segment f + k < segment f then l.lane + k else l.lane)
/-- SHFLX (R301). -/
def execShflx (f : Slot) (s : State) : Result :=
  s.exchange 0x6D f (fun g l => l.lane / segment f * segment f + Nat.xor (l.lane % segment f) (readB1 f g l.th % segment f))

/-- The A values of the executing lanes. -/
def runValues (f : Slot) (ls : List LaneV) : List (Nat × Nat) :=
  (ls.filter (·.run)).map (fun l => (l.lane, readA f l.th (wOf f)))

/-- VOTE.UNI (R302). -/
def execVoteUni (f : Slot) (s : State) : Result :=
  s.acrossLanes 0x6E f (fun _ ls l t =>
    t.setPred f.d.toNat ((runValues f ls).all (fun p => p.2 == readA f l.th (wOf f))))
/-- VOTE.MATCH (R302). -/
def execVoteMatch (f : Slot) (s : State) : Result :=
  s.acrossLanes 0x6E f (fun _ ls l t =>
    t.setVal f.d.toNat 2 (maskOf (((runValues f ls).filter (fun p => p.2 == readA f l.th (wOf f))).map Prod.fst)))

/-! ## Reductions over the lanes -/

/-- The identity of R79 for an operation (SUB) and type. -/
def identityOf (sub ty : Nat) : Nat :=
  let fm := fmtOf ty
  let fl := Rule.isWide ty
  match sub with
  | 0 => if fl then 2 ^ (fm.bits - 1) else 0
  | 1 => codeOf fm (.ofInt 1)
  | 2 => if fl then codeOf fm (.inf false) else wrap (tyWidth ty) (tyMax ty)
  | 3 => if fl then codeOf fm (.inf true) else wrap (tyWidth ty) (tyMin ty)
  | 4 => 2 ^ tyWidth ty - 1
  | _ => 0

/-- One node of the tree: the combination of its children, and the draw counter after it (R303). -/
def combine (draw : BitVec 32 → Nat) (f : Slot) (n : BitVec 32) (a b : Nat) : Nat × BitVec 32 :=
  let ty := Rule.ty f
  let fm := fmtOf ty
  let x := readF fm (Rule.ftz f) a
  let y := readF fm (Rule.ftz f) b
  let rounded (v : Val) : Nat × BitVec 32 :=
    let r := roundDraw draw n fm (Rule.rnd f) false v
    (flushF fm (Rule.ftz f) v r.1, r.2)
  if Rule.isWide ty then
    match Rule.sub f with
    | 0 => rounded (Val.add (isRm f) x y)
    | 1 => rounded (Val.mul x y)
    | 2 => (codeOf fm (minVal x y), n)
    | _ => (codeOf fm (maxVal x y), n)
  else
    match Rule.sub f with
    | 0 => (writeInt ty (satInt (Rule.sat f) ty (readInt ty a + readInt ty b)), n)
    | 2 => (writeInt ty (min (readInt ty a) (readInt ty b)), n)
    | 3 => (writeInt ty (max (readInt ty a) (readInt ty b)), n)
    | 4 => (Nat.land a b, n)
    | 5 => (Nat.lor a b, n)
    | _ => (Nat.xor a b, n)

/-- The next level of the tree, its nodes drawing from the lowest lane on (R79). -/
def nextLevel (draw : BitVec 32 → Nat) (f : Slot) : BitVec 32 → List Nat → List Nat × BitVec 32
  | n, a :: b :: t =>
    let r := combine draw f n a b
    let u := nextLevel draw f r.2 t
    (r.1 :: u.1, u.2)
  | n, l => (l, n)

/-- The levels of the tree from the leaves up (R79). -/
def levels (draw : BitVec 32 → Nat) (f : Slot) : Nat → BitVec 32 → List Nat → List (List Nat) × BitVec 32
  | 0, n, l => ([l], n)
  | k + 1, n, l =>
    let r := nextLevel draw f n l
    let u := levels draw f k r.2 r.1
    (l :: u.1, u.2)

/-- The leaves: A of each executing lane, flushed under .FTZ and a NaN in its canonical code (R59), else the identity. -/
def leaves (f : Slot) (ls : List LaneV) : List Nat :=
  let ty := Rule.ty f
  (List.range 64).map (fun i =>
    match ls.find? (fun l => l.lane == i && l.run) with
    | some l =>
      let v := readA f l.th (wOf f) % 2 ^ tyWidth ty
      if Rule.isWide ty then codeOf (fmtOf ty) (readF (fmtOf ty) (Rule.ftz f) v) else v
    | none => identityOf (Rule.sub f) ty)

/-- The tree over the executing lanes, drawing from the lowest of them: its levels, and that lane's draw counter. -/
def State.treeOf (s : State) (f : Slot) (ls : List LaneV) : List (List Nat) × Option (Nat × BitVec 32) :=
  match ls.find? (·.run) with
  | none => ([], none)
  | some l0 =>
    match s.thread? l0.key with
    | none => ([], none)
    | some t =>
      let r := levels (s.drawer t.block t.tid) f 6 t.draws (leaves f ls)
      (r.1, some (l0.key, r.2))

/-- The aligned spans of the first `n` lanes, largest first: level and index of the node of each (R80). -/
def spansOf (n : Nat) : Nat → Nat → List (Nat × Nat)
  | 0, at_ => if bit n 0 then [(0, at_)] else []
  | k + 1, at_ => if bit n (k + 1) then (k + 1, at_ / 2 ^ (k + 1)) :: spansOf n k (at_ + 2 ^ (k + 1)) else spansOf n k at_

/-- Combine span values from left to right, drawing from the lane's own generator (R80, R304). -/
def joinSpans (draw : BitVec 32 → Nat) (f : Slot) : BitVec 32 → Nat → List Nat → Nat × BitVec 32
  | n, v, [] => (v, n)
  | n, v, x :: t => let r := combine draw f n v x; joinSpans draw f r.2 r.1 t

/-- The prefix of the first `n` lanes. -/
def prefixOf (draw : BitVec 32 → Nat) (f : Slot) (tree : List (List Nat)) (d : BitVec 32) (n : Nat) : Nat × BitVec 32 :=
  match (spansOf n 6 0).map (fun p => (tree.getD p.1 []).getD p.2 0) with
  | [] => (identityOf (Rule.sub f) (Rule.ty f), d)
  | v :: t => joinSpans draw f d v t

/-- The draw counter of the lane that drew for the tree. -/
def chargeDraws (r : Option (Nat × BitVec 32)) (s : State) : State :=
  match r with
  | some (k, n) => s.updThread k (fun t => { t with draws := n })
  | none => s

/-- REDUX (R303, R79). -/
def execRedux (f : Slot) (s : State) : Result :=
  s.issue 0x6F f (fun gid g ls =>
    let tr := s.treeOf f ls
    let v := (tr.1.getD 6 []).getD 0 0
    ((chargeDraws tr.2 s).writeD f (wOf f) (ls.filter (·.run)) (fun _ => v)).advance gid g ls |>.after)

/-- SCAN (R304, R80). -/
def execScan (f : Slot) (s : State) : Result :=
  s.issue 0x70 f (fun gid g ls =>
    let tr := s.treeOf f ls
    ((chargeDraws tr.2 s).eachLane (ls.filter (·.run)) (fun l t =>
      let r := prefixOf (s.drawer t.block t.tid) f tr.1 t.draws (if f.i32 = 0 then l.lane + 1 else l.lane)
      { t with draws := r.2 }.setVal f.d.toNat (wOf f) r.1)).advance gid g ls |>.after)

end Sys2Proof.Machine
end

