-- ==== Sys2Proof/Machine/Hosts.lean ====
section
/-! DEFINITION. The host cores: their accesses and exceptions (R309, R451, R452, R493), the Ivesh extension (R231 to R237, R348 to
R350), and their interrupt (R478). Exception entry is that of the RISC-V privileged architecture (assumption log 15). -/

namespace Sys2Proof.Machine

open Sys2Proof

/-! ## Registers -/

def Hart.x (h : Hart) (r : BitVec 5) : Nat := if r = 0 then 0 else (Tab.get h.regs r.toNat 0).toNat
def Hart.setX (h : Hart) (r : BitVec 5) (v : Nat) : Hart :=
  if r = 0 then h else { h with regs := Tab.set h.regs r.toNat (BitVec.ofNat 64 v) }
def Hart.csr (h : Hart) (n : Nat) : Nat := (Tab.get h.csrs n 0).toNat
def Hart.setCsr (h : Hart) (n v : Nat) : Hart := { h with csrs := Tab.set h.csrs n (BitVec.ofNat 64 v) }

/-- A hart goes on with a result. -/
def Hart.went (h : Hart) (r : BitVec 5) (v : Nat) : Hart := { h.setX r v with pc := h.pc + 4, wait := none }

/-- The current hart. -/
def State.me (s : State) : Hart := s.hart s.cur.hart
def State.updMe (s : State) (h : Hart → Hart) : State := s.updHart s.cur.hart h

/-- The hart's context: SYS.ASID, privilege, and its bit of SYS.WORLD (R451, R460). -/
def State.hartCtx (s : State) (h : Nat) : Ctx :=
  let k := s.hart h
  ⟨k.csr 0x5C0 % 4096, decide (0 < k.mode), bit s.r.world.toNat h, 0⟩

/-- The hart as an agent (R14). -/
def State.hartAgent (s : State) (h : Nat) : Agent := ⟨512 + h, s.hartCtx h, some (512 + h)⟩

/-! ## Exceptions and interrupts -/

def putBits (v lo len x : Nat) : Nat := v - bits v lo len * 2 ^ lo + x % 2 ^ len * 2 ^ lo

/-- Trap entry into machine or supervisor mode: the pc, the cause and the value are saved, the interrupt enable and the mode
are stacked, and the pc is the vector's. -/
def Hart.trap (h : Hart) (cause tval : Nat) (intr : Bool) : Hart :=
  let s_ := h.mode ≤ 1 && bit (h.csr (if intr then 0x303 else 0x302)) cause
  let st := h.csr 0x300
  let base := if s_ then 0x100 else 0x300
  let st1 := if s_ then putBits (putBits (putBits st 5 1 (bits st 1 1)) 1 1 0) 8 1 h.mode
    else putBits (putBits (putBits st 7 1 (bits st 3 1)) 3 1 0) 11 2 h.mode
  let tvec := h.csr (base + 5)
  let h1 := (((h.setCsr 0x300 st1).setCsr (base + 0x41) h.pc.toNat).setCsr (base + 0x42)
    (cause + (if intr then 2 ^ 63 else 0))).setCsr (base + 0x43) tval
  { h1 with
    mode := if s_ then 1 else 3
    wait := none
    pc := BitVec.ofNat 64 (tvec / 4 * 4 + (if intr && tvec % 4 = 1 then 4 * cause else 0)) }

/-- A host transaction aborts; its ticket goes (R349, R350). -/
def State.abortHost (s : State) (h : Nat) (c : Abort) (code : Nat) : State := s.rollHart h c.code code

def pageCause (cause : Nat) : Bool := cause == 12 || cause == 13 || cause == 15

/-- An exception of a hart; inside a transaction it is not raised, and the transaction aborts with FAULT or TRAP (R349). -/
def State.raise (s : State) (h cause tval : Nat) : State :=
  if (s.hart h).tx.isSome then s.abortHost h (if pageCause cause then .fault else .trap) cause
  else s.updHart h (fun k => k.trap cause tval false)

/-- What a failed access of a hart does: a page fault, an access fault on poison (R452); one that is held is made again. -/
def State.hostFail (s : State) (h : Nat) (store : Bool) (e : MemErr) : State :=
  match e with
  | .page _ va => s.raise h (if store then 15 else 13) va
  | .poisoned va => s.raise h (if store then 7 else 5) va
  | .held => s

/-! ## Accesses (R451, R493) -/

/-- What an access of a hart comes to. -/
inductive HostRead where
  | ok (s : State) (b : List Byte)
  | fail (e : MemErr)
  /-- Inside a transaction. -/
  | abort (c : Abort)

/-- The buffer of a host transaction. -/
def HostTx.at (x : HostTx) (asid g : Nat) : Option Buffered := x.buf.find? (fun b => b.asid == asid && b.va == g)

def HostTx.put (x : HostTx) (asid g off : Nat) (data : List Byte) : HostTx :=
  let merge (l : List (Option Byte)) : List (Option Byte) := l.take off ++ data.map some ++ l.drop (off + data.length)
  if (x.at asid g).isSome then
    { x with buf := x.buf.map (fun b => if b.asid == asid && b.va == g then { b with bytes := merge b.bytes } else b) }
  else { x with buf := x.buf ++ [⟨asid, g, merge (List.replicate 16 none)⟩] }

/-- A line is marked. -/
def markLine (l : List (Nat × Nat × Nat)) (asid va size : Nat) : List (Nat × Nat × Nat) :=
  if l.contains (asid, va, size) then l else l ++ [(asid, va, size)]

/-- What a transactional access that does not go through comes to. -/
def HostRead.ofTx (va : Nat) : TxRes → HostRead
  | .abort c => .abort c
  | .fault k _ => .fail (.page k va)
  | _ => .fail .held

/-- The directory notes that an agent owns a line (R131, R349). -/
def State.noteOwned (s : State) (a : Attr) (asid va agent : Nat) : State :=
  match s.lineAt a.tarn asid va with
  | some l => s.dirNote (l.bank / 16) asid l.va l.data.length agent .own
  | none => s

/-- A transactional access of a hart to part of one granule: the checks of R97 and R337, then the value as the hart sees it. It
marks the Tarn's line; a write takes the line owned, which waits while that would doom the holder of the commit lock (R345, R349). -/
def State.hostTxPart (s : State) (h va n : Nat) (acc : Access) : HostRead :=
  let g := s.hartAgent h
  let asid := nameAsid g.ctx.asid va
  let write := acc != .read
  let gr := va / 16 * 16
  match s.checkAddr g va acc false with
  | (_, .error k) => .fail (.page k va)
  | (s1, .ok a) =>
    match s1.txCheck a asid gr write with
    | some e => HostRead.ofTx va e
    | none =>
      if s1.ticketHolds asid va n g.own || (write && s1.heldForLock (s1.slicePlace a asid gr) asid gr 16 g.own) then .fail .held
      else
        match s1.txFetch g.id g.ctx a asid gr, (s1.hart h).tx with
        | (_, .error e), _ => HostRead.ofTx va e
        | (s2, .ok b), none => .ok s2 b
        | (s2, .ok b), some x =>
          let seen := ((overBuf (x.at asid gr) b).drop (va % 16)).take n
          let size := s2.lineSize a asid va
          let line := va / size * size
          let s3 := s2.snoopHarts asid line size g.own write
          let s4 := if write then (s3.invalidate asid line size).noteOwned a asid line g.id else s3
          .ok (s4.updHart h (fun k => { k with tx := k.tx.map (fun x =>
            if write then { x with writtenLines := markLine x.writtenLines asid line size }
            else { x with readLines := markLine x.readLines asid line size }) })) seen

/-- The parts of a transactional access in order. -/
def State.hostTxParts (s : State) (h : Nat) (acc : Access) : List (Nat × Nat) → HostRead
  | [] => .ok s []
  | (va, n) :: t =>
    match s.hostTxPart h va n acc with
    | .ok s1 b =>
      match State.hostTxParts s1 h acc t with
      | .ok s2 c => .ok s2 (b ++ c)
      | r => r
    | r => r

/-- A read at a physical address, while translation is off (R451): nothing of R97 is checked. A poisoned line still raises its access
fault (R141, R452), which is the model's reading; an address with nothing behind it reads free values, the spec giving neither a
value nor a fault (assumption log 19). -/
def State.physRead (s : State) (pa n : Nat) : HostRead :=
  match s.paClass pa with
  | .unbacked => let r := s.freeBytes n; .ok r.2 r.1
  | .memory off => if s.poisonedAt off n then .fail (.poisoned pa) else let r := s.ctrlRead s.regRead pa n []; .ok r.2 r.1
  | _ => let r := s.ctrlRead s.regRead pa n []; .ok r.2 r.1

/-- A write at a physical address; one with nothing behind it has no effect (assumption log 19). -/
def State.physWrite (s : State) (who : Writer) (pa : Nat) (b : List Byte) : HostRead :=
  match s.paClass pa with
  | .unbacked => .ok s []
  | .memory off => if s.poisonedAt off b.length then .fail (.poisoned pa) else .ok (s.ctrlWrite who pa b) []
  | _ => .ok (s.ctrlWrite who pa b) []

/-- A read of a hart: physical while translation is off (R451), else in parts of a granule each, all of them checked before any
takes effect (R493). -/
def State.hostRead (s : State) (h va n : Nat) (acc : Access) : HostRead :=
  let g := s.hartAgent h
  if (s.hart h).tx.isSome then
    (if s.translating then s.hostTxParts h acc (pieces va n 16) else .abort .memType)
  else if !s.translating then s.physRead va n
  else
    match s.checkRange g acc (pieces va n 16) with
    | (_, some e) => .fail e
    | (s1, none) =>
      match s1.readPieces g acc (if va / 16 = (va + n - 1) / 16 then [(va, n)] else pieces va n 16) with
      | (s2, .ok b) => .ok s2 b
      | (_, .error e) => .fail e

/-- Buffer the parts of a transactional write. -/
def State.hostTxPut (s : State) (h : Nat) : List (Nat × Nat) → List Byte → State
  | [], _ => s
  | (va, n) :: t, b =>
    let asid := nameAsid (s.hartCtx h).asid va
    State.hostTxPut (s.updHart h (fun k => { k with tx := k.tx.map (fun x => x.put asid (va / 16 * 16) (va % 16) (b.take n)) })) h t
      (b.drop n)

/-- A write of a hart. -/
def State.hostWrite (s : State) (h va : Nat) (b : List Byte) : HostRead :=
  let g := s.hartAgent h
  let ps := pieces va b.length 16
  if (s.hart h).tx.isSome then
    (if s.translating then
      match s.hostTxParts h .write ps with
      | .ok s1 _ => .ok (s1.hostTxPut h ps b) []
      | r => r
     else .abort .memType)
  else if !s.translating then s.physWrite g.writer va b
  else
    match s.checkRange g .write ps with
    | (_, some e) => .fail e
    | (s1, none) =>
      match s1.writePieces g false (if va / 16 = (va + b.length - 1) / 16 then [(va, b.length)] else ps) b with
      | (s2, .ok _) => .ok s2 []
      | (_, .error e) => .fail e

/-- Go on after an access of the current hart. -/
def State.hostAfter (s : State) (store : Bool) (r : HostRead) (ok : State → List Byte → Result) : Result :=
  match r with
  | .ok s1 b => ok s1 b
  | .fail e => .next (s.hostFail s.cur.hart store e)
  | .abort c => .next (s.abortHost s.cur.hart c 0)

def signExtend (w v : Nat) : Nat := wrap 64 (signed w v)

/-! ## Loads and stores that cross a granule (R493) -/

/-- The two parts of an access that touches two granules, the lower first. -/
def halves (va n : Nat) : (Nat × Nat) × (Nat × Nat) :=
  let k := (va / 16 + 1) * 16 - va
  ((va, k), (va + k, n - k))

/-- The access is made in two parts, each at its own point in the coherence order of its line. In a transaction they are seen together
(R341), and while translation is off no line has a home. -/
def State.splits (s : State) (h va n : Nat) : Bool := (s.hart h).tx.isNone && s.translating && va / 16 != (va + n - 1) / 16

/-- What ends an access of a hart that does not go through. -/
def State.hostStop (s : State) (h : Nat) (store : Bool) : HostRead → State
  | .fail e => s.hostFail h store e
  | .abort c => s.abortHost h c 0
  | .ok s1 _ => s1

/-- The checks of every part of an access, before the first is made; which one comes first the spec leaves open (R493). -/
def State.firstHalf (s : State) (h va n : Nat) (acc : Access) (part : State → Bool → HostRead) : State :=
  match s.checkRange (s.hartAgent h) acc (pieces va n 16) with
  | (_, some e) => s.hostFail h (acc != .read) e
  | (s1, none) =>
    let upper := (Config.freeDword s1.fresh).getLsbD 0
    match part { s1 with fresh := s1.fresh + 1 } upper with
    | .ok s2 b => s2.updHart h (fun k => { k with wait := some (.half upper b) })
    | r => s.hostStop h (acc != .read) r

/-- A load of a hart: `ok` follows with its bytes, in the turn of its last part. -/
def State.hostLoad (s : State) (h va n : Nat) (ok : State → List Byte → State) : State :=
  let p := halves va n
  let part (s : State) (upper : Bool) : HostRead :=
    match s.readPieces (s.hartAgent h) .read [if upper then p.2 else p.1] with
    | (s1, .ok b) => .ok s1 b
    | (_, .error e) => .fail e
  if !s.splits h va n then
    match s.hostRead h va n .read with
    | .ok s1 b => ok s1 b
    | r => s.hostStop h false r
  else
    match (s.hart h).wait with
    | some (.half upper got) =>
      (match part s !upper with
      | .ok s1 b => ok s1 (if upper then b ++ got else got ++ b)
      | r => s.hostStop h false r)
    | _ => s.firstHalf h va n .read part

/-- A store of a hart: `ok` follows in the turn of its last part. -/
def State.hostStore (s : State) (h va : Nat) (data : List Byte) (ok : State → State) : State :=
  let p := halves va data.length
  let part (s : State) (upper : Bool) : HostRead :=
    match s.writePieces (s.hartAgent h) false [if upper then p.2 else p.1] (if upper then data.drop p.1.2 else data.take p.1.2) with
    | (s1, .ok _) => .ok s1 []
    | (_, .error e) => .fail e
  if !s.splits h va data.length then
    match s.hostWrite h va data with
    | .ok s1 _ => ok s1
    | r => s.hostStop h true r
  else
    match (s.hart h).wait with
    | some (.half upper _) =>
      (match part s !upper with
      | .ok s1 _ => ok s1
      | r => s.hostStop h true r)
    | _ => s.firstHalf h va data.length .write part

/-- An ordinary load or store of 1, 2, 4 or 8 bytes, by an instruction of `len` bytes (R493). -/
def State.hostAccess (s : State) (h : Nat) (store : Bool) (f3 : Nat) (reg : BitVec 5) (va len : Nat) : State :=
  let n := 2 ^ (f3 % 4)
  let on (k : Hart) : Hart := { k with pc := k.pc + BitVec.ofNat 64 len, wait := none }
  if store then s.hostStore h va (bytesOf n ((s.hart h).x reg)) (fun s1 => s1.updHart h on)
  else
    s.hostLoad h va n (fun s1 b =>
      let v := ofBytes b
      s1.updHart h (fun k => on (k.setX reg (if f3 < 4 then signExtend (8 * n) v else v))))

/-- HOST_ACCESS: an ordinary load or store at rs1 plus an offset (R493). -/
def execHostAccess (store : Bool) (funct3 : BitVec 3) (reg rs1 : BitVec 5) (imm : BitVec 12) (s : State) : Result :=
  .next (s.hostAccess s.cur.hart store funct3.toNat reg (wrap 64 ((s.me.x rs1 : Int) + signed 12 imm.toNat)) 4)

/-- HOST_FENCE (R309): one hart's accesses are made in order, so that nothing is left to order. -/
def execHostFence (_fm _pred _succ : BitVec 4) (s : State) : Result := .next (s.updMe (fun k => { k with pc := k.pc + 4 }))

/-! ## AMO, LR and SC (R309, R493) -/

/-- What an AMO writes. -/
def amoValue (funct5 w old src : Nat) : Nat :=
  let a := old % 2 ^ w
  let b := src % 2 ^ w
  match funct5 with
  | 0 => (a + b) % 2 ^ w
  | 1 => b
  | 4 => Nat.xor a b
  | 8 => Nat.lor a b
  | 12 => Nat.land a b
  | 16 => if signed w a ≤ signed w b then a else b
  | 20 => if signed w a ≤ signed w b then b else a
  | 24 => min a b
  | _ => max a b

/-- HOST_ATOMIC. -/
def execHostAtomic (funct5 : BitVec 5) (_aq _rl : Bool) (wide : Bool) (rd rs1 rs2 : BitVec 5) (s : State) : Result :=
  let h := s.cur.hart
  let n := if wide then 8 else 4
  let va := s.me.x rs1
  let name := nameAsid (s.hartCtx h).asid va
  let f := funct5.toNat
  if va % n ≠ 0 then .next (s.raise h (if f = 2 then 4 else 6) va)
  else if f = 2 then
    s.hostAfter false (s.hostRead h va n .read) (fun s1 b =>
      .next (s1.updMe (fun k => { k.went rd (signExtend (8 * n) (ofBytes b)) with reservation := some (name, va, n) })))
  else if f = 3 then
    if s.me.reservation = some (name, va, n) then
      s.hostAfter true (s.hostWrite h va (bytesOf n (s.me.x rs2))) (fun s1 _ =>
        .next (s1.updMe (fun k => { k.went rd 0 with reservation := none })))
    else .next (s.updMe (fun k => { k.went rd 1 with reservation := none }))
  else
    s.hostAfter true (s.hostRead h va n .both) (fun s1 b =>
      let old := ofBytes b
      s.hostAfter true (s1.hostWrite h va (bytesOf n (amoValue f (8 * n) old (s.me.x rs2)))) (fun s2 _ =>
        .next (s2.updMe (fun k => k.went rd (signExtend (8 * n) old)))))

/-! ## Illegal instructions and SYS.ASID (R175, R451) -/

/-- HOST_ILLEGAL_INSTRUCTION. -/
def execHostIllegalInstruction (word : BitVec 32) (s : State) : Result := .next (s.raise s.cur.hart 2 word.toNat)

/-- HOST_ASID_CSR_WRITE: CSR 0x5C0, for supervisor and machine modes. -/
def execHostAsidCsrWrite (funct3 : BitVec 3) (rd rs1 : BitVec 5) (s : State) : Result :=
  let k := s.me
  if k.mode = 0 then
    let word : BitVec 32 := (0x5C0 : BitVec 12) ++ rs1 ++ funct3 ++ rd ++ (0x73 : BitVec 7)
    .next (s.raise s.cur.hart 2 word.toNat)
  else
    let old := k.csr 0x5C0
    let src := if funct3.toNat < 4 then k.x rs1 else rs1.toNat
    let new := match funct3.toNat % 4 with
      | 1 => src
      | 2 => Nat.lor old src
      | _ => Nat.xor old (Nat.land old src)
    .next (s.updMe (fun k => (k.setCsr 0x5C0 (new % 4096)).went rd old))

/-! ## XLAUNCH, XLWAIT, XFENCE, XPOLL, XDISCARD (R232 to R237) -/

/-- An instruction that a host transaction does not admit aborts it with INSTR (R237, R349). -/
def State.notInTx (s : State) (body : Result) : Result :=
  if s.me.tx.isSome then .next (s.abortHost s.cur.hart .instr 0) else body

/-- XLAUNCH (R232). -/
def execXlaunch (rd rs1 : BitVec 5) (s : State) : Result :=
  s.notInTx (
    let h := s.cur.hart
    let va := s.me.x rs1
    let c := s.hartCtx h
    if va % 128 ≠ 0 then .next (s.updMe (fun k => k.went rd 4))
    else
      s.hostAfter false (s.hostRead h va 128 .read) (fun s1 b =>
        let r := s1.submitRecord (ofBytes b) c.asid c.priv c.secure
        .next (r.1.updMe (fun k => k.went rd r.2))))

/-- XLWAIT (R233): while the launch has not ended, the hart stalls on the instruction. -/
def execXlwait (rd rs1 : BitVec 5) (s : State) : Result :=
  s.notInTx (
    let hd := s.me.x rs1 % 2 ^ 32
    match s.waitWord 256 hd with
    | some w => .next (s.updMe (fun k => k.went rd w))
    | none => .next (s.updMe (fun k => { k with wait := some (.launch rd.toNat hd) })))

/-- XFENCE (R234). -/
def execXfence (_ord : BitVec 2) (_scope : BitVec 3) (s : State) : Result :=
  s.notInTx (.next (s.updMe (fun k => { k with pc := k.pc + 4 })))

/-- XPOLL (R235): a read, then the value or a back-off by the schedule of R263. -/
def execXpoll (rd rs1 rs2 : BitVec 5) (s : State) : Result :=
  s.notInTx (
    let h := s.cur.hart
    let va := s.me.x rs1
    let reads := match s.me.wait with | some (.poll _ _ _ n _) => n | _ => 0
    let early := match s.me.wait with | some (.poll _ _ _ _ due) => decide (s.clock < due) | _ => false
    if va % 8 ≠ 0 then .next (s.raise h 4 va)
    else if early then .next s
    else
      s.hostAfter false (s.hostRead h va 8 .read) (fun s1 b =>
        if ofBytes b ≠ s.me.x rs2 then .next (s1.updMe (fun k => k.went rd (ofBytes b)))
        else .next (s1.updMe (fun k =>
          { k with wait := some (.poll rd.toNat va (BitVec.ofNat 64 (s.me.x rs2)) (reads + 1) (s.clock + 64 * 2 ^ min reads 6)) }))))

/-- XDISCARD (R236). While translation is off there are no pages and no page table, and the instruction has no effect, which is the
model's choice: the spec does not say what it does then (assumption log 19). -/
def execXdiscard (rs1 rs2 : BitVec 5) (s : State) : Result :=
  s.notInTx (
    let h := s.cur.hart
    let lo := s.me.x rs1
    let len := s.me.x rs2
    let c := s.hartCtx h
    let go (s : State) : Result := .next (s.updMe (fun k => { k with pc := k.pc + 4 }))
    if len = 0 || !s.translating then go s
    else if 2 ^ 57 < lo + len then .next (s.raise h 15 lo)
    else
      match s.discardPages c lo (lo + len) (s.pagesOfRange c lo (lo + len)) with
      | (s1, .done) => go s1
      | (_, .fault _ va) => .next (s.raise h 15 va)
      | (_, .held _) => .next s)

/-! ## Host transactions (R348 to R350) -/

/-- The live status (R343). -/
def Hart.status (h : Hart) : Nat :=
  match h.tx with
  | some x => statusWord x.depth true false 0 h.lastAbort.2 h.lastAbort.1
  | none => statusWord 0 false false 0 h.lastAbort.2 h.lastAbort.1

/-- XTX.BEGIN (R349). A transaction that it opens has had no abort (R343). -/
def execXtxBegin (rd : BitVec 5) (s : State) : Result :=
  let k := s.me
  match k.tx with
  | none =>
    let x : HostTx :=
      { depth := 1
        regs := k.regs
        fregs := k.fregs
        vregs := k.vregs
        csrs := k.csrs
        pc := k.pc
        rd := rd.toNat
        start := s.clock
        readLines := []
        writtenLines := []
        buf := []
        ticket := none }
    .next (s.updMe (fun k =>
      { k.went rd 0 with
        tx := some x
        lastAbort := (0, 0) }))
  | some x =>
    if 15 ≤ x.depth then .next (s.abortHost s.cur.hart .nest 0)
    else .next (s.updMe (fun k => { k.went rd 0 with tx := some { x with depth := x.depth + 1 } }))

/-- XTX.COMMIT (R350): at depth 1 it takes a ticket, and the hart waits for it to be served. -/
def execXtxCommit (rd : BitVec 5) (s : State) : Result :=
  match s.me.tx with
  | none => .next (s.updMe (fun k => k.went rd Abort.noTx.code))
  | some x =>
    if 2 ≤ x.depth then .next (s.updMe (fun k => { k.went rd 0 with tx := some { x with depth := x.depth - 1 } }))
    else if x.ticket.isSome then .next s
    else
      let t : Ticket := ⟨s.x.next, true, s.cur.hart, [], [], 0⟩
      let s1 : State := { s with x := { s.x with next := (s.x.next + 1) % 2 ^ 64, tickets := s.x.tickets ++ [t] } }
      .next (s1.updMe (fun k => { k with tx := some { x with ticket := some t.n }, wait := some (.commit rd.toNat) }))

/-- XTX.ABORT (R350). -/
def execXtxAbort (code : BitVec 8) (s : State) : Result :=
  if s.me.tx.isSome then .next (s.abortHost s.cur.hart .explicit code.toNat)
  else .next (s.updMe (fun k => { k with pc := k.pc + 4 }))

/-- XTX.STAT (R350). -/
def execXtxStat (rd : BitVec 5) (s : State) : Result := .next (s.updMe (fun k => k.went rd k.status))

/-- Why a host transaction cannot commit: a line that it touched is no longer served as a transaction needs (R337), a granule that
it wrote may no longer be written, or its publication would doom the holder of the commit lock (R345). -/
def State.hostReject (s : State) (h : Nat) (x : HostTx) : Option Abort :=
  let own := some (512 + h)
  let gone (l : Nat × Nat × Nat) : Option Abort := match s.servable l.1 l.2.1 with | .error e => some e | .ok _ => none
  let stale (b : Buffered) : Option Abort :=
    match s.checkAddr (s.hartAgent h) b.va .write false with
    | (_, .error _) => some .conflict
    | (s1, .ok a) => if s1.heldForLock (s1.slicePlace a b.asid b.va) b.asid b.va 16 own then some .conflict else none
  match (x.readLines ++ x.writtenLines).findSome? gone with
  | some e => some e
  | none => x.buf.findSome? stale

/-- HOST_TX_TICKET_SERVED of hart `sel.x`: every lower ticket has been served, and the transaction commits, or aborts
(R341, R345, R350). -/
def execHostTxTicketServed (s : State) : Result :=
  let h := s.sel.x
  match (s.hart h).tx with
  | none => .next s
  | some x =>
    match x.ticket, (s.hart h).wait with
    | some n, some (.commit rd) =>
      if s.x.tickets.any (fun t => t.n < n) then .next s
      else
        match s.hostReject h x with
        | some e => .next (s.abortHost h e 0)
        | none =>
          let s1 : State := { s with x := { s.x with tickets := s.x.tickets.filter (fun t => t.n != n) } }
          match s1.publishAll (512 + h) (s.hartCtx h) (512 + h) x.buf with
          | none => .next s
          | some s2 =>
            .next (s2.updHart h (fun k =>
              { k.went (BitVec.ofNat 5 rd) 0 with
                tx := none
                lastAbort := (0, 0) }))
    | _, _ => .next s

/-- HOST_TX_EVICTION_ABORT: hart `sel.x` evicts the marked line at `sel.y` of name `sel.z` from its L2 (R349). -/
def execHostTxEvictionAbort (s : State) : Result :=
  let hit (l : Nat × Nat × Nat) : Bool := l.1 == s.sel.z && l.2.1 ≤ s.sel.y && s.sel.y < l.2.1 + l.2.2
  match (s.hart s.sel.x).tx with
  | some x => if x.readLines.any hit || x.writtenLines.any hit then .next (s.abortHost s.sel.x .capacity 0) else .next s
  | none => .next s

/-! ## The interrupt (R237, R349, R478) -/

/-- An enabled source is pending, and the hart is the target. -/
def State.intrLine (s : State) (h : Nat) : Bool :=
  let v := s.r.intr.toNat
  Nat.land (bits v 0 10) (bits v 16 10) != 0 && bits v 32 6 == h

/-- The hart takes a supervisor external interrupt now: it is enabled, and the mode admits it. -/
def Hart.takesIntr (h : Hart) : Bool :=
  let st := h.csr 0x300
  bit (h.csr 0x304) 9 &&
    (if bit (h.csr 0x303) 9 then h.mode == 0 || (h.mode == 1 && bit st 1) else h.mode != 3 || bit st 3)

/-- HOST_INTERRUPT of hart `sel.x`: SEIP is pending; where it is taken, a transaction aborts with PREEMPT, and a waiting
instruction is executed again on return. -/
def execHostInterrupt (s : State) : Result :=
  let h := s.sel.x
  if !s.intrLine h then .next s
  else
    let s1 := s.updHart h (fun k => { k.setCsr 0x344 (Nat.lor (k.csr 0x344) 512) with irq := true })
    if !(s1.hart h).running || !(s1.hart h).takesIntr then .next s1
    else
      let s2 := if (s1.hart h).tx.isSome then s1.abortHost h .preempt 0 else s1
      .next (s2.updHart h (fun k => k.trap 9 0 true))

/-- SEIP follows the line when it falls. -/
def State.dropIrq (s : State) : State :=
  (s.harts.filter (fun p => p.2.irq && !s.intrLine p.1)).foldl (fun s p =>
    s.updHart p.1 (fun k => { k.setCsr 0x344 (Nat.xor (k.csr 0x344) (Nat.land (k.csr 0x344) 512)) with irq := false })) s

/-! ## Fetch -/

/-- What a fetch by a hart comes to. -/
inductive HostFetch where
  | word (s : State) (w : BitVec 32)
  /-- An exception is taken, or the fetch waits. -/
  | took (s : State)

/-- What a failed fetch does (R452). -/
def State.fetchFail (s : State) (h : Nat) : MemErr → HostFetch
  | .page _ va => .took (s.raise h 12 va)
  | .poisoned va => .took (s.raise h 1 va)
  | .held => .took s

/-- The fetch of the two bytes at an address. -/
def State.hostParcel (s : State) (h va : Nat) : State × Except MemErr Nat :=
  if !s.translating then
    match s.physRead va 2 with
    | .ok s1 b => (s1, .ok (ofBytes b))
    | .fail e => (s, .error e)
    | .abort _ => (s, .error .held)
  else
    match s.readPieces (s.hartAgent h) .exec (pieces va 2 16) with
    | (s1, .ok b) => (s1, .ok (ofBytes b))
    | (_, .error e) => (s, .error e)

/-- The fetch of the instruction at a hart's pc: two bytes, and two more unless they are a compressed instruction (R452). -/
def State.hostFetch (s : State) (h : Nat) : HostFetch :=
  let pc := (s.hart h).pc.toNat
  match s.hostParcel h pc with
  | (_, .error e) => s.fetchFail h e
  | (s1, .ok lo) =>
    if lo % 4 ≠ 3 then .word s1 (BitVec.ofNat 32 lo)
    else
      match s1.hostParcel h ((pc + 2) % 2 ^ 64) with
      | (_, .error e) => s.fetchFail h e
      | (s2, .ok hi) => .word s2 (BitVec.ofNat 32 (lo + 65536 * hi))

end Sys2Proof.Machine
end

