-- ==== Sys2Proof/Machine/Registers.lean ====
section
/-! DEFINITION. Writes of device registers, each acting as the row of the table that its register has (R453 to R458, R464,
R465, R486, R487), and the loss of a package. -/

namespace Sys2Proof.Machine

open Sys2Proof

/-! ## Registers without behaviour of their own (R454) -/

/-- SYS.LANEMAP written by the controller (R53). -/
def laneMapOf (v : Nat) (c : CoreSt) : CoreSt :=
  { c with mode := bits v 24 2, nfail := bits v 16 3, skipB := bits v 8 7, skipA := bits v 0 7 }

/-- SYS.POWERCAP.CAP, clamped; the other fields are read-only (R488). -/
def clampCap (old v : Nat) : Nat := old / 65536 * 65536 + max 1200 (min 3600 (v % 65536))

/-- SYS.INTR: PENDING clears where 1 is written; ENABLE and TARGET are written (R478). -/
def intrWrite (old v : Nat) : Nat :=
  bits v 32 6 * 2 ^ 32 + bits v 16 10 * 2 ^ 16 + Nat.xor (old % 1024) (Nat.land (old % 1024) (v % 1024))

/-- SYS.WORLD: only bits of stopped harts change (R458). -/
def State.worldWrite (s : State) (v : Dword) : Dword :=
  let fixed := maskOf ((List.range 64).filter (fun h => (s.hart h).running))
  (v &&& ~~~(BitVec.ofNat 64 fixed)) ||| (s.r.world &&& BitVec.ofNat 64 fixed)

/-- Attributes and translations of leaves that a secure range now forbids are forgotten, so that what follows is checked again
(R459). -/
def State.forgetSecure (s : State) : State :=
  let stays (a : Attr) : Bool := a.world || !s.secureIn a.frame a.size
  s.setMem { s.m with
    attrs := s.m.attrs.filter (fun p => stays p.2)
    tlb := s.m.tlb.filter (fun p => stays p.2) }

/-- An 8-byte write of the register at an offset, which sets its writable fields (R454). Offsets that the table does not
assign, and read-only registers, ignore it. -/
def State.writeRegister (s : State) (off : Nat) (value : Dword) (who : Writer) : State :=
  let v := value.toNat
  let r := s.r
  if off = 0x00 then s.setSys { r with asidTab := BitVec.ofNat 64 (bits v 15 37 * 2 ^ 15 + v % 2) }
  else if off = 0x30 then s.setSys { r with slice := BitVec.ofNat 64 (v % 2 ^ 48) }
  else if off = 0x38 then s.setSys { r with gangctl := BitVec.ofNat 64 (v % 65536) }
  else if off = 0x48 then s.setSys { r with intr := BitVec.ofNat 64 (intrWrite r.intr.toNat v) }
  else if off = 0x58 then (if who.controller then s.setSys { r with world := s.worldWrite value } else s)
  else if off = 0x60 then
    (if who.secure then s.setSys { r with powercap := BitVec.ofNat 64 (clampCap r.powercap.toNat v) } else s)
  else if 0x80 ≤ off && off < 0xC0 then
    (if who.controller then
      (s.setSys { r with
        secRange := Tab.set r.secRange ((off - 0x80) / 8)
          (BitVec.ofNat 64 (bits v 63 1 * 2 ^ 63 + bits v 52 6 * 2 ^ 52 + bits v 16 36 * 65536)) }).forgetSecure
    else s)
  else if 0x2000 ≤ off && off < 0x4000 then
    s.setSys { r with c3budget := Tab.set r.c3budget ((off - 0x2000) / 8) (v % 65536) }
  else if 0x10000 ≤ off && off < 0x18000 then
    let core := (off - 0x10000) / 64
    (match off % 64 with
    | 8 => s.updCore core (fun c => { c with coveAge := v % 65536 })
    | 16 => if who.controller && bits v 24 2 < 3 && (s.blocksOn core).isEmpty then s.updCore core (laneMapOf v) else s
    | _ => s)
  else if 0x20000 ≤ off && off < 0x21000 && off % 64 = 0 then
    s.updHart ((off - 0x20000) / 64) (fun h => h.setCsr 0x5C0 (v % 4096))
  else s

/-- REGISTER_WRITE (R454). -/
def execRegisterWrite (offset : Nat) (value : Dword) (who : Writer) (s : State) : Result :=
  .next (s.writeRegister offset value who)

/-- TDBBASE_WRITE: the first write counts (R109). -/
def execTdbbaseWrite (value : Dword) (s : State) : Result :=
  if s.m.tdbSet then .next s
  else .next ((s.setSys { s.r with tdbBase := value &&& 0x000FFFFFFFFF0000#64 }).setMem { s.m with tdbSet := true })

/-- HOSTSTART_WRITE: a stopped hart starts in machine mode (R455). -/
def State.startHart (s : State) (h pc : Nat) : State :=
  if 64 ≤ h || (s.hart h).running then s
  else s.updHart h (fun k => { k with running := true, mode := 3, pc := BitVec.ofNat 64 pc, wait := none })

def execHoststartWrite (hart : Nat) (value : Dword) (s : State) : Result := .next (s.startHart hart (value.toNat % 2 ^ 57))

/-! ## The loss of a package (R465) -/

/-- Lines and copies of a frame of another package go, dirty or clean. -/
def State.dropFrame (s : State) (asid va : Nat) : State :=
  let s1 := (s.invalidate asid va 4096).snoopHarts asid va 4096 none true
  s1.setMem { s1.m with
    lines := s1.m.lines.filter (fun l => !(l.asid == asid && l.va < va + 4096 && va < l.va + l.data.length)) }

/-- The granules of this package that a package has OWNED are poisoned, every cached copy of them is dropped (R140), and its HOLD bits
go. -/
def State.dropHolder (s : State) (q : Nat) : State :=
  let lost := s.m.remoteHeld.filter (fun (e : Nat × BitVec 8 × Bool) => e.2.2 && e.2.1.getLsbD q)
  let kept := s.m.remoteHeld.filterMap (fun (e : Nat × BitVec 8 × Bool) =>
    let h := e.2.1 &&& ~~~(1#8 <<< q)
    if h = 0 then none else some (e.1, h, if e.2.1.getLsbD q then false else e.2.2))
  let s1 := lost.foldl (fun (s : State) (e : Nat × BitVec 8 × Bool) => s.loseMemory (s.r.pkg * 2 ^ 48 + 64 * e.1)) s
  s1.setMem { s1.m with remoteHeld := kept }

/-- Requests that wait to install data of a frame of a lost package stand before their home again, where they find the frame
UNBACKED (R465). -/
def State.dropFills (s : State) (q : Nat) : State :=
  s.setReqs (Tab.mapv s.v.reqs (fun r =>
    if r.attr.frame / 2 ^ 48 == q && r.stage != .home then
      { r with
        stage := .home
        data := [] }
    else r))

/-- Package q is declared lost; the own package and one already lost are passed over. -/
def State.losePackage (s : State) (q : Nat) : State :=
  if q = s.r.pkg || 8 ≤ q || !bit s.r.alive q then s
  else
    let s1 := (s.setSys { s.r with alive := Nat.xor s.r.alive (2 ^ q) }).raiseIntr 2
    let s2 := s1.dropHolder q
    let s3 := (s2.m.remoteLines.filter (fun (e : Nat × Nat × Nat) => e.1 / 2 ^ 48 == q)).foldl
      (fun (s : State) (e : Nat × Nat × Nat) => s.dropFrame e.2.1 e.2.2) s2
    let s4 := s3.setMem { s3.m with
      remoteLines := s3.m.remoteLines.filter (fun (e : Nat × Nat × Nat) => e.1 / 2 ^ 48 != q)
      copies := s3.m.copies.filter (fun c => c.attr.frame / 2 ^ 48 != q)
      attrs := s3.m.attrs.filter (fun p => p.2.frame / 2 ^ 48 != q)
      tlb := s3.m.tlb.filter (fun p => p.2.frame / 2 ^ 48 != q) }
    (s4.dropFills q).loseRounds q

/-- NODE_LOSE_WRITE: LOSE names packages (R464). -/
def execNodeLoseWrite (packages : BitVec 8) (s : State) : Result := .next ((onesOf 8 packages.toNat).foldl State.losePackage s)

/-- The package at the other end of a port (R461). -/
def State.peerOf (s : State) (port : Nat) : Nat := (s.r.pkg + port + 1) % 8

/-- 1 ms in core cycles (R465, R488): bounds given in time hold at 3.0 GHz. -/
def millisecond : Nat := 3000000

def State.port (s : State) (p : Nat) : Port := Tab.get s.n.ports p ⟨17, false, none, 0, false⟩
def State.setNode (s : State) (n : Node) : State := { s with n := n }
def State.updPort (s : State) (p : Nat) (h : Port → Port) : State := s.setNode { s.n with ports := Tab.set s.n.ports p (h (s.port p)) }

/-- LINK_DOWN_TIMEOUT of port `sel.x`. -/
def execLinkDownTimeout (s : State) : Result :=
  match (s.port s.sel.x).down with
  | some t => if s.sel.x < 7 && t + millisecond ≤ s.clock then .next (s.losePackage (s.peerOf s.sel.x)) else .next s
  | none => .next s

/-- PEER_POWER_OFF_REPORT of package `sel.x`. -/
def execPeerPowerOffReport (s : State) : Result := .next (s.losePackage s.sel.x)

/-! ## Stacks and dies out of service (R486, R487) -/

/-- The next stack in service after a stack. -/
def State.nextStack (s : State) (t : Nat) : Option Nat :=
  ((List.range 11).map (fun i => (t + 1 + i) % 12)).find? (fun k => !s.stackOut k)

/-- STACK_TAKEOUT of stack `sel.x` (R486). -/
def execStackTakeout (s : State) : Result :=
  let t := s.sel.x
  if 12 ≤ t || s.stackOut t then .next s
  else
    let s1 := s.setSys { s.r with stackCtl := Tab.set s.r.stackCtl t 1 }
    let gone := (List.range 4).map (fun i => Tab.get s.m.shardMap (4 * t + i) (4 * t + i))
    let map_ := match s1.nextStack t with
      | some k => (List.range 4).foldl (fun m i => Tab.set m (4 * t + i) (4 * k + i)) s.m.shardMap
      | none => s.m.shardMap
    .next (s1.setMem { s1.m with shardMap := map_, tlb := s1.m.tlb.filter (fun p => !gone.contains p.1) })

/-- Why a die may not be isolated: the STATUS code (R487). R491 has 1 for a die that is open because a block is resumed
on it; that the lowest code is reported wherever several conditions fail is the model's choice (assumption log 63). -/
def State.isolateStatus (s : State) (d : Nat) : Nat :=
  let shares := (List.range 4096).map (fun i => 4096 * d + i)
  if s.v.blocks.any (fun p => p.2.core.any (fun c => dieOf c == d)) then 1
  else if shares.any (fun sh => s.shareHolder sh != 0 && !s.m.retired.contains sh) then 2
  else if (List.range 3).any (fun i => !s.stackOut (3 * d + i)) then 3
  else if bits (Tab.get s.r.dieCtl d 0).toNat 2 2 ≠ 1 then 4
  else 0

/-- DIE_ISOLATE of die `sel.x` (R487). -/
def execDieIsolate (s : State) : Result :=
  let d := s.sel.x
  if 4 ≤ d || bits (Tab.get s.r.dieCtl d 0).toNat 2 2 = 2 then .next s
  else
    let code := s.isolateStatus d
    if code ≠ 0 then
      .next (s.setSys { s.r with dieCtl := Tab.set s.r.dieCtl d (BitVec.ofNat 64 (code * 16 + (Tab.get s.r.dieCtl d 0).toNat % 16)) })
    else
      let s1 := s.setSys { s.r with dieCtl := Tab.set s.r.dieCtl d 8 }
      let s2 := ((List.range 4096).map (fun i => 4096 * d + i)).foldl
        (fun (s : State) sh => if s.m.retired.contains sh then s else s.startRetiring sh false) s1
      .next ((List.range 128).foldl (fun (s : State) i => s.updCore (128 * d + i) (fun c => { c with mode := 2 })) s2)

/-- C3_POLICE_WINDOW: a window begins when CLOCK is a multiple of 4,096 (R430). -/
def execC3PoliceWindow (s : State) : Result :=
  if s.r.c3window = s.clock / 4096 then .next s
  else .next (s.setSys { s.r with c3window := s.clock / 4096, c3used := [] })

end Sys2Proof.Machine
end

