-- ==== Sys2Proof/Machine/Node.lean ====
section
/-! DEFINITION. Boot (R457), the Xankor Links and the node (R461 to R463, R485), PCIe and Ethernet (R479 to R481), the
management and security controller (R482 to R484), power and temperature (R488, R489). -/

namespace Sys2Proof.Machine

open Sys2Proof

/-! ## Boot (R457) -/

/-- Where the host firmware lies: a physical offset. -/
def firmwareOffset : Nat := 0x10000000000

/-- SYS.LANEMAP of a core with these failed slices (R53, R55). -/
def fusedCore (slices : List Nat) : CoreSt :=
  { CoreSt.reset with
    mode := if slices.length ≤ 1 then 0 else if slices.length = 2 then 1 else 2
    nfail := slices.length
    skipA := slices.getD 0 64
    skipB := slices.getD 1 0x7F }

/-- Ports of a package towards packages that are fitted. -/
def fittedPorts (pkg present : Nat) : Nat := maskOf ((List.range 7).filter (fun p => bit present ((pkg + p + 1) % 8)))

/-- Step 4 of boot: the host firmware, where it is verified, is copied, SYS.WORLD is set from its header and hart 0 starts there; else no
hart starts (assumption log 10). -/
def State.startFirmware (s : State) (boot : Boot) : State :=
  if !boot.hostVerified then s
  else
    let s1 := s.setMem { s.m with mem := Memory.writes s.m.mem firmwareOffset boot.firmware }
    let s2 := s1.setSys { s1.r with world := boot.hostSecure }
    s2.startHart 0 (s2.r.pkg * 2 ^ 48 + firmwareOffset)

/-- A measurement that boot supplies. -/
def bootMeasure (boot : Boot) (i : Nat) : BitVec 384 :=
  BitVec.ofNat 384 (((boot.measurements.find? (fun p => p.1 == i)).map Prod.snd).getD 0)

/-- POWER_GOOD: the four steps of boot, once. A controller whose own image fails its verification boots nothing (R457; assumption
log 10). -/
def execPowerGood (boot : Boot) (s : State) : Result :=
  if s.powered || s.n.off || !boot.ownVerified then .next s
  else
    let pkg := boot.package.toNat
    let present := Nat.lor boot.present.toNat (2 ^ pkg)
    let up := Nat.land boot.linkUp.toNat (fittedPorts pkg present)
    let retired := boot.retired.foldl (fun l sh => if sh < SYS_SHARES then insertNat sh l else l) []
    let s1 := s.setMem { s.m with
      mem := []
      poison := []
      retired := retired
      tdbs := []
      shardMap := [] }
    let s2 := s1.setCores (boot.fuses.foldl (fun t p => if p.1 < 512 then Tab.set t p.1 (fusedCore p.2) else t) s1.v.cores)
    let s3 := s2.setSys { s2.r with
      pkg := pkg
      present := present
      alive := present
      linkUp := up }
    let s4 := s3.setNode { s3.n with
      ports := (List.range 7).map (fun p => (p, (⟨17, false, if bit up p then none else some s3.clock, 0, false⟩ : Port)))
      measured := [(1, bootMeasure boot 1), (2, Config.sha384 boot.firmware), (3, bootMeasure boot 3), (4, bootMeasure boot 4)]
      fuses := boot.fuses.filter (fun p => p.1 < 512)
      address := boot.address.toNat }
    .next (State.startFirmware { s4 with powered := true } boot)

/-! ## Xankor Link (R461, R464, R485) -/

/-- XANKOR_FLIT_RECEIVED: a flit whose CRC holds is delivered once, in the order of its class; for one that fails, the port asks for a
replay from the number it expects, which the next good flit answers (R461; the form of the request: assumption log 21). -/
def execXankorFlitReceived (port cls : Nat) (crcOk : Bool) (flit : List Byte) (s : State) : Result :=
  if 7 ≤ port || !bit s.r.linkUp port || flit.length != 256 then .next s
  else if crcOk then
    .next ((s.setNode { s.n with flits := s.n.flits ++ [(port, cls, flit)] }).updPort port (fun x =>
      { x with
        seq := x.seq + 1
        replay := false }))
  else .next ((s.updPort port (fun x => { x with replay := true })).sendLink 9 (s.peerOf port) (s.port port).seq [])

/-- A port goes down (R464). -/
def State.linkDown (s : State) (p : Nat) : State :=
  if 7 ≤ p || !bit s.r.linkUp p then s
  else (s.setSys { s.r with linkUp := Nat.xor s.r.linkUp (2 ^ p) }).updPort p (fun x => { x with down := some s.clock })

/-- XANKOR_LINK_DOWN of port `sel.x`. -/
def execXankorLinkDown (s : State) : Result := .next (s.linkDown s.sel.x)

/-- XANKOR_LINK_UP of port `sel.x`: LINKUP and source 3; a port towards a package that is not fitted stays down (R461). -/
def execXankorLinkUp (s : State) : Result :=
  let p := s.sel.x
  if 7 ≤ p || bit s.r.linkUp p || !bit s.r.present (s.peerOf p) || (s.port p).lanes < 12 then .next s
  else
    .next (((s.setSys { s.r with linkUp := Nat.lor s.r.linkUp (2 ^ p) }).updPort p (fun x => { x with down := none })).raiseIntr 3)

/-- LANE_RECALIBRATION of lane `sel.y` of port `sel.x`: its traffic moves to the spare and the flits under way are replayed, so
nothing that a program reads changes (R485). -/
def execLaneRecalibration (s : State) : Result := .next s

/-- XANKOR_LANE_FAILURE of lane `sel.y` of port `sel.x`: the spare replaces it, or the link narrows; below 12 lanes it goes
down (R485). -/
def execXankorLaneFailure (s : State) : Result :=
  let p := s.sel.x
  if 7 ≤ p || (s.port p).lanes = 0 then .next s
  else
    let s1 := (s.updPort p (fun x => { x with lanes := x.lanes - 1, spared := true })).raiseIntr 3
    .next (if (s1.port p).lanes < 12 then s1.linkDown p else s1)

/-! ## Coherence between packages (R462, R463) -/

/-- The package's own lines of a granule are recalled: write-backs under way reach memory and a dirty line is written back, so that the
copies of its agents are no longer modified; for OWNED they go, and what a write does to transactions and copies happens (R339), for
SHARED the line's directory entry names the other packages (R131). None while it is held: a write for the lock holder (R345), any request for a commit under way
(R340). -/
def State.recallOwn (s : State) (pa : Nat) (exclusive : Bool) : Option State :=
  ((s.drainAll).linesAtPa pa).foldl (fun (acc : Option State) p =>
    acc.bind (fun (s : State) =>
      let l := p.1
      let n := l.data.length
      let slice := some (l.bank / 16)
      if s.ticketHolds l.asid l.va n none || (exclusive && s.heldForLock slice l.asid l.va n none) then none
      else
        let s1 := if exclusive then s.noteWrite slice l.asid l.va n none
          else ((s.snoopHarts l.asid l.va n none false).cleanCopies l.asid l.va n).noteOthers l
        let s2 := s1.setMem { s1.m with
          lines := if exclusive then s1.m.lines.filter (fun x => !sameLine x l)
            else s1.m.lines.map (fun x => if sameLine x l then { x with dirty := false } else x) }
        some (if l.dirty then s2.doWriteBack ⟨l.asid, l.va, l.data⟩ else s2))) (some s.drainAll)

/-- REMOTE_LINE_REQUEST: a package asks for a granule of this package's memory, SHARED or OWNED; conflicting holders are
recalled, and it is granted (R462). -/
def execRemoteLineRequest (package pa : Nat) (exclusive : Bool) (s : State) : Result :=
  match s.paClass pa with
  | .memory off =>
    if package = s.r.pkg || 8 ≤ package || !bit s.r.alive package then .next s
    else
      match s.recallOwn pa exclusive with
      | none => .next s
      | some s1 =>
        let s2 := s1.recallHolders (pa / 64 * 64) 64 exclusive (some package) []
        if s2.poisonedAt (off / 64 * 64) 64 then .next (s2.sendLink 7 package (pa / 64 * 64) [])
        else
          let old := match s2.m.remoteHeld.find? (fun (e : Nat × BitVec 8 × Bool) => e.1 == off / 64) with
            | some e => e.2.1
            | none => 0
          let held := if exclusive then 1#8 <<< package else old ||| (1#8 <<< package)
          let s3 := s2.setMem { s2.m with
            remoteHeld := s2.m.remoteHeld.filter (fun (e : Nat × BitVec 8 × Bool) => e.1 != off / 64) ++ [(off / 64, held, exclusive)] }
          .next (s3.sendLink 5 package (pa / 64 * 64) (s3.physBytes (off / 64 * 64) 64))
  | _ => .next s

/-- Write-backs under way of a recalled granule return their data with the answer (R462, R463). -/
def State.recallQueue (s : State) (pa asid va : Nat) : State :=
  let hit (w : WriteBack) : Bool := w.asid == asid && w.va < va + 64 && va < w.va + w.data.length
  (s.m.wbq.filter hit).foldl (fun (s : State) w => s.sendLink 4 (pa / 2 ^ 48) (pa + w.va - va) w.data)
    (s.setMem { s.m with wbq := s.m.wbq.filter (fun w => !hit w) })

/-- A recalled granule of another package's frame: its line here returns its data if it is modified, and goes where the recall
invalidates (R463); a fill of it that is under way asks again. -/
def State.recallLine (sOld : State) (pa asid va : Nat) (invalidate : Bool) : State :=
  let s0 := sOld.recallQueue pa asid va
  let s := if invalidate then s0.resend asid va 64 else s0
  match s.m.lines.find? (fun l => l.asid == asid && l.va ≤ va && va < l.va + l.data.length) with
  | none => s
  | some l =>
    let n := l.data.length
    let s1 := if invalidate then (s.invalidate asid l.va n).snoopHarts asid l.va n none true
      else (s.snoopHarts asid l.va n none false).cleanCopies asid l.va n
    let s2 := s1.setMem { s1.m with
      lines := if invalidate then s1.m.lines.filter (fun x => !sameLine x l)
        else s1.m.lines.map (fun x => if sameLine x l then { x with dirty := false } else x) }
    if l.dirty then s2.sendLink 4 (pa / 2 ^ 48) (pa - (va - l.va)) l.data else s2

/-- RECALL_RECEIVED: applied by name through the remote-frame table; without an entry it finds no copy (R463, R491). -/
def execRecallReceived (pa : Nat) (invalidate : Bool) (s : State) : Result :=
  let g := pa / 64 * 64
  let names := s.m.remoteLines.filter (fun (e : Nat × Nat × Nat) => e.1 == g / 4096 * 4096)
  let s1 := names.foldl (fun (s : State) (e : Nat × Nat × Nat) => s.recallLine g e.2.1 (e.2.2 + g % 4096) invalidate) s
  .next (s1.sendLink 4 (g / 2 ^ 48) g [])

/-! ## PCIe (R479, R480) -/

/-- The agent of inbound traffic: non-secure and unprivileged, in ASID 0. -/
def inbound (id : Nat) : Agent := ⟨id, ⟨0, false, false, 0⟩, none⟩

/-- A message-signalled interrupt: address bits [63:12] all ones. -/
def isMsi (a : Nat) : Bool := a / 4096 == 2 ^ 52 - 1

def State.pcieDone (s : State) (port status : Nat) (data : List Byte) : State :=
  { s with out := s.out ++ [⟨.pcieAnswer, port, status, data⟩] }

/-- An inbound write of a port; none while it is held. -/
def State.pcieWrite (s : State) (port a : Nat) (data : List Byte) : Option State :=
  if isMsi a then some (s.raiseIntr (6 + port))
  else if a / 2 ^ 57 ≠ 0 then some (s.pcieDone port 1 [])
  else
    match s.store (inbound (724 + port)) a data with
    | (s1, .ok _) => some (s1.pcieDone port 0 [])
    | (_, .error .held) => none
    | (s1, .error _) => some (s1.pcieDone port 2 [])

/-- An inbound read of a port; none while it is held. -/
def State.pcieReadIn (s : State) (port a len : Nat) : Option State :=
  if a / 2 ^ 57 ≠ 0 then some (s.pcieDone port 1 [])
  else
    match s.load (inbound (724 + port)) a len with
    | (s1, .ok b) => some (s1.pcieDone port 0 b)
    | (_, .error .held) => none
    | (s1, .error _) => some (s1.pcieDone port 2 [])

/-! ## Ethernet (R481) -/

def ethOff (p : Nat) : Nat := 0x3A0 + 8 * p
def State.ethReg (s : State) (p : Nat) : Nat := (Tab.get s.r.other (ethOff p) 0).toNat
def State.setEth (s : State) (p tx rx : Nat) : State := s.setNode { s.n with eth := Tab.set s.n.eth p (tx, rx) }

/-- A descriptor that the port may read, at a physical address: owned, in memory that is neither poisoned nor secure, or in another
package's, which supplies it. -/
def State.descriptor (s : State) (pa : Nat) : Option Nat × State :=
  match s.paClass pa with
  | .memory off =>
    let d := ofBytes (s.physBytes off 32)
    (if s.poisonedAt off 32 || s.secureAt pa || !bit d 0 then none else some d, s)
  | .remote _ _ =>
    let r := s.ringBytes pa 32
    (if bit (ofBytes r.1) 0 then some (ofBytes r.1) else none, r.2)
  | _ => (none, s)

/-- A descriptor is done: STATUS and PRIO written and OWN cleared, for a receive LEN too, and source 8 set. -/
def State.descriptorDone (s : State) (pa d status prio : Nat) (len : Option Nat) : State :=
  let low := status * 16 + prio * 2
  let s1 := s.ctrlWrite ⟨false, false⟩ pa [BitVec.ofNat 8 low]
  let s2 := s1.ctrlWrite ⟨false, false⟩ (pa + 16) (bytesOf 2 (len.getD (bits d 128 16)))
  s2.raiseIntr 8

/-- A frame goes into the buffer of the next owned receive descriptor; without one it is dropped; none while its buffer is held. -/
def State.ethFrameIn (s0 : State) (port prio : Nat) (fcsOk : Bool) (frame : List Byte) : Option State :=
  let v := s0.ethReg port
  let idx := Tab.get s0.n.eth port (0, 0)
  let pa := bits v 12 40 * 4096 + 4096 + 32 * idx.2
  if !bit v 0 then some s0
  else
    let s := (s0.descriptor pa).2
    match (s0.descriptor pa).1 with
    | none => some s
    | some d =>
      let n := frame.length
      let next (s : State) : State := s.setEth port idx.1 ((idx.2 + 1) % 128)
      if !fcsOk then some (next (s.descriptorDone pa d 1 prio (some n)))
      else if min 9216 (bits d 128 16) < n then some (next (s.descriptorDone pa d 2 prio (some n)))
      else
        match s.store (inbound (728 + port)) (bits d 192 64) frame with
        | (s1, .ok _) => some (next (s1.descriptorDone pa d 0 prio (some n)))
        | (_, .error .held) => none
        | (s1, .error _) => some (next (s1.descriptorDone pa d 3 prio (some n)))

/-! ## Inbound traffic (R480, R481) -/

/-- The agent identifier of the port of inbound traffic. -/
def Inbound.agent : Inbound → Nat
  | .pcie port _ _ _ _ => 724 + port
  | .eth port _ _ _ => 728 + port

/-- Inbound traffic acts; none while its home holds it. -/
def State.takeInbound (s : State) : Inbound → Option State
  | .pcie port addr write len data => if write then s.pcieWrite port addr data else s.pcieReadIn port addr len
  | .eth port prio fcsOk frame => s.ethFrameIn port prio fcsOk frame

/-- Inbound traffic arrives: it acts, or waits behind what waits of its port, so that a port's requests are made in their order of
arrival (R480). -/
def State.arriveInbound (s : State) (m : Inbound) : State :=
  let later := s.setNode { s.n with inbound := s.n.inbound ++ [m] }
  if s.n.inbound.any (fun x => x.agent == m.agent) then later else (s.takeInbound m).getD later

/-- Inbound traffic that waited, in its order. -/
def State.settleInbound (s : State) : State :=
  s.n.inbound.foldl State.arriveInbound (s.setNode { s.n with inbound := [] })

/-- PCIE_INBOUND_REQUEST (R480). -/
def execPcieInboundRequest (port : Nat) (addr : Dword) (write : Bool) (len : Nat) (payload : List Byte) (s : State) : Result :=
  if 2 ≤ port then .next s else .next (s.arriveInbound (.pcie port addr.toNat write len payload))

/-- PCIE_MSI_WRITE (R480). -/
def execPcieMsiWrite (port : Nat) (addr : Dword) (s : State) : Result :=
  if 2 ≤ port then .next s else .next (s.arriveInbound (.pcie port addr.toNat true 0 []))

/-- PCIE_AER_ERROR of port `sel.x` (R479). -/
def execPcieAerError (s : State) : Result := if s.sel.x < 2 then .next (s.raiseIntr (6 + s.sel.x)) else .next s

/-! ## Ethernet rings (R481) -/

/-- ETH_ENABLE: a write of SYS.ETH p; with EN = 1 both rings run from descriptor 0. -/
def execEthEnable (port : Nat) (value : Dword) (s : State) : Result :=
  if 4 ≤ port then .next s
  else
    let v := bits value.toNat 12 40 * 4096 + value.toNat % 2
    let s1 := s.setOther (ethOff port) v
    .next (if bit v 0 then s1.setEth port 0 0 else s1)

/-- ETH_TRANSMIT of port `sel.x`: the frame of the next owned transmit descriptor is sent. -/
def execEthTransmit (s0 : State) : Result :=
  let p := s0.sel.x
  let v := s0.ethReg p
  let idx := Tab.get s0.n.eth p (0, 0)
  let pa := bits v 12 40 * 4096 + 32 * idx.1
  if 4 ≤ p || !bit v 0 then .next s0
  else
    let s := (s0.descriptor pa).2
    match (s0.descriptor pa).1 with
    | none => .next s
    | some d =>
      let len := bits d 128 16
      let prio := bits d 1 3
      let next (s : State) : State := s.setEth p ((idx.1 + 1) % 128) idx.2
      if len < 60 || 9216 < len then .next (next (s.descriptorDone pa d 2 prio none))
      else
        match s.load (inbound (728 + p)) (bits d 192 64) len with
        | (s1, .ok b) => .next (next (State.descriptorDone { s1 with out := s1.out ++ [⟨.ethFrame, p, prio, b⟩] } pa d 0 prio none))
        | (_, .error .held) => .next s
        | (s1, .error _) => .next (next (s1.descriptorDone pa d 3 prio none))

/-- ETH_RECEIVE. -/
def execEthReceive (port : Nat) (prio : BitVec 3) (fcsOk : Bool) (frame : List Byte) (s : State) : Result :=
  if 4 ≤ port then .next s else .next (s.arriveInbound (.eth port prio.toNat fcsOk frame))

/-! ## The management and security controller (R482 to R484) -/

/-- A reply of the controller, tagged with the code of the request that it answers and with the requester's nonce `sel.x`. What the cited
standards fix of it is a free value (assumption log 7). -/
def State.reply (s : State) (code : Nat) (data : List Byte) : State :=
  { s with fresh := s.fresh + 1, out := s.out ++ [⟨.reply, code, s.sel.x, data ++ Config.answer s.fresh⟩] }

def execGetVersion (s : State) : Result := .next (s.reply 0x84 [])
def execGetCapabilities (s : State) : Result := .next (s.reply 0xE1 [])
def execNegotiateAlgorithms (s : State) : Result := .next (s.reply 0xE3 [])
def execGetDigests (s : State) : Result := .next (s.reply 0x81 [])
def execGetCertificate (s : State) : Result := .next (s.reply 0x82 [])
def execChallenge (s : State) : Result := .next (s.reply 0x83 [])

/-- What index 5 measures: the fuse record and the retired-share table. -/
def State.fuseBytes (s : State) : List Byte :=
  s.n.fuses.flatMap (fun p => bytesOf 2 p.1 ++ p.2.flatMap (bytesOf 1)) ++ s.m.retired.flatMap (bytesOf 2)

/-- What index 6 measures: SYS.WORLD and SYS.SECRANGE. -/
def State.worldBytes (s : State) : List Byte :=
  bytesOf 8 s.r.world.toNat ++ (List.range 8).flatMap (fun n => bytesOf 8 (Tab.get s.r.secRange n 0).toNat)

/-- The measurement of an index (R482). -/
def State.measurement (s : State) (i : Nat) : BitVec 384 :=
  if i = 5 then Config.sha384 s.fuseBytes else if i = 6 then Config.sha384 s.worldBytes else Tab.get s.n.measured i 0

/-- GET_MEASUREMENTS: the measurements held, each with its index (R482). -/
def execGetMeasurements (s : State) : Result :=
  .next (s.reply 0xE0 ([1, 2, 3, 4, 5, 6].flatMap (fun i => bytesOf 1 i ++ bytesOf 48 (s.measurement i).toNat)))

def State.setSession (s : State) (x : Session) : State := s.setNode { s.n with session := x }

/-- KEY_EXCHANGE, FINISH and END_SESSION open and end the responder's session (R482; assumption log 7). -/
def execKeyExchange (s : State) : Result := .next ((s.setSession .keyed).reply 0xE4 [])
def execFinish (s : State) : Result := .next ((if s.n.session = .keyed then s.setSession .open_ else s).reply 0xE5 [])
def execEndSession (s : State) : Result := .next ((s.setSession .none).reply 0xEC [])

/-- PLDM_SENSOR_READ: the reading of a sensor is returned (R483). -/
def execPldmSensorRead (sensor : Sensor) (reading : Nat) (s : State) : Result :=
  let k := match sensor with | .power => 0 | .temperature => 1 | .coolantFlow => 2
  .next { s with out := s.out ++ [⟨.reply, 0x100 + k, 0, bytesOf 4 reading⟩] }

/-- An activation may take place: 1 ms has passed since the last. -/
def State.firmwareDue (s : State) : Bool := match s.n.activated with | some t => decide (t + millisecond ≤ s.clock) | none => true

/-- The controller of a part is quiet: no request waits at a memory controller, and the links carry no message of a round, nor the unit
a round or a reform (R484). -/
def State.quiet (s : State) (part : Nat) : Bool :=
  if part = 3 then !s.v.reqs.any (fun p => p.2.stage == .controller)
  else part != 4 || s.c.all (fun p => p.2.open_.isEmpty && p.2.reform.isNone && p.2.mail.isEmpty)

/-- The oldest staged image is activated once its controller is quiet, one at a time and 1 ms apart; it replaces the part's measurement
(R482, R484). -/
def State.settleFirmware (s : State) : State :=
  match s.n.staged with
  | [] => s
  | (k, m) :: rest =>
    if s.firmwareDue && s.quiet k then
      s.setNode { s.n with
        measured := Tab.set s.n.measured k m
        activated := some s.clock
        staged := rest }
    else s

/-- FIRMWARE_ACTIVATION of the part with this measurement index: a verified image is staged, and activated as soon as it may be (R484). -/
def execFirmwareActivation (controller : Nat) (measurement : BitVec 384) (verified : Bool) (s : State) : Result :=
  if verified && (controller == 1 || controller == 3 || controller == 4) then
    .next (State.settleFirmware (s.setNode { s.n with staged := s.n.staged ++ [(controller, measurement)] }))
  else .next s

/-! ## Power and temperature (R488, R489) -/

/-- SYS.POWERCAP with another FREQ and DRAW. -/
def State.setFreq (s : State) (freq draw : Nat) : State :=
  s.setSys { s.r with powercap := BitVec.ofNat 64 (freq % 256 * 2 ^ 32 + draw % 65536 * 65536 + s.r.powercap.toNat % 65536) }

/-- The controller's in-band interrupt for a thermal event: 0 a junction at 105 °C, 1 the removal of power (R483). -/
def State.inBand (s : State) (event : Nat) : State := { s with out := s.out ++ [⟨.inBand, s.n.address, event, []⟩] }

/-- FREQ may fall again: 1 ms has passed since it last fell (R488). -/
def State.fallDue (s : State) : Bool := match s.n.lowered with | some t => decide (t + millisecond ≤ s.clock) | none => true

/-- POWER_CAP_EXCEEDED: a millisecond's DRAW, and whether a junction stands at 105 °C. With either condition the clock drops
0.1 GHz, once in a millisecond and down to 1.5 GHz; with neither, the 10 ms of R488 run. -/
def execPowerCapExceeded (draw : BitVec 16) (hot : Bool) (s : State) : Result :=
  let v := s.r.powercap.toNat
  let freq := bits v 32 8
  if v % 65536 < draw.toNat || hot then
    let s1 := s.setFreq (if s.fallDue then max (min freq 15) (freq - 1) else freq) draw.toNat
    let s2 := (s1.setNode { s1.n with
      cool := none
      lowered := if s.fallDue then some s.clock else s.n.lowered }).raiseIntr 9
    .next (if hot then s2.inBand 0 else s2)
  else
    .next ((s.setFreq freq draw.toNat).setNode { s.n with cool := match s.n.cool with | some t => some t | none => some s.clock })

/-- CLOCK_RAISE: both conditions have been clear for 10 ms, and the clock rises 0.1 GHz. -/
def execClockRaise (s : State) : Result :=
  let v := s.r.powercap.toNat
  let freq := bits v 32 8
  match s.n.cool with
  | some t =>
    if t + 10 * millisecond ≤ s.clock && freq < 30 then .next ((s.setFreq (freq + 1) (bits v 16 16)).raiseIntr 9) else .next s
  | none => .next s

/-- JUNCTION_OVERTEMP: power is removed, and the peers hear of it (R489). -/
def execJunctionOvertemp (s : State) : Result :=
  let s1 := ((onesOf 8 s.r.alive).filter (fun q => q != s.r.pkg)).foldl (fun (s : State) q => s.sendLink 8 q 0 []) s
  .next (((s1.setNode { s1.n with off := true }).raiseIntr 9).inBand 1)

end Sys2Proof.Machine
end

