-- ==== Sys2Proof/Machine/Predicate.lean ====
section
/-! DEFINITION. Predicates (R224, R225), the scalar pipe (R226 to R228) and special values (R229, R230): opcodes 0x30 to
0x3D and 0x0E. -/

namespace Sys2Proof.Machine

open Sys2Proof

/-- PSET (R224). -/
def execPset (f : Slot) (s : State) : Result := s.lanewiseP 0x30 f (fun g l => readB1 f g l.th != 0)

/-- Two predicate sources; .NB negates B (R224). -/
def State.predOp (s : State) (op : Nat) (f : Slot) (g : Bool → Bool → Bool) : Result :=
  s.lanewiseP op f (fun _ l => g (l.th.pred f.a.toNat) (l.th.pred f.b.toNat != (Rule.sub f == 1)))

/-- PAND (R224). -/
def execPand (f : Slot) (s : State) : Result := s.predOp 0x31 f Bool.and
/-- POR (R224). -/
def execPor (f : Slot) (s : State) : Result := s.predOp 0x32 f Bool.or
/-- PXOR (R224). -/
def execPxor (f : Slot) (s : State) : Result := s.predOp 0x33 f Bool.xor
/-- PNOT (R224). -/
def execPnot (f : Slot) (s : State) : Result := s.lanewiseP 0x34 f (fun _ l => !l.th.pred f.a.toNat)
/-- PMOV (R224). -/
def execPmov (f : Slot) (s : State) : Result := s.lanewiseP 0x35 f (fun _ l => l.th.pred f.a.toNat)

/-- Executing lanes in which pA is true, as a mask (R225). -/
def ballot (f : Slot) (ls : List LaneV) : Nat := maskOf ((ls.filter (fun l => l.run && l.th.pred f.a.toNat)).map (·.lane))

/-- PBALLOT (R225). -/
def execPballot (f : Slot) (s : State) : Result :=
  s.acrossLanes 0x36 f (fun _ ls _ t => t.setVal f.d.toNat 2 (ballot f ls))
/-- PANY (R225). -/
def execPany (f : Slot) (s : State) : Result :=
  s.acrossLanes 0x37 f (fun _ ls _ t => t.setPred f.d.toNat (ls.any (fun l => l.run && l.th.pred f.a.toNat)))
/-- PALL (R225). -/
def execPall (f : Slot) (s : State) : Result :=
  s.acrossLanes 0x38 f (fun _ ls _ t => t.setPred f.d.toNat (ls.all (fun l => !l.run || l.th.pred f.a.toNat)))

/-! ## The scalar pipe -/

/-- The scalars that a slot reads: sources, and the kept half of SMOVI.HI (R227). -/
def scalarSources (op : Nat) (f : Slot) : List Nat :=
  ((operandsOf op f).filter (fun o => o.kind == .scal && !o.write)).map (·.idx)
    ++ (if op = 0x39 && Rule.sub f = 1 then [f.d.toNat] else [])

/-- A scalar form: a converged group with every scalar source valid, or STALESCALAR for the group (R226). -/
def State.scalarOp (s : State) (op : Nat) (f : Slot) (eff : State → Nat → Group → List LaneV → State) : Result :=
  s.issue op f (fun gid g ls =>
    if s.converged g && (scalarSources op f).all (fun n => (Tab.look g.scalars n).isSome) then
      ((eff s gid g ls).advance gid g ls).after
    else s.groupTrap gid g ls .staleScalar)

def Group.scalar (g : Group) (n : Nat) : Nat := (Tab.get g.scalars n 0).toNat

/-- Write a scalar, which makes it valid (R44). -/
def State.setScalar (s : State) (gid n v : Nat) : State :=
  s.updGroup gid (fun g => { g with scalars := Tab.set g.scalars n (BitVec.ofNat 64 v) })

/-- Operand B of a scalar form (R226). -/
def scalarB (f : Slot) (g : Group) : Nat := if Rule.imm f then immVal (Rule.ty f) f.i32 else g.scalar f.b.toNat

/-- SMOVI (R227). -/
def execSmovi (f : Slot) (s : State) : Result :=
  s.scalarOp 0x39 f (fun s gid g _ =>
    s.setScalar gid f.d.toNat
      (if Rule.sub f = 0 then immVal (Rule.ty f) f.i32 else f.i32.toNat * 4294967296 + g.scalar f.d.toNat % 4294967296))

/-- SGET (R227). -/
def execSget (f : Slot) (s : State) : Result :=
  s.scalarOp 0x3A f (fun s _ g ls =>
    let v := g.scalar f.a.toNat
    s.writeD f (wOf f) ls (fun _ => if Rule.sub f = 1 then v / 4294967296 else if wOf f = 2 then v else v % 4294967296))

/-- SPUT (R227). -/
def execSput (f : Slot) (s : State) : Result :=
  s.scalarOp 0x3B f (fun s gid _ ls =>
    match ls.find? (fun l => l.lane == f.i32.toNat) with
    | none => s
    | some l =>
      let v := readA f l.th (wOf f)
      s.setScalar gid f.d.toNat (if Rule.ty f = 3 then wrap 64 (signed 32 v) else v))

/-- The exact result of a SALU operation (R228). -/
def saluExact (f : Slot) (a b : Nat) : Int :=
  let t := Rule.ty f
  match Rule.sub f with
  | 0 => readInt t a + readInt t b
  | 1 => readInt t a - readInt t b
  | 2 => readInt t a * readInt t b
  | 3 => (Nat.land a b : Nat)
  | 4 => (Nat.lor a b : Nat)
  | 5 => (Nat.xor a b : Nat)
  | 6 => (shiftLeft 64 a b : Nat)
  | _ => if t = 4 then (shiftArith 64 a b : Nat) else (shiftRight 64 a b : Nat)

/-- SALU (R228). -/
def execSalu (f : Slot) (s : State) : Result :=
  s.scalarOp 0x3C f (fun s gid g _ =>
    s.setScalar gid f.d.toNat
      (writeInt (Rule.ty f) (satInt (Rule.sat f) (Rule.ty f) (saluExact f (g.scalar f.a.toNat) (scalarB f g)))))

/-- SCMP (R227). -/
def execScmp (f : Slot) (s : State) : Result :=
  s.scalarOp 0x3D f (fun s _ g ls =>
    let t := Rule.ty f
    s.writeP f ls (fun _ => condInt (Rule.sub f) (readInt t (g.scalar f.a.toNat)) (readInt t (scalarB f g))))

/-! ## Special values -/

/-- LFLAGS (R229): tolerant predecessors that ended POISONED. -/
def Launch.lflags (l : Launch) : Nat :=
  maskOf ((List.range 4).filter (fun k => bit l.record.tolerant k && l.predFinal.getD k none == some .poisoned))

/-- The value of a selector of SREG for a lane (R229, R230). That CLOCK reads the same on every die, where R230 allows readings to differ
by up to 2, is the model's choice (assumption log 59). -/
def State.special (s : State) (sel : Nat) (g : Group) (l : LaneV) : Nat :=
  match s.block? g.block with
  | none => 0
  | some b =>
    match s.launchOf b with
    | none => 0
    | some la =>
      let r := la.record
      let core := b.core.getD 0
      match sel with
      | 0 => l.lane
      | 1 => l.lane / 4
      | 2 => g.record
      | 3 => b.index
      | 4 => b.index % r.gdimx
      | 5 => b.index / r.gdimx % r.gdimy
      | 6 => b.index / (r.gdimx * r.gdimy)
      | 7 => r.gdimx
      | 8 => r.gdimy
      | 9 => r.gdimz
      | 10 => l.th.tid
      | 11 => r.ntid
      | 12 => l.th.slot
      | 13 => core
      | 14 => clusterOf core
      | 15 => dieOf core
      | 16 => s.r.pkg
      | 17 => b.cls
      | 18 => handleOf b.launch la
      | 19 => la.lflags
      | 20 => b.gangPos
      | 21 => b.gangSize
      | 22 => if s.converged g then 1 else 0
      | 23 => l.th.draws.toNat
      | 32 => s.clock
      | 33 => r.seed.toNat
      | _ => 0

/-- SREG (R229). -/
def execSreg (f : Slot) (s : State) : Result :=
  s.lanewiseD 0x0E f (if f.i32.toNat < 32 then 1 else 2) (fun g l => s.special f.i32.toNat g l)

end Sys2Proof.Machine
end

