-- ==== Sys2Proof/Machine/Slow.lean ====
section
/-! DEFINITION. Variable-latency arithmetic: IDIV (R218) and opcodes 0x50 to 0x58 (R291 to R293). Sources are read at
issue, and the result is written at completion (R281). -/

namespace Sys2Proof.Machine

open Sys2Proof

/-- A variable-latency instruction that computes from the registers of each executing lane: results of `w` registers wait
for completion; a draw is taken at issue. -/
def State.slowOp (s : State) (op : Nat) (f : Slot) (w : Nat) (val : Group → LaneV → Thread → Nat × BitVec 32) : Result :=
  s.issue op f (fun gid g ls =>
    if staleScalar (s.converged g) g f then s.groupTrap gid g ls .staleScalar
    else
      let run := ls.filter (·.run)
      let res (l : LaneV) : Nat × BitVec 32 :=
        match s.thread? l.key with
        | some t => val g l t
        | none => (0, 0)
      let r := s.startOp gid g op f (run.map (fun l => { laneOp l 0 [] [] .done with res := wordsOf w (res l).1 }))
      ((r.1.eachLane run (fun l t => { t with draws := (res l).2 })).advance gid g ls).after)

/-- Quotient or remainder of R218. -/
def divide (f : Slot) (a b : Int) : Nat :=
  let ty := Rule.ty f
  let sg := tySigned ty
  if Rule.sub f = 1 then (if b = 0 then wrap 32 a else wrap 32 (a.tmod b))
  else if b = 0 then
    (if !Rule.sat f || !sg then 0xFFFFFFFF else if a < 0 then 0x80000000 else 0x7FFFFFFF)
  else wrap 32 (satInt (Rule.sat f) ty (a.tdiv b))

/-- IDIV (R218). -/
def execIdiv (f : Slot) (s : State) : Result :=
  s.slowOp 0x15 f 1 (fun g l t => (divide f (intA f l.th) (intB f g l.th), t.draws))

/-- A form of R291: the elements of the result, rounded in order. -/
def State.slowFloat (s : State) (op : Nat) (f : Slot) (exact : Group → Thread → Nat → Val) : Result :=
  s.slowOp op f (wOf f) (fun g l t =>
    let xs := (List.range (elemCount (Rule.ty f))).map (exact g l.th)
    let r := roundElems (s.drawer t.block t.tid) (fmtOf (Rule.ty f)) (Rule.rnd f) (Rule.ftz f) t.draws xs
    (ofElems (Rule.ty f) r.1, r.2))

/-- √a with the special results of R293; an inexact root lies strictly between two neighbours of a grid finer than any
rounding needs. -/
def rootOf (x : Val) : Val :=
  match x with
  | .fin true _ _ _ => .nan
  | .inf true => .nan
  | .fin false n _ e => sqrtVal n e
  | v => v

/-- 1/√a with the special results of R293. -/
def recipRoot (x : Val) : Val :=
  match x with
  | .nan => .nan
  | .zero s => .inf s
  | .inf s => if s then .nan else .zero false
  | .fin true _ _ _ => .nan
  | .fin false n _ e => rsqrtVal n e

/-- FRCP (R291). -/
def execFrcp (f : Slot) (s : State) : Result := s.slowFloat 0x50 f (fun _ t j => Val.div (Val.ofInt 1) (fA f t j))
/-- FSQRT (R291). -/
def execFsqrt (f : Slot) (s : State) : Result := s.slowFloat 0x52 f (fun _ t j => rootOf (fA f t j))
/-- FDIV (R291). -/
def execFdiv (f : Slot) (s : State) : Result := s.slowFloat 0x53 f (fun g t j => Val.div (fA f t j) (fB f g t j))

/-- A function that is correctly rounded to F32 or F64, or for a 16-bit type rounded from its F32 result (R292). `h` gives
the F32 code from an input and its bits. -/
def State.slowFunction (s : State) (op : Nat) (f : Slot) (h : Val → Nat → Nat) : Result :=
  s.slowFloat op f (fun _ t j =>
    let x := fA f t j
    decodeF fmtF32 (h x (codeOf fmtF32 x)))

/-- FRSQ (R292): F64 from the exact value, the others by way of F32. -/
def execFrsq (f : Slot) (s : State) : Result :=
  s.slowFloat 0x51 f (fun _ t j =>
    let v := recipRoot (fA f t j)
    if Rule.ty f = 14 then v else decodeF fmtF32 (codeOf fmtF32 v))
/-- FEXP2 (R292). -/
def execFexp2 (f : Slot) (s : State) : Result := s.slowFunction 0x54 f (elementary 0x54)
/-- FLOG2 (R292). -/
def execFlog2 (f : Slot) (s : State) : Result := s.slowFunction 0x55 f (elementary 0x55)
/-- FSIN (R292). -/
def execFsin (f : Slot) (s : State) : Result := s.slowFunction 0x56 f (elementary 0x56)
/-- FCOS (R292). -/
def execFcos (f : Slot) (s : State) : Result := s.slowFunction 0x57 f (elementary 0x57)
/-- FTANH (R292). -/
def execFtanh (f : Slot) (s : State) : Result := s.slowFunction 0x58 f (elementary 0x58)

end Sys2Proof.Machine
end

