-- ==== Sys2Proof/Machine/Dispatch.lean ====
section
/-! DEFINITION. One arm for each constructor of Instr. -/

namespace Sys2Proof.Machine

open Sys2Proof

def exec (i : Instr) (s : State) : Host.Outcome State Fault Refusal :=
  match i with
  | .nop f => Sys2Proof.Machine.execNop f s
  | .bra f => Sys2Proof.Machine.execBra f s
  | .brx f => Sys2Proof.Machine.execBrx f s
  | .call f => Sys2Proof.Machine.execCall f s
  | .callx f => Sys2Proof.Machine.execCallx f s
  | .ret f => Sys2Proof.Machine.execRet f s
  | .exit f => Sys2Proof.Machine.execExit f s
  | .trap f => Sys2Proof.Machine.execTrap f s
  | .reform f => Sys2Proof.Machine.execReform f s
  | .yield f => Sys2Proof.Machine.execYield f s
  | .spawn f => Sys2Proof.Machine.execSpawn f s
  | .launch f => Sys2Proof.Machine.execLaunch f s
  | .lwait f => Sys2Proof.Machine.execLwait f s
  | .lstat f => Sys2Proof.Machine.execLstat f s
  | .sreg f => Sys2Proof.Machine.execSreg f s
  | .iadd f => Sys2Proof.Machine.execIadd f s
  | .isub f => Sys2Proof.Machine.execIsub f s
  | .imul f => Sys2Proof.Machine.execImul f s
  | .imulh f => Sys2Proof.Machine.execImulh f s
  | .imad f => Sys2Proof.Machine.execImad f s
  | .idiv f => Sys2Proof.Machine.execIdiv f s
  | .imin f => Sys2Proof.Machine.execImin f s
  | .imax f => Sys2Proof.Machine.execImax f s
  | .iabs f => Sys2Proof.Machine.execIabs f s
  | .ineg f => Sys2Proof.Machine.execIneg f s
  | .and f => Sys2Proof.Machine.execAnd f s
  | .or f => Sys2Proof.Machine.execOr f s
  | .xor f => Sys2Proof.Machine.execXor f s
  | .not f => Sys2Proof.Machine.execNot f s
  | .shl f => Sys2Proof.Machine.execShl f s
  | .shr f => Sys2Proof.Machine.execShr f s
  | .sar f => Sys2Proof.Machine.execSar f s
  | .rot f => Sys2Proof.Machine.execRot f s
  | .bfe f => Sys2Proof.Machine.execBfe f s
  | .bfi f => Sys2Proof.Machine.execBfi f s
  | .popc f => Sys2Proof.Machine.execPopc f s
  | .clz f => Sys2Proof.Machine.execClz f s
  | .brev f => Sys2Proof.Machine.execBrev f s
  | .isel f => Sys2Proof.Machine.execIsel f s
  | .icmp f => Sys2Proof.Machine.execIcmp f s
  | .iadd64 f => Sys2Proof.Machine.execIadd64 f s
  | .imad64 f => Sys2Proof.Machine.execImad64 f s
  | .lea f => Sys2Proof.Machine.execLea f s
  | .mov f => Sys2Proof.Machine.execMov f s
  | .movi f => Sys2Proof.Machine.execMovi f s
  | .pset f => Sys2Proof.Machine.execPset f s
  | .pand f => Sys2Proof.Machine.execPand f s
  | .por f => Sys2Proof.Machine.execPor f s
  | .pxor f => Sys2Proof.Machine.execPxor f s
  | .pnot f => Sys2Proof.Machine.execPnot f s
  | .pmov f => Sys2Proof.Machine.execPmov f s
  | .pballot f => Sys2Proof.Machine.execPballot f s
  | .pany f => Sys2Proof.Machine.execPany f s
  | .pall f => Sys2Proof.Machine.execPall f s
  | .smovi f => Sys2Proof.Machine.execSmovi f s
  | .sget f => Sys2Proof.Machine.execSget f s
  | .sput f => Sys2Proof.Machine.execSput f s
  | .salu f => Sys2Proof.Machine.execSalu f s
  | .scmp f => Sys2Proof.Machine.execScmp f s
  | .fadd f => Sys2Proof.Machine.execFadd f s
  | .fsub f => Sys2Proof.Machine.execFsub f s
  | .fmul f => Sys2Proof.Machine.execFmul f s
  | .fma f => Sys2Proof.Machine.execFma f s
  | .fmin f => Sys2Proof.Machine.execFmin f s
  | .fmax f => Sys2Proof.Machine.execFmax f s
  | .fabs f => Sys2Proof.Machine.execFabs f s
  | .fneg f => Sys2Proof.Machine.execFneg f s
  | .fcmp f => Sys2Proof.Machine.execFcmp f s
  | .fsel f => Sys2Proof.Machine.execFsel f s
  | .fclass f => Sys2Proof.Machine.execFclass f s
  | .fscale f => Sys2Proof.Machine.execFscale f s
  | .frnd f => Sys2Proof.Machine.execFrnd f s
  | .fdot2 f => Sys2Proof.Machine.execFdot2 f s
  | .frcp f => Sys2Proof.Machine.execFrcp f s
  | .frsq f => Sys2Proof.Machine.execFrsq f s
  | .fsqrt f => Sys2Proof.Machine.execFsqrt f s
  | .fdiv f => Sys2Proof.Machine.execFdiv f s
  | .fexp2 f => Sys2Proof.Machine.execFexp2 f s
  | .flog2 f => Sys2Proof.Machine.execFlog2 f s
  | .fsin f => Sys2Proof.Machine.execFsin f s
  | .fcos f => Sys2Proof.Machine.execFcos f s
  | .ftanh f => Sys2Proof.Machine.execFtanh f s
  | .cvt f => Sys2Proof.Machine.execCvt f s
  | .cvts f => Sys2Proof.Machine.execCvts f s
  | .pack f => Sys2Proof.Machine.execPack f s
  | .unpack f => Sys2Proof.Machine.execUnpack f s
  | .qswap f => Sys2Proof.Machine.execQswap f s
  | .qbcast f => Sys2Proof.Machine.execQbcast f s
  | .shfl f => Sys2Proof.Machine.execShfl f s
  | .shflup f => Sys2Proof.Machine.execShflup f s
  | .shfldn f => Sys2Proof.Machine.execShfldn f s
  | .shflx f => Sys2Proof.Machine.execShflx f s
  | .voteUni f => Sys2Proof.Machine.execVoteUni f s
  | .voteMatch f => Sys2Proof.Machine.execVoteMatch f s
  | .redux f => Sys2Proof.Machine.execRedux f s
  | .scan f => Sys2Proof.Machine.execScan f s
  | .ld f => Sys2Proof.Machine.execLd f s
  | .st f => Sys2Proof.Machine.execSt f s
  | .lds f => Sys2Proof.Machine.execLds f s
  | .sts f => Sys2Proof.Machine.execSts f s
  | .ldfW f => Sys2Proof.Machine.execLdfW f s
  | .ldfC f => Sys2Proof.Machine.execLdfC f s
  | .stfW f => Sys2Proof.Machine.execStfW f s
  | .stfS f => Sys2Proof.Machine.execStfS f s
  | .femarkEmpty f => Sys2Proof.Machine.execFemarkEmpty f s
  | .femarkFull f => Sys2Proof.Machine.execFemarkFull f s
  | .prefL1 f => Sys2Proof.Machine.execPrefL1 f s
  | .prefTarn f => Sys2Proof.Machine.execPrefTarn f s
  | .atom f => Sys2Proof.Machine.execAtom f s
  | .cas f => Sys2Proof.Machine.execCas f s
  | .red f => Sys2Proof.Machine.execRed f s
  | .poll f => Sys2Proof.Machine.execPoll f s
  | .copy f => Sys2Proof.Machine.execCopy f s
  | .copym f => Sys2Proof.Machine.execCopym f s
  | .discard f => Sys2Proof.Machine.execDiscard f s
  | .cflushWb f => Sys2Proof.Machine.execCflushWb f s
  | .cflushInv f => Sys2Proof.Machine.execCflushInv f s
  | .cinv f => Sys2Proof.Machine.execCinv f s
  | .tarnDef f => Sys2Proof.Machine.execTarnDef f s
  | .tarnGrow f => Sys2Proof.Machine.execTarnGrow f s
  | .tarnShrink f => Sys2Proof.Machine.execTarnShrink f s
  | .tarnMove f => Sys2Proof.Machine.execTarnMove f s
  | .tarnRetire f => Sys2Proof.Machine.execTarnRetire f s
  | .xlateInvAttr f => Sys2Proof.Machine.execXlateInvAttr f s
  | .xlateInvLines f => Sys2Proof.Machine.execXlateInvLines f s
  | .xlateInvAttrall f => Sys2Proof.Machine.execXlateInvAttrall f s
  | .xlateInvLinesall f => Sys2Proof.Machine.execXlateInvLinesall f s
  | .poisonClear f => Sys2Proof.Machine.execPoisonClear f s
  | .fence f => Sys2Proof.Machine.execFence f s
  | .barArrive f => Sys2Proof.Machine.execBarArrive f s
  | .barWait f => Sys2Proof.Machine.execBarWait f s
  | .sbarArrive f => Sys2Proof.Machine.execSbarArrive f s
  | .sbarTest f => Sys2Proof.Machine.execSbarTest f s
  | .sbarWait f => Sys2Proof.Machine.execSbarWait f s
  | .tbegin f => Sys2Proof.Machine.execTbegin f s
  | .tcommit f => Sys2Proof.Machine.execTcommit f s
  | .tabort f => Sys2Proof.Machine.execTabort f s
  | .tstat f => Sys2Proof.Machine.execTstat f s
  | .mwinAlloc f => Sys2Proof.Machine.execMwinAlloc f s
  | .mwinSub f => Sys2Proof.Machine.execMwinSub f s
  | .mwinFree f => Sys2Proof.Machine.execMwinFree f s
  | .mwinQuery f => Sys2Proof.Machine.execMwinQuery f s
  | .obres f => Sys2Proof.Machine.execObres f s
  | .obfree f => Sys2Proof.Machine.execObfree f s
  | .mload f => Sys2Proof.Machine.execMload f s
  | .mloadPeer f => Sys2Proof.Machine.execMloadPeer f s
  | .mma f => Sys2Proof.Machine.execMma f s
  | .mmas f => Sys2Proof.Machine.execMmas f s
  | .mtrans f => Sys2Proof.Machine.execMtrans f s
  | .mperm f => Sys2Proof.Machine.execMperm f s
  | .mrsum f => Sys2Proof.Machine.execMrsum f s
  | .mzero f => Sys2Proof.Machine.execMzero f s
  | .mread f => Sys2Proof.Machine.execMread f s
  | .mwrite f => Sys2Proof.Machine.execMwrite f s
  | .weirOpen f => Sys2Proof.Machine.execWeirOpen f s
  | .weirPush f => Sys2Proof.Machine.execWeirPush f s
  | .weirTake f => Sys2Proof.Machine.execWeirTake f s
  | .weirTakeG f => Sys2Proof.Machine.execWeirTakeG f s
  | .weirDone f => Sys2Proof.Machine.execWeirDone f s
  | .weirDoneS f => Sys2Proof.Machine.execWeirDoneS f s
  | .weirCloseEnd f => Sys2Proof.Machine.execWeirCloseEnd f s
  | .weirCloseKill f => Sys2Proof.Machine.execWeirCloseKill f s
  | .inletAdd f => Sys2Proof.Machine.execInletAdd f s
  | .inletTake f => Sys2Proof.Machine.execInletTake f s
  | .inletDone f => Sys2Proof.Machine.execInletDone f s
  | .stillWait f => Sys2Proof.Machine.execStillWait f s
  | .stillWaitTest f => Sys2Proof.Machine.execStillWaitTest f s
  | .stillWaitHold f => Sys2Proof.Machine.execStillWaitHold f s
  | .stillWaitUnhold f => Sys2Proof.Machine.execStillWaitUnhold f s
  | .chanSend f => Sys2Proof.Machine.execChanSend f s
  | .chanRecv f => Sys2Proof.Machine.execChanRecv f s
  | .ctxSaveLaunch f => Sys2Proof.Machine.execCtxSaveLaunch f s
  | .ctxSaveAsid f => Sys2Proof.Machine.execCtxSaveAsid f s
  | .ctxSaveDie f => Sys2Proof.Machine.execCtxSaveDie f s
  | .ctxLoadLaunch f => Sys2Proof.Machine.execCtxLoadLaunch f s
  | .ctxLoadAsid f => Sys2Proof.Machine.execCtxLoadAsid f s
  | .ctxLoadDie f => Sys2Proof.Machine.execCtxLoadDie f s
  | .trapret f => Sys2Proof.Machine.execTrapret f s
  | .trapretTo f => Sys2Proof.Machine.execTrapretTo f s
  | .trapretGetpc f => Sys2Proof.Machine.execTrapretGetpc f s
  | .trapretGetcause f => Sys2Proof.Machine.execTrapretGetcause f s
  | .trapretGetaddr f => Sys2Proof.Machine.execTrapretGetaddr f s
  | .prio f => Sys2Proof.Machine.execPrio f s
  | .collAllred f => Sys2Proof.Machine.execCollAllred f s
  | .collBcast f => Sys2Proof.Machine.execCollBcast f s
  | .collWait f => Sys2Proof.Machine.execCollWait f s
  | .collWaitS f => Sys2Proof.Machine.execCollWaitS f s
  | .collReform f => Sys2Proof.Machine.execCollReform f s
  | .xlaunch rd rs1 => Sys2Proof.Machine.execXlaunch rd rs1 s
  | .xlwait rd rs1 => Sys2Proof.Machine.execXlwait rd rs1 s
  | .xfence ord scope => Sys2Proof.Machine.execXfence ord scope s
  | .xpoll rd rs1 rs2 => Sys2Proof.Machine.execXpoll rd rs1 rs2 s
  | .xdiscard rs1 rs2 => Sys2Proof.Machine.execXdiscard rs1 rs2 s
  | .xtxBegin rd => Sys2Proof.Machine.execXtxBegin rd s
  | .xtxCommit rd => Sys2Proof.Machine.execXtxCommit rd s
  | .xtxAbort code => Sys2Proof.Machine.execXtxAbort code s
  | .xtxStat rd => Sys2Proof.Machine.execXtxStat rd s
  | .laneSliceFailure core slice unreadable => Sys2Proof.Machine.execLaneSliceFailure core slice unreadable s
  | .memoryControllerAccess req remote => Sys2Proof.Machine.execMemoryControllerAccess req remote s
  | .snoopReceived agent asid va invalidate => Sys2Proof.Machine.execSnoopReceived agent asid va invalidate s
  | .shareretWrite value => Sys2Proof.Machine.execShareretWrite value s
  | .shareRetirementComplete share unreadable => Sys2Proof.Machine.execShareRetirementComplete share unreadable s
  | .refreshDue controller bank class3 => Sys2Proof.Machine.execRefreshDue controller bank class3 s
  | .inletEnable value => Sys2Proof.Machine.execInletEnable value s
  | .faultackReplay seq => Sys2Proof.Machine.execFaultackReplay seq s
  | .faultackDeliver seq => Sys2Proof.Machine.execFaultackDeliver seq s
  | .faultackKill seq => Sys2Proof.Machine.execFaultackKill seq s
  | .faultqWrite value => Sys2Proof.Machine.execFaultqWrite value s
  | .reclaimWrite value => Sys2Proof.Machine.execReclaimWrite value s
  | .tdbbaseWrite value => Sys2Proof.Machine.execTdbbaseWrite value s
  | .hoststartWrite hart value => Sys2Proof.Machine.execHoststartWrite hart value s
  | .ctxcmdSaveLaunch target => Sys2Proof.Machine.execCtxcmdSaveLaunch target s
  | .ctxcmdSaveAsid target => Sys2Proof.Machine.execCtxcmdSaveAsid target s
  | .ctxcmdSaveDie target => Sys2Proof.Machine.execCtxcmdSaveDie target s
  | .ctxcmdLoadLaunch target => Sys2Proof.Machine.execCtxcmdLoadLaunch target s
  | .ctxcmdLoadAsid target => Sys2Proof.Machine.execCtxcmdLoadAsid target s
  | .ctxcmdLoadDie target => Sys2Proof.Machine.execCtxcmdLoadDie target s
  | .nodeLoseWrite packages => Sys2Proof.Machine.execNodeLoseWrite packages s
  | .commMembersWrite slot value => Sys2Proof.Machine.execCommMembersWrite slot value s
  | .registerWrite offset value who => Sys2Proof.Machine.execRegisterWrite offset value who s
  | .hostAccess store funct3 reg rs1 imm => Sys2Proof.Machine.execHostAccess store funct3 reg rs1 imm s
  | .xankorFlitReceived port cls crcOk flit => Sys2Proof.Machine.execXankorFlitReceived port cls crcOk flit s
  | .remoteLineRequest package pa exclusive => Sys2Proof.Machine.execRemoteLineRequest package pa exclusive s
  | .recallReceived pa invalidate => Sys2Proof.Machine.execRecallReceived pa invalidate s
  | .collPartReceived slot seq sender header result part => Sys2Proof.Machine.execCollPartReceived slot seq sender header result part s
  | .collAbortReceived slot seq silent fault => Sys2Proof.Machine.execCollAbortReceived slot seq silent fault s
  | .reformExchange slot sender set => Sys2Proof.Machine.execReformExchange slot sender set s
  | .pcieInboundRequest port addr write len payload => Sys2Proof.Machine.execPcieInboundRequest port addr write len payload s
  | .pcieMsiWrite port addr => Sys2Proof.Machine.execPcieMsiWrite port addr s
  | .ethEnable port value => Sys2Proof.Machine.execEthEnable port value s
  | .ethReceive port prio fcsOk frame => Sys2Proof.Machine.execEthReceive port prio fcsOk frame s
  | .pldmSensorRead sensor reading => Sys2Proof.Machine.execPldmSensorRead sensor reading s
  | .powerGood boot => Sys2Proof.Machine.execPowerGood boot s
  | .firmwareActivation controller measurement verified => Sys2Proof.Machine.execFirmwareActivation controller measurement verified s
  | .powerCapExceeded draw hot => Sys2Proof.Machine.execPowerCapExceeded draw hot s
  | .unassignedOpcode op => Sys2Proof.Machine.execUnassignedOpcode op s
  | .hostIllegalInstruction word => Sys2Proof.Machine.execHostIllegalInstruction word s
  | .hostAsidCsrWrite funct3 rd rs1 => Sys2Proof.Machine.execHostAsidCsrWrite funct3 rd rs1 s
  | .hostFence fm pred succ => Sys2Proof.Machine.execHostFence fm pred succ s
  | .hostAtomic funct5 aq rl wide rd rs1 rs2 => Sys2Proof.Machine.execHostAtomic funct5 aq rl wide rd rs1 rs2 s
  | .lineEntry => Sys2Proof.Machine.execLineEntry s
  | .parityRefetch => Sys2Proof.Machine.execParityRefetch s
  | .regroupFlagWaitEnd => Sys2Proof.Machine.execRegroupFlagWaitEnd s
  | .coveAgeTimeout => Sys2Proof.Machine.execCoveAgeTimeout s
  | .yieldReleaseTimeout => Sys2Proof.Machine.execYieldReleaseTimeout s
  | .heldThreadAgeTimeout => Sys2Proof.Machine.execHeldThreadAgeTimeout s
  | .variableLatencyComplete => Sys2Proof.Machine.execVariableLatencyComplete s
  | .attributeRequest => Sys2Proof.Machine.execAttributeRequest s
  | .shardWalkComplete => Sys2Proof.Machine.execShardWalkComplete s
  | .homeSliceRequest => Sys2Proof.Machine.execHomeSliceRequest s
  | .directoryMerge => Sys2Proof.Machine.execDirectoryMerge s
  | .lineFillReturn => Sys2Proof.Machine.execLineFillReturn s
  | .storeAck => Sys2Proof.Machine.execStoreAck s
  | .writeBack => Sys2Proof.Machine.execWriteBack s
  | .xlateInvComplete => Sys2Proof.Machine.execXlateInvComplete s
  | .tarnLineMove => Sys2Proof.Machine.execTarnLineMove s
  | .tarnResizeComplete => Sys2Proof.Machine.execTarnResizeComplete s
  | .tarnDrainComplete => Sys2Proof.Machine.execTarnDrainComplete s
  | .uncorrectableEccError => Sys2Proof.Machine.execUncorrectableEccError s
  | .memoryUncorrectableError => Sys2Proof.Machine.execMemoryUncorrectableError s
  | .agentDeath => Sys2Proof.Machine.execAgentDeath s
  | .refreshRepay => Sys2Proof.Machine.execRefreshRepay s
  | .eccScrub => Sys2Proof.Machine.execEccScrub s
  | .pollBackoffEnd => Sys2Proof.Machine.execPollBackoffEnd s
  | .pollLimitElapsed => Sys2Proof.Machine.execPollLimitElapsed s
  | .copyGranule => Sys2Proof.Machine.execCopyGranule s
  | .copyEnd => Sys2Proof.Machine.execCopyEnd s
  | .copymDeliveryBegin => Sys2Proof.Machine.execCopymDeliveryBegin s
  | .copymDeliveryEnd => Sys2Proof.Machine.execCopymDeliveryEnd s
  | .txTimeout => Sys2Proof.Machine.execTxTimeout s
  | .commitTicketRequest => Sys2Proof.Machine.execCommitTicketRequest s
  | .sliceVote => Sys2Proof.Machine.execSliceVote s
  | .txPublish => Sys2Proof.Machine.execTxPublish s
  | .commitLockGrant => Sys2Proof.Machine.execCommitLockGrant s
  | .hostTxEvictionAbort => Sys2Proof.Machine.execHostTxEvictionAbort s
  | .hostTxTicketServed => Sys2Proof.Machine.execHostTxTicketServed s
  | .matrixPassGrant => Sys2Proof.Machine.execMatrixPassGrant s
  | .matrixPassEnd => Sys2Proof.Machine.execMatrixPassEnd s
  | .matrixEntryComplete => Sys2Proof.Machine.execMatrixEntryComplete s
  | .mloadDeliveryBegin => Sys2Proof.Machine.execMloadDeliveryBegin s
  | .mloadDeliveryEnd => Sys2Proof.Machine.execMloadDeliveryEnd s
  | .engineWatchdog => Sys2Proof.Machine.execEngineWatchdog s
  | .engineResetWrite => Sys2Proof.Machine.execEngineResetWrite s
  | .engineResetEnd => Sys2Proof.Machine.execEngineResetEnd s
  | .weirTakeService => Sys2Proof.Machine.execWeirTakeService s
  | .weirTakeTimeout => Sys2Proof.Machine.execWeirTakeTimeout s
  | .weirGatherComplete => Sys2Proof.Machine.execWeirGatherComplete s
  | .weirScatterComplete => Sys2Proof.Machine.execWeirScatterComplete s
  | .weirOwnAccessFault => Sys2Proof.Machine.execWeirOwnAccessFault s
  | .inletRingFault => Sys2Proof.Machine.execInletRingFault s
  | .launchSubmission => Sys2Proof.Machine.execLaunchSubmission s
  | .blockPlacement => Sys2Proof.Machine.execBlockPlacement s
  | .gangReservation => Sys2Proof.Machine.execGangReservation s
  | .gangFallbackTimeout => Sys2Proof.Machine.execGangFallbackTimeout s
  | .class3Claim => Sys2Proof.Machine.execClass3Claim s
  | .sliceExpiry => Sys2Proof.Machine.execSliceExpiry s
  | .blockSaveComplete => Sys2Proof.Machine.execBlockSaveComplete s
  | .faultRecordWrite => Sys2Proof.Machine.execFaultRecordWrite s
  | .c3PoliceWindow => Sys2Proof.Machine.execC3PoliceWindow s
  | .stackTakeout => Sys2Proof.Machine.execStackTakeout s
  | .dieIsolate => Sys2Proof.Machine.execDieIsolate s
  | .hostInterrupt => Sys2Proof.Machine.execHostInterrupt s
  | .linkDownTimeout => Sys2Proof.Machine.execLinkDownTimeout s
  | .peerPowerOffReport => Sys2Proof.Machine.execPeerPowerOffReport s
  | .collTimeout => Sys2Proof.Machine.execCollTimeout s
  | .reformExchangeTimeout => Sys2Proof.Machine.execReformExchangeTimeout s
  | .pcieAerError => Sys2Proof.Machine.execPcieAerError s
  | .ethTransmit => Sys2Proof.Machine.execEthTransmit s
  | .getVersion => Sys2Proof.Machine.execGetVersion s
  | .getCapabilities => Sys2Proof.Machine.execGetCapabilities s
  | .negotiateAlgorithms => Sys2Proof.Machine.execNegotiateAlgorithms s
  | .getDigests => Sys2Proof.Machine.execGetDigests s
  | .getCertificate => Sys2Proof.Machine.execGetCertificate s
  | .challenge => Sys2Proof.Machine.execChallenge s
  | .getMeasurements => Sys2Proof.Machine.execGetMeasurements s
  | .keyExchange => Sys2Proof.Machine.execKeyExchange s
  | .finish => Sys2Proof.Machine.execFinish s
  | .endSession => Sys2Proof.Machine.execEndSession s
  | .laneRecalibration => Sys2Proof.Machine.execLaneRecalibration s
  | .xankorLaneFailure => Sys2Proof.Machine.execXankorLaneFailure s
  | .clockRaise => Sys2Proof.Machine.execClockRaise s
  | .junctionOvertemp => Sys2Proof.Machine.execJunctionOvertemp s
  | .xankorLinkDown => Sys2Proof.Machine.execXankorLinkDown s
  | .xankorLinkUp => Sys2Proof.Machine.execXankorLinkUp s

end Sys2Proof.Machine
end

