-- ==== Sys2Proof/Machine/Riscv.lean ====
section
/-! DEFINITION. Base instructions of the host cores (R17, R451): RV64I and M, their compressed forms, the loads and stores of
floating-point registers, the CSR instructions, and the privileged instructions of the three modes. The spec names the RVA23 profile and the
privileged architecture 1.12 without repeating them: what follows is theirs (assumption log 56). What any other base instruction does
comes from the agenda (assumption log 1). -/

namespace Sys2Proof.Machine

open Sys2Proof

/-! ## Fields -/

/-- A two's complement field of `n` bits, as 64 bits. -/
def sext64 (n v : Nat) : Nat := wrap 64 (signed n v)

def rvIImm (w : Nat) : Nat := sext64 12 (bits w 20 12)
def rvSImm (w : Nat) : Nat := sext64 12 (bits w 25 7 * 32 + bits w 7 5)
def rvBImm (w : Nat) : Nat := sext64 13 (bits w 31 1 * 4096 + bits w 7 1 * 2048 + bits w 25 6 * 32 + bits w 8 4 * 2)
def rvUImm (w : Nat) : Nat := sext64 32 (bits w 12 20 * 4096)
def rvJImm (w : Nat) : Nat := sext64 21 (bits w 31 1 * 2 ^ 20 + bits w 12 8 * 4096 + bits w 20 1 * 2048 + bits w 21 10 * 2)

/-! ## Arithmetic -/

/-- Integer operations of `n` bits by funct3; `alt` is SUB and SRA. -/
def rvAlu (n f3 : Nat) (alt : Bool) (a b : Nat) : Nat :=
  let x := a % 2 ^ n
  let y := b % 2 ^ n
  let sh := b % n
  (match f3 with
  | 0 => if alt then x + 2 ^ n - y else x + y
  | 1 => x * 2 ^ sh
  | 2 => if signed n x < signed n y then 1 else 0
  | 3 => if x < y then 1 else 0
  | 4 => Nat.xor x y
  | 5 => if alt then wrap n (signed n x / (2 ^ sh : Nat)) else x / 2 ^ sh
  | 6 => Nat.lor x y
  | _ => Nat.land x y) % 2 ^ n

/-- Multiplications and divisions of `n` bits by funct3. -/
def rvMulDiv (n f3 : Nat) (a b : Nat) : Nat :=
  let x := a % 2 ^ n
  let y := b % 2 ^ n
  match f3 with
  | 0 => x * y % 2 ^ n
  | 1 => wrap n (signed n x * signed n y / (2 ^ n : Nat))
  | 2 => wrap n (signed n x * (y : Int) / (2 ^ n : Nat))
  | 3 => x * y / 2 ^ n
  | 4 => if y = 0 then 2 ^ n - 1 else wrap n (Int.tdiv (signed n x) (signed n y))
  | 5 => if y = 0 then 2 ^ n - 1 else x / y
  | 6 => if y = 0 then x else wrap n (Int.tmod (signed n x) (signed n y))
  | _ => if y = 0 then x else x % y

/-- The condition of a branch by funct3. -/
def rvTaken (f3 a b : Nat) : Bool :=
  match f3 with
  | 0 => a == b
  | 1 => a != b
  | 4 => decide (signed 64 a < signed 64 b)
  | 5 => decide (signed 64 b ≤ signed 64 a)
  | 6 => decide (a < b)
  | _ => decide (b ≤ a)

/-- The value of an operation between registers or with an immediate; none for an encoding that is not of RV64IM. -/
def rvOp (w a b : Nat) : Option Nat :=
  let f3 := bits w 12 3
  let f7 := bits w 25 7
  match w % 128 with
  | 0x13 =>
    if f3 = 1 then (if f7 / 2 = 0 then some (rvAlu 64 1 false a (bits w 20 6)) else none)
    else if f3 = 5 then (if f7 / 2 = 0 || f7 / 2 = 16 then some (rvAlu 64 5 (f7 / 2 = 16) a (bits w 20 6)) else none)
    else some (rvAlu 64 f3 false a (rvIImm w))
  | 0x1B =>
    if f3 = 0 then some (sext64 32 (rvAlu 32 0 false a (rvIImm w)))
    else if (f3 = 1 && f7 = 0) || (f3 = 5 && (f7 = 0 || f7 = 32)) then some (sext64 32 (rvAlu 32 f3 (f7 = 32) a (bits w 20 5)))
    else none
  | 0x33 =>
    if f7 = 1 then some (rvMulDiv 64 f3 a b)
    else if f7 = 0 || (f7 = 32 && (f3 = 0 || f3 = 5)) then some (rvAlu 64 f3 (f7 = 32) a b)
    else none
  | 0x3B =>
    if f7 = 1 && (f3 = 0 || 4 ≤ f3) then some (sext64 32 (rvMulDiv 32 f3 a b))
    else if (f7 = 0 && (f3 = 0 || f3 = 1 || f3 = 5)) || (f7 = 32 && (f3 = 0 || f3 = 5)) then
      some (sext64 32 (rvAlu 32 f3 (f7 = 32) a b))
    else none
  | _ => none

/-! ## Control and status registers -/

/-- The fields of mstatus that sstatus shows. -/
def sstatusMask : Nat := 0x80000003000DE762

/-- What a read of a CSR gives: satp reads as zero (R451), and the supervisor's views show the machine's registers. -/
def Hart.csrRead (k : Hart) (h clock n : Nat) : Nat :=
  match n with
  | 0x001 => k.csr 3 % 32
  | 0x002 => bits (k.csr 3) 5 3
  | 0x180 => 0
  | 0x100 => Nat.land (k.csr 0x300) sstatusMask
  | 0x104 => Nat.land (k.csr 0x304) (k.csr 0x303)
  | 0x144 => Nat.land (k.csr 0x344) (k.csr 0x303)
  | 0x5C0 => k.csr 0x5C0 % 4096
  | 0xB00 => clock
  | 0xC00 => clock
  | 0xC01 => clock
  | 0xF14 => h
  | n => k.csr n

/-- `old` with the bits of `mask` taken from `new`. -/
def maskedBits (old new mask : Nat) : Nat := Nat.xor old (Nat.land mask (Nat.xor old new))

/-- A write of a CSR: writes of satp are ignored (R451). -/
def Hart.csrWrite (k : Hart) (n v : Nat) : Hart :=
  match n with
  | 0x001 => k.setCsr 3 (maskedBits (k.csr 3) v 31)
  | 0x002 => k.setCsr 3 (maskedBits (k.csr 3) (v * 32) 0xE0)
  | 0x003 => k.setCsr 3 (v % 256)
  | 0x180 => k
  | 0x100 => k.setCsr 0x300 (maskedBits (k.csr 0x300) v sstatusMask)
  | 0x104 => k.setCsr 0x304 (maskedBits (k.csr 0x304) v (k.csr 0x303))
  | 0x144 => k.setCsr 0x344 (maskedBits (k.csr 0x344) v (Nat.land (k.csr 0x303) 2))
  | 0x300 => k.setCsr 0x300 (if bits v 11 2 = 2 then putBits v 11 2 (bits (k.csr 0x300) 11 2) else v)
  | 0x141 => k.setCsr 0x141 (v / 2 * 2)
  | 0x341 => k.setCsr 0x341 (v / 2 * 2)
  | 0x5C0 => k.setCsr 0x5C0 (v % 4096)
  | n => k.setCsr n v

/-- A CSR instruction of `len` bytes; none where the mode may not make the access. -/
def Hart.csrOp (k : Hart) (h clock w len : Nat) : Option Hart :=
  let n := bits w 20 12
  let f3 := bits w 12 3
  let rs1 := bits w 15 5
  let writes := f3 % 4 = 1 || rs1 ≠ 0
  if k.mode < bits n 8 2 || (writes && bits n 10 2 = 3) then none
  else
    let old := k.csrRead h clock n
    let src := if f3 < 4 then k.x (BitVec.ofNat 5 rs1) else rs1
    let new := match f3 % 4 with
      | 1 => src
      | 2 => Nat.lor old src
      | _ => Nat.xor old (Nat.land old src)
    some ({ (if writes then k.csrWrite n new else k).setX (BitVec.ofNat 5 (bits w 7 5)) old with pc := k.pc + BitVec.ofNat 64 len })

/-! ## Returns from a trap -/

/-- MRET. -/
def Hart.mret (k : Hart) : Hart :=
  let st := k.csr 0x300
  let mode := bits st 11 2
  let st1 := putBits (putBits (putBits st 3 1 (bits st 7 1)) 7 1 1) 11 2 0
  { k.setCsr 0x300 (if mode = 3 then st1 else putBits st1 17 1 0) with mode := mode, pc := BitVec.ofNat 64 (k.csr 0x341) }

/-- SRET. -/
def Hart.sret (k : Hart) : Hart :=
  let st := k.csr 0x300
  let st1 := putBits (putBits (putBits st 1 1 (bits st 5 1)) 5 1 1) 8 1 0
  { k.setCsr 0x300 (putBits st1 17 1 0) with mode := bits st 8 1, pc := BitVec.ofNat 64 (k.csr 0x141) }

/-! ## Compressed forms -/

def encI (imm rs1 f3 rd op : Nat) : Nat := imm % 4096 * 2 ^ 20 + rs1 * 2 ^ 15 + f3 * 4096 + rd * 128 + op
def encS (imm rs2 rs1 f3 op : Nat) : Nat := bits imm 5 7 * 2 ^ 25 + rs2 * 2 ^ 20 + rs1 * 2 ^ 15 + f3 * 4096 + imm % 32 * 128 + op
def encR (f7 rs2 rs1 f3 rd op : Nat) : Nat := f7 * 2 ^ 25 + rs2 * 2 ^ 20 + rs1 * 2 ^ 15 + f3 * 4096 + rd * 128 + op
def encB (imm rs1 f3 : Nat) : Nat :=
  bits imm 12 1 * 2 ^ 31 + bits imm 5 6 * 2 ^ 25 + rs1 * 2 ^ 15 + f3 * 4096 + bits imm 1 4 * 256 + bits imm 11 1 * 128 + 0x63
def encJ (imm rd : Nat) : Nat :=
  bits imm 20 1 * 2 ^ 31 + bits imm 1 10 * 2 ^ 21 + bits imm 11 1 * 2 ^ 20 + bits imm 12 8 * 4096 + rd * 128 + 0x6F

/-- Quadrant 0. -/
def rvQuad0 (c : Nat) : Option Nat :=
  let rd := 8 + bits c 2 3
  let rs := 8 + bits c 7 3
  let w := bits c 10 3 * 8 + bits c 6 1 * 4 + bits c 5 1 * 64
  let d := bits c 10 3 * 8 + bits c 5 2 * 64
  match bits c 13 3 with
  | 0 =>
    let imm := bits c 11 2 * 16 + bits c 7 4 * 64 + bits c 6 1 * 4 + bits c 5 1 * 8
    if imm = 0 then none else some (encI imm 2 0 rd 0x13)
  | 1 => some (encI d rs 3 rd 0x07)
  | 2 => some (encI w rs 2 rd 0x03)
  | 3 => some (encI d rs 3 rd 0x03)
  | 5 => some (encS d rd rs 3 0x27)
  | 6 => some (encS w rd rs 2 0x23)
  | 7 => some (encS d rd rs 3 0x23)
  | _ => none

/-- Quadrant 1. -/
def rvQuad1 (c : Nat) : Option Nat :=
  let rd := bits c 7 5
  let rs := 8 + bits c 7 3
  let imm := sext64 6 (bits c 12 1 * 32 + bits c 2 5)
  match bits c 13 3 with
  | 0 => some (encI imm rd 0 rd 0x13)
  | 1 => if rd = 0 then none else some (encI imm rd 0 rd 0x1B)
  | 2 => some (encI imm 0 0 rd 0x13)
  | 3 =>
    if rd = 2 then
      let n := sext64 10 (bits c 12 1 * 512 + bits c 6 1 * 16 + bits c 5 1 * 64 + bits c 3 2 * 128 + bits c 2 1 * 32)
      if n = 0 then none else some (encI n 2 0 2 0x13)
    else if imm = 0 then none
    else some (imm % 2 ^ 20 * 4096 + rd * 128 + 0x37)
  | 4 =>
    let sh := bits c 12 1 * 32 + bits c 2 5
    (match bits c 10 2 with
    | 0 => some (encI sh rs 5 rs 0x13)
    | 1 => some (encI (sh + 0x400) rs 5 rs 0x13)
    | 2 => some (encI imm rs 7 rs 0x13)
    | _ =>
      let r2 := 8 + bits c 2 3
      (match bits c 12 1, bits c 5 2 with
      | 0, 0 => some (encR 32 r2 rs 0 rs 0x33)
      | 0, 1 => some (encR 0 r2 rs 4 rs 0x33)
      | 0, 2 => some (encR 0 r2 rs 6 rs 0x33)
      | 0, 3 => some (encR 0 r2 rs 7 rs 0x33)
      | 1, 0 => some (encR 32 r2 rs 0 rs 0x3B)
      | 1, 1 => some (encR 0 r2 rs 0 rs 0x3B)
      | _, _ => none))
  | 5 =>
    some (encJ (sext64 12 (bits c 12 1 * 2048 + bits c 11 1 * 16 + bits c 9 2 * 256 + bits c 8 1 * 1024 + bits c 7 1 * 64
      + bits c 6 1 * 128 + bits c 3 3 * 2 + bits c 2 1 * 32)) 0)
  | f3 =>
    some (encB (sext64 9 (bits c 12 1 * 256 + bits c 10 2 * 8 + bits c 5 2 * 64 + bits c 3 2 * 2 + bits c 2 1 * 32)) rs (f3 - 6))

/-- Quadrant 2. -/
def rvQuad2 (c : Nat) : Option Nat :=
  let rd := bits c 7 5
  let rs2 := bits c 2 5
  let d := bits c 12 1 * 32 + bits c 5 2 * 8 + bits c 2 3 * 64
  match bits c 13 3 with
  | 0 => some (encI (bits c 12 1 * 32 + bits c 2 5) rd 1 rd 0x13)
  | 1 => some (encI d 2 3 rd 0x07)
  | 2 => if rd = 0 then none else some (encI (bits c 12 1 * 32 + bits c 4 3 * 4 + bits c 2 2 * 64) 2 2 rd 0x03)
  | 3 => if rd = 0 then none else some (encI d 2 3 rd 0x03)
  | 4 =>
    if bits c 12 1 = 0 then
      (if rs2 ≠ 0 then some (encR 0 rs2 0 0 rd 0x33) else if rd = 0 then none else some (encI 0 rd 0 0 0x67))
    else if rs2 ≠ 0 then some (encR 0 rs2 rd 0 rd 0x33)
    else if rd = 0 then some (encI 1 0 0 0 0x73)
    else some (encI 0 rd 0 1 0x67)
  | 5 => some (encS (bits c 10 3 * 8 + bits c 7 3 * 64) rs2 2 3 0x27)
  | 6 => some (encS (bits c 9 4 * 4 + bits c 7 2 * 64) rs2 2 2 0x23)
  | _ => some (encS (bits c 10 3 * 8 + bits c 7 3 * 64) rs2 2 3 0x23)

/-- The instruction that a compressed one stands for; none where it is not one of those. -/
def rvExpand (c : Nat) : Option Nat := match c % 4 with | 0 => rvQuad0 c | 1 => rvQuad1 c | 2 => rvQuad2 c | _ => none

/-! ## Execution -/

/-- A load into, or a store from, a floating-point register of 32 or 64 bits; a narrower value is boxed with ones. -/
def State.rvFloat (s : State) (h w len : Nat) : State :=
  let k := s.hart h
  let n := 2 ^ bits w 12 3
  let on (k : Hart) : Hart := { k with pc := k.pc + BitVec.ofNat 64 len, wait := none }
  if w % 128 = 0x07 then
    s.hostLoad h ((k.x (BitVec.ofNat 5 (bits w 15 5)) + rvIImm w) % 2 ^ 64) n (fun s1 b =>
      let v := ofBytes b + (if n = 4 then 0xFFFFFFFF00000000 else 0)
      s1.updHart h (fun k => on { k with fregs := Tab.set k.fregs (bits w 7 5) (BitVec.ofNat 64 v) }))
  else
    s.hostStore h ((k.x (BitVec.ofNat 5 (bits w 15 5)) + rvSImm w) % 2 ^ 64)
      (bytesOf n ((Tab.get k.fregs (bits w 20 5) 0).toNat)) (fun s1 => s1.updHart h on)

/-- The SYSTEM instructions that are no CSR access: exceptions of their own, and the privileged ones in the modes that have them; none for
one that is not defined. -/
def State.rvSystem (s : State) (h w len : Nat) : Option State :=
  let k := s.hart h
  let bad := s.raise h 2 w
  let on : State := s.updHart h (fun k => { k with pc := k.pc + BitVec.ofNat 64 len })
  if bits w 25 7 = 9 && bits w 7 5 = 0 then some (if k.mode = 0 || (k.mode = 1 && bit (k.csr 0x300) 20) then bad else on)
  else if bits w 7 13 ≠ 0 then none
  else
    match bits w 20 12 with
    | 0 => some (s.raise h (8 + k.mode) 0)
    | 1 => some (s.raise h 3 k.pc.toNat)
    | 0x102 => some (if k.mode = 0 || (k.mode = 1 && bit (k.csr 0x300) 22) then bad else s.updHart h Hart.sret)
    | 0x302 => some (if k.mode = 3 then s.updHart h Hart.mret else bad)
    | 0x105 => some (if k.mode ≠ 3 && bit (k.csr 0x300) 21 then bad else on)
    | _ => none

/-- A base instruction of `len` bytes; none where it is not among those described here. -/
def State.rvExec (s : State) (h w len : Nat) : Option State :=
  let k := s.hart h
  let rd : BitVec 5 := BitVec.ofNat 5 (bits w 7 5)
  let a := k.x (BitVec.ofNat 5 (bits w 15 5))
  let b := k.x (BitVec.ofNat 5 (bits w 20 5))
  let f3 := bits w 12 3
  let pc := k.pc.toNat
  let go (k : Hart) (n : Nat) : State := s.updHart h (fun _ => { k with pc := BitVec.ofNat 64 n })
  match w % 128 with
  | 0x37 => some (go (k.setX rd (rvUImm w)) (pc + len))
  | 0x17 => some (go (k.setX rd (pc + rvUImm w)) (pc + len))
  | 0x6F => some (go (k.setX rd (pc + len)) (pc + rvJImm w))
  | 0x67 => if f3 = 0 then some (go (k.setX rd (pc + len)) ((a + rvIImm w) % 2 ^ 64 / 2 * 2)) else none
  | 0x63 => if f3 = 2 || f3 = 3 then none else some (go k (if rvTaken f3 a b then pc + rvBImm w else pc + len))
  | 0x03 => if f3 = 7 then none else some (s.hostAccess h false f3 rd ((a + rvIImm w) % 2 ^ 64) len)
  | 0x23 => if 4 ≤ f3 then none else some (s.hostAccess h true f3 (BitVec.ofNat 5 (bits w 20 5)) ((a + rvSImm w) % 2 ^ 64) len)
  | 0x07 => if f3 = 2 || f3 = 3 then some (s.rvFloat h w len) else none
  | 0x27 => if f3 = 2 || f3 = 3 then some (s.rvFloat h w len) else none
  | 0x0F => if f3 = 1 then some (go k (pc + len)) else none
  | 0x73 =>
    if f3 = 0 then s.rvSystem h w len
    else if f3 = 4 then none
    else some (match k.csrOp h s.clock w len with | some k1 => s.updHart h (fun _ => k1) | none => s.raise h 2 w)
  | _ => (rvOp w a b).map (fun v => go (k.setX rd v) (pc + len))

/-- The word that a hart fetched is executed as a base instruction, compressed or not. -/
def State.rvStep (s : State) (h : Nat) (w : BitVec 32) : Option State :=
  if w.toNat % 4 = 3 then s.rvExec h w.toNat 4
  else (rvExpand (w.toNat % 65536)).bind (fun e => s.rvExec h e 2)

/-! ## Any other base instruction -/

/-- The loads of a base instruction, in order: where each is to go, with the bytes read. -/
def State.baseLoads (s : State) (h : Nat) : List (Nat × Nat × Nat) → State × Except HostRead (List (Nat × List Byte))
  | [] => (s, .ok [])
  | (va, n, dest) :: t =>
    match s.hostRead h va n .read with
    | .ok s1 b =>
      match State.baseLoads s1 h t with
      | (s2, .ok l) => (s2, .ok ((dest, b) :: l))
      | r => r
    | r => (s, .error r)

/-- Its stores, in order. -/
def State.baseStores (s : State) (h : Nat) : List (Nat × List Byte) → HostRead
  | [] => .ok s []
  | (va, b) :: t =>
    match s.hostWrite h va b with
    | .ok s1 _ => State.baseStores s1 h t
    | r => r

/-- Loaded bytes go into a register: 1 to 31 an integer register, 64 on a floating-point one, 128 on a vector one; 0 into none. -/
def Hart.baseLoad (k : Hart) (p : Nat × List Byte) : Hart :=
  let v := ofBytes p.2
  if p.1 = 0 then k
  else if p.1 < 32 then { k with regs := Tab.set k.regs p.1 (BitVec.ofNat 64 v) }
  else if p.1 < 128 then { k with fregs := Tab.set k.fregs (p.1 % 32) (BitVec.ofNat 64 v) }
  else { k with vregs := Tab.set k.vregs (p.1 % 32) v }

/-- What a base instruction of which neither the spec nor this file gives anything leaves, as the agenda has it (assumption log 1). -/
structure BaseEffect where
  pc : Dword
  mode : Nat
  regs : List (Nat × Dword)
  fregs : List (Nat × Dword)
  vregs : List (Nat × Nat)
  csrs : List (Nat × Dword)

def BaseEffect.on (e : BaseEffect) (k : Hart) : Hart :=
  { k with
    pc := e.pc
    mode := if e.mode = 0 || e.mode = 1 || e.mode = 3 then e.mode else k.mode
    regs := e.regs.foldl (fun t p => if p.1 = 0 || 32 ≤ p.1 then t else Tab.set t p.1 p.2) k.regs
    fregs := e.fregs.foldl (fun t p => Tab.set t (p.1 % 32) p.2) k.fregs
    vregs := e.vregs.foldl (fun t p => Tab.set t (p.1 % 32) p.2) k.vregs
    csrs := e.csrs.foldl (fun t p => if p.1 = 0x5C0 || p.1 = 0x180 then t else Tab.set t (p.1 % 4096) p.2) k.csrs }

/-- Such an instruction is executed: it is fetched as any other; an exception of its own is raised, or inside a transaction aborts it
(R349); else its accesses to memory are made, all of them or what the first that fails comes to, and it leaves what the agenda gives. A
stalled hart executes none. -/
def State.hostBase (s : State) (h : Nat) (exc : Option (Nat × Nat)) (loads : List (Nat × Nat × Nat)) (stores : List (Nat × List Byte))
    (e : BaseEffect) : State :=
  if !(s.hart h).running || (s.hart h).wait.isSome then s
  else
    match s.hostFetch h with
    | .took s1 => s1
    | .word s1 w =>
      if (decodeHost w).toOption.isSome || (s1.rvStep h w).isSome then s
      else
        match exc with
        | some x => s1.raise h x.1 x.2
        | none =>
          let stop (s : State) (store : Bool) : HostRead → State
            | .fail m => s.hostFail h store m
            | .abort c => s.abortHost h c 0
            | .ok s2 _ => s2
          match s1.baseLoads h loads with
          | (_, .error r) => stop s1 false r
          | (s2, .ok got) =>
            match s2.baseStores h stores with
            | .ok s3 _ => s3.updHart h (fun k => got.foldl Hart.baseLoad (e.on k))
            | r => stop s1 true r

end Sys2Proof.Machine
end

