-- ==== Sys2Proof/Machine/Turn.lean ====
section
/-! DEFINITION. Whose turn it is and what it does: the issue arbiter (R33), pairs (R159 to R161), the harts, and the steps
that the machine takes of itself (assumption log 1). -/

namespace Sys2Proof.Machine

open Sys2Proof

/-- What a turn runs. -/
inductive Turned where
  /-- Nothing is executed. -/
  | rest (s : State)
  | run (i : Instr) (s : State)
  /-- The two slots of a pair (R161). -/
  | both (lower higher : Instr) (s : State)

/-- The instruction that a slot issues: bits that R173 makes illegal act as an unassigned opcode does. -/
def slotInstr (w : BitVec 96) : Instr :=
  match decodeSlot w with
  | .ok i => i
  | .error _ => .unassignedOpcode (w.extractLsb' 0 8)

/-- The lower slot of a pair whose higher slot is `slot + 1` (R159). -/
def isLower (l : BitVec 512) (slot : Nat) : Bool := (pairsOf (linePair l)).contains slot

/-- R160. -/
def pairLegal (l : BitVec 512) (slot : Nat) : Bool :=
  let lo := ((lineSlot l slot).extractLsb' 0 8).toNat
  let hi := ((lineSlot l (slot + 1)).extractLsb' 0 8).toNat
  (pairCapable lo || pairCapable hi) && !(1 ≤ lo && lo ≤ 0x0D)

/-- Issuing the slot would raise no counter above 63 (R153). -/
def Group.roomFor (g : Group) (w : BitVec 96) : Bool :=
  !variableLatency (w.extractLsb' 0 8).toNat ||
    (match g.flagFor (slotOf w) with | some n => decide (g.flag n < 63) | none => true)

/-- The group runs from an entered line that holds its PC (R154). -/
def Group.entered (g : Group) : Option (BitVec 512) :=
  match g.line with
  | some l => if l.entered && l.addr == lineOf g.pc.toNat then some l.bits else none
  | none => none

/-- The slot finds no entry of its tables: the arbiter passes the group over (R265, R354, R397). -/
def State.tablesFull (s : State) (g : Group) (w : BitVec 96) : Bool :=
  let op := (w.extractLsb' 0 8).toNat
  let f := slotOf w
  let core := s.coreOfBlock g.block
  let ls := s.lanesOf g f
  if isMatrix op then (match s.matrixPlan g ls op f with | .wait => true | _ => false)
  else if op = 0x8C || op = 0x8D then
    match ls.filter (·.run) with
    | [] => false
    | l :: t =>
      if (l :: t).any (·.inTx) then false
      else
        let o := copyOperands op f l.th
        match s.copyCheck core g.block o.1 o.2.1 o.2.2 with
        | .go _ _ _ => decide (s.freeLocks core < (if op = 0x8C then 2 else 1))
        | _ => false
  else decide (s.freeLocks core < s.landingLocks g op f)

/-- The arbiter does not pass over the group: its flags have room, its tables too, and recorded matrix entries of its block have
been posted again (R153, R381). -/
def State.mayIssue (s : State) (g : Group) : Bool :=
  match g.entered with
  | none => true
  | some l =>
    let k := slotNo g.pc.toNat
    let ok (w : BitVec 96) : Bool := g.roomFor w && !s.tablesFull g w
    g.pendingTrap.isSome || (ok (lineSlot l k) && (!isLower l k || ok (lineSlot l (k + 1))))

/-- The groups of a core that its arbiter may choose from. One whose threads wait for the fetch of HANDLER is not among them (R492). -/
def State.issueable (s : State) (core : Nat) : List (Nat × Group) :=
  if (s.coreOf core).stopped then []
  else (s.groupsOfCore core).filter (fun p =>
    p.2.st == .ready && s.live p.2.block && (s.unposted p.2.block).isEmpty && !s.trapOwed p.2 && s.mayIssue p.2)

/-- The group that the arbiter of a core chooses (R33): the highest class, then the longest eligible, then the lowest
record. -/
def State.arbiter (s : State) (core : Nat) : Option Nat :=
  (minBy (fun (p : Nat × Group) => ((3 - s.classOf p.2.block) * 2 ^ 64 + min p.2.since (2 ^ 64 - 1)) * 128 + p.2.record)
    (s.issueable core)).map Prod.fst

/-- What the chosen group does: it enters its line, or issues a slot or a pair. -/
def State.turnGroup (s : State) (gid : Nat) (g : Group) : Turned :=
  let s1 := { s with
    sel := ⟨gid, 0, 0⟩
    cur := ⟨gid, none, false, none, 0⟩ }
  match g.entered with
  | none => if g.refetch then .run .parityRefetch s1 else .run .lineEntry s1
  | some l =>
    let s2 := (s1.updGroup gid (fun g => { g with since := s.clock })).noteLeft gid
    let k := slotNo g.pc.toNat
    if isLower l k then
      if pairLegal l k then
        .both (slotInstr (lineSlot l k)) (slotInstr (lineSlot l (k + 1))) (s2.setCur ⟨gid, none, false, some [], 0⟩)
      else .run (.unassignedOpcode 0xFF) s2
    else .run (slotInstr (lineSlot l k)) s2

/-- A turn of a core. -/
def State.turnCore (s : State) (core : Nat) : Turned :=
  match s.arbiter core with
  | none => .rest s
  | some gid =>
    match s.group? gid with
    | none => .rest s
    | some g => s.turnGroup gid g

/-! ## The harts -/

/-- A turn of a hart: the instruction at its pc, where the spec gives it, or a base instruction (assumption log 56). What any other does
comes from the agenda (assumption log 1). -/
def State.turnHart (s : State) (h : Nat) : Turned :=
  if !(s.hart h).running || 64 ≤ h then .rest s
  else
    match s.hostFetch h with
    | .took s1 => .rest s1
    | .word s1 w =>
      match decodeHost w with
      | .ok i => .run i (s1.setCur ⟨0, none, false, none, h⟩)
      | .error _ => .rest ((s1.rvStep h w).getD s)

/-- What the higher slot sees of the state in which the lower slot executed, and the instruction that the lower slot left
outstanding. -/
def State.seen (s0 s : State) (gid : Nat) (g : Group) : Before :=
  { threads := s0.v.threads
    scalars := g.scalars
    owed := g.owed
    lower := ((s.v.ops.find? (fun p => s0.nextId ≤ p.1 && p.2.group == gid && p.2.pc == g.pc)).map Prod.fst).getD 0 }

/-- After the lower slot of a pair: the state in which the higher slot executes in the same cycle, whatever the lower one waits for
(R161). `s0` is the state in which the lower slot executed. Where that one took a trap or aborted a lane, the higher slot is not
issued with it; that lanes which did not trap stay at the higher slot, and issue it later by itself, is the model's choice
(assumption log 39). -/
def State.higher (s0 s : State) : Option State :=
  match s0.group? s0.cur.group, s.group? s0.cur.group with
  | some g0, some g =>
    if !s.cur.trapped && g.pc == nextPc g0.pc && g.entered.isSome && g.plan.isNone then
      some (s.setCur ⟨s0.cur.group, some (s0.seen s s0.cur.group g0), false, s.cur.pair, 0⟩)
    else none
  | _, _ => none

/-! ## Turns of one cycle -/

/-- The node identifier of an agent of this package (R16). -/
def State.nodeId (s : State) (agent : Nat) : Nat := 1024 * s.r.pkg + agent

/-- The place of a turn among those of its cycle: its class, then the node identifier of the agent (R16), then the group record or a
number of the agent's own (R394). -/
def rankOf (cls node sub : Nat) : Nat := (cls * 2 ^ 13 + node) * 2 ^ 20 + min sub (2 ^ 20 - 1)

/-- The class of the turns that make accesses at a home: the node identifier of the agent orders them (R16). -/
def homeClass : Nat := 25

/-- Core and group record of an outstanding instruction. -/
def State.opPlace (s : State) (id : Nat) : Nat × Nat :=
  match s.op? id with
  | none => (0, 0)
  | some o => (s.coreOfBlock o.block, match s.group? o.group with | some g => g.record | none => 96)

/-- The rank of a turn about an outstanding instruction: its core, then its group record. -/
def State.rankOp (s : State) (cls id sub : Nat) : Nat :=
  let p := s.opPlace id
  rankOf cls (s.nodeId p.1) (p.2 * 64 + sub)

/-- The rank of a turn of a unit about an outstanding instruction: in its accesses the unit is an agent of its own; at the unit, what
adds work or ends it comes before what asks for it, then the issuing cores and their group records in order (R394, R416, R491). -/
def State.rankUnit (s : State) (agent order id : Nat) : Nat :=
  let p := s.opPlace id
  rankOf homeClass (s.nodeId agent) (order * 2 ^ 16 + p.1 * 128 + p.2)

/-- The Weir that an instruction reaches: the one that holds its context, or its own die's. -/
def State.weirAgent (s : State) (id : Nat) : Nat :=
  match s.op? id with
  | none => 712
  | some o =>
    let die := dieOf (s.coreOfBlock o.block)
    712 + (match (s.weirOf o.block o.handle).bind (fun w => w.2.place) with | some p => p.1 | none => die)

/-- The rank of a turn about a request. -/
def State.rankReq (s : State) (rid : Nat) : Nat :=
  match s.req? rid with
  | some q => s.rankOp homeClass q.op 0
  | none => rankOf homeClass 0 0

/-- When in its cycle an outstanding instruction reaches its unit: STILL.WAIT.HOLD first, then what adds work or ends it, then TAKEs,
then waits for quiet; a reform before rounds, and a round's end after its parts; accesses by R16; the launch table's answers after
what retires, but for threads that have exited, which read nothing (R238, R416, R491). -/
def State.unitRank (s : State) (id : Nat) (o : Op) : Nat :=
  if o.opc = 0xE8 then s.rankOp (if Rule.sub o.f = 2 then 9 else if Rule.sub o.f = 3 then 11 else 26) id 0
  else if [0xE0, 0xE1, 0xE3, 0xE4].contains o.opc then s.rankUnit (s.weirAgent id) 1 id
  else if o.opc = 0xE2 then s.rankUnit (s.weirAgent id) 2 id
  else if o.opc = 0xE5 || o.opc = 0xE7 then s.rankUnit 707 1 id
  else if o.opc = 0xE6 then s.rankUnit 707 2 id
  else if o.opc = 0xF7 then s.rankUnit 708 0 id
  else if o.opc = 0xF4 || o.opc = 0xF5 then s.rankUnit 708 2 id
  else if o.opc = 0xF6 then s.rankUnit 708 3 id
  else if o.opc = 0x0C || o.opc = 0x0D then
    s.rankOp (if o.lanes.all (fun l => (s.thread? l.key).any (·.exited)) then 10 else 30) id 0
  else if o.opc = 0x8E || (0xA0 ≤ o.opc && o.opc ≤ 0xA4) then s.rankOp homeClass id 0
  else s.rankOp 10 id 0

/-- When in its cycle a slot's issue takes effect: EXIT before what asks after it, accesses made at issue by R16, what takes a slot
or rows after what frees them, PRIO and the context operations after what ends in the cycle (R56, R238, R351, R384, R450). -/
def slotClass (tx : Bool) (w : BitVec 96) : Nat :=
  let op := (w.extractLsb' 0 8).toNat
  if op = 0x06 then 14
  else if op = 0x0A || (op = 0xC0 && Rule.sub (slotOf w) = 0) then 31
  else if op = 0xF3 then 33
  else if op = 0xF0 || op = 0xF1 then 34
  else if op = 0x02 || op = 0x04 || (tx && [0x80, 0x81, 0x88, 0x89].contains op) then homeClass
  else 15

/-- The class and the group record of a core's next issue: the entry of a line sees the flags as they were (R178); of a pair, the slot
counts that has a class of its own. -/
def State.issueClass (s : State) (core : Nat) : Nat × Nat :=
  match (s.arbiter core).bind s.group? with
  | none => (15, 0)
  | some g =>
    match g.entered with
    | none => (5, g.record)
    | some l =>
      let k := slotNo g.pc.toNat
      let tx := g.members.any s.txOpen
      let lo := slotClass tx (lineSlot l k)
      (if lo = 15 && isLower l k then slotClass tx (lineSlot l (k + 1)) else lo, g.record)

def State.issueRank (s : State) (core : Nat) : Nat :=
  let c := s.issueClass core
  rankOf c.1 (s.nodeId core) (c.2 * 64)

/-- A group whose wait of R35 ends files its threads together with what its core issues, in the order of the group records (R56). -/
def State.fileRank (s : State) (gid : Nat) : Nat :=
  match s.group? gid with
  | none => rankOf 31 0 0
  | some g =>
    let core := s.coreOfBlock g.block
    let c := (s.issueClass core).1
    rankOf (if c = 5 then 31 else c) (s.nodeId core) (g.record * 64)

/-- The rank of a step of the machine or of its surroundings: losses first, then events that count before others of their cycle, in
the order of the tables of R56, R145, R178, R238, R277, R351, R384, R416, R450 and R491. -/
def State.eventRank (s : State) (i : Instr) (sel : Sel) : Nat :=
  match i with
  | .nodeLoseWrite _ => rankOf 2 0 0
  | .linkDownTimeout => rankOf 2 0 0
  | .peerPowerOffReport => rankOf 2 0 0
  | .agentDeath => rankOf 2 0 1
  | .memoryUncorrectableError => rankOf 2 0 2
  | .refreshDue _ _ _ => rankOf 3 0 0
  | .snoopReceived agent _ _ _ => rankOf 8 (s.nodeId agent) 0
  | .tarnLineMove => rankOf 9 0 0
  | .variableLatencyComplete => (match s.op? sel.x with | some o => s.unitRank sel.x o | none => rankOf 10 0 0)
  | .storeAck => s.rankOp 10 sel.x 0
  | .matrixEntryComplete => s.rankOp 10 sel.x 0
  | .matrixPassEnd => rankOf 10 0 sel.x
  | .mloadDeliveryEnd => s.rankOp 18 sel.x 0
  | .commitTicketRequest => s.rankOp 20 sel.x 0
  | .sliceVote => rankOf 20 0 sel.y
  | .txPublish => rankOf 20 0 0
  | .engineResetWrite => rankOf 24 0 sel.x
  | .regroupFlagWaitEnd => s.fileRank sel.x
  | .homeSliceRequest => s.rankReq sel.x
  | .shardWalkComplete => s.rankReq sel.x
  | .lineFillReturn => s.rankReq sel.x
  | .memoryControllerAccess req _ => s.rankReq req
  | .attributeRequest => s.rankOp homeClass sel.x 0
  | .launchSubmission => s.rankOp homeClass sel.x sel.y
  | .xlateInvComplete => s.rankOp homeClass sel.x 0
  | .copyGranule => s.rankOp homeClass sel.x 0
  | .copymDeliveryBegin => s.rankOp homeClass sel.x 0
  | .copyEnd => s.rankOp homeClass sel.x (2 ^ 18)
  | .copymDeliveryEnd => s.rankOp homeClass sel.x (2 ^ 18)
  | .mloadDeliveryBegin => s.rankUnit (576 + clusterOf (s.opPlace sel.x).1) 0 sel.x
  | .weirGatherComplete => s.rankUnit (s.weirAgent sel.x) 1 sel.x
  | .weirScatterComplete => s.rankUnit (s.weirAgent sel.x) 1 sel.x
  | .weirTakeService => rankOf homeClass (s.nodeId (712 + sel.x)) (3 * 2 ^ 16)
  | .weirTakeTimeout => s.rankUnit (s.weirAgent sel.x) 4 sel.x
  | .collPartReceived _ _ _ _ _ _ => rankOf homeClass (s.nodeId 708) (2 ^ 16)
  | .reformExchange _ _ _ => rankOf homeClass (s.nodeId 708) (2 ^ 16)
  | .collAbortReceived _ _ _ _ => rankOf 30 (s.nodeId 708) 0
  | .remoteLineRequest package _ _ => rankOf homeClass (1024 * (package % 8) + sel.x % 1024) 0
  | .pcieInboundRequest port _ _ _ _ => rankOf homeClass (s.nodeId (724 + port)) 0
  | .pcieMsiWrite port _ => rankOf homeClass (s.nodeId (724 + port)) 0
  | .ethReceive port _ _ _ => rankOf homeClass (s.nodeId (728 + port)) 0
  | .ethTransmit => rankOf homeClass (s.nodeId (728 + sel.x)) 0
  | .hostTxTicketServed => rankOf homeClass (s.nodeId (512 + sel.x)) (2 ^ 19)
  | .commitLockGrant => rankOf 26 0 0
  | .matrixPassGrant => rankOf 28 0 sel.x
  | .recallReceived _ _ => rankOf 29 0 0
  | .pollLimitElapsed => s.rankOp 29 sel.x 0
  | .txTimeout => rankOf 29 0 0
  | .collTimeout => rankOf 29 0 0
  | .reformExchangeTimeout => rankOf 29 0 0
  | .directoryMerge => rankOf 29 0 0
  | .firmwareActivation _ _ _ => rankOf 29 0 0
  | .sliceExpiry => rankOf 32 0 0
  | .class3Claim => rankOf 32 0 1
  | .laneSliceFailure core _ _ => rankOf 32 (s.nodeId core) 2
  | .gangReservation => rankOf 33 (s.nodeId sel.x) 0
  | .gangFallbackTimeout => rankOf 33 (s.nodeId 706) 0
  | .blockPlacement => rankOf 33 8191 sel.x
  | .coveAgeTimeout => rankOf 35 0 0
  | .yieldReleaseTimeout => rankOf 35 0 0
  | .heldThreadAgeTimeout => rankOf 35 0 0
  | .dieIsolate => rankOf 36 0 sel.x
  | _ => rankOf 23 0 0

/-- The rank of a turn among those of its cycle; a hart's accesses stand by R16. -/
def State.actRank (s : State) (a : Act) : Nat :=
  match a with
  | .issue core => s.issueRank core
  | .host h => rankOf homeClass (s.nodeId (512 + h)) 0
  | .hostBase h _ _ _ _ _ _ _ _ _ => rankOf homeClass (s.nodeId (512 + h)) 0
  | .event i sel => s.eventRank i sel

/-- The turn of least rank, the first of equals, and the others in their order. -/
def bestTurn (rank : Act → Nat) : Turn → List Turn → Turn × List Turn
  | t, [] => (t, [])
  | t, u :: us =>
    let r := bestTurn rank u us
    if rank r.1.act < rank t.act then (r.1, t :: r.2) else (t, u :: us)

/-! ## What follows of itself -/

/-- Groups whose records are all answered go on (R198, R346, R492). -/
def State.settleAnswers (s : State) : State :=
  ((s.v.groups.filter (fun p => !p.2.awaited.isEmpty)).map Prod.fst).foldl State.tryAnswers s

/-- Requests that their core serves by itself. -/
def State.settleReqs (s : State) : State := (Tab.keys s.v.reqs).foldl State.localReq s

/-- Cores that stopped for a failed slice, once their blocks are saved (R55). -/
def State.settleCores (s : State) : State :=
  ((s.v.cores.filter (fun p => p.2.stopped)).map Prod.fst).foldl State.remapCore s

/-- Saves that SYS.CTXCMD still awaits (R456). -/
def State.settleCommand (s : State) : State :=
  if s.r.ctxBusy.isEmpty then s
  else s.setSys { s.r with ctxBusy := s.r.ctxBusy.filter (fun b => (s.block? b).any (fun x => x.saving)) }

/-- Traps that waited for the fetch of HANDLER (R492). -/
def State.settleTraps (s : State) : State :=
  ((s.v.groups.filter (fun p => p.2.awaited.isEmpty && s.trapOwed p.2)).map Prod.fst).foldl State.retryTraps s

/-- Held threads whose timeout has passed while their group waits in the Backwater (R50). -/
def State.settleHeld (s : State) : State :=
  ((s.v.groups.filter (fun p => p.2.st == .backwater)).map Prod.fst).foldl State.expireHeld s

/-- Harts that XLWAIT stalls go on in the cycle in which their launch reaches its final state, whatever becomes of its entry afterwards
(R212, R233). -/
def State.settleWaits (s : State) : State :=
  { s with harts := List.map (fun (p : Nat × Hart) => (p.1,
      match p.2.wait with
      | some (.launch rd hd) => (match s.waitWord 256 hd with | some w => p.2.went (BitVec.ofNat 5 rd) w | none => p.2)
      | _ => p.2)) s.harts }

/-- After a turn that began in `s0`: what units do at once, coves that are due (R40), and the EPOCH of each domain that has
become QUIET (R410). -/
def State.settle (s0 s : State) : State :=
  let s1 := s.settleAnswers.settleTraps.scratchAll.settleReqs.flowSettle.freeHeld.settleMail.settleInbound.settleFirmware.postRecorded
  let blks := Tab.keys s1.v.blocks
  let s2 := blks.foldl State.checkCoves (blks.foldl State.settleBars s1)
  s0.stilled s2.settleHeld.settleCores.settleCommand.settleQueries.settleWaits.dropIrq

end Sys2Proof.Machine
end

