-- ==== Sys2Proof/Machine/Schedule.lean ====
section
/-! DEFINITION. What happens next: the head of the agenda, else a step that the machine takes of itself (assumption log 1). -/

namespace Sys2Proof.Machine

open Sys2Proof

/-! ## Stores to device registers (R453, R454) -/

/-- The row of the table that a write of a register is, and the object it acts on. -/
def registerEvent (off : Nat) (value : Dword) (who : Writer) : Option (Instr × Sel) :=
  let v := value.toNat
  let plain (i : Instr) : Option (Instr × Sel) := some (i, ⟨0, 0, 0⟩)
  if off = 0x08 then plain (.tdbbaseWrite value)
  else if off = 0x10 then plain (.shareretWrite value)
  else if off = 0x18 then plain (.inletEnable value)
  else if off = 0x20 then plain (.faultqWrite value)
  else if off = 0x28 then
    (match bits v 32 2 with
    | 0 => plain (.faultackReplay (value.extractLsb' 0 32))
    | 1 => plain (.faultackDeliver (value.extractLsb' 0 32))
    | 2 => plain (.faultackKill (value.extractLsb' 0 32))
    | _ => none)
  else if off = 0x40 then plain (.reclaimWrite value)
  else if off = 0x50 then plain (.nodeLoseWrite (value.extractLsb' 32 8))
  else if off = 0x68 then
    (match bits v 34 1, bits v 32 2 with
    | 0, 0 => plain (.ctxcmdSaveLaunch (value.extractLsb' 0 32))
    | 0, 1 => plain (.ctxcmdSaveAsid (value.extractLsb' 0 32))
    | 0, 2 => plain (.ctxcmdSaveDie (value.extractLsb' 0 32))
    | 1, 0 => plain (.ctxcmdLoadLaunch (value.extractLsb' 0 32))
    | 1, 1 => plain (.ctxcmdLoadAsid (value.extractLsb' 0 32))
    | 1, 2 => plain (.ctxcmdLoadDie (value.extractLsb' 0 32))
    | _, _ => none)
  else if 0x200 ≤ off && off < 0x280 then plain (.commMembersWrite ((off - 0x200) / 8) value)
  else if 0x300 ≤ off && off < 0x320 then (if bit v 0 then some (.dieIsolate, ⟨(off - 0x300) / 8, 0, 0⟩) else none)
  else if 0x340 ≤ off && off < 0x3A0 then (if bit v 2 then some (.stackTakeout, ⟨(off - 0x340) / 8, 0, 0⟩) else none)
  else if 0x3A0 ≤ off && off < 0x3C0 then plain (.ethEnable ((off - 0x3A0) / 8) value)
  else if 0x800 ≤ off && off < 0xC00 then (if bit v 0 then some (.engineResetWrite, ⟨(off - 0x800) / 8, 0, 0⟩) else none)
  else if 0x20000 ≤ off && off < 0x21000 && off % 64 = 8 then plain (.hoststartWrite ((off - 0x20000) / 64) value)
  else plain (.registerWrite off value who)

/-! ## What the machine may do of itself -/

/-- A step on an object. -/
def on (i : Instr) (x : Nat) : Act := .event i ⟨x, 0, 0⟩

/-- The next stage of a request. -/
def reqAct (id : Nat) (q : Req) : Act :=
  match q.stage with
  | .home => on .homeSliceRequest id
  | .shard => on .shardWalkComplete id
  | .controller => .event (.memoryControllerAccess id []) ⟨0, 0, 0⟩
  | .fill => on .lineFillReturn id

/-- Steps that may carry an outstanding instruction on. Those that are not due leave the state as it is. -/
def opActs (id : Nat) (o : Op) : List Act :=
  let parts : List Act := match o.move with
    | some m =>
      (match m.todo with | c :: _ => [.event .copyGranule ⟨id, c, 0⟩] | [] => [])
        ++ m.wait.map (fun p => .event (if o.opc = 0xC3 then .mloadDeliveryBegin else .copymDeliveryBegin) ⟨id, p, 0⟩)
        ++ m.busy.map (fun p => .event (if o.opc = 0xC3 then .mloadDeliveryEnd else .copymDeliveryEnd) ⟨id, p, 0⟩)
    | none => []
  let lanes : List Act := o.lanes.flatMap (fun l =>
    if o.opc = 0x8B && l.stage == .wait then [.event .pollBackoffEnd ⟨id, l.lane, 0⟩, .event .pollLimitElapsed ⟨id, l.lane, 0⟩]
    else if o.opc = 0x0B && l.stage == .sent then [.event .launchSubmission ⟨id, l.lane, 0⟩]
    else [])
  (if o.lanes.any (fun l => l.stage == .attr) then [on .attributeRequest id] else [])
    ++ (if o.opc = 0x8C || o.opc = 0x8D then parts ++ [on .copyEnd id] else [])
    ++ (if isMatrix o.opc then parts ++ [on .matrixEntryComplete id] else [])
    ++ (if o.opc = 0xE2 then [on .weirGatherComplete id, on .weirTakeTimeout id] else [])
    ++ (if o.opc = 0xE3 then [on .weirScatterComplete id] else [])
    ++ (if o.opc = 0xB7 then [on .commitTicketRequest id] else [])
    ++ (if o.opc = 0xA5 then [on .xlateInvComplete id] else [])
    ++ lanes ++ [on .storeAck id, on .variableLatencyComplete id]

/-- Steps of a core: issue, and placement. -/
def State.coreActs (s : State) : List Act :=
  let cores := (s.v.blocks.filterMap (fun p => p.2.core)).eraseDups
  (cores.filter (fun c => !(s.issueable c).isEmpty)).map Act.issue

/-- Steps of the launch table: a core that takes a block, gangs, claims and slices (R423 to R434). -/
def State.launchActs (s : State) : List Act :=
  let open_ := s.l.launches.filter (fun p => s.eligibleLaunch p.2)
  if open_.isEmpty then []
  else
    (match (List.range 512).find? (fun c => !(s.offers c).isEmpty) with | some c => [on .blockPlacement c] | none => [])
      ++ s.l.gangs.flatMap (fun w => [on .gangReservation (128 * w.die + s.clock % 128), on .gangFallbackTimeout w.launch])
      ++ (open_.filter (fun p => p.2.record.cls == 3)).map (fun p => on .class3Claim p.1)
      ++ (open_.filter (fun p => p.2.record.gangp != 0)).map (fun _ => on .gangReservation (s.clock % 512))

/-- Timers and waits of groups and threads. -/
def State.groupActs (s : State) : List Act :=
  s.v.groups.flatMap (fun p =>
    (if p.2.st == .cove && p.2.due ≤ s.clock then [on .coveAgeTimeout p.1] else [])
      ++ (if p.2.st == .cove && !p.2.releases.isEmpty then [on .yieldReleaseTimeout p.1] else [])
      ++ (if p.2.parks.contains .regroup && s.groupIdle p.1 p.2 then [on .regroupFlagWaitEnd p.1] else []))
    ++ (s.v.threads.filter (fun p => p.2.tx.isSome)).map (fun p => on .txTimeout p.1)

/-- Everything else that is under way. -/
def State.unitActs (s : State) : List Act :=
  s.v.reqs.map (fun p => reqAct p.1 p.2)
    ++ s.v.ops.flatMap (fun p => opActs p.1 p.2)
    ++ (if s.m.wbq.isEmpty then [] else [on .writeBack 0])
    ++ (s.v.blocks.filter (fun p => p.2.saving)).map (fun p => on .blockSaveComplete p.1)
    ++ (s.l.launches.filter (fun p => p.2.slice.isSome)).map (fun p => on .sliceExpiry p.1)
    ++ (if s.l.reports.any (fun r => r.seq.isNone) then [.event .faultRecordWrite ⟨0, 0, 0⟩] else [])
    ++ s.x.tickets.flatMap (fun t =>
      if t.host then [on .hostTxTicketServed t.key] else t.todo.map (fun sl => .event .sliceVote ⟨t.n, sl, 0⟩) ++ [on .txPublish t.n])
    ++ (if s.x.holder.isNone && !s.x.queue.isEmpty then [.event .commitLockGrant ⟨0, 0, 0⟩] else [])
    ++ ((s.v.blocks.filterMap (fun p => p.2.core.map clusterOf)).eraseDups.flatMap (fun e =>
      [on .matrixPassGrant e, on .matrixPassEnd e, on .engineResetEnd e]))
    ++ (List.range 4).map (fun d => on .weirTakeService d)
    ++ ((List.range 4).filter (fun p => bit (s.ethReg p) 0
      && (s.descriptor (bits (s.ethReg p) 12 40 * 4096 + 32 * (Tab.get s.n.eth p (0, 0)).1)).1.isSome)).map (fun p => on .ethTransmit p)
    ++ s.m.tdbs.flatMap (fun p =>
      if tdbState p.2 = 1 then
        (s.m.lines.filter (fun l => l.tarn == p.1 && !s.placedLine l)).map (fun l => .event .tarnLineMove ⟨p.1, l.asid, l.va⟩)
          ++ [on .tarnResizeComplete p.1]
      else if tdbState p.2 = 2 then [on .tarnDrainComplete p.1]
      else [])
    ++ s.m.retiring.map (fun p => .event (.shareRetirementComplete p.1 []) ⟨0, 0, 0⟩)
    ++ s.c.flatMap (fun p => p.2.open_.map (fun r => .event .collTimeout ⟨p.1, r.seq, 0⟩)
      ++ (if p.2.reform.isSome then [on .reformExchangeTimeout p.1] else []))
    ++ (if s.r.c3window = s.clock / 4096 then [] else [.event .c3PoliceWindow ⟨0, 0, 0⟩])

/-- A hart that can execute the instruction at its pc by what the spec gives, or that takes an exception or interrupt. -/
def State.hartActs (s : State) : List Act :=
  (s.harts.filter (fun p => p.2.running && (match s.hostFetch p.1 with | .word s1 w => (decodeHost w).toOption.isSome || (s1.rvStep p.1 w).isSome | _ => true))).map
      (fun p => .host p.1)
    ++ (s.harts.filter (fun p => s.intrLine p.1)).map (fun p => on .hostInterrupt p.1)

/-- A boot that an empty agenda takes: package 0 alone, every fuse whole. -/
def Boot.plain : Boot := ⟨[], 0, 1, 0, [], 0, [], [], true, true, 0⟩

/-- One of the steps that the machine can take of itself, chosen by turns. -/
def State.byItself (s : State) : Option Act :=
  let l := s.coreActs ++ s.unitActs ++ s.groupActs ++ s.launchActs ++ s.hartActs
  l[s.clock % max 1 l.length]?

/-! ## A turn -/

/-- An instruction that no core fetches: a step of the machine or of its surroundings. -/
def isEvent (i : Instr) : Bool := (encode i).isNone

/-- What an act does. Before boot only POWER_GOOD acts (R457). -/
def State.perform (s : State) (a : Act) : Turned :=
  match a with
  | .issue core => if s.powered then s.turnCore core else .rest s
  | .host h => if s.powered then s.turnHart h else .rest s
  | .event i sel =>
    (match i with
    | .powerGood b => .run (.powerGood b) { s with sel := sel }
    | i => if s.powered && isEvent i then .run i { s with sel := sel } else .rest s)
  | .hostBase h exc loads stores pc mode regs fregs vregs csrs =>
    .rest (if s.powered then s.hostBase h exc loads stores ⟨pc, mode, regs, fregs, vregs, csrs⟩ else s)

/-- Cycles pass, and coves whose timers expire in them become READY. -/
def State.tick (s : State) (n : Nat) : State := ({ s with clock := s.clock + n }).ageCoves s.clock

/-- A store to a device register acts, before anything that follows it (R325, R454). -/
def State.writeTurn (s : State) (off : Nat) (value : Dword) (who : Writer) : Turned :=
  match registerEvent off value who with
  | some (i, sel) => .run i { s with sel := sel }
  | none => .rest s

/-- The next turn of an agenda: of the turns that fall in one cycle the one that counts first (R16, assumption log 1). The others
keep their order. -/
def State.nextTurn (s : State) (head : Turn) (rest : List Turn) : Turned :=
  let s1 := s.tick head.wait
  let peers := rest.takeWhile (fun t => t.wait == 0)
  let b := bestTurn s1.actRank { head with wait := 0 } peers
  State.perform { s1 with agenda := b.2 ++ rest.drop peers.length } b.1.act

/-- A core's context operation of this cycle, which acts before a host's write of SYS.CTXCMD: its agent identifier is the lower one
(R14, R450). The agenda without it. -/
def State.ctxPeer (s : State) (off : Nat) : Option (Act × List Turn) :=
  if off ≠ 0x68 then none
  else
    match s.agenda.takeWhile (fun t => t.wait == 0) with
    | [] => none
    | t :: ts =>
      let b := bestTurn (fun a => match a with | .issue core => if (s.issueClass core).1 = 34 then core else 512 | _ => 512) t ts
      match b.1.act with
      | .issue core =>
        if (s.issueClass core).1 = 34 then some (b.1.act, b.2 ++ s.agenda.drop (ts.length + 1)) else none
      | _ => none

/-- The turn of the machine. A package whose power is removed does nothing more (R489). -/
def State.turn (s : State) : Turned :=
  if s.n.off then .rest s
  else
    match s.r.queue, s.agenda with
    | (off, value, who) :: more, _ =>
      (match s.ctxPeer off with
      | some (act, rest) => ({ s with agenda := rest }).perform act
      | none => (s.setSys { s.r with queue := more }).writeTurn off value who)
    | [], head :: rest => s.nextTurn head rest
    | [], [] =>
      let s1 := s.tick 1
      if !s1.powered then .run (.powerGood Boot.plain) s1
      else
        match s1.byItself with
        | some a => s1.perform a
        | none => .rest s1

end Sys2Proof.Machine
end

