-- ==== Sys2Proof/Machine/Step.lean ====
section
/-! DEFINITION. One step of the machine, and the state in which a given instruction is fetched next. -/

namespace Sys2Proof.Machine

open Sys2Proof

/-- What follows an execution that began the turn in `s0`. -/
def ended (s0 : State) (r : Host.Outcome State Fault Refusal) : Host.Outcome State Fault Refusal :=
  match r with
  | .next s => .next (State.settle s0 s)
  | o => o

/-- One turn of one agent: exec of the instruction it issues, or of both slots of a pair (R161). -/
def step (s : State) : Host.Outcome State Fault Refusal :=
  match s.turn with
  | .rest s1 => ended s (.next s1)
  | .run i s1 => ended s (exec i s1)
  | .both lower higher s1 =>
    match exec lower s1 with
    | .next s2 =>
      (match State.higher s1 s2 with
      | none => ended s (.next s2)
      | some s3 => ended s (exec higher s3))
    | o => o

/-! ## An instruction where the machine fetches next (assumption log 10) -/

/-- A line whose first slot is given, with SETA and SETB naming f0, TARGETS bit 0 set, NOP in its other slots, and even
parity. -/
def lineWith (slot : BitVec 96) : BitVec 512 :=
  let l : BitVec 512 := BitVec.ofNat 512 (slot.toNat * 2 ^ 32 + 2 ^ 20)
  if lineParityOk l then l else l ||| (1#512 <<< 31)

/-- A kernel of one block of 64 threads that declares 256 registers, privileged and secure. -/
def soloRecord : Record :=
  { entry := 64, gdimx := 1, gdimy := 1, gdimz := 1, ntid := 64, regs := 256, scratch := 65536, gangp := 0, gangf := 0,
    pclass := 0, fclass := 0, cls := 0, priv := true, secure := true, retry := 0, pvalid := 0, tolerant := 0, nchan := 0,
    chans := [], mgran := 0, mrows := 0, asid := 1, preds := [], seed := 0, hints := [], handler := 0, saveBase := 0,
    saveLen := 0 }

/-- Its launch, resident on core 0 as block 1, and its one group 2 at PC 64. -/
def soloLaunch : Launch := ⟨1, .running, soloRecord, 1, 0, [], 0, 1, false, false, none⟩

def soloBlock : Block :=
  { launch := 0, index := 0, core := some 0, slots := [0], chunks := [0], scratch := [], full := [], buddy := (0, 65536),
    bars := (List.range 16).map (fun k => (k, ⟨false, 0, 64, [], [], none⟩)), pool := [], image := 0, cls := 0, gang := 1, gangPos := 0,
    gangSize := 1, traffic := 0, window := none, rows := [], resv := [], saving := false, placed := 1 }

def soloGroup (slot : BitVec 96) : Group :=
  { emptyGroup 1 0 .ready ((List.range 64).map (threadKey 1)) 64 (0, 0) 0 with
    whole := true
    line := some ⟨64, lineWith slot, true⟩ }

/-- The state in which core 0 issues the slot next. -/
def State.withSlot (s : State) (slot : BitVec 96) : State :=
  { s with
    powered := true
    n := { s.n with off := false }
    v := { s.v with
      cores := []
      threads := newThreads 1 soloRecord [0]
      groups := [(2, soloGroup slot)]
      blocks := [(1, soloBlock)]
      ops := []
      reqs := []
      locks := [] }
    r := { s.r with queue := [] }
    l := { s.l with launches := [(0, soloLaunch)] }
    nextId := max s.nextId 3
    agenda := [⟨0, .issue 0⟩] }

/-- The state in which hart 0 executes the word next, at the place where boot starts it. -/
def State.withHostWord (s : State) (w : BitVec 32) : State :=
  { s with
    powered := true
    n := { s.n with off := false }
    r := { s.r with
      asidTab := 0
      queue := [] }
    m := { s.m with mem := Memory.writes s.m.mem firmwareOffset (bytesOf 4 w.toNat), tdbSet := false }
    harts := Tab.set s.harts 0 { s.hart 0 with
      running := true
      mode := 3
      wait := none
      pc := BitVec.ofNat 64 (s.r.pkg * 2 ^ 48 + firmwareOffset) }
    agenda := [⟨0, .host 0⟩] }

/-- The state with an instruction stored where `step` fetches next: a host word of up to 32 bits, or a slot. -/
def State.withFetchWord (s : State) (nbits w : Nat) : State :=
  if nbits ≤ 32 then s.withHostWord (BitVec.ofNat 32 w) else s.withSlot (BitVec.ofNat 96 w)

end Sys2Proof.Machine
end

