-- ==== Sys2Proof/Safety.lean ====
section
/-! DEFINITION. What counts as a safe run, the invariants that statements use, and the vocabulary in which statements say when an
instruction executes and what it leaves. -/

namespace Sys2Proof

open Sys2Proof.Machine

/-- A step goes on: neither a fault nor a refusal. -/
def goesOn (s : State) : Prop := ∃ t, step s = .next t

/-- Memory is in its canonical form. -/
def memoryCanonical (s : State) : Prop := Memory.wf s.m.mem = true

/-! ## When a slot executes -/

/-- The group that executes is `g` as its sources see it (R161), no trap is pending for it, and the checks of R173 on the slot pass. -/
def issues (s : State) (op : Nat) (f : Slot) (g : Group) : Bool :=
  (s.group? s.cur.group).map s.asSeen == some g && g.pendingTrap.isNone && (checkSlot (s.declared g.block) g op f).isNone

/-- The same, and an operand B taken from a scalar finds a valid scalar of a converged group (R44, R167). -/
def issuesB (s : State) (op : Nat) (f : Slot) (g : Group) : Bool := issues s op f g && !staleScalar (s.converged g) g f

/-- The same for the scalar pipe: a converged group with every scalar source valid (R226). -/
def issuesScalar (s : State) (op : Nat) (f : Slot) (g : Group) : Bool :=
  issues s op f g && s.converged g && (scalarSources op f).all (fun n => (Tab.look g.scalars n).isSome)

/-- The same for a privileged instruction of a grid that may run it (R272, R446). -/
def issuesPriv (s : State) (op : Nat) (f : Slot) (g : Group) : Bool := issues s op f g && (s.ctxOf g.block).priv

/-- The lanes of the group at its PC that execute (R27, R163). -/
def running (s : State) (g : Group) (f : Slot) : List LaneV := (s.lanesOf g f).filter (·.run)

/-- No executing lane has a transaction open. -/
def outsideTx (s : State) (g : Group) (f : Slot) : Bool :=
  (running s g f).all (fun l => !l.inTx && !s.txOpen l.key)

/-- A lane of the group, at its PC or not at all, has no part: every lane at the PC executes, and there is one. -/
def allRun (s : State) (g : Group) (f : Slot) : Bool := !(s.lanesOf g f).isEmpty && (s.lanesOf g f).all (·.run)

/-- The group is converged, every lane of it executes, and none has a transaction open (R45, R358). -/
def wholeGroup (s : State) (g : Group) (f : Slot) : Bool := s.converged g && allRun s g f && outsideTx s g f

/-! ## What a fixed-latency instruction leaves -/

/-- What an instruction leaves where it executes: `t`, in which, where it is the higher slot of a pair, what it writes stands
against the lower slot's outstanding instruction (R161, R305), and lanes that the lower slot returns from their handlers go on
from where they return to (R161, R448). -/
def kept (s : State) (op : Nat) (f : Slot) (g : Group) (t : State) : State :=
  let u := t.keepHigher op f (s.lanesOf g f)
  if u.cur.trapped then u else u.goBack s.cur.group g false

/-- What is left where a slot cannot issue yet: nothing of it has taken effect, and the group issues it again; of a higher slot,
with the lanes that the lower slot returns gone on (R161, R448). -/
def stays (s : State) (g : Group) : State := s.goBack s.cur.group g true

/-- The slot that issues is no higher slot beside a lower one that returns lanes from their handlers (R161, R448). -/
def noReturn (s : State) : Bool := s.cur.snap.isNone || (s.cur.pair.getD []).isEmpty

/-- Every executing lane's thread changed by `eff`, and every lane moved to NextPc. -/
def ran (s : State) (f : Slot) (g : Group) (eff : LaneV → Thread → Thread) : State :=
  (s.eachLane (running s g f) eff).advance s.cur.group g (s.lanesOf g f)

/-- A value of `w` registers in D of every executing lane. -/
def wroteD (s : State) (f : Slot) (g : Group) (w : Nat) (val : LaneV → Nat) : State :=
  ran s f g (fun l t => t.setVal f.d.toNat w (val l))

/-- A predicate in D of every executing lane. -/
def wroteP (s : State) (f : Slot) (g : Group) (val : LaneV → Bool) : State :=
  ran s f g (fun l t => t.setPred f.d.toNat (val l))

/-- A scalar, or nothing, changed, and every lane moved to NextPc. -/
def wroteScalar (s : State) (f : Slot) (g : Group) (v : Nat) : State :=
  (s.setScalar s.cur.group f.d.toNat v).advance s.cur.group g (s.lanesOf g f)

/-- A row of a table of instructions of one shape: the instruction, its opcode, and what it writes to D of a lane. -/
structure DRow where
  instr : Instr
  op : Nat
  regs : Nat
  val : LaneV → Nat

/-- The same for a predicate. -/
structure PRow where
  instr : Instr
  op : Nat
  val : LaneV → Bool

/-- The same for an instruction that also draws (R73): the change of the thread. -/
structure TRow where
  instr : Instr
  op : Nat
  eff : LaneV → Thread → Thread

/-- What a variable-latency instruction leaves at issue: itself outstanding with these lanes, its flag raised and what it
writes owed (R153, R157), and every lane at NextPc. -/
def setOff (s : State) (op : Nat) (f : Slot) (g : Group) (lanes : List LaneOp) : State :=
  (s.startOp s.cur.group g op f lanes).1.advance s.cur.group g (s.lanesOf g f)

/-- What the target of every lane of a transfer comes to, where every lane at the PC executes and has the target `p`, which may be
entered (R152, R195 to R199): the state after the reads that this takes; none where it is not so. -/
def oneTarget (s : State) (g : Group) (f : Slot) (tgt : State → Group → LaneV → State × Target) (p : Nat) : Option State :=
  let ls := s.lanesOf g f
  let a := s.targets (fun s l => tgt s g l) ls
  if allRun s g f && a.2.all (fun x => x.2 == .pc (some p)) then
    let c := a.1.checkTargets (s.coreOfBlock g.block) (s.ctxOf g.block) a.2
    if c.2.all (fun x => x.2.1 == .ok) then some c.1 else none
  else none

/-- Every lane transfers to `p`: with a link, D gets NextPc first (R196). -/
def transferred (s : State) (s1 : State) (f : Slot) (g : Group) (link : Bool) (p : Nat) : State :=
  let ls := s.lanesOf g f
  let s2 := if link then s1.eachLane ls (fun _ t => t.setVal f.d.toNat 2 (nextPc g.pc).toNat) else s1
  (s2.updGroup s.cur.group (fun x => { x with plan := none })).setNext s.cur.group g ls (BitVec.ofNat 64 p) (ls.map (·.key))

/-- What a matrix instruction leaves at issue (R354, R371): its entry posted, with its row or source, its transfer and its
range lock; draws that MREAD takes; every lane at NextPc. -/
def posted (s : State) (op : Nat) (f : Slot) (g : Group) (tag : Nat) (lanes : List LaneOp) (move : Option Move)
    (lock : Option RangeLock) : State :=
  let n := s.startOp s.cur.group g op f lanes
  let s1 := (n.1.post (clusterOf (s.coreOfBlock g.block)) (s.classOf g.block) n.2).updOp n.2 (fun o =>
    { o with
      tag := tag
      move := move })
  let s2 := match lock with
    | some k => s1.setLocks (s1.v.locks ++ [{ k with owner := n.2 }])
    | none => s1
  let s3 := if op = 0xCA && Rule.rnd f = 5 then s2.eachLane (s.lanesOf g f) (fun _ t => { t with draws := t.draws + 2 }) else s2
  s3.advance s.cur.group g (s.lanesOf g f)

end Sys2Proof
end

