-- ==== Sys2Proof/Certificates/Slice0/Obligations.lean ====
section
/-! DEFINITION. The statements about the model: what each instruction leaves where it completes, what it leaves unchanged, where it
traps, how it is decoded, and what every step keeps. -/

namespace Sys2Proof.Claims

open Sys2Proof Sys2Proof.Machine

/-! ## Fixed-latency instructions: tables of results -/

/-- The result of IntOp (R216): clamped with .SAT, else wrapped. -/
def intResult (f : Slot) (x : Int) : Nat := writeInt (Rule.ty f) (satInt (Rule.sat f) (Rule.ty f) x)

/-- Integer and address arithmetic (R191, R215 to R223). -/
def integerRows (f : Slot) (g : Group) : List DRow :=
  let a (l : LaneV) : Int := intA f l.th
  let b (l : LaneV) : Int := intB f g l.th
  let c (l : LaneV) : Int := intC f l.th
  let w := wOf f
  let n := tyWidth (Rule.ty f)
  let bitsA (l : LaneV) : Nat := readA f l.th w
  let bitsB (l : LaneV) : Nat := readB f g l.th w
  let one (l : LaneV) : Nat := readB1 f g l.th
  [ ⟨.iadd f, 0x10, w, fun l => intResult f (a l + b l)⟩,
    ⟨.isub f, 0x11, w, fun l => intResult f (a l - b l)⟩,
    ⟨.imul f, 0x12, w, fun l => intResult f (a l * b l)⟩,
    ⟨.imulh f, 0x13, 1, fun l => wrap 64 (a l * b l) / 2 ^ 32⟩,
    ⟨.imad f, 0x14, w, fun l => intResult f (a l * b l + c l)⟩,
    ⟨.imin f, 0x16, w, fun l => intResult f (min (a l) (b l))⟩,
    ⟨.imax f, 0x17, w, fun l => intResult f (max (a l) (b l))⟩,
    ⟨.iabs f, 0x18, w, fun l => intResult f (a l).natAbs⟩,
    ⟨.ineg f, 0x19, w, fun l => intResult f (0 - a l)⟩,
    ⟨.and f, 0x1A, w, fun l => Nat.land (bitsA l) (bitsB l)⟩,
    ⟨.or f, 0x1B, w, fun l => Nat.lor (bitsA l) (bitsB l)⟩,
    ⟨.xor f, 0x1C, w, fun l => Nat.xor (bitsA l) (bitsB l)⟩,
    ⟨.not f, 0x1D, w, fun l => 2 ^ n - 1 - bitsA l⟩,
    ⟨.shl f, 0x1E, w, fun l => if n ≤ one l then 0 else bitsA l * 2 ^ one l % 2 ^ n⟩,
    ⟨.shr f, 0x1F, w, fun l => if n ≤ one l then 0 else bitsA l / 2 ^ one l⟩,
    ⟨.sar f, 0x20, w, fun l => wrap n (signed n (bitsA l) / (2 ^ min (one l) n : Nat))⟩,
    ⟨.rot f, 0x21, w, fun l => bitsA l * 2 ^ (one l % n) % 2 ^ n + bitsA l / 2 ^ (n - one l % n)⟩,
    ⟨.bfe f, 0x22, w, fun l => bitField (tySigned (Rule.ty f)) n (bitsA l) (one l)⟩,
    ⟨.bfi f, 0x23, w, fun l => insertField n (readA f l.th 1) (one l) (readC f l.th w)⟩,
    ⟨.popc f, 0x24, 1, fun l => popCount n (bitsA l)⟩,
    ⟨.clz f, 0x25, 1, fun l => leadingZeros n (bitsA l)⟩,
    ⟨.brev f, 0x26, w, fun l => reverseBits n (bitsA l)⟩,
    ⟨.isel f, 0x27, w, fun l => if l.th.pred f.c.toNat then bitsA l else bitsB l⟩,
    ⟨.iadd64 f, 0x29, w, fun l => intResult f (a l + addTerm f g l.th)⟩,
    ⟨.imad64 f, 0x2A, w, fun l =>
      intResult f (ext32 (tySigned (Rule.ty f)) (readA f l.th 1) * ext32 (tySigned (Rule.ty f)) (one l) + c l)⟩,
    ⟨.lea f, 0x2B, 2, fun l => wrap 64 (readA f l.th 2 + ext32 (tySigned (Rule.ty f)) (one l) * (2 ^ Rule.sub f : Nat))⟩,
    ⟨.mov f, 0x2C, w, bitsA⟩,
    ⟨.movi f, 0x2D, w, bitsB⟩ ]

/-- Forms that write a predicate of each lane by itself (R221, R224, R286). -/
def predicateRows (f : Slot) (g : Group) : List PRow :=
  let p (l : LaneV) : Bool := l.th.pred f.a.toNat
  let q (l : LaneV) : Bool := l.th.pred f.b.toNat != (Rule.sub f == 1)
  [ ⟨.icmp f, 0x28, fun l => condInt (Rule.sub f) (intA f l.th) (intB f g l.th) && l.th.pred f.c.toNat⟩,
    ⟨.pset f, 0x30, fun l => readB1 f g l.th != 0⟩,
    ⟨.pand f, 0x31, fun l => p l && q l⟩,
    ⟨.por f, 0x32, fun l => p l || q l⟩,
    ⟨.pxor f, 0x33, fun l => p l != q l⟩,
    ⟨.pnot f, 0x34, fun l => !p l⟩,
    ⟨.pmov f, 0x35, p⟩,
    ⟨.fcmp f, 0x48, fun l => condFloat (Rule.sub f) (fA f l.th 0) (fB f g l.th 0) && l.th.pred f.c.toNat⟩ ]

/-- Forms that combine the lanes (R225, R300 to R302): what a lane writes to D. -/
def exchangeRows (s : State) (f : Slot) (g : Group) : List DRow :=
  let ls := s.lanesOf g f
  let w := wOf f
  let seg := segment f
  let from_ (src : LaneV → Nat) (l : LaneV) : Nat := suppliedBy f ls (src l)
  [ ⟨.pballot f, 0x36, 2, fun _ => ballot f ls⟩,
    ⟨.qswap f, 0x68, w, from_ (fun l => Nat.xor l.lane (Rule.sub f + 1))⟩,
    ⟨.qbcast f, 0x69, w, from_ (fun l => l.lane / 4 * 4 + Rule.sub f)⟩,
    ⟨.shfl f, 0x6A, w, from_ (fun l => l.lane / seg * seg + readB1 f g l.th % seg)⟩,
    ⟨.shflup f, 0x6B, w, from_ (fun l => if readB1 f g l.th ≤ l.lane % seg then l.lane - readB1 f g l.th else l.lane)⟩,
    ⟨.shfldn f, 0x6C, w, from_ (fun l => if l.lane % seg + readB1 f g l.th < seg then l.lane + readB1 f g l.th else l.lane)⟩,
    ⟨.shflx f, 0x6D, w, from_ (fun l => l.lane / seg * seg + Nat.xor (l.lane % seg) (readB1 f g l.th % seg))⟩,
    ⟨.voteMatch f, 0x6E, 2, fun l =>
      maskOf (((runValues f ls).filter (fun p => p.2 == readA f l.th w)).map Prod.fst)⟩ ]

/-- The same for a predicate (R225, R302). -/
def voteRows (s : State) (f : Slot) (g : Group) : List PRow :=
  let ls := s.lanesOf g f
  [ ⟨.pany f, 0x37, fun _ => ls.any (fun l => l.run && l.th.pred f.a.toNat)⟩,
    ⟨.pall f, 0x38, fun _ => ls.all (fun l => !l.run || l.th.pred f.a.toNat)⟩,
    ⟨.voteUni f, 0x6E, fun l => (runValues f ls).all (fun p => p.2 == readA f l.th (wOf f))⟩ ]

/-- FArith (R283): the exact elements rounded once each, with their draws. -/
def arith (s : State) (f : Slot) (exact : LaneV → Nat → Val) (l : LaneV) (t : Thread) : Thread :=
  let r := roundElems (s.drawer t.block t.tid) (fmtOf (Rule.ty f)) (Rule.rnd f) (Rule.ftz f) t.draws
    ((List.range (elemCount (Rule.ty f))).map (exact l))
  { t with draws := r.2 }.setVal f.d.toNat (wOf f) (ofElems (Rule.ty f) r.1)

/-- Floating-point arithmetic that rounds, and conversions (R283, R288 to R290, R295 to R297). -/
def floatRows (s : State) (f : Slot) (g : Group) : List TRow :=
  let a (l : LaneV) (j : Nat) : Val := fA f l.th j
  let b (l : LaneV) (j : Nat) : Val := fB f g l.th j
  let c (l : LaneV) (j : Nat) : Val := fC f l.th j
  let rm := Rule.rnd f == 3
  let draw (t : Thread) : BitVec 32 → Nat := s.drawer t.block t.tid
  [ ⟨.fadd f, 0x40, arith s f (fun l j => Val.add rm (a l j) (b l j))⟩,
    ⟨.fsub f, 0x41, arith s f (fun l j => Val.add rm (a l j) (b l j).negate)⟩,
    ⟨.fmul f, 0x42, arith s f (fun l j => Val.mul (a l j) (b l j))⟩,
    ⟨.fma f, 0x43, arith s f (fun l j => Val.add rm (Val.mul (a l j) (b l j)) (c l j))⟩,
    ⟨.fscale f, 0x4B, arith s f (fun l j => (a l j).scale (scaleBy (signed 32 (readB1 f g l.th))))⟩,
    ⟨.fdot2 f, 0x4D, arith s f (fun l _ => dotExact f (readA f l.th 1) (readB f g l.th 1) (readC f l.th 1))⟩,
    ⟨.frnd f, 0x4C, fun l t =>
      let r := integralElems (draw t) (fmtOf (Rule.ty f)) (Rule.rnd f) t.draws ((List.range (elemCount (Rule.ty f))).map (a l))
      { t with draws := r.2 }.setVal f.d.toNat (wOf f) (ofElems (Rule.ty f) r.1)⟩,
    ⟨.cvt f, 0x60, fun l t =>
      let r := convert (draw t) t.draws (Rule.src f) (Rule.ty f) (Rule.rnd f) (Rule.sat f) (Rule.ftz f)
        (readA f l.th (Rule.regs (Rule.src f))) (if Rule.src f = 17 then readB1 f g l.th else 0)
      { t with draws := r.2 }.setVal f.d.toNat (wOf f) r.1⟩,
    ⟨.cvts f, 0x61, fun l t =>
      let x := scaledVal f (readA f l.th 1) (readB1 f g l.th)
      let r := roundDraw (draw t) t.draws (fmtOf (Rule.ty f)) (Rule.rnd f) (Rule.sat f) x
      { t with draws := r.2 }.setVal f.d.toNat 1 (flushF (fmtOf (Rule.ty f)) (Rule.ftz f && Rule.isWide (Rule.ty f)) x r.1)⟩,
    ⟨.pack f, 0x62, fun l t =>
      let conv (n : BitVec 32) (v : Nat) := convert (draw t) n (Rule.src f) (packTy (Rule.ty f)) (Rule.rnd f) (Rule.sat f)
        (Rule.ftz f) v 0
      let x := conv t.draws (readA f l.th 1)
      let y := conv x.2 (readB1 f g l.th)
      let n := packBits (Rule.ty f)
      { t with draws := y.2 }.setVal f.d.toNat 1
        (putElem n (putElem n (if n = 16 then 0 else readD f l.th 1) (2 * Rule.sub f) x.1) (2 * Rule.sub f + 1) y.1)⟩ ]

/-- An element-wise form without rounding. -/
def elements (f : Slot) (e : LaneV → Nat → Nat) (l : LaneV) : Nat :=
  ofElems (Rule.ty f) ((List.range (elemCount (Rule.ty f))).map (e l))

/-- Floating-point forms that write without rounding (R284, R285, R287, R298), and SREG (R229), TSTAT (R343) and the forms of
TRAPRET that read the trap registers (R448). -/
def bitsRows (s : State) (f : Slot) (g : Group) : List DRow :=
  let ty := Rule.ty f
  let at_ (l : LaneV) (j : Nat) : Nat := elemAt ty (readA f l.th (wOf f)) j
  [ ⟨.fmin f, 0x44, wOf f, elements f (fun l j => codeOf (fmtOf ty) (minVal (fA f l.th j) (fB f g l.th j)))⟩,
    ⟨.fmax f, 0x45, wOf f, elements f (fun l j => codeOf (fmtOf ty) (maxVal (fA f l.th j) (fB f g l.th j)))⟩,
    ⟨.fabs f, 0x46, wOf f, elements f (fun l j => magBits ty (at_ l j))⟩,
    ⟨.fneg f, 0x47, wOf f, elements f (fun l j =>
      magBits ty (at_ l j) + (if signBit ty (at_ l j) then 0 else 2 ^ (elemBits ty - 1)))⟩,
    ⟨.fsel f, 0x49, wOf f, elements f (fun l j =>
      if l.th.pred f.c.toNat then at_ l j else elemAt ty (readB f g l.th (wOf f)) j)⟩,
    ⟨.fclass f, 0x4A, 1, fun l => 2 ^ classBit (fmtOf ty) (readA f l.th (wOf f))⟩,
    ⟨.unpack f, 0x63, 1, fun l =>
      let e := bits (readA f l.th 1) (packBits (Rule.src f) * Rule.sub f) (packBits (Rule.src f))
      if Rule.isInt (Rule.src f) then writeInt ty (readInt (Rule.src f) e)
      else codeOf (fmtOf ty) (decodeSrc (packTy (Rule.src f)) e (if Rule.src f = 17 then readB1 f g l.th else 0))⟩,
    ⟨.sreg f, 0x0E, if f.i32.toNat < 32 then 1 else 2, fun l => s.special f.i32.toNat g l⟩,
    ⟨.tstat f, 0xB9, 1, fun l => match l.th.tx with
      | some x => statusWord x.depth true x.lock x.retries l.th.lastAbort.2 l.th.lastAbort.1
      | none => statusWord 0 false false 0 l.th.lastAbort.2 l.th.lastAbort.1⟩,
    ⟨.trapretGetpc f, 0xF2, 2, fun l => if l.th.handler then l.th.trapPc.toNat else 0⟩,
    ⟨.trapretGetcause f, 0xF2, 1, fun l => if l.th.handler then l.th.trapCause.toNat else 0⟩,
    ⟨.trapretGetaddr f, 0xF2, 2, fun l => if l.th.handler then l.th.trapAddr.toNat else 0⟩ ]

/-- Variable-latency arithmetic (R218, R291 to R293): the result of each executing lane and its draw counter. -/
def slowRows (s : State) (f : Slot) (g : Group) : List (Instr × Nat × Nat × (LaneV → Thread → Nat × BitVec 32)) :=
  let round (exact : LaneV → Nat → Val) (l : LaneV) (t : Thread) : Nat × BitVec 32 :=
    let r := roundElems (s.drawer t.block t.tid) (fmtOf (Rule.ty f)) (Rule.rnd f) (Rule.ftz f) t.draws
      ((List.range (elemCount (Rule.ty f))).map (exact l))
    (ofElems (Rule.ty f) r.1, r.2)
  let a (l : LaneV) (j : Nat) : Val := fA f l.th j
  let fn (op : Nat) (l : LaneV) (j : Nat) : Val := decodeF fmtF32 (elementary op (a l j) (codeOf fmtF32 (a l j)))
  [ (.idiv f, 0x15, 1, fun l t => (divide f (intA f l.th) (intB f g l.th), t.draws)),
    (.frcp f, 0x50, wOf f, round (fun l j => Val.div (Val.ofInt 1) (a l j))),
    (.frsq f, 0x51, wOf f, round (fun l j =>
      if Rule.ty f = 14 then recipRoot (a l j) else decodeF fmtF32 (codeOf fmtF32 (recipRoot (a l j))))),
    (.fsqrt f, 0x52, wOf f, round (fun l j => rootOf (a l j))),
    (.fdiv f, 0x53, wOf f, round (fun l j => Val.div (a l j) (fB f g l.th j))),
    (.fexp2 f, 0x54, wOf f, round (fn 0x54)),
    (.flog2 f, 0x55, wOf f, round (fn 0x55)),
    (.fsin f, 0x56, wOf f, round (fn 0x56)),
    (.fcos f, 0x57, wOf f, round (fn 0x57)),
    (.ftanh f, 0x58, wOf f, round (fn 0x58)) ]

/-- A transfer: its opcode, the target of a lane, and whether it writes a link. -/
structure TransferRow where
  instr : Instr
  op : Nat
  target : State → Group → LaneV → State × Target
  link : Bool

/-- The transfers (R195 to R199). -/
def transferRows (f : Slot) : List TransferRow :=
  let off (s : State) (g : Group) (_ : LaneV) : State × Target := (s, .pc (branchPc g.pc f.i32))
  let table (s : State) (g : Group) (l : LaneV) : State × Target := s.tableTarget f g l
  [ ⟨.bra f, 0x01, off, false⟩,
    ⟨.brx f, 0x02, table, false⟩,
    ⟨.call f, 0x03, off, true⟩,
    ⟨.callx f, 0x04, table, true⟩,
    ⟨.ret f, 0x05, fun s _ l => (s, .pc (some (readA f l.th 2))), false⟩ ]

/-- The instructions by which each lane accesses memory by itself (R239 to R263, R331), with their opcodes. -/
def accessRows (f : Slot) : List (Instr × Nat) :=
  [ (.ld f, 0x80), (.st f, 0x81), (.lds f, 0x82), (.sts f, 0x83), (.ldfW f, 0x84), (.ldfC f, 0x84), (.stfW f, 0x85),
    (.stfS f, 0x85), (.femarkEmpty f, 0x86), (.femarkFull f, 0x86), (.prefL1 f, 0x87), (.prefTarn f, 0x87), (.atom f, 0x88),
    (.cas f, 0x89), (.red f, 0x8A), (.poll f, 0x8B), (.cflushWb f, 0x8F), (.cflushInv f, 0x8F), (.cinv f, 0x90),
    (.sbarArrive f, 0xB3), (.sbarTest f, 0xB4) ]

/-- The read of a stage barrier by a thread comes after an access of the same granule that has still to be performed (R315, R325). -/
def behindStage (s : State) (key ea : Nat) : Bool :=
  s.poBlocked s.nextId key false (fun q x => opScratch q.opc && opWrites q.opc && x.ea / 16 == ea / 16)

/-- What is left where executing lanes abort their transactions and nothing else is decided (R344): `s1` with their aborts marked, and
a decision that sends each of them to NextPc of its TBEGIN and every other lane to NextPc, carried out once the flags allow it. -/
def gaveUp (s s1 : State) (g : Group) (ls : List LaneV) (aborts : List (Nat × Abort × Nat)) : State :=
  let s2 := aborts.foldl (fun s p => s.markAbort p.1 p.2.1 p.2.2) (s1.setCur { s1.cur with trapped := true })
  let next := ls.map (fun l =>
    if aborts.any (fun p => p.1 == l.key) then
      (l.key, match (s2.thread? l.key).bind (·.tx) with | some x => nextPc x.pc | none => nextPc g.pc)
    else (l.key, nextPc g.pc))
  (s2.updGroup s.cur.group (fun x => { x with plan := some ⟨g.pc, nextPc g.pc, next, none, [], none⟩ })).tryPlan s.cur.group

end Sys2Proof.Claims

section

open Sys2Proof Sys2Proof.Machine Sys2Proof.Claims

/-- IADD to MOVI (R191, R215 to R223): where the slot passes the checks of R173, each executing lane writes the rule's result to
D, every lane goes to NextPc, and nothing else changes. What BFI.B64 inserts above bit 31 where its length exceeds 32, zeros, is the
model's choice (assumption log 45). -/
def Obligations.IntegerResults : Prop :=
  ∀ (s : State) (f : Slot) (g : Group), ∀ r ∈ integerRows f g,
    issuesB s r.op f g → exec r.instr s = .next (kept s r.op f g (wroteD s f g r.regs r.val))

/-- The predicate forms that each lane computes by itself (R221, R224, R286), and the exchanges among lanes, the ballots and the votes
(R225, R299 to R302). -/
def Obligations.PredicateAndExchangeResults : Prop :=
  ∀ (s : State) (f : Slot) (g : Group),
    (∀ r ∈ predicateRows f g, issuesB s r.op f g → exec r.instr s = .next (kept s r.op f g (wroteP s f g r.val)))
    ∧ (∀ r ∈ exchangeRows s f g, issuesB s r.op f g → exec r.instr s = .next (kept s r.op f g (wroteD s f g r.regs r.val)))
    ∧ (∀ r ∈ voteRows s f g, issuesB s r.op f g → exec r.instr s = .next (kept s r.op f g (wroteP s f g r.val)))

/-- Floating-point arithmetic and conversions, with their draws (R283, R288 to R290, R295 to R297).
Where it rests on a choice of the model, that is assumption log 60 and 61. -/
def Obligations.FloatResults : Prop :=
  ∀ (s : State) (f : Slot) (g : Group), ∀ r ∈ floatRows s f g,
    issuesB s r.op f g → exec r.instr s = .next (kept s r.op f g (ran s f g r.eff))

/-- Floating-point forms without rounding (R284, R285, R287, R298), SREG (R229), TSTAT (R343), and the forms of TRAPRET that
read the trap registers (R448). Where it rests on a choice of the model, that is assumption log 59 and 60. -/
def Obligations.BitsResults : Prop :=
  ∀ (s : State) (f : Slot) (g : Group), ∀ r ∈ bitsRows s f g,
    issuesB s r.op f g → exec r.instr s = .next (kept s r.op f g (wroteD s f g r.regs r.val))

/-- The scalar pipe and NOP (R172, R226 to R228). Where the group is converged and every scalar source is valid, SMOVI, SPUT
and SALU make the scalar D valid with the rule's value, and SGET and SCMP write every lane. -/
def Obligations.ScalarResults : Prop :=
  ∀ (s : State) (f : Slot) (g : Group),
    (issuesB s 0x00 f g → exec (.nop f) s = .next (kept s 0x00 f g (s.advance s.cur.group g (s.lanesOf g f))))
    ∧ (issuesScalar s 0x39 f g → exec (.smovi f) s = .next (kept s 0x39 f g (wroteScalar s f g
        (if Rule.sub f = 0 then immVal (Rule.ty f) f.i32 else f.i32.toNat * 2 ^ 32 + g.scalar f.d.toNat % 2 ^ 32))))
    ∧ (issuesScalar s 0x3A f g → exec (.sget f) s = .next (kept s 0x3A f g ((s.writeD f (wOf f) (s.lanesOf g f) (fun _ =>
        if Rule.sub f = 1 then g.scalar f.a.toNat / 2 ^ 32
        else if wOf f = 2 then g.scalar f.a.toNat else g.scalar f.a.toNat % 2 ^ 32)).advance s.cur.group g (s.lanesOf g f))))
    ∧ (issuesScalar s 0x3B f g → ∀ l, (s.lanesOf g f).find? (fun l => l.lane == f.i32.toNat) = some l →
        exec (.sput f) s = .next (kept s 0x3B f g (wroteScalar s f g
          (if Rule.ty f = 3 then wrap 64 (signed 32 (readA f l.th (wOf f))) else readA f l.th (wOf f)))))
    ∧ (issuesScalar s 0x3C f g → exec (.salu f) s = .next (kept s 0x3C f g (wroteScalar s f g
        (intResult f (saluExact f (g.scalar f.a.toNat) (scalarB f g))))))
    ∧ (issuesScalar s 0x3D f g → exec (.scmp f) s = .next (kept s 0x3D f g ((s.writeP f (s.lanesOf g f) (fun _ =>
        condInt (Rule.sub f) (readInt (Rule.ty f) (g.scalar f.a.toNat)) (readInt (Rule.ty f) (scalarB f g)))).advance
          s.cur.group g (s.lanesOf g f))))

/-- REDUX and SCAN (R79, R80, R303, R304): the tree over the executing lanes, drawn for by the lowest of them; REDUX writes its
root to every executing lane, SCAN the join of the spans below the lane. -/
def Obligations.ReductionResults : Prop :=
  ∀ (s : State) (f : Slot) (g : Group),
    let ls := s.lanesOf g f
    let tr := s.treeOf f ls
    (issues s 0x6F f g → exec (.redux f) s = .next
      (kept s 0x6F f g (((chargeDraws tr.2 s).writeD f (wOf f) (running s g f) (fun _ => (tr.1.getD 6 []).getD 0 0)).advance s.cur.group g ls)))
    ∧ (issues s 0x70 f g → exec (.scan f) s = .next
      (kept s 0x70 f g (((chargeDraws tr.2 s).eachLane (running s g f) (fun l t =>
        let r := prefixOf (s.drawer t.block t.tid) f tr.1 t.draws (if f.i32 = 0 then l.lane + 1 else l.lane)
        { t with draws := r.2 }.setVal f.d.toNat (wOf f) r.1)).advance s.cur.group g ls)))

/-- Variable-latency arithmetic at issue (R153, R157, R281): the result of each executing lane is formed from its registers as
they stand, waits in the outstanding instruction, and is owed to its flag; draws are taken; every lane goes to NextPc.
Where it rests on a choice of the model, that is assumption log 3 and, for the flushing of the 16-bit forms, 32. -/
def Obligations.SlowResults : Prop :=
  ∀ (s : State) (f : Slot) (g : Group), ∀ r ∈ slowRows s f g,
    issuesB s r.2.1 f g →
      let run := running s g f
      let res (l : LaneV) : Nat × BitVec 32 := match s.thread? l.key with | some t => r.2.2.2 l t | none => (0, 0)
      let started := s.startOp s.cur.group g r.2.1 f (run.map (fun l => { laneOp l 0 [] [] .done with res := wordsOf r.2.2.1 (res l).1 }))
      exec r.1 s = .next (kept s r.2.1 f g ((started.1.eachLane run (fun l t => { t with draws := (res l).2 })).advance s.cur.group g (s.lanesOf g f)))

/-- Transfers (R195 to R199). Where every lane at the PC executes and has one target that may be entered, BRA, BRX and RET take every
lane there, and CALL and CALLX write the link, NextPc, first; where no lane executes, every lane goes to NextPc.
A transfer that diverges (R44, R195, R197): once every executing lane's target has been checked, the lanes that transfer have their
link written, the group loses its scalars, and the lanes are regrouped by their next PCs, the target of each or NextPc.
Nothing takes effect where the read of a table or the fetch of a target meets a page fault, which is recorded, or is held, so that the
transfer issues again (R198, R492); where every executing lane's target may not be entered, its lanes take TARGET, or POISONED with
the address of the poisoned read (R152). -/
def Obligations.TransferResults : Prop :=
  (∀ (s : State) (f : Slot) (g : Group), ∀ r ∈ transferRows f,
      issues s r.op f g →
        (∀ p s1, oneTarget s g f r.target p = some s1 → exec r.instr s = .next (kept s r.op f g (transferred s s1 f g r.link p)))
        ∧ (running s g f = [] → exec r.instr s = .next (kept s r.op f g (s.advance s.cur.group g (s.lanesOf g f)))))
  ∧ (∀ (s : State) (f : Slot) (g : Group), ∀ r ∈ transferRows f,
      issues s r.op f g → running s g f ≠ [] →
        let gid := s.cur.group
        let ls := s.lanesOf g f
        let np := nextPc g.pc
        let a := s.targets (fun s l => r.target s g l) (running s g f)
        let faults := a.2.filterMap (fun p => match p.2 with | .fault k ad => some (p.1.key, ad, k) | _ => none)
        let c := a.1.checkTargets (s.coreOfBlock g.block) (s.ctxOf g.block) a.2
        let aims := c.2.map (fun x => (x.1.key, BitVec.ofNat 64 x.2.2))
        let next := ls.map (fun l => match aims.find? (fun p => p.1 == l.key) with | some p => p | none => (l.key, np))
        let linked := if r.link then c.1.eachLane (c.2.map Prod.fst) (fun _ t => t.setVal f.d.toNat 2 np.toNat) else c.1
        let plan : Plan := ⟨g.pc, np, next, none, c.2.map (fun x => x.1.key), none⟩
        (faults ≠ [] → exec r.instr s = .next
          (kept s r.op f g (a.1.groupFault gid g (s.pageOf (s.ctxOf g.block).asid) false faults)))
        ∧ (faults = [] → c.2.any (fun x => x.2.1 == .hold) → exec r.instr s = .next (stays s g))
        ∧ (faults = [] → c.2.all (fun x => x.2.1 != .hold) → faultedChecks c.2 ≠ [] → exec r.instr s = .next
          (kept s r.op f g (c.1.groupFault gid g lineOf false (faultedChecks c.2))))
        ∧ (faults = [] → ∀ tr : LaneV → Trap,
            (∀ x ∈ c.2, (x.2.1 = .illegal ∧ tr x.1 = ⟨.target, 0, none, false⟩)
              ∨ (∃ ad, x.2.1 = .poisoned ad ∧ tr x.1 = ⟨.poisoned, 0, some ad, false⟩)) →
            exec r.instr s = .next (s.settleSlot (c.1.finish gid g ls ⟨[], [], c.2.map (fun x => (x.1.key, tr x.1)), []⟩) gid g r.op f))
        ∧ (faults = [] → c.2.all (fun x => x.2.1 == .ok) → next.any (fun p => p.2 != stayingPc np (next.map Prod.snd)) →
            exec r.instr s = .next
              (kept s r.op f g (((linked.updGroup gid (fun x => { x with plan := some plan })).dropScalars gid).tryPlan gid))))

/-- EXIT (R48, R200). Outside transactions, each executing thread leaves its group and the expected counts in which it stands;
convergence is lost and barriers are looked at again; the other lanes go to NextPc, and the slots of threads with nothing
outstanding are freed.
Where it rests on a choice of the model, that is assumption log 48. -/
def Obligations.ExitResults : Prop :=
  ∀ (s : State) (f : Slot) (g : Group),
    issues s 0x06 f g → outsideTx s g f →
      let gid := s.cur.group
      let gone := (running s g f).map (·.key)
      let rest := (s.lanesOf g f).filter (fun l => !gone.contains l.key)
      let s1 := ((gone.foldl (fun s k => s.exitThread gid k) s).loseWhole gid).checkBars g.block
      let s2 := if rest.isEmpty then s1.afterExit gid g rest else s1.advance gid g rest
      (gone = [] → exec (.exit f) s = .next (kept s 0x06 f g (s.advance gid g (s.lanesOf g f))))
      ∧ (gone ≠ [] → exec (.exit f) s = .next
          (kept s 0x06 f g ((gone.filter (fun k => (s2.thread? k).any (fun t => t.waits.isEmpty))).foldl State.freeSlot s2)))

/-- TRAP and the entry of the trap handler (R201, R439, R440). Where every lane executes outside a transaction, none is in its
handler, and HANDLER may be entered, each thread's TRAPPC becomes the PC, TRAPCAUSE the code 12 of USERTRAP with the low 16 bits of
I32 above it, TRAPADDR zero, its resume PC NextPc, its handler mark is set, and the group goes to HANDLER.
A TRAP without a handler is fatal (R440, R441, R422): its launch is killed, and where the ring is enabled a record of TYPE 1
with the lanes, the PC, and the cause and code of USERTRAP is posted.
Where it rests on a choice of the model, that is assumption log 25. -/
def Obligations.TrapTaken : Prop :=
  (∀ (s : State) (f : Slot) (g : Group),
      issues s 0x07 f g → outsideTx s g f → allRun s g f →
        let marked := s.setCur { s.cur with trapped := true }
        let h := marked.handlerReady g.block (s.coreOfBlock g.block)
        let ls := s.lanesOf g f
        let enter (t : Thread) : Thread :=
          { t with
            handler := true
            trapPc := g.pc
            trapCause := BitVec.ofNat 64 (12 + f.i32.toNat % 65536 * 256)
            trapAddr := 0
            resume := nextPc g.pc
            pc := h.2.2 }
        h.2.1 = .ok → ls.all (fun l => !s.inHandler l.key) →
          exec (.trap f) s = .next (kept s 0x07 f g ((((ls.foldl (fun s l => s.updThread l.key enter) h.1).updGroup s.cur.group
            (fun x => { x with plan := none })).setNext s.cur.group g ls h.2.2 (ls.map (·.key))))))
  ∧ (∀ (s : State) (f : Slot) (g : Group) (b : Block) (r : Record),
      issues s 0x07 f g → outsideTx s g f → running s g f ≠ [] → s.block? g.block = some b → s.record? g.block = some r →
      r.handler = 0 →
        let lanes := (running s g f).map (fun l => l.key % 64)
        exec (.trap f) s = .next (kept s 0x07 f g ((((s.setCur { s.cur with trapped := true }).postReport 1 (laneMask lanes) g.pc.toNat g.block g.record
          false (f.i32.toNat % 65536) 12 .nobody).1).killLaunch b.launch)))

/-- TRAPRET (R448): outside transactions, executing threads in their handler lose the handler mark and go to their resume PC; with
.TO they go to the target that A names once it is checked. One resume PC, every lane executing. In the lower slot of a pair the threads
go to NextPc first, where the higher slot executes for them (R161), and the pair keeps where each goes on from. -/
def Obligations.TrapReturns : Prop :=
  ∀ (s : State) (f : Slot) (g : Group),
    issues s 0xF2 f g → outsideTx s g f → allRun s g f →
    ((s.lanesOf g f).all (fun l => l.th.handler)) →
      let ls := s.lanesOf g f
      let left (s1 : State) : State := s1.eachLane ls (fun _ t => { t with handler := false, pc := t.resume })
      let back (s1 : State) (p : Pc) (xfer : List Nat) : State :=
        ((left s1).updGroup s.cur.group (fun x => { x with plan := none })).setNext s.cur.group g ls p xfer
      let later (s1 : State) (goal : LaneV → Pc) (xfer : Bool) : State :=
        ((left s1).setCur { s.cur with pair := some (ls.map (fun l => (l.key, goal l, xfer))) }).advance s.cur.group g ls
      let lower := s.cur.pair.isSome && s.cur.snap.isNone
      (lower = false → ∀ p : Pc, ls.all (fun l => l.th.resume == p) → exec (.trapret f) s = .next (kept s 0xF2 f g (back s p [])))
      ∧ (lower = true → exec (.trapret f) s = .next (kept s 0xF2 f g (later s (fun l => l.th.resume) false)))
      ∧ (∀ p : Nat, ls.all (fun l => readA f l.th 2 == p) →
          let c := s.checkTargets (s.coreOfBlock g.block) (s.ctxOf g.block) (ls.map (fun l => (l, Target.pc (some p))))
          let q := BitVec.ofNat 64 p
          c.2.all (fun x => x.2.1 == .ok) →
            (lower = false → exec (.trapretTo f) s = .next (kept s 0xF2 f g (back c.1 q (ls.map (·.key)))))
            ∧ (lower = true → exec (.trapretTo f) s = .next (kept s 0xF2 f g (later c.1 (fun _ => q) true))))

/-- REFORM, YIELD and SPAWN (R202 to R206). REFORM and YIELD make every executing thread depart for NextPc once the flags are
zero, YIELD with its condition on the other READY groups of the block; the scalars go. SPAWN, its target checked, waits until the
flags of the group are zero, and then gives each executing lane a child in ascending order.
Where it rests on a choice of the model, that is assumption log 31. -/
def Obligations.RegroupResults : Prop :=
  ∀ (s : State) (f : Slot) (g : Group),
    let gid := s.cur.group
    let np := nextPc g.pc
    let next := (s.lanesOf g f).map (fun l => (l.key, np))
    let go := (running s g f).map (·.key)
    let others := ((s.groupsOfBlock g.block).filter (fun p => p.2.st == .ready && p.1 != gid)).map Prod.fst
    let regrouped (y : Option (List Nat × Nat)) : State :=
      (s.updGroup gid (fun g' => { g' with plan := some ⟨g.pc, np, next, some go, [], y⟩, scalars := [] })).tryPlan gid
    (issues s 0x08 f g → exec (.reform f) s = .next (kept s 0x08 f g (regrouped none)))
    ∧ (issues s 0x09 f g → exec (.yield f) s = .next (kept s 0x09 f g (regrouped (some (others, s.clock)))))
    ∧ (issues s 0x0A f g → outsideTx s g f → running s g f ≠ [] → s.groupIdle gid g → ∀ p s1, branchPc g.pc f.i32 = some p →
        s.checkTarget (s.coreOfBlock g.block) (s.ctxOf g.block) (some p) = (s1, .ok) →
        let spawned := (s1.updGroup gid (fun x => { x with owed := [] })).spawnAll (s.coreOfBlock g.block) g (BitVec.ofNat 64 p) (running s g f)
        spawned.2 = [] → exec (.spawn f) s = .next (kept s 0x0A f g (spawned.1.advance gid g (s.lanesOf g f))))
    ∧ (issues s 0x0A f g → outsideTx s g f → running s g f ≠ [] → s.groupIdle gid g = false → ∀ p s1, branchPc g.pc f.i32 = some p →
        s.checkTarget (s.coreOfBlock g.block) (s.ctxOf g.block) (some p) = (s1, .ok) →
          exec (.spawn f) s = .next (kept s 0x0A f g (s.park gid .regroup)))

/-- Accesses of memory by each lane set out (R153, R157, R241, R243, R248 to R262, R276, R332): outside transactions, where every
executing lane's address passes the checks of R241, the instruction is outstanding with each lane's address and operands, its flag
rises, its results are owed, and the group goes to NextPc.
Where every executing lane's address fails the checks of R241, the lanes take their traps and nothing is accessed: the flag
does not rise (R158). Prefetches are not among these; their faults are dropped (R252). -/
def Obligations.AccessIssues : Prop :=
  (∀ (s : State) (f : Slot) (g : Group) (ea : LaneV → Nat),
      (∀ r ∈ accessRows f, issues s r.2 f g → outsideTx s g f →
        (∀ l ∈ running s g f, s.checkLane r.2 f (s.coreOfBlock g.block) g.block l = .go (ea l)) →
          exec r.1 s = .next (kept s r.2 f g ((setOff s r.2 f g ((running s g f).map (fun l =>
            accessLane r.2 f l (ea l) (if opScratch r.2 then .ready else .attr)))).setting r.2 s.nextId)))
      ∧ (issuesPriv s 0xA6 f g → outsideTx s g f →
        (∀ l ∈ running s g f, s.checkLane 0xA6 f (s.coreOfBlock g.block) g.block l = .go (ea l)) →
          exec (.poisonClear f) s = .next (kept s 0xA6 f g ((setOff s 0xA6 f g ((running s g f).map (fun l =>
            accessLane 0xA6 f l (ea l) .attr))).setting 0xA6 s.nextId))))
  ∧ (∀ (s : State) (f : Slot) (g : Group) (tr : LaneV → Trap), ∀ r ∈ accessRows f, r.2 ≠ 0x87 →
      issues s r.2 f g → outsideTx s g f → running s g f ≠ [] →
      (∀ l ∈ running s g f, s.checkLane r.2 f (s.coreOfBlock g.block) g.block l = .trap (tr l)) →
        exec r.1 s = .next (s.settleSlot (s.finish s.cur.group g (s.lanesOf g f)
          ⟨[], [], (running s g f).map (fun l => (l.key, tr l)), []⟩) s.cur.group g r.2 f))

/-- Fences and barriers (R324, R325, R326 to R329, R332). -/
def Obligations.OrderResults : Prop :=
  ∀ (s : State) (f : Slot) (g : Group) (b : Block),
    s.block? g.block = some b → outsideTx s g f →
      let gid := s.cur.group
      let ls := s.lanesOf g f
      let run := running s g f
      let n := f.i32.toNat % 16
      (issues s 0xB0 f g → exec (.fence f) s = .next (kept s 0xB0 f g (setOff s 0xB0 f g (run.map (fun l => laneOp l 0 [] [] .sent)))))
      ∧ (issues s 0xB1 f g → run.all (fun l => !l.th.barPend.getLsbD n) → exec (.barArrive f) s = .next
          (kept s 0xB1 f g (((run.foldl (fun s l => s.arriveLane g.block n l) s).advance gid g ls).tryPhase g.block n)))
      ∧ (issues s 0xB2 f g → run.all (fun l => !s.waitsAt b n l.th) → exec (.barWait f) s = .next
          (kept s 0xB2 f g ((s.eachLane run (fun _ t => { t with barPend := t.barPend &&& ~~~(1#16 <<< n) })).advance gid g ls)))
      ∧ (issues s 0xB2 f g → run.any (fun l => s.waitsAt b n l.th) → exec (.barWait f) s = .next
          (kept s 0xB2 f g ((s.eachLane (run.filter (fun l => !s.waitsAt b n l.th)) (fun _ t => { t with barPend := t.barPend &&& ~~~(1#16 <<< n) })).park
            gid .barrier)))
      ∧ (issues s 0xB5 f g → ∀ ea : LaneV → Nat,
          (∀ l ∈ run, s.checkLane 0xB5 f (s.coreOfBlock g.block) g.block l = .go (ea l)) →
            let same (l : LaneV) : Bool := ofBytes (b.bytes (ea l) 2) == l.th.val f.b.toNat 1 % 65536
            (run.all (fun l => !behindStage s l.key (ea l) && !same l) →
              exec (.sbarWait f) s = .next (kept s 0xB5 f g (s.advance gid g ls)))
            ∧ (run.all (fun l => !behindStage s l.key (ea l)) → run.any same →
              exec (.sbarWait f) s = .next (kept s 0xB5 f g (s.park gid .stage)))
            ∧ (run.any (fun l => behindStage s l.key (ea l)) → exec (.sbarWait f) s = .next (stays s g)))

/-- Transactions open, nest, commit and abort (R335, R340, R342 to R346). A TBEGIN at depth 15 aborts with NEST. A TCOMMIT at depth 1 is
resolved among its lanes, the one in lock mode first: a doomed lane aborts with CONFLICT, one that touches what an earlier lane writes
with LANE, and the others wait for their tickets. TABORT aborts every executing lane that has a transaction open.
Where it rests on a choice of the model, that is assumption log 25 and 35. -/
def Obligations.TxResults : Prop :=
  ∀ (s : State) (f : Slot) (g : Group),
    let gid := s.cur.group
    let ls := s.lanesOf g f
    let run := running s g f
    (issues s 0xB6 f g → run.all (fun l => decide (txDepth l.th < 15)) → exec (.tbegin f) s = .next
      (kept s 0xB6 f g ((s.eachLane run (fun l t => beginTx g.pc f.d.toNat s.clock l.th t)).advance gid g ls)))
    ∧ (issues s 0xB7 f g → run.all (fun l => decide (txDepth l.th = 0)) → exec (.tcommit f) s = .next
      (kept s 0xB7 f g ((setOff s 0xB7 f g (run.map (fun l =>
        { laneOp l 0 [] [] .done with res := [BitVec.ofNat 32 (statusWord 0 false false 0 0 14)] }))).repark s.nextId)))
    ∧ (issues s 0xB7 f g → run.all (fun l => decide (2 ≤ txDepth l.th)) → exec (.tcommit f) s = .next
      (kept s 0xB7 f g (((((s.eachLane run (fun _ t => { t with tx := t.tx.map (fun x => { x with depth := x.depth - 1 }) })).startOp gid g 0xB7 f
        (run.map (fun l => { laneOp l 0 [] [] .done with res := [0] }))).1).advance gid g ls).repark s.nextId)))
    ∧ (issues s 0xB7 f g → ∀ l x, run = [l] → l.th.tx = some x → x.depth = 1 → x.doomed = false → exec (.tcommit f) s = .next
      (kept s 0xB7 f g ((setOff s 0xB7 f g [laneOp l 0 [] [] .sent]).repark s.nextId)))
    ∧ (issues s 0xB8 f g → run.all (fun l => !l.inTx) → exec (.tabort f) s = .next (kept s 0xB8 f g (s.advance gid g ls)))
    ∧ (issues s 0xB6 f g → run ≠ [] → run.all (fun l => decide (15 ≤ txDepth l.th)) → exec (.tbegin f) s = .next
      (kept s 0xB6 f g (gaveUp s s g ls (run.map (fun l => (l.key, .nest, 0))))))
    ∧ (issues s 0xB7 f g → ∀ l x, run = [l] → l.th.tx = some x → x.depth = 1 → x.doomed = true → exec (.tcommit f) s = .next
      (kept s 0xB7 f g (gaveUp s s g ls [(l.key, .conflict, 0)])))
    ∧ (issues s 0xB7 f g → ∀ l x l' x', run = [l, l'] → l.key ≠ l'.key → l.th.tx = some x → l'.th.tx = some x' →
        x.depth = 1 → x'.depth = 1 → x.doomed = false → x'.doomed = false → (x.lock = true ∨ x'.lock = false) →
        (x.writes.any (fun p => x'.touches p.1 p.2)) → exec (.tcommit f) s = .next
          (kept s 0xB7 f g ((gaveUp s (s.startOp gid g 0xB7 f [laneOp l 0 [] [] .sent]).1 g ls [(l'.key, .lane, 0)]).repark s.nextId)))
    ∧ (issues s 0xB7 f g → run ≠ [] → run.all (fun l => l.th.tx.any (fun x => x.depth == 1)) →
        let txs := run.filterMap (fun l => l.th.tx.map (fun x => (l, x)))
        let r := resolveLanes (txs.filter (·.2.lock) ++ txs.filter (fun p => !p.2.lock)) []
        let go := run.filter (fun l => r.1.any (fun x => x.key == l.key))
        r.2 ≠ [] → (go = [] → exec (.tcommit f) s = .next (kept s 0xB7 f g (gaveUp s s g ls r.2)))
          ∧ (go ≠ [] → exec (.tcommit f) s = .next (kept s 0xB7 f g ((gaveUp s
              (s.startOp gid g 0xB7 f (go.map (fun l => laneOp l 0 [] [] .sent))).1 g ls r.2).repark s.nextId))))
    ∧ (issues s 0xB8 f g → run.any (·.inTx) → exec (.tabort f) s = .next
      (kept s 0xB8 f g (gaveUp s s g ls ((run.filter (·.inTx)).map (fun l => (l.key, .explicit, f.i32.toNat % 256))))))

/-- COPY and COPYM at issue (R158, R240, R247, R264, R266, R267, R269). Outside transactions, where the leader lane's operands pass
the checks of R266, the instruction is outstanding, its locks are held, the granules of a scratchpad destination are empty, and the
group goes to NextPc; with too few free entries in the range-lock table it does not issue; a length of zero copies nothing and takes
no lock; an end above the address space faults.
Where the leader lane fails a check of R266, it takes that trap and nothing else happens (R158).
With a transaction open in an executing lane, every such lane aborts and the instruction does nothing.
An instruction made once for the group that finds no lane to execute is outstanding with nothing to do, so that its flag
rises and falls (R153, R158, R240). -/
def Obligations.CopyIssues : Prop :=
  (∀ (s : State) (f : Slot) (g : Group) (l : LaneV) (rest : List LaneV), ∀ r ∈ [(Instr.copy f, 0x8C), (Instr.copym f, 0x8D)],
      issues s r.2 f g → outsideTx s g f → running s g f = l :: rest →
        let core := s.coreOfBlock g.block
        let ls := s.lanesOf g f
        let o := copyOperands r.2 f l.th
        let check := s.copyCheck core g.block o.1 o.2.1 o.2.2
        let lanes (ea : Nat) : List LaneOp := sentLanes (if r.2 = 0x8C then [l] else l :: rest) ea
        let begun (ea : Nat) : State := (s.startOp s.cur.group g r.2 f (lanes ea)).1
        let moving (t : State) (m : Move) : State := t.updOp s.nextId (fun x => { x with move := some m })
        let locked (t : State) (dst : Bool) (e : CopyEnd) (len : Nat) : State :=
          t.setLocks (t.v.locks ++ [t.endLock core g.block s.nextId dst e len])
        let size := ((s.block? g.block).map (·.gangSize)).getD 0
        let members := (List.range (min 16 size)).filter (fun k => bit (l.th.val f.c.toNat 1) k)
        (∀ src dst len, check = .go src dst len → s.freeLocks core < (if r.2 = 0x8C then 2 else 1) → exec r.1 s = .next (stays s g))
        ∧ (∀ src dst len, r.2 = 0x8C → check = .go src dst len → 2 ≤ s.freeLocks core →
            let s1 := locked (locked (begun src) false o.1 len) true o.2.1 len
            let s2 := moving s1 (Move.restart ⟨src, dst, len, [], [], [], []⟩ [0])
            exec r.1 s = .next (kept s r.2 f g ((if o.2.1.pad then s2.updBlock g.block (fun b => b.markRange dst len false) else s2).advance
              s.cur.group g ls)))
        ∧ (∀ src dst len, r.2 = 0x8D → check = .go src dst len → 1 ≤ s.freeLocks core →
            let s1 := locked (begun src) false o.1 len
            exec r.1 s = .next (kept s r.2 f g ((moving s1 ⟨src, dst, len, [], members, [], []⟩).advance s.cur.group g ls)))
        ∧ (check = .nothing →
            exec r.1 s = .next (kept s r.2 f g ((moving (begun 0) ⟨0, 0, 0, [], [], [], []⟩).advance s.cur.group g ls)))
        ∧ (∀ ea w, check = .fault ea w → exec r.1 s = .next (kept s r.2 f g
            (((moving (begun ea) ⟨o.1.at_.toNat, o.2.1.at_.toNat, o.2.2, [], [], [], []⟩).advance s.cur.group g ls).faultLanes s.nextId
              [l.lane] .nonCanon w)))
        ∧ (∀ t, check = .trap t → exec r.1 s = .next (s.settleSlot (s.finish s.cur.group g ls ⟨[], [], [(l.key, t)], []⟩)
            s.cur.group g r.2 f)))
  ∧ (∀ (s : State) (f : Slot) (g : Group),
      ∀ r ∈ [(Instr.copy f, 0x8C), (.copym f, 0x8D), (.discard f, 0x8E)], issues s r.2 f g →
        (running s g f = [] → exec r.1 s = .next (kept s r.2 f g (setOff s r.2 f g [])))
        ∧ ((running s g f).any (·.inTx) → exec r.1 s = .next (s.settleSlot (s.finish s.cur.group g (s.lanesOf g f)
            ⟨[], [], [], ((running s g f).filter (·.inTx)).map (fun l => (l.key, .instr, 0))⟩) s.cur.group g r.2 f)))

/-- DISCARD, the TARN instructions and XLATE.INV at issue (R240, R271 to R275): where the leader's operands pass their checks, the
instruction is outstanding for its unit, and the group goes to NextPc; DISCARD of a range that a copy reads or writes takes RANGELOCK,
one that ends above the address space faults, as do XLATE.INV and the TARN instructions at an image above it (R83); a TDB image or a
range of XLATE.INV that is not aligned takes MISALIGNED.
A privileged instruction of a grid launched without privilege takes PRIVILEGE in every lane at the PC (R272, R446).
Where it rests on a choice of the model, that is assumption log 41. -/
def Obligations.DeviceRequests : Prop :=
  (∀ (s : State) (f : Slot) (g : Group) (l : LaneV) (rest : List LaneV),
      outsideTx s g f → running s g f = l :: rest →
        let ls := s.lanesOf g f
        let begun (op : Nat) (lanes : List LaneOp) (m : Move) : State :=
          ((s.startOp s.cur.group g op f lanes).1.updOp s.nextId (fun x => { x with move := some m })).advance s.cur.group g ls
        let trapped (op : Nat) (t : Trap) : State := s.settleSlot (s.finish s.cur.group g ls ⟨[], [], [(l.key, t)], []⟩) s.cur.group g op f
        let lo := globalEa f l.th
        let len := l.th.val f.b.toNat 2
        let va := l.th.val f.a.toNat 2
        let asid := l.th.val f.c.toNat 1 % 4096
        let locked := s.lockConflict 0x8E (s.coreOfBlock g.block) none (nameAsid (s.ctxOf g.block).asid lo) lo (lo + len)
        (issues s 0x8E f g →
          let dropping := begun 0x8E (sentLanes [l] lo) ⟨lo, lo, len, [], [], [], []⟩
          ((len = 0 ∨ lo + len ≤ 2 ^ 57 ∧ locked = false) → exec (.discard f) s = .next (kept s 0x8E f g dropping))
          ∧ (len ≠ 0 → lo + len ≤ 2 ^ 57 → locked = true → exec (.discard f) s = .next (trapped 0x8E ⟨.rangeLock, 0, some lo, false⟩))
          ∧ (len ≠ 0 → 2 ^ 57 < lo + len →
            exec (.discard f) s = .next (kept s 0x8E f g (dropping.faultLanes s.nextId [l.lane] .nonCanon true))))
        ∧ (∀ r ∈ [(Instr.tarnDef f, 0xA0), (.tarnGrow f, 0xA1), (.tarnShrink f, 0xA2), (.tarnMove f, 0xA3)], issuesPriv s r.2 f g →
            (va % 64 = 0 → va < 2 ^ 57 → exec r.1 s = .next (kept s r.2 f g (setOff s r.2 f g (sentLanes (l :: rest) va))))
            ∧ (va % 64 = 0 → 2 ^ 57 ≤ va → exec r.1 s = .next (kept s r.2 f g
                ((setOff s r.2 f g (sentLanes (l :: rest) va)).faultLanes s.nextId [l.lane] .nonCanon false)))
            ∧ (va % 64 ≠ 0 → exec r.1 s = .next (trapped r.2 ⟨.misaligned, 0, some va, false⟩)))
        ∧ (issuesPriv s 0xA4 f g → exec (.tarnRetire f) s = .next (kept s 0xA4 f g (setOff s 0xA4 f g (sentLanes (l :: rest) (l.th.val f.a.toNat 1)))))
        ∧ (∀ i ∈ [Instr.xlateInvAttr f, .xlateInvLines f], issuesPriv s 0xA5 f g → Rule.sub f < 2 →
            let dropping := begun 0xA5 (sentLanes [l] va) ⟨va, asid, len, [], [], [], []⟩
            (va % 4096 = 0 → len % 4096 = 0 → (len = 0 ∨ va + len ≤ 2 ^ 57) → exec i s = .next (kept s 0xA5 f g dropping))
            ∧ (va % 4096 = 0 → len % 4096 = 0 → len ≠ 0 → 2 ^ 57 < va + len →
              exec i s = .next (kept s 0xA5 f g (dropping.faultLanes s.nextId [l.lane] .nonCanon false)))
            ∧ ((va % 4096 ≠ 0 ∨ len % 4096 ≠ 0) → exec i s = .next (trapped 0xA5 ⟨.misaligned, 0, some va, false⟩)))
        ∧ (∀ i ∈ [Instr.xlateInvAttrall f, .xlateInvLinesall f], issuesPriv s 0xA5 f g → 2 ≤ Rule.sub f →
              exec i s = .next (kept s 0xA5 f g (begun 0xA5 (sentLanes [l] 0) ⟨0, asid, 0, [], [], [], []⟩))))
  ∧ (∀ (s : State) (f : Slot) (g : Group),
      ∀ r ∈ [(Instr.tarnDef f, 0xA0), (.tarnGrow f, 0xA1), (.tarnShrink f, 0xA2), (.tarnMove f, 0xA3), (.tarnRetire f, 0xA4),
          (.xlateInvAttr f, 0xA5), (.xlateInvLines f, 0xA5), (.xlateInvAttrall f, 0xA5), (.xlateInvLinesall f, 0xA5), (.poisonClear f, 0xA6)],
        issues s r.2 f g → (s.ctxOf g.block).priv = false → s.openTx g = [] →
          exec r.1 s = .next (s.settleSlot (s.finish s.cur.group g (s.lanesOf g f)
            ⟨[], [], (s.lanesOf g f).map (fun l => (l.key, ⟨.privilege, 0, none, false⟩)), []⟩) s.cur.group g r.2 f))

/-- The stages of a request for a line (R101, R128, R136, R253, R254). At each of HOME_SLICE_REQUEST, SHARD_WALK_COMPLETE,
MEMORY_CONTROLLER_ACCESS and LINE_FILL_RETURN, a request that stands there and is not held back goes on as its stage says: to the
next stage, to be served where its data are, or to a fault of its page; a poisoned line makes its lanes trap, and a prefetch ends.
CFLUSH flushes its line, unless that is poisoned or discarded, and waits while the line's home is busy with it or retires its share;
CINV drops the core's copy; a prefetch of HOME 2 or 3 ends.
Where it is served, a lane's LD gets the bytes there, extended, its ST leaves its data, ATOM and CAS get what stood there, ATOM and RED
leave the combination of that with the operand, CAS its new value where what stood there is what it expects, and POISON.CLEAR zeros
over the whole line (R248, R255, R257, R258, R261, R276); a line at its home gives its bytes, and under write-back takes those
written and is dirty (R112).
POLL reads again when its back-off ends, and once more when its limit has elapsed (R262, R263).
A step that is not due leaves the state as it was (the model's choice, assumption log 11).
Where it rests on a choice of the model, that is assumption log 4, 21, 53 and 54. -/
def Obligations.RequestSteps : Prop :=
  (∀ (s : State) (rid : Nat) (q : Req) (o : Op) (remote : List Byte),
      s.req? rid = some q → s.op? q.op = some o → (q.stage ≠ .controller → s.sel.x = rid) →
        let given := if q.stage = .controller then remote else []
        let i : Instr := match q.stage with
          | .home => .homeSliceRequest
          | .shard => .shardWalkComplete
          | .controller => .memoryControllerAccess rid remote
          | .fill => .lineFillReturn
        let core := s.coreOfBlock o.block
        let waits := s.going q.op o = false ∨ (o.lanesIn q).any (fun l => s.laneBlocked q.op o l)
        let flushHeld := q.attr.home < 2 ∧ (s.lineBusy q.asid q.va q.size ∨ (s.lineAt q.attr.tarn q.asid q.va).any (fun l => s.lineRetiring l))
        let done := s.stage core (s.ctxOf o.block) q (needOf o q) given
        let back (t : State) : State := t.updReq rid (fun q =>
          { q with
            stage := .home
            data := [] })
        let poisoned := match s.paClass (q.attr.frame + (q.va - q.attr.va)) with | .memory off => s.poisonedAt off q.size | _ => false
        (q.stage = .home → waits → exec i s = .next s)
        ∧ ((q.stage = .home → ¬waits) →
          (o.opc = 0x8F → flushHeld → exec i s = .next s)
          ∧ (o.opc = 0x8F → ¬flushHeld → exec i s = .next ((if poisoned || s.discardedNow q.attr then s
              else s.flushLine core q.attr q.asid q.va (Rule.sub o.f == 1)).servedReq rid o q .zero []))
          ∧ (o.opc = 0x90 → exec i s = .next ((s.dropCopy core q.asid q.va).servedReq rid o q .zero []))
          ∧ (o.opc = 0x87 → 2 ≤ q.attr.home → exec i s = .next (s.servedReq rid o q .zero []))
          ∧ (o.opc ≠ 0x8F → o.opc ≠ 0x90 → (o.opc = 0x87 → q.attr.home < 2) →
            (q.stage = .home → s.heldLanes o q = true → exec i s = .next s)
            ∧ ((q.stage = .home → s.heldLanes o q = false) →
              (∀ s1 q', done = (s1, .go q') → exec i s = .next (s1.updReq rid (fun _ => q')))
              ∧ (∀ s1, done = (s1, .hold) → exec i s = .next s)
              ∧ (∀ s1 k, done = (s1, .fault k) → exec i s = .next (s1.faultReq o q k))
              ∧ (∀ s1, done = (s1, .poisoned) →
                (o.opc = 0x87 → exec i s = .next (s1.servedReq rid o q .zero []))
                ∧ (o.opc ≠ 0x87 → exec i s = .next ((((s1.setReqs (Tab.del s1.v.reqs rid)).trapLanes q.op q.lanes (fun l =>
                    ⟨.poisoned, 0, some l.ea, recordWrite o.opc⟩)).repark q.op).tryPlans o.block)))
              ∧ (∀ s1 wh, done = (s1, .serve wh) →
                (s1.heldLanes o q = true → exec i s = .next (back s))
                ∧ (s1.heldLanes o q = false →
                  (casHeld s1 (s1.servedReq rid o q wh given) o q = true → exec i s = .next (back s1))
                  ∧ (casHeld s1 (s1.servedReq rid o q wh given) o q = false → exec i s = .next (s1.servedReq rid o q wh given))))))))
  ∧ (∀ (s : State) (o : Op) (l : LaneOp),
      s.pollWaiting s.sel.x s.sel.y = some (o, l) →
        (l.due ≤ s.clock → exec .pollBackoffEnd s = .next (s.pollAgain s.sel.x s.sel.y))
        ∧ (s.clock < l.due → limitElapsed s.clock o.issued l = false → exec .pollBackoffEnd s = .next s)
        ∧ (limitElapsed s.clock o.issued l → exec .pollLimitElapsed s = .next (s.pollAgain s.sel.x s.sel.y))
        ∧ (limitElapsed s.clock o.issued l = false → exec .pollLimitElapsed s = .next s))
  ∧ (∀ (s : State) (id : Nat) (o : Op) (a : Attr) (wh : Where) (given : List Byte) (l : LaneOp),
      let core := s.coreOfBlock o.block
      let who : Writer := ⟨false, (s.ctxOf o.block).secure⟩
      let asid := nameAsid (s.ctxOf o.block).asid l.ea
      let w := opWidth o.opc o.f
      let ty := Rule.ty o.f
      let got := s.readAt s.regRead core a wh asid l.ea w given
      let old := ofBytes got.1
      let whole (v : Nat) : List Word := wordsOf (Rule.regs ty) v
      let left (t : State) (v : Nat) : State := t.writeAt who core a wh asid l.ea (bytesOf w v) (some l.key)
      let new := combineAtomic (Rule.sub o.f) ty (Rule.msat o.f) old (ofWords l.b)
      let ends (t : State) (res : List Word) : Prop := s.performLane id o a wh given l = t.updLane id l.lane (fun l =>
        { l with
          stage := .done
          res := res })
      (o.opc = 0x80 → ends got.2 (whole (if tySigned ty then writeInt ty (old : Int) else old)))
      ∧ (o.opc = 0x81 → ends (left s (ofWords l.b)) [])
      ∧ (o.opc = 0x88 → ends (left got.2 new) (whole old))
      ∧ (o.opc = 0x89 → old = ofWords l.b → ends (left got.2 (ofWords l.c)) (whole old))
      ∧ (o.opc = 0x89 → old ≠ ofWords l.b → ends got.2 (whole old))
      ∧ (o.opc = 0x8A → ends (left got.2 new) [])
      ∧ (o.opc = 0xA6 → let n := s.pageLine a
          ends (s.writeAt who core a wh asid (l.ea / n * n) (bytesOf n 0) (some l.key)) [])
      ∧ (∀ line va n agent data own, s.lineAt a.tarn asid va = some line →
          s.readAt s.regRead agent a .home asid va n given = (s.overlays asid va ((line.data.drop (va - line.va)).take n), s)
          ∧ (tdbWpol (s.tdb a.tarn) = 0 → s.writeAt who agent a .home asid va data own =
              ((s.setMem { s.m with images := cutImages s.m.images asid va data.length }).noteWrite (some (line.bank / 16)) asid va
                data.length own).updLine line (fun x =>
                  { x with
                    data := spliceBytes x.data (va - x.va) data
                    dirty := true }))))
  ∧ (∀ (ty : Nat) (sat : Bool) (x y : Nat), ty ∉ [13, 14, 20, 21] →
      combineAtomic 0 ty sat x y = writeInt ty (satInt sat ty (readInt ty x + readInt ty y))
      ∧ combineAtomic 1 ty sat x y = writeInt ty (min (readInt ty x) (readInt ty y))
      ∧ combineAtomic 2 ty sat x y = writeInt ty (max (readInt ty x) (readInt ty y))
      ∧ combineAtomic 3 ty sat x y = Nat.land x y ∧ combineAtomic 4 ty sat x y = Nat.lor x y
      ∧ combineAtomic 5 ty sat x y = Nat.xor x y ∧ combineAtomic 6 ty sat x y = y)

/-- ATTRIBUTE_REQUEST (R83, R96, R97, R245, R252): the page of the first lane that awaits it is asked for; its lanes become ready
where the attributes allow the access, and otherwise one fault record names the lanes of the page; a prefetch drops them.
Where it rests on a choice of the model, that is assumption log 52 and 53. -/
def Obligations.AttributesArrive : Prop :=
  ∀ (s : State) (o : Op) (l : LaneOp),
    s.op? s.sel.x = some o → s.going s.sel.x o → o.lanes.find? (fun l => l.stage == .attr) = some l →
      let core := s.coreOfBlock o.block
      let c := s.ctxOf o.block
      let asid := nameAsid c.asid l.ea
      let asked := s.askAttr core c asid l.ea (opAccess o.opc)
      let refused (t : State) (lanes : List Nat) (k : Kind) : State :=
        if o.opc = 0x87 then
          (t.updOp s.sel.x (fun o => { o with lanes := o.lanes.map (fun l =>
            if lanes.contains l.lane then { l with stage := .done } else l) })).repark s.sel.x
        else t.faultLanes s.sel.x lanes k (recordWrite o.opc)
      (2 ^ 57 ≤ l.ea → exec .attributeRequest s = .next (s.faultNonCanon s.sel.x 64))
      ∧ (l.ea < 2 ^ 57 → ∀ s1 k, asked = (s1, .error k) →
          exec .attributeRequest s = .next (refused s1 (s1.lanesInPage c.asid o l) k))
      ∧ (l.ea < 2 ^ 57 → ∀ s1 a, asked = (s1, .ok a) →
          exec .attributeRequest s = .next ((s1.updOp s.sel.x (fun o => { o with lanes := o.lanes.map (fun x =>
            if x.stage == .attr && covers a (nameAsid c.asid x.ea) x.ea then { x with stage := .ready, attr := some a } else x) })).setOut
              s.sel.x))

/-- The steps of copies and multicast copies (R266 to R270, R312, R325). A granule that may move is copied from its source to its
destination, and one whose access is held back waits; a fault of the source or of the destination is recorded for the leader lane; a
poisoned source ends the copy with POISONED, as does a poisoned line of the destination that the copy does not cover whole, where one
that it covers is written in one access.
With nothing left COPY fills its scratchpad granules, COPYM gives the mask of the positions it dropped, and the instruction completes;
a delivery begins where the receiver fits, has not retired and has a lock, waits where it has none, or drops the position; it ends by
filling, the lock goes, and a receiver that retired meanwhile is freed. Full bits wait for the earlier accesses of the issuing thread
(R314, R323).
A step that is not due leaves the state as it was (the model's choice, assumption log 11).
Where it rests on a choice of the model, that is assumption log 33. -/
def Obligations.CopySteps : Prop :=
  ∀ (s : State) (o : Op) (m : Move) (l : LaneOp),
    let id := s.sel.x
    let pos := s.sel.y
    s.op? id = some o → o.move = some m → o.leader = some l → s.live o.block →
      let moving (t : State) (m : Move) : State := t.updOp id (fun o => { o with move := some m })
      (m.todo.contains pos → l.stage = .sent → (o.opc = 0x8C ∨ o.opc = 0x8D) →
        let ag := s.agentOf o.block l.key
        let src := m.src + 16 * (pos % 2 ^ 21)
        let dst := m.dst + 16 * (pos % 2 ^ 21)
        let srcPad := o.opc = 0x8C ∧ (Rule.sub o.f = 1 ∨ Rule.sub o.f = 3)
        let dstPad := o.opc = 0x8D ∨ Rule.sub o.f = 0 ∨ Rule.sub o.f = 3
        let target := if o.opc = 0x8D then (s.receiver o (pos / 2 ^ 21)).map Prod.fst else some o.block
        let blocked := s.copyBlocked id o l srcPad (decide dstPad && target == some o.block) src dst
        let read := s.copyLoad o ag srcPad src 16
        let moved (t : State) (gone : Nat → Bool) : State :=
          (t.updOp id (fun o => { o with move := o.move.map (fun m => { m with todo := m.todo.filter (fun c => !gone c) }) }))
        let failed (t : State) (e : MemErr) (write : Bool) : State :=
          match e with
          | .page k a => t.faultLeader id l k a write
          | .poisoned a => t.poisonLeader id o l a
          | .held => s
        (blocked = true → exec .copyGranule s = .next s)
        ∧ (blocked = false →
          (∀ s1 e, read = (s1, .error e) → exec .copyGranule s = .next (failed s1 e false))
          ∧ (∀ s1 b, read = (s1, .ok b) →
            (dstPad → ∀ blk, target = some blk → exec .copyGranule s = .next (moved (s1.writePad blk dst b) (fun c => c == pos)))
            ∧ (dstPad → target = none → exec .copyGranule s = .next (moved s1 (fun c => c == pos)))
            ∧ (¬dstPad →
              (∀ s2, s1.store ag dst b = (s2, .ok ()) → exec .copyGranule s = .next (moved s2 (fun c => c == pos)))
              ∧ (∀ s2 k a, s1.store ag dst b = (s2, .error (.page k a)) → exec .copyGranule s = .next (failed s2 (.page k a) true))
              ∧ (∀ s2, s1.store ag dst b = (s2, .error .held) → exec .copyGranule s = .next s)
              ∧ (∀ s2 a, s1.store ag dst b = (s2, .error (.poisoned a)) →
                (s.wholeLine ag dst m.dst m.len = none → exec .copyGranule s = .next (s2.poisonLeader id o l a))
                ∧ (∀ base n, s.wholeLine ag dst m.dst m.len = some (base, n) →
                  (∀ s3 e, s.copyLine o ag srcPad m base n = (s3, .error e) → exec .copyGranule s = .next (failed s3 e true))
                  ∧ (∀ s3, s.copyLine o ag srcPad m base n = (s3, .ok ()) → exec .copyGranule s = .next
                    (moved s3 (fun c => decide (base ≤ m.dst + 16 * c) && decide (m.dst + 16 * c < base + n))))))))))
      ∧ (o.copied = false → exec .copyEnd s = .next s)
      ∧ (o.copied = true →
          let filled := if o.opc = 0x8C ∧ (Rule.sub o.f = 0 ∨ Rule.sub o.f = 3) then
              s.updBlock o.block (fun b => b.markRange m.dst m.len true)
            else s
          let result : List Word := if o.opc = 0x8D then [BitVec.ofNat 32 (maskOf m.dropped)] else []
          ((o.opc = 0x8C ∧ (Rule.sub o.f = 0 ∨ Rule.sub o.f = 3)) → s.fullReady id o = false → exec .copyEnd s = .next s)
          ∧ (((o.opc = 0x8C ∧ (Rule.sub o.f = 0 ∨ Rule.sub o.f = 3)) → s.fullReady id o) → exec .copyEnd s = .next ((filled.updOp id (fun o => { o with lanes := o.lanes.map (fun l =>
            { l with stage := .done, res := result }) })).finishOp id)))
      ∧ (o.opc = 0x8D → m.wait.contains pos →
          let begun := { m with wait := m.wait.filter (fun p => p != pos) }
          let dropped := moving s { begun with dropped := m.dropped ++ [pos] }
          let parts := (List.range (m.len / 16)).map (fun i => pos * 2 ^ 21 + i)
          let delivering (t : State) (blk : Nat) : State :=
            moving (t.updBlock blk (fun b => b.markRange m.dst m.len false))
              { begun with busy := m.busy ++ [pos], todo := m.todo ++ parts }
          (s.receiver o pos = none → exec .copymDeliveryBegin s = .next dropped)
          ∧ (∀ blk b, s.receiver o pos = some (blk, b) →
            ((s.retired blk ∨ s.scratchSize blk < m.dst + m.len) → exec .copymDeliveryBegin s = .next dropped)
            ∧ (s.retired blk = false → m.dst + m.len ≤ s.scratchSize blk →
              (b.core = none → exec .copymDeliveryBegin s = .next (delivering s blk))
              ∧ (∀ c, b.core = some c → (b.saving = true ∨ s.freeLocks c = 0) → exec .copymDeliveryBegin s = .next s)
              ∧ (∀ c, b.core = some c → b.saving = false → s.freeLocks c ≠ 0 → exec .copymDeliveryBegin s = .next
                (delivering (s.setLocks (s.v.locks ++ [⟨c, id, true, some blk, 0, m.dst, m.dst + m.len⟩])) blk)))))
      ∧ (o.opc = 0x8D → m.busy.contains pos →
          let left := moving s { m with busy := m.busy.filter (fun p => p != pos) }
          ((m.todo.any (fun c => c / 2 ^ 21 == pos) ∨ s.fullReady id o = false) → exec .copymDeliveryEnd s = .next s)
          ∧ (m.todo.all (fun c => c / 2 ^ 21 != pos) → s.fullReady id o →
            (s.receiver o pos = none → exec .copymDeliveryEnd s = .next left)
            ∧ (∀ blk b, s.receiver o pos = some (blk, b) →
              let full := left.updBlock blk (fun b => b.markRange m.dst m.len true)
              let freed := full.setLocks (full.v.locks.filter (fun k => !(k.owner == id && k.dst && k.block == some blk)))
              (freed.v.threads.any (fun p => p.2.block == blk) → exec .copymDeliveryEnd s = .next freed)
              ∧ (freed.v.threads.all (fun p => p.2.block != blk) → exec .copymDeliveryEnd s = .next (freed.retireBlock blk)))))

/-- Tarn operations end, and migrate lines (R116, R120, R122 to R124): a line of a RESIZING Tarn that its mapping no longer places is
moved, one of a DRAINING Tarn is evicted, but not while a request that its home accepted is under way; with every line in place the
Tarn is ACTIVE with GEN one higher; a DRAINING Tarn loses the lines that remain, what is dirty reaches memory, and it is RETIRED with
GEN one higher; the TARN instruction that waits reports DONE.
XLATE.INV waits for the requests of its names that are on their way to a controller, for transactions being published there (R340) and
for the holder of the commit lock (R345), then acts on each name and completes; a range
that ends above the address space makes its leader fault (R104, R105, R275).
A step that is not due leaves the state as it was (the model's choice, assumption log 11).
Where it rests on a choice of the model, that is assumption log 34 and 42. -/
def Obligations.TarnSteps : Prop :=
  (∀ (s : State),
      let t := s.sel.x
      let d := s.tdb t
      (∀ l, s.lineAt s.sel.x s.sel.y s.sel.z = some l → s.lineBusy l.asid l.va l.data.length = false →
          (tdbState (s.tdb l.tarn) = 2 → exec .tarnLineMove s = .next (s.evict l))
          ∧ (tdbState (s.tdb l.tarn) = 1 → s.placedLine l = false → exec .tarnLineMove s = .next (s.moveLine l))
          ∧ (tdbState (s.tdb l.tarn) = 1 → s.placedLine l = true → exec .tarnLineMove s = .next s))
      ∧ (∀ l, s.lineAt s.sel.x s.sel.y s.sel.z = some l → s.lineBusy l.asid l.va l.data.length = true → exec .tarnLineMove s = .next s)
      ∧ (tdbState d = 1 → t ≠ 0 → (∀ l ∈ s.m.lines, l.tarn = t → s.placedLine l) →
          let e := entered_ (tdbPut (tdbPut (tdbPut (tdbPut d 224 8 (s.holesOf d)) 320 72 0) 392 16 0) 408 16 0) 0 (tdbField d 160 32)
          exec .tarnResizeComplete s = .next ((s.retree (s.drainAll.setTdb t e)).tarnDone t))
      ∧ (tdbState d = 2 → t ≠ 0 →
          let s1 := ((s.m.lines.filter (fun l => l.tarn == t)).foldl State.evict s).drainAll
          exec .tarnDrainComplete s = .next
            ((s.retree ((s1.setTdb t (entered_ d 3 (tdbField d 160 32))).resendTarn t)).tarnDone t)))
  ∧ (∀ (s : State) (o : Op) (m : Move) (l : LaneOp),
      s.op? s.sel.x = some o → o.opc = 0xA5 → s.going s.sel.x o → o.move = some m → o.leader = some l → l.stage = .sent →
        let sub := Rule.sub o.f
        let names := xlateNames 0xA5 sub m.src m.len m.dst
        let beyond := sub < 2 ∧ m.len ≠ 0 ∧ 2 ^ 57 < m.src + m.len
        let underWay := ∃ q ∈ s.v.reqs, (q.2.stage = .controller ∨ q.2.stage = .fill) ∧
          names.any (fun r => meetsName r q.2.attr.asid q.2.attr.va q.2.attr.size)
        let heldBack := names.any (fun r => s.ticketHolds r.1 r.2.1 (r.2.2 - r.2.1) none)
          ∨ (sub % 2 = 1 ∧ names.any (fun r => s.holderIn (s.doomedByInv r)))
        (beyond → exec .xlateInvComplete s = .next (s.faultLeader s.sel.x l .nonCanon m.src false))
        ∧ (¬beyond → underWay ∨ heldBack → exec .xlateInvComplete s = .next s)
        ∧ (¬beyond → ¬underWay → ¬heldBack → exec .xlateInvComplete s = .next
            (((names.foldl (fun s r => s.invalidateName (decide (sub % 2 = 1)) r) s).renewNames names).finishOp s.sel.x)))

/-- Shares are retired (R127, R128). A SHARERET write starts the retirement of a share, or reports at once that there is none or
that it is retired already; a second uncorrectable error of a share within 2 ^ 30 cycles starts one; at its end the share is retired,
interrupt source 5 is pending, and SHARERET, where it asked, is no longer busy.
A step that is not due leaves the state as it was (the model's choice, assumption log 11).
Where it rests on a choice of the model, that is assumption log 33. -/
def Obligations.SharesRetire : Prop :=
  ∀ (s : State) (value : Dword) (share : Nat) (unreadable : List Nat),
    let n := value.toNat % 32768
    (bit s.r.shareRet.toNat 31 = false → n < 18432 → n ∉ s.m.retired → exec (.shareretWrite value) s = .next
      ((s.startRetiring n true).setSys { (s.startRetiring n true).r with shareRet := BitVec.ofNat 64 (n + 2 ^ 31) }))
    ∧ (bit s.r.shareRet.toNat 31 = false → n < 18432 → n ∈ s.m.retired → exec (.shareretWrite value) s = .next
      (s.setSys { s.r with shareRet := BitVec.ofNat 64 (n + 2 ^ 29) }))
    ∧ (bit s.r.shareRet.toNat 31 = false → 18432 ≤ n → exec (.shareretWrite value) s = .next
      (s.setSys { s.r with shareRet := BitVec.ofNat 64 (n + 2 ^ 30) }))
    ∧ (bit s.r.shareRet.toNat 31 = true → exec (.shareretWrite value) s = .next s)
    ∧ (∀ asked, s.m.retiring.find? (fun p => p.1 == share) = some (share, asked) → ∃ t,
        exec (.shareRetirementComplete share unreadable) s = .next t ∧ share ∈ t.m.retired ∧ (∀ p ∈ t.m.retiring, p.1 ≠ share)
          ∧ t.r.intr.getLsbD 5 = true)
    ∧ (s.sel.x < 18432 → s.shareGone s.sel.x = false → (∀ t, Tab.look s.m.eccAt s.sel.x = some t → t + 2 ^ 30 ≤ s.clock) →
        exec .uncorrectableEccError s = .next (s.setMem { s.m with eccAt := Tab.set s.m.eccAt s.sel.x s.clock }))
    ∧ (s.sel.x < 18432 → s.shareGone s.sel.x = false → ∀ t, Tab.look s.m.eccAt s.sel.x = some t → s.clock < t + 2 ^ 30 → t ≤ s.clock →
        exec .uncorrectableEccError s = .next ((s.setMem { s.m with eccAt := Tab.set s.m.eccAt s.sel.x s.clock }).startRetiring s.sel.x false))
    ∧ ((18432 ≤ s.sel.x ∨ s.shareGone s.sel.x) → exec .uncorrectableEccError s = .next s)
    ∧ (s.m.retiring.find? (fun p => p.1 == share) = none → exec (.shareRetirementComplete share unreadable) s = .next s)

/-- Errors of memory and of agents (R140, R141, R55): the granules of the line of an uncorrectable error are poisoned, and every copy
of them is dropped, a hart whose transaction marked the line aborting with CONFLICT (R349); a dead agent's modified copies are lost and their lines poisoned, its other copies go, and it is taken offline.
Refreshes (R143, R144, R431): one that is due while class-3 requests wait is postponed, at most eight times; else the cycles in
which it blocks reads, a free value below 1,231, count in the controller's SYS.MEMLAT; a scrub changes nothing.
A step that is not due leaves the state as it was (the model's choice, assumption log 11).
Where it rests on a choice of the model, that is assumption log 2 and 23. -/
def Obligations.ErrorsAndRefreshes : Prop :=
  (∀ (s : State),
      let a := s.sel.x
      (∀ off, s.paClass a = .memory off →
          let lineStart (c : Copy) : Nat := c.attr.frame + (c.va - c.attr.va)
          let s1 := (s.poisonRange (a / 64 * 64) 64).dropCopies (fun c =>
            c.attr.home == 3 && lineStart c ≤ a && a < lineStart c + c.size)
          let lose (t : State) (p : Line × Nat) : State :=
            let t1 := ((t.invalidate p.1.asid p.1.va p.1.data.length).snoopHarts p.1.asid p.1.va p.1.data.length none true).poisonRange
              p.2 p.1.data.length
            t1.setMem { t1.m with lines := t1.m.lines.filter (fun x => !sameLine x p.1) }
          exec .memoryUncorrectableError s = .next ((s.linesAtPa a).foldl lose s1))
      ∧ ((∀ off, s.paClass a ≠ .memory off) → exec .memoryUncorrectableError s = .next s)
      ∧ (let s1 := (s.m.copies.filter (fun c => c.agent == a && c.dirty)).foldl (fun s c => s.loseLine c.attr.asid c.va c.size) s
        let s2 := s1.setMem { s1.m with
          copies := s1.m.copies.filter (fun c => c.agent != a)
          attrs := s1.m.attrs.filter (fun p => p.1 != a) }
        (a < 512 → exec .agentDeath s = .next (s2.updCore a (fun c => { c with stopped := true, mode := 2 })))
        ∧ (512 ≤ a → a < 576 → exec .agentDeath s = .next (s2.stopHart (a - 512)))
        ∧ (576 ≤ a → exec .agentDeath s = .next s2)))
  ∧ (∀ (s : State) (controller bank : Nat),
      let owed (k : Nat) : Nat := Tab.get s.m.owedRefresh k 0
      let k := controller * 4096 + bank
      let stalled (t : State) (c : Nat) : State :=
        { t with
          fresh := t.fresh + 1
          r := { t.r with memlat := Tab.set t.r.memlat c ((Tab.get t.r.memlat c 0 + (Config.freeDword t.fresh).toNat % 1231) % 2 ^ 64) } }
      (exec (.refreshDue controller bank false) s = .next (stalled s controller))
      ∧ (owed k < 8 → exec (.refreshDue controller bank true) s = .next
          (s.setMem { s.m with owedRefresh := Tab.set s.m.owedRefresh k (owed k + 1) }))
      ∧ (8 ≤ owed k → exec (.refreshDue controller bank true) s = .next
          (stalled (s.setMem { s.m with owedRefresh := s.m.owedRefresh.filter (fun p => p.1 / 4096 != controller) }) controller))
      ∧ (owed (s.sel.x * 4096 + s.sel.y) ≠ 0 → exec .refreshRepay s = .next
          (stalled (s.setMem { s.m with owedRefresh := Tab.del s.m.owedRefresh (s.sel.x * 4096 + s.sel.y) }) s.sel.x))
      ∧ (owed (s.sel.x * 4096 + s.sel.y) = 0 → exec .refreshRepay s = .next s)
      ∧ exec .eccScrub s = .next s)

/-- The directory, snoops and write-backs (R102, R133, R135, R320, R349). Sibling entries that agree and rest merge, and others stay.
A snoop of an agent sends its requests for the line that are pending back to stand before the home, which orders the two, a fill in
flight not to be installed where it invalidates (R135, R136); a snoop that invalidates takes the agent's copies of the line, and a hart
whose transaction marked the line aborts.
A write-back behind no other of its line is done, and one behind another waits.
A step that is not due leaves the state as it was (the model's choice, assumption log 11).
Where it rests on a choice of the model, that is assumption log 9 and 21. -/
def Obligations.DirectorySteps : Prop :=
  (∀ (s : State),
      let entry (va : Nat) : Option DirEntry := s.m.dir.find? (fun e => e.slice == s.sel.x && e.asid == s.sel.y && e.va == va)
      (∀ a b, entry s.sel.z = some a → entry (a.va + a.size) = some b →
          (∀ e, mergeDir s.clock a b = some e → exec .directoryMerge s = .next
            (s.setMem { s.m with dir := (s.m.dir.filter (fun x => x != b)).map (fun x => if x == a then e else x) }))
          ∧ (mergeDir s.clock a b = none → exec .directoryMerge s = .next s))
      ∧ (entry s.sel.z = none → exec .directoryMerge s = .next s)
      ∧ (∀ a, entry s.sel.z = some a → entry (a.va + a.size) = none → exec .directoryMerge s = .next s)
      ∧ (∀ w, s.m.wbq[s.sel.x]? = some w →
          let before := ∃ o ∈ s.m.wbq.take s.sel.x, o.asid = w.asid ∧ o.va < w.va + w.data.length ∧ w.va < o.va + o.data.length
          (¬before → exec .writeBack s = .next ((s.setMem { s.m with wbq := s.m.wbq.eraseIdx s.sel.x }).doWriteBack w))
          ∧ (before → exec .writeBack s = .next s))
      ∧ (s.m.wbq[s.sel.x]? = none → exec .writeBack s = .next s))
  ∧ (∀ (s : State) (agent asid va : Nat) (invalidate : Bool),
      let pending (q : Req) : Bool := q.asid == asid && q.va ≤ va && va < q.va + q.size && q.attr.home < 2
        && (s.op? q.op).any (fun o => s.coreOfBlock o.block == agent)
      let again (q : Req) : Req :=
        { q with
          noCopy := q.noCopy || (invalidate && q.stage != .home)
          stage := .home
          data := [] }
      let s0 := s.setReqs (Tab.mapv s.v.reqs (fun q => if pending q then again q else q))
      let s1 := if invalidate then
          s0.dropCopies (fun c => c.agent == agent && c.attr.home != 3 && c.attr.asid == asid && c.va ≤ va && va < c.va + c.size)
        else s0
      ((agent < 512 ∨ 576 ≤ agent) → exec (.snoopReceived agent asid va invalidate) s = .next s1)
      ∧ (512 ≤ agent → agent < 576 →
          exec (.snoopReceived agent asid va invalidate) s = .next (s1.snoopHart (agent - 512) asid va invalidate)))

/-- Outstanding instructions complete (R153, R157, R248, R325): where every lane has what it waits for, the results are written,
the flag falls, and decisions that waited for it are carried out.
A unit takes up what has reached it. DISCARD discards the pages wholly in its range in turn, from where it came to, until a page faults
or its home holds it: the page's lines are dropped, its leaf entry gets DISCARD = 1, and it is recorded in the reclaim ring (R137,
R271). A TARN instruction reads its image, is refused with the code of R118, or starts: DEF makes the Tarn ACTIVE with the image's
fields and GEN one higher and is done, GROW, SHRINK and MOVE make it RESIZING, RETIRE makes it DRAINING (R116 to R118, R273, R274).
A step that is not due completes nothing (the model's choice, assumption log 11). -/
def Obligations.InstructionsComplete : Prop :=
  (∀ (s : State) (o : Op),
    s.op? s.sel.x = some o → s.residentOp o →
      (ackOp o.opc → o.lanes.all LaneOp.ended → exec .storeAck s = .next ((s.finishOp s.sel.x).tryPlans o.block))
      ∧ ((ackOp o.opc = false ∨ o.lanes.all LaneOp.ended = false) → exec .storeAck s = .next s)
      ∧ (o.opc = 0xB0 → o.lanes ≠ [] → o.lanes.all (fun l => s.fenceMet s.sel.x o l) = false →
          exec .variableLatencyComplete s = .next (s.stilled s))
      ∧ (ackOp o.opc = false → laneDone o → o.lanes.all LaneOp.ended → (o.opc ≠ 0xB0 ∨ o.lanes = []) →
          exec .variableLatencyComplete s = .next (s.stilled ((s.finishOp s.sel.x).tryPlans o.block)))
      ∧ (o.opc = 0xB0 → o.lanes ≠ [] → o.lanes.all (fun l => s.fenceMet s.sel.x o l) →
          exec .variableLatencyComplete s = .next (s.stilled ((s.finishOp s.sel.x).tryPlans o.block))))
  ∧ (∀ (s : State) (o : Op) (l : LaneOp),
      let id := s.sel.x
      let c := s.ctxOf o.block
      let ends (t : State) : Prop := exec .variableLatencyComplete s = .next (s.stilled t)
      s.op? id = some o → s.residentOp o → s.live o.block → o.leader = some l → l.stage = .sent →
        (∀ m, o.opc = 0x8E → o.move = some m →
          let hi := m.src + m.len
          let behind := s.poBlocked id l.key true (fun p x => !opScratch p.opc && m.src / 512 ≤ x.ea / 512 && x.ea < hi)
          let pages := s.discardPages c m.dst hi (s.pagesOfRange c m.dst hi)
          let reached (t : State) (va : Nat) : State := t.updOp id (fun o => { o with move := o.move.map (fun m => { m with dst := va }) })
          (behind = true → ends s)
          ∧ (behind = false → ∀ s1, pages = (s1, .done) → ends (s1.finishOp id))
          ∧ (behind = false → ∀ s1 k va, pages = (s1, .fault k va) → ends ((reached s1 va).faultLeader id l k va true))
          ∧ (behind = false → ∀ s1 va, pages = (s1, .held va) → ends (reached s1 va)))
        ∧ (o.opc = 0xA4 → o.tag = 0 →
          let t := l.ea % 1024
          let d := s.tdb t
          let u := tdbField d 0 10
          let barred := c.secure = false ∧ tdbWorld d
          (barred → ends (s.tarnResult id 4 t))
          ∧ (¬barred → (1024 ≤ l.ea ∨ t = 0) → ends (s.tarnResult id 3 t))
          ∧ (¬barred → l.ea < 1024 → t ≠ 0 → s.tarnBusy .retire t → ends (s.tarnResult id 1 t))
          ∧ (¬barred → l.ea < 1024 → t ≠ 0 → s.tarnBusy .retire t = false → ends
              ((s.retree (s.setTdb u (tdbPut (s.tdb u) 10 2 2))).updOp id (fun o => { o with tag := t }))))
        ∧ (o.opc ∈ [0xA0, 0xA1, 0xA2, 0xA3] → o.tag = 0 →
          let behind := s.poBlocked id l.key false (fun p x => !opScratch p.opc && opWrites p.opc && x.ea / 512 == l.ea / 512)
          let read := s.load (s.agentOf o.block l.key) l.ea 64
          (behind = true → ends s)
          ∧ (behind = false → ∀ s1 k a, read = (s1, .error (.page k a)) → ends (s1.faultLeader id l k a false))
          ∧ (behind = false → ∀ s1 a, read = (s1, .error (.poisoned a)) → ends (s1.poisonLeader id o l a))
          ∧ (behind = false → ∀ s1, read = (s1, .error .held) → ends s)
          ∧ (behind = false → ∀ s1 b, read = (s1, .ok b) →
            let d := BitVec.ofNat 512 (ofBytes b)
            let t := tdbField d 0 10
            let verdict := s1.judgeTarn (tarnOpOf o.opc) c.secure d
            (∀ code, verdict = .refused code → ends (s1.tarnResult id code t))
            ∧ (∀ e, verdict = .accepted e → o.opc = 0xA0 → ends ((s1.acceptTarn .def_ e).tarnResult id 0 t))
            ∧ (∀ e, verdict = .accepted e → o.opc ≠ 0xA0 → ends
                ((s1.acceptTarn (tarnOpOf o.opc) e).updOp id (fun o => { o with tag := t }))))))
  ∧ (∀ (s : State) (c : Ctx) (lo hi : Nat) (a : Attr) (rest : List Found),
      let page := s.discardPages c lo hi (.page a :: rest)
      let held := s.ticketHolds a.asid a.va a.size none || s.holderIn (s.doomedIn a a.va a.size)
      s.discardPages c lo hi [] = (s, .done)
      ∧ (∀ k va, s.discardPages c lo hi (.fault k va :: rest) = (s, .fault k va))
      ∧ ((a.va < lo ∨ hi < a.va + a.size) → page = s.discardPages c lo hi rest)
      ∧ (lo ≤ a.va → a.va + a.size ≤ hi →
        (∀ k, s.permit c a .write = some k → page = (s, .fault k a.va))
        ∧ (s.permit c a .write = none → held = true → page = (s, .held a.va))
        ∧ (s.permit c a .write = none → held = false → page = (s.discardPage a).discardPages c lo hi rest))
      ∧ (let s1 := (s.dropLines a.asid a.va a.size).resend a.asid a.va a.size
         let s2 := ((s1.invalidate a.asid a.va a.size).doom (s.doomedIn a a.va a.size)).snoopHarts a.asid a.va a.size none true
         let mark (x : Attr) : Attr := { x with entry := Nat.lor x.entry 2048 }
         let known (l : List (Nat × Attr)) : List (Nat × Attr) := l.map (fun p => if covers a p.2.asid p.2.va then (p.1, mark p.2) else p)
         ∀ off, s2.paClass a.leaf = .memory off → s.discardPage a =
          (s2.setMem { s2.m with
            mem := (leafEntries a off).foldl (fun m o => Memory.writes m o (bytesOf 8 (Nat.lor (ofBytes (s2.physBytes o 8)) 2048))) s2.m.mem
            tlb := known s2.m.tlb
            attrs := known s2.m.attrs }).reclaimRecord a.va a.frame a.asid (sizeCode a.size) 0))
  ∧ (∀ (s : State) (d : BitVec 512),
      let t := tdbField d 0 10
      let gen (x : BitVec 512) : Nat := tdbField x 160 32
      let defined := (s.acceptTarn .def_ d).tdb t
      tdbState defined = 0 ∧ gen defined = (gen (s.tdb t) + 1) % 2 ^ 32 ∧ mappingOf defined = mappingOf d
      ∧ (∀ op ∈ [TarnOp.grow, .shrink, .move], let sized := (s.acceptTarn op d).tdb t
          tdbState sized = 1 ∧ gen sized = gen (s.tdb t) ∧ mappingOf sized = mappingOf d))

/-- Commits (R339, R340, R342, R345). A TCOMMIT's survivors take consecutive tickets, the lane in lock mode first; a slice with a
lower ticket that touches it unresolved does not vote; one that sees nothing against a ticket accepts it, one whose line is being
served waits, else the lane aborts with the vote; with every vote to accept, the lane's writes are applied, it gets 0, and its
transaction is over; the commit lock goes to the first that waits; an attempt older than 1,048,576 cycles aborts.
A step that is not due leaves the state as it was (the model's choice, assumption log 11).
Where it rests on a choice of the model, that is assumption log 35. -/
def Obligations.CommitSteps : Prop :=
  ∀ (s : State),
    let sys (x : TxSys) : State := { s with x := x }
    (∀ o, s.op? s.sel.x = some o → o.opc = 0xB7 → s.live o.block →
        let tx (l : LaneOp) : Option Tx := (s.thread? l.key).bind (·.tx)
        let want := o.lanes.filter (fun l => l.stage == .sent && (tx l).any (fun x => x.ticket.isNone && x.pending.isNone))
        let locked (l : LaneOp) : Bool := (tx l).any (·.lock)
        let ticket (t : State) (l : LaneOp) : State :=
          let todo := (t.x.sigs.filter (fun p => p.key == l.key)).map (·.slice)
          ({ t with x := { t.x with
            next := (t.x.next + 1) % 2 ^ 64
            tickets := t.x.tickets ++ [⟨t.x.next, false, l.key, todo, [], t.sel.x⟩] } } : State).updTx l.key (fun x =>
              { x with ticket := some t.x.next })
        (want.all (fun l => !s.laneBlocked s.sel.x o l) →
          exec .commitTicketRequest s = .next ((want.filter locked ++ want.filter (fun l => !locked l)).foldl ticket s))
        ∧ (want.any (fun l => s.laneBlocked s.sel.x o l) → exec .commitTicketRequest s = .next s))
    ∧ (∀ t, s.x.tickets.find? (fun t => t.n == s.sel.x) = some t → t.host = false → t.todo.contains s.sel.y →
        let lower := s.x.tickets.any (fun u => u.n < t.n && s.ticketTouches u s.sel.y)
        (lower → exec .sliceVote s = .next s)
        ∧ (lower = false →
          (∀ s1, s.voteOf s.sel.y t.key = (s1, .accept) → exec .sliceVote s = .next (s1.updTicket t.n (fun u =>
            { u with todo := u.todo.filter (fun x => x != s.sel.y), accepted := u.accepted ++ [s.sel.y] })))
          ∧ (∀ s1 e, s.voteOf s.sel.y t.key = (s1, .reject e) → exec .sliceVote s = .next (s1.rejectTicket t e))
          ∧ (∀ s1, s.voteOf s.sel.y t.key = (s1, .wait) → exec .sliceVote s = .next s)))
    ∧ (∀ t th x, s.x.tickets.find? (fun t => t.n == s.sel.x) = some t → t.host = false → s.thread? t.key = some th → th.tx = some x →
        (t.todo ≠ [] → exec .txPublish s = .next s)
        ∧ (t.todo = [] →
          let published := s.publishAll (s.coreOfBlock th.block) (s.ctxOf th.block) t.key x.buf
          (published = none → exec .txPublish s = .next s)
          ∧ (∀ s1, published = some s1 →
              let s2 := (s1.clearTx t.key).updThread t.key (fun th => { th with tx := none, lastAbort := (0, 0) })
              exec .txPublish s = .next ((s2.updOp t.op (fun o =>
                { o with lanes := o.lanes.map (fun l => if l.key == t.key then { l with stage := .done, res := [0] } else l) })).repark
                  t.op))))
    ∧ (s.x.holder = none → ∀ since k rest, s.x.queue = (since, k) :: rest →
        let s1 := sys { s.x with holder := some k, queue := rest }
        (∀ gid g, s.v.groups.find? (fun p => p.2.members.contains k) = some (gid, g) →
          exec .commitLockGrant s = .next (s1.unpark gid (fun p => p == .lock)))
        ∧ (s.v.groups.find? (fun p => p.2.members.contains k) = none → exec .commitLockGrant s = .next s1))
    ∧ (s.x.holder ≠ none ∨ s.x.queue = [] → exec .commitLockGrant s = .next s)
    ∧ (∀ t x, s.sel.y ≠ 1 → s.thread? s.sel.x = some t → t.tx = some x →
        let due := x.start + 1048576 ≤ s.clock ∧ x.ticket = none ∧ s.live t.block
        (due → exec .txTimeout s = .next (s.asyncAbort s.sel.x (if x.doomed then .conflict else .timeout) 0))
        ∧ (¬due → exec .txTimeout s = .next s))
    ∧ (s.sel.y = 1 → exec .txTimeout s = .next (s.hartTimeout s.sel.x))

/-- LAUNCH, LWAIT and LSTAT (R208, R209, R211 to R213). At issue each executing lane's record or handle is outstanding.
A lane whose record lies in reach and is accepted gets the handle of the lowest free entry; one at an address that is not a multiple
of 128 gets 4, one whose record fails its checks 2, one that asks for a world it may not have 3, and one without a free entry 1.
A poisoned record makes its lane trap, one whose page faults is recorded with the lanes that fault with it, and one held back waits.
LWAIT gives a lane 0 or 7 for a handle of no launch, 8 for its own, and the final state of another once it has one; LSTAT gives the
state's code at once; either completes once every lane has its word. -/
def Obligations.LaunchResults : Prop :=
  ∀ (s : State) (f : Slot) (g : Group),
    let sent (words : LaneV → Nat × List Word) : List LaneOp := (running s g f).map (fun l => laneOp l (words l).1 (words l).2 [] .sent)
    (issues s 0x0B f g → outsideTx s g f → exec (.launch f) s = .next (kept s 0x0B f g (setOff s 0x0B f g (sent (fun l => (globalEa f l.th, []))))))
    ∧ (issues s 0x0C f g → exec (.lwait f) s = .next (kept s 0x0C f g (setOff s 0x0C f g (sent (fun l => (0, l.th.words f.a.toNat 1))))))
    ∧ (issues s 0x0D f g → exec (.lstat f) s = .next (kept s 0x0D f g (setOff s 0x0D f g (sent (fun l => (0, l.th.words f.a.toNat 1))))))
    ∧ (∀ o l, s.op? s.sel.x = some o → o.opc = 0x0B → minBy (·.lane) (o.lanes.filter (fun l => l.stage == .sent)) = some l →
        l.lane = s.sel.y → s.live o.block →
          let c := s.ctxOf o.block
          let read := s.load (s.agentOf o.block l.key) l.ea 128
          (s.submitBlocked s.sel.x o l → exec .launchSubmission s = .next s)
          ∧ (s.submitBlocked s.sel.x o l = false →
            (l.ea % 128 ≠ 0 → exec .launchSubmission s = .next (s.laneResult s.sel.x l.lane 4))
            ∧ (l.ea % 128 = 0 → ∀ s1 k a, read = (s1, .error (.page k a)) → exec .launchSubmission s = .next
                (s1.faultLanes s.sel.x ((o.lanes.filter (fun x => x.stage == .sent && x.ea % 128 == 0
                  && s1.pageOf c.asid x.ea == s1.pageOf c.asid l.ea)).map (·.lane)) k false))
            ∧ (l.ea % 128 = 0 → ∀ s1 a, read = (s1, .error (.poisoned a)) → exec .launchSubmission s = .next
                ((s1.trapLanes s.sel.x [l.lane] (fun _ => ⟨.poisoned, 0, some a, false⟩)).tryPlans o.block))
            ∧ (l.ea % 128 = 0 → ∀ s1, read = (s1, .error .held) → exec .launchSubmission s = .next s)
            ∧ (l.ea % 128 = 0 → ∀ s1 d, read = (s1, .ok d) →
                let r := parseRecord (ofBytes d) c.asid
                let accepted := recordOk (ofBytes d) r c.asid c.priv
                (accepted = false → exec .launchSubmission s = .next (s1.laneResult s.sel.x l.lane 2))
                ∧ (accepted → r.secure → c.secure = false → exec .launchSubmission s = .next (s1.laneResult s.sel.x l.lane 3))
                ∧ (accepted → (r.secure = false ∨ c.secure) →
                    (lowest 256 s1.entryFree = none → exec .launchSubmission s = .next (s1.laneResult s.sel.x l.lane 1))
                    ∧ (∀ i, lowest 256 s1.entryFree = some i → exec .launchSubmission s = .next
                        ((s1.enterLaunch i r).1.laneResult s.sel.x l.lane (s1.enterLaunch i r).2))))))
    ∧ (∀ o own, s.op? s.sel.x = some o → (s.block? o.block).map (·.launch) = some own →
        let handle (l : LaneOp) : Nat := (l.b.getD 0 0).toNat
        let code (l : LaneOp) : Nat := s.launchCode (handle l)
        let waited (l : LaneOp) : Option Nat :=
          if code l = 0 ∨ code l = 7 then some (code l) else if handle l % 256 = own then some 8
          else if 5 ≤ code l then some (code l) else none
        let given (word : LaneOp → Option Nat) (l : LaneOp) : LaneOp :=
          if l.stage = .done then l
          else match word l with
            | some w => { l with stage := .done, res := [BitVec.ofNat 32 w] }
            | none => { l with stage := .wait }
        let after (word : LaneOp → Option Nat) : State := s.updOp s.sel.x (fun o => { o with lanes := o.lanes.map (given word) })
        s.residentOp o → s.live o.block → laneDone o = false →
          (o.opc = 0x0C → (o.lanes.map (given waited)).all LaneOp.ended →
            exec .variableLatencyComplete s = .next (s.stilled ((after waited).finishOp s.sel.x)))
          ∧ (o.opc = 0x0C → (o.lanes.map (given waited)).all LaneOp.ended = false →
            exec .variableLatencyComplete s = .next (s.stilled (after waited)))
          ∧ (o.opc = 0x0D → exec .variableLatencyComplete s = .next (s.stilled ((after (fun l => some (code l))).finishOp s.sel.x))))

/-- The forms of MWIN (R359, R361, R362): a converged group, every lane of it executing, outside transactions. ALLOC takes the
lowest base of free rows, SUB narrows the group's rows, FREE gives the window back, QUERY describes it; every lane gets the status. -/
def Obligations.WindowResults : Prop :=
  ∀ (s : State) (f : Slot) (g : Group) (b : Block) (l : LaneV) (rest : List LaneV),
    issues s 0xC0 f g → wholeGroup s g f → s.block? g.block = some b → s.lanesOf g f = l :: rest →
      let ls := s.lanesOf g f
      let rows := ((s.record? g.block).map (·.mrows)).getD 0
      let n := f.i32.toNat
      let e := clusterOf (b.core.getD 0)
      let status (t : State) (v : Nat) : State := (t.writeD f 1 ls (fun _ => v)).advance s.cur.group g ls
      (Rule.sub f = 0 → b.window.isSome → exec (.mwinAlloc f) s = .next (kept s 0xC0 f g (status s 2)))
      ∧ (Rule.sub f = 0 → b.window = none → (rows < n ∨ s.freeRows e n = none) → exec (.mwinAlloc f) s = .next (kept s 0xC0 f g (status s 1)))
      ∧ (Rule.sub f = 0 → b.window = none → n ≤ rows → ∀ base, s.freeRows e n = some base → exec (.mwinAlloc f) s = .next
          (kept s 0xC0 f g (status ((s.updBlock g.block (fun b => { b with window := some ⟨e, base, n⟩, rows := [] })).setBounds g.block base (base + n)) 0)))
      ∧ (Rule.sub f = 1 → b.window = none → exec (.mwinSub f) s = .next (kept s 0xC0 f g (status s 5)))
      ∧ (Rule.sub f = 1 → ∀ w, b.window = some w →
          let o := l.th.val f.a.toNat 1
          (w.rows < o + n → exec (.mwinSub f) s = .next (kept s 0xC0 f g (status s 3)))
          ∧ (o + n ≤ w.rows → exec (.mwinSub f) s = .next
              (kept s 0xC0 f g (status (s.updGroup s.cur.group (fun g => { g with awbase := w.base + o, awlimit := w.base + o + n })) 0))))
      ∧ (Rule.sub f = 2 → b.window = none → exec (.mwinFree f) s = .next (kept s 0xC0 f g (status s 5)))
      ∧ (Rule.sub f = 2 → b.window.isSome → b.resv = [] →
          s.v.ops.any (fun p => p.2.block == g.block && isMatrix p.2.opc && !p.2.lanes.isEmpty) = false →
          exec (.mwinFree f) s = .next
            (kept s 0xC0 f g (status ((s.updBlock g.block (fun b => { b with window := none, rows := [] })).setBounds g.block 0 0) 0)))
      ∧ (Rule.sub f = 2 → b.window.isSome →
          (b.resv ≠ [] ∨ s.v.ops.any (fun p => p.2.block == g.block && isMatrix p.2.opc && !p.2.lanes.isEmpty)) →
          exec (.mwinFree f) s = .next (kept s 0xC0 f g (status s 4)))
      ∧ (Rule.sub f = 3 → b.window = none → exec (.mwinQuery f) s = .next (kept s 0xC0 f g (status s 0)))
      ∧ (Rule.sub f = 3 → ∀ w, b.window = some w → exec (.mwinQuery f) s = .next
          (kept s 0xC0 f g (status s ((g.awbase - w.base) + (g.awlimit - g.awbase) * 2 ^ 10 + w.rows * 2 ^ 20))))

/-- Matrix instructions post their entries (R352 to R355, R360, R367 to R379): a converged group, every lane executing, outside
transactions, whose operands pass their checks, with room in the engine's table; without room it does not issue. MREAD with
stochastic rounding takes two draws of each lane (as it is posted, which is the model's choice, assumption log 43).
A matrix instruction of a group that is not converged, or some but not all of whose lanes execute, makes the group take
CONVERGENCE (R45). Up to MRSUM, one of a block without a window takes WINDOW, and so does one whose rows lie outside the group's; a product
whose regions are not as it needs them, and an MLOAD whose destination word has a reserved bit set, take OPERAND. -/
def Obligations.MatrixIssues : Prop :=
  (∀ (s : State) (f : Slot) (g : Group) (b : Block) (l : LaneV) (rest : List LaneV),
      wholeGroup s g f → s.block? g.block = some b → s.lanesOf g f = l :: rest → s.matrixRoom (clusterOf (b.core.getD 0)) b.cls →
        let ls := s.lanesOf g f
        let base := (b.window.map (·.base)).getD 0
        let c := l.th.val f.d.toNat 1
        let all (words : List Word) : List LaneOp := ls.map (fun l => laneOp l 0 words [] .sent)
        let w (r : BitVec 8) (n : Nat) : List Word := l.th.words r.toNat n
        let row (l : LaneV) : Nat := l.th.val f.a.toNat 1
        (issues s 0xC1 f g → b.window.isSome → exec (.obres f) s = .next (kept s 0xC1 f g (posted s 0xC1 f g 0 (all (w f.a 2 ++ w f.b 2 ++ w f.c 1)) none none)))
        ∧ (issues s 0xC2 f g → b.window.isSome → exec (.obfree f) s = .next (kept s 0xC2 f g (posted s 0xC2 f g 0 (all (w f.a 1)) none none)))
        ∧ (∀ i ∈ [Instr.mload f, .mloadPeer f], issues s 0xC3 f g → b.window.isSome →
            ∀ tag lanes move lock, s.mloadPlan g ls b (b.core.getD 0) f l.th = .go tag lanes move lock →
              exec i s = .next (kept s 0xC3 f g (posted s 0xC3 f g tag lanes move lock)))
        ∧ (∀ r ∈ [(Instr.mma f, 0xC4), (.mmas f, 0xC5), (.mtrans f, 0xC6), (.mperm f, 0xC7), (.mrsum f, 0xC8)],
            issues s r.2 f g → b.window.isSome → b.productOk r.2 f (l.th.val f.a.toNat 1) (l.th.val f.b.toNat 1) →
            g.awbase + c + mOf f ≤ g.awlimit →
              exec r.1 s = .next (kept s r.2 f g (posted s r.2 f g (g.awbase + c - base) (all (w f.a 1 ++ w f.b 1)) none none)))
        ∧ (issues s 0xC9 f g → g.awbase + c + f.i32.toNat ≤ g.awlimit →
            exec (.mzero f) s = .next (kept s 0xC9 f g (posted s 0xC9 f g (g.awbase + c - base) (all []) none none)))
        ∧ (issues s 0xCA f g → ls.all (fun l => decide (g.awbase + row l + 1 ≤ g.awlimit)) → exec (.mread f) s = .next
            (kept s 0xCA f g (posted s 0xCA f g 0 (ls.map (fun l => laneOp l (g.awbase + row l - base) [] [l.th.draws] .sent)) none none)))
        ∧ (issues s 0xCB f g → ls.all (fun l => decide (g.awbase + row l + 1 ≤ g.awlimit)) → exec (.mwrite f) s = .next
            (kept s 0xCB f g (posted s 0xCB f g 0 (ls.map (fun l =>
              laneOp l (g.awbase + row l - base) (l.th.words f.b.toNat (Rule.regs (Rule.ty f))) [l.th.draws] .sent)) none none))))
  ∧ (∀ (s : State) (f : Slot) (g : Group),
      ∀ r ∈ [(Instr.obres f, 0xC1), (.obfree f, 0xC2), (.mload f, 0xC3), (.mloadPeer f, 0xC3), (.mma f, 0xC4), (.mmas f, 0xC5),
          (.mtrans f, 0xC6), (.mperm f, 0xC7), (.mrsum f, 0xC8), (.mzero f, 0xC9), (.mread f, 0xCA), (.mwrite f, 0xCB)],
        issues s r.2 f g → s.matrixPlan g (s.lanesOf g f) r.2 f = .wait → exec r.1 s = .next (stays s g))
  ∧ (∀ (s : State) (f : Slot) (g : Group) (b : Block) (l : LaneV) (rest : List LaneV),
      wholeGroup s g f → s.block? g.block = some b → s.lanesOf g f = l :: rest →
        let traps (r : Instr × Nat) (c : Cause) : Prop :=
          exec r.1 s = .next (s.settleSlot (s.groupTrap s.cur.group g (s.lanesOf g f) c) s.cur.group g r.2 f)
        let d := l.th.val f.d.toNat 1
        let products := [(Instr.mma f, 0xC4), (.mmas f, 0xC5), (.mtrans f, 0xC6), (.mperm f, 0xC7), (.mrsum f, 0xC8)]
        let loads := [(Instr.mload f, 0xC3), (.mloadPeer f, 0xC3)]
        (∀ r ∈ [(Instr.obres f, 0xC1), (.obfree f, 0xC2)] ++ loads ++ products, issues s r.2 f g → b.window = none → traps r .window)
        ∧ (∀ r ∈ products, issues s r.2 f g → b.window.isSome →
            (b.productOk r.2 f (l.th.val f.a.toNat 1) (l.th.val f.b.toNat 1) = false → traps r .operand)
            ∧ (b.productOk r.2 f (l.th.val f.a.toNat 1) (l.th.val f.b.toNat 1) → g.awlimit < g.awbase + d + mOf f → traps r .window))
        ∧ (issues s 0xC9 f g → g.awlimit < g.awbase + d + f.i32.toNat → traps (.mzero f, 0xC9) .window)
        ∧ (∀ r ∈ [(Instr.mread f, 0xCA), (.mwrite f, 0xCB)], issues s r.2 f g →
            (∃ x ∈ s.lanesOf g f, g.awlimit < g.awbase + x.th.val f.a.toNat 1 + 1) → traps r .window)
        ∧ (∀ r ∈ loads, issues s r.2 f g → b.window.isSome →
            (∀ c, s.mloadPlan g (s.lanesOf g f) b (b.core.getD 0) f l.th = .trap c → traps r c)
            ∧ ((bits (l.th.val f.b.toNat 1) 19 5 ≠ 0 ∨ bits (l.th.val f.b.toNat 1) 29 3 ≠ 0) → traps r .operand)))
  ∧ (∀ (s : State) (f : Slot) (g : Group),
      ∀ r ∈ [(Instr.mwinAlloc f, 0xC0), (.mwinSub f, 0xC0), (.mwinFree f, 0xC0), (.mwinQuery f, 0xC0), (.obres f, 0xC1), (.obfree f, 0xC2),
          (.mload f, 0xC3), (.mloadPeer f, 0xC3), (.mma f, 0xC4), (.mmas f, 0xC5), (.mtrans f, 0xC6), (.mperm f, 0xC7), (.mrsum f, 0xC8),
          (.mzero f, 0xC9), (.mread f, 0xCA), (.mwrite f, 0xCB)],
        issues s r.2 f g → (s.converged g = false ∨ ((s.lanesOf g f).any (·.run) ∧ ¬ (s.lanesOf g f).all (·.run))) →
          exec r.1 s = .next (s.settleSlot (s.groupTrap s.cur.group g (s.lanesOf g f) .convergence) s.cur.group g r.2 f))

/-- Passes of a matrix engine (R354, R356, R357, R367, R376, R379, R429): the entry of the first rank is granted the engine, entries
passed by age, and the pass does its entry's work: MZERO clears its rows, OBRES reserves a slot where one is free, OBFREE frees its
slot, MREAD reads and MWRITE writes the accumulators, and a product adds the chunks of the pass, being served after the last.
An entry that has been served completes, as does an MLOAD with nothing more to deliver, with the mask of what it dropped.
A step that is not due leaves the state as it was (the model's choice, assumption log 11).
Where it rests on a choice of the model, that is assumption log 30, 43 and 62. -/
def Obligations.MatrixPasses : Prop :=
  (∀ (s : State) (id : Nat) (o : Op),
      let e := s.sel.x
      let l := (s.entriesOf e).filter (fun p => s.eligible p.1 p.2)
      (Tab.look s.v.passes e = none → s.resetting e = false → minBy (fun p => s.passRank p.2) l = some (id, o) →
        let aged (p : Nat × Op) : Nat × Op :=
          if p.1 == id then (p.1, { p.2 with age := 0 })
          else if l.any (fun q => q.1 == p.1) && s.classOf p.2.block != 3 then (p.1, { p.2 with age := min 255 (p.2.age + 1) })
          else p
        let s1 := s.setOps (s.v.ops.map aged)
        exec .matrixPassGrant s = .next { s1 with v := { s1.v with passes := Tab.set s.v.passes e (id, s.clock) } })
      ∧ ((Tab.look s.v.passes e).isSome ∨ s.resetting e ∨ l = [] → exec .matrixPassGrant s = .next s))
  ∧ (∀ (s : State) (id at_ : Nat) (o : Op) (b : Block),
      let e := s.sel.x
      Tab.look s.v.passes e = some (id, at_) → s.op? id = some o → s.block? o.block = some b →
        let free : State := { s with v := { s.v with passes := Tab.del s.v.passes e } }
        let draw (t : Option Thread) : BitVec 32 → Nat := match t with | some t => free.drawer t.block t.tid | none => fun _ => 0
        let reserved := free.reserve e b (((free.record? o.block).map (·.mgran)).getD 0) o
        let last := min o.chunks (o.chunk + passChunks ((b.factors o).elim 0 (fun x => x.a.fmt)))
        let added (x : Factors) : State :=
          (free.updBlock o.block (fun b => ((List.range (last - o.chunk)).map (fun q => o.chunk + q)).foldl (fun b j =>
            b.addChunk o.opc o.f x o.tag j) b)).updOp id (fun o => { o with chunk := last })
        (o.opc = 0xC1 → ∀ code, reserved = (code, none) → exec .matrixPassEnd s = .next
          (free.serveAll id (fun _ => [BitVec.ofNat 32 code])))
        ∧ (o.opc = 0xC1 → ∀ code r, reserved = (code, some r) → exec .matrixPassEnd s = .next
          ((free.updBlock o.block (fun b => { b with resv := insertBy (·.slot) r b.resv })).serveAll id (fun _ => [BitVec.ofNat 32 code])))
        ∧ (o.opc = 0xC2 → exec .matrixPassEnd s = .next
          ((free.updBlock o.block (fun b => { b with resv := b.resv.filter (fun r => r.slot != o.word 0) })).serveAll id (fun _ => [])))
        ∧ (o.opc = 0xC9 → exec .matrixPassEnd s = .next ((free.updBlock o.block (fun b =>
            { b with rows := b.rows.filter (fun p => p.1 / 128 < o.tag || o.tag + o.f.i32.toNat ≤ p.1 / 128) })).serveAll id (fun _ => [])))
        ∧ (o.opc = 0xCA → Rule.ty o.f = 10 → exec .matrixPassEnd s = .next
            (free.serveAll id (fun l => [b.acc l.ea (2 * l.lane), b.acc l.ea (2 * l.lane + 1)])))
        ∧ (o.opc = 0xCA → exec .matrixPassEnd s = .next (free.serveAll id (fun l =>
            readOut o.f (draw (free.thread? l.key)) (l.c.getD 0 0) (b.acc l.ea (2 * l.lane)) (b.acc l.ea (2 * l.lane + 1)))))
        ∧ (o.opc = 0xCB → exec .matrixPassEnd s = .next ((free.updBlock o.block (fun b => o.lanes.foldl (fun b l =>
            (b.setAcc l.ea (2 * l.lane) (writeIn o.f l.b).1).setAcc l.ea (2 * l.lane + 1) (writeIn o.f l.b).2) b)).serveAll id (fun _ => [])))
        ∧ (isProduct o.opc → b.factors o = none → exec .matrixPassEnd s = .next (free.serveAll id (fun _ => [])))
        ∧ (isProduct o.opc → ∀ x, b.factors o = some x →
            (o.chunks ≤ last → exec .matrixPassEnd s = .next ((added x).serveAll id (fun _ => [])))
            ∧ (last < o.chunks → exec .matrixPassEnd s = .next (added x))))
  ∧ (∀ (s : State) (o : Op), s.op? s.sel.x = some o → isMatrix o.opc → o.posted.isSome →
        (o.opc ≠ 0xC3 → o.served → exec .matrixEntryComplete s = .next (s.finishOp s.sel.x))
        ∧ (o.opc ≠ 0xC3 → o.served = false → exec .matrixEntryComplete s = .next s)
        ∧ (∀ m, o.opc = 0xC3 → o.move = some m → m.wait = [] → m.busy = [] →
          exec .matrixEntryComplete s = .next ((s.serveAll s.sel.x (fun _ => [BitVec.ofNat 32 (maskOf m.dropped)])).finishOp s.sel.x))
        ∧ (∀ m, o.opc = 0xC3 → o.move = some m → (m.wait ≠ [] ∨ m.busy ≠ []) → o.served = false → exec .matrixEntryComplete s = .next s))

/-- Deliveries of MLOAD (R355, R371 to R373): one begins where the receiver has the slot and lets it, the source being read at the
first and the reservation being EMPTY until the end, waits while entries of the receiver that came before use the slot, and is dropped
where the receiver, the slot or the room is missing or the receiver has retired; at its end the bytes are written and it is FULL, and a receiver that retired
meanwhile is freed.
Resets of a matrix engine (R382, R383): the write of RESET, and the watchdog 65,536 cycles into a pass, reset it; at the end
its STATE is RUNNING again; a reset under way is not started anew.
A step that is not due leaves the state as it was (the model's choice, assumption log 11).
Where it rests on a choice of the model, that is assumption log 2 and 30. -/
def Obligations.EngineSteps : Prop :=
  (∀ (s : State) (o : Op) (m : Move) (l : LaneOp),
      let id := s.sel.x
      let pos := s.sel.y
      let slot := bits m.dst 24 5
      s.op? id = some o → o.opc = 0xC3 → o.move = some m → o.leader = some l →
        (m.wait.contains pos → o.posted.isSome → s.live o.block → s.fenceMet id o l →
          (s.receiver o pos = none → exec .mloadDeliveryBegin s = .next (s.dropDelivery id pos))
          ∧ (∀ blk b, s.receiver o pos = some (blk, b) → b.resvAt slot = none → exec .mloadDeliveryBegin s = .next (s.dropDelivery id pos))
          ∧ (∀ blk b r, s.receiver o pos = some (blk, b) → b.resvAt slot = some r →
              let read := if l.c = [] then s.readSource id o m else s
              (s.retired blk → exec .mloadDeliveryBegin s = .next (s.dropDelivery id pos))
              ∧ (s.retired blk = false → (b.saving = true ∨ s.deliverable id o blk slot b r = false) → exec .mloadDeliveryBegin s = .next s)
              ∧ (s.retired blk = false → b.saving = false → s.deliverable id o blk slot b r = true → b.lands m.dst m.len = false →
                  exec .mloadDeliveryBegin s = .next (s.dropDelivery id pos))
              ∧ (s.retired blk = false → b.saving = false → s.deliverable id o blk slot b r = true → b.lands m.dst m.len = true →
                  exec .mloadDeliveryBegin s = .next ((read.updOp id (fun o => { o with move := o.move.map (fun m =>
                    { m with
                      wait := m.wait.filter (fun p => p != pos)
                      busy := m.busy ++ [pos] }) })).updResv blk slot (fun r => { r with full := false })))))
        ∧ (m.busy.contains pos →
            let left := s.updOp id (fun o => { o with move := o.move.map (fun m => { m with busy := m.busy.filter (fun p => p != pos) }) })
            (s.receiver o pos = none → exec .mloadDeliveryEnd s = .next left)
            ∧ (∀ blk b, s.receiver o pos = some (blk, b) →
              let full := left.updResv blk slot (fun r => { r.put (bits m.dst 0 19) (bytesOf m.len (ofWords l.c)) with full := true })
              (full.v.threads.any (fun p => p.2.block == blk) → exec .mloadDeliveryEnd s = .next full)
              ∧ (full.v.threads.all (fun p => p.2.block != blk) → exec .mloadDeliveryEnd s = .next (full.retireBlock blk)))))
  ∧ (∀ (s : State),
      let e := s.sel.x
      (s.resetting e = false → e < 128 → exec .engineResetWrite s = .next (s.resetEngine e false))
      ∧ (s.resetting e ∨ 128 ≤ e → exec .engineResetWrite s = .next s)
      ∧ (∀ id at_, Tab.look s.v.passes e = some (id, at_) → at_ + 65536 ≤ s.clock → exec .engineWatchdog s = .next (s.resetEngine e true))
      ∧ (∀ id at_, Tab.look s.v.passes e = some (id, at_) → s.clock < at_ + 65536 → exec .engineWatchdog s = .next s)
      ∧ (Tab.look s.v.passes e = none → exec .engineWatchdog s = .next s)
      ∧ (s.resetting e → exec .engineResetEnd s = .next (s.setOther (mateng e) (Nat.xor (s.engineReg e) 4)))
      ∧ (s.resetting e = false → exec .engineResetEnd s = .next s))

/-- The flow instructions at issue (R385, R386, R392 to R398, R401, R406 to R408, R411): outside transactions, each is outstanding
for its unit with the leader's register A, or INLET.ADD's and INLET.DONE's own, and its own registers B; the forms with a landing area
take a range-lock entry once the area passes its checks, and TAKE.G empties it; without a free entry they do not issue, and where the
area fails a check the leader lane takes that trap.
Where it rests on a choice of the model, that is assumption log 29. -/
def Obligations.FlowIssues : Prop :=
  ∀ (s : State) (f : Slot) (g : Group) (l : LaneV) (rest : List LaneV),
    outsideTx s g f → running s g f = l :: rest →
      let run := l :: rest
      let a := l.th.val f.a.toNat 1
      let off := l.th.val f.b.toNat 1
      let core := s.coreOfBlock g.block
      (∀ r ∈ [(Instr.weirPush f, 0xE1, 4), (.weirTake f, 0xE2, 0), (.weirDone f, 0xE3, 0), (.weirCloseEnd f, 0xE4, 0),
          (.weirCloseKill f, 0xE4, 0), (.inletTake f, 0xE6, 0), (.stillWaitTest f, 0xE8, 0), (.stillWaitHold f, 0xE8, 0),
          (.stillWaitUnhold f, 0xE8, 0)],
        issues s r.2.1 f g → exec r.1 s = .next (kept s r.2.1 f g (setOff s r.2.1 f g (run.map (flowLane f r.2.2 a)))))
      ∧ (∀ r ∈ [(Instr.inletAdd f, 0xE5, 2), (.inletDone f, 0xE7, 0)],
        issues s r.2.1 f g → exec r.1 s = .next (kept s r.2.1 f g (setOff s r.2.1 f g (run.map (fun x => flowLane f r.2.2 (x.th.val f.a.toNat 1) x)))))
      ∧ (issues s 0xE0 f g → exec (.weirOpen f) s = .next
          (kept s 0xE0 f g (setOff s 0xE0 f g (run.map (fun x => { flowLane f 0 0 x with ea := l.th.val f.a.toNat 2 })))))
      ∧ (∀ r ∈ [(Instr.weirTakeG f, 0xE2), (.weirDoneS f, 0xE3)],
          issues s r.2 f g → s.weirOf g.block a = none → exec r.1 s = .next (kept s r.2 f g (setOff s r.2 f g (run.map (flowLane f 0 a)))))
      ∧ (∀ r ∈ [(Instr.weirTakeG f, 0xE2), (.weirDoneS f, 0xE3)],
          issues s r.2 f g → ∀ e w m, s.weirOf g.block a = some (e, w) → s.landing g w off = .ok m → s.freeLocks core = 0 →
            exec r.1 s = .next (stays s g))
      ∧ (∀ r ∈ [(Instr.weirTakeG f, 0xE2), (.weirDoneS f, 0xE3)],
          issues s r.2 f g → ∀ e w m, s.weirOf g.block a = some (e, w) → s.landing g w off = .ok m → s.freeLocks core ≠ 0 →
            let s1 := (s.startOp s.cur.group g r.2 f (run.map (flowLane f 0 a))).1.updOp s.nextId (fun o => { o with move := some m })
            let s2 := s1.setLocks (s1.v.locks ++ [⟨core, s.nextId, r.2 == 0xE2, some g.block, 0, off, off + 256 * m.len⟩])
            exec r.1 s = .next (kept s r.2 f g ((if r.2 = 0xE2 then s2.updBlock g.block (fun b => b.markRange off (256 * m.len) false) else s2).advance
              s.cur.group g (s.lanesOf g f))))
      ∧ (∀ r ∈ [(Instr.weirTakeG f, 0xE2), (.weirDoneS f, 0xE3)],
          issues s r.2 f g → ∀ e w t, s.weirOf g.block a = some (e, w) → s.landing g w off = .error t →
            exec r.1 s = .next (s.settleSlot (s.finish s.cur.group g (s.lanesOf g f) ⟨[], [], [(l.key, t)], []⟩) s.cur.group g r.2 f))

/-- STILL.WAIT, CHAN.SEND and CHAN.RECV at issue (R411, R413, R414): a STILL.WAIT on a domain that is not QUIET keeps its group in
the Backwater; the channel forms are served at once where they can be, and an undeclared channel, or one with fewer slots than
lanes execute, makes the leader take OPERAND.
Channels (R413 to R415): a SEND that is not behind another and finds room appends its lanes' messages in lane order; a RECV
that finds enough takes the oldest.
Where it rests on a choice of the model, that is assumption log 29. -/
def Obligations.ChannelSteps : Prop :=
  (∀ (s : State) (f : Slot) (g : Group) (l : LaneV) (rest : List LaneV),
      outsideTx s g f → running s g f = l :: rest →
        let run := l :: rest
        let a := l.th.val f.a.toNat 1
        let still := setOff s 0xE8 f g (run.map (flowLane f 0 a))
        (issues s 0xE8 f g → Rule.sub f = 0 → still.domainBusy (a % 256) → exec (.stillWait f) s = .next (kept s 0xE8 f g (still.park s.cur.group (.op s.nextId))))
        ∧ (∀ r ∈ [(Instr.chanSend f, 0xE9), (.chanRecv f, 0xEA)], issues s r.2 f g →
            (∀ n, s.chanSlots g.block (chanNo f) = some n → run.length ≤ n →
              let s1 := setOff s r.2 f g (run.map (flowLane f 2 0))
              ∀ o, s1.op? s.nextId = some o → exec r.1 s = .next (kept s r.2 f g ((s1.chanServe s.nextId o).repark s.nextId)))
            ∧ ((s.chanSlots g.block (chanNo f) = none ∨ ∃ n, s.chanSlots g.block (chanNo f) = some n ∧ n < run.length) →
              exec r.1 s = .next (s.settleSlot (s.finish s.cur.group g (s.lanesOf g f) ⟨[], [], [(l.key, ⟨.operand, 0, none, false⟩)], []⟩)
                s.cur.group g r.2 f))))
  ∧ (∀ (s : State) (id : Nat) (o : Op) (b : Block),
      s.block? o.block = some b → o.waitsChan → s.live o.block → s.chanBehind id o b = false →
        let k := chanNo o.f
        let held := s.messages b.gang k
        let lanes := sortBy (·.lane) o.lanes
        (o.opc = 0xE9 → held.length + lanes.length ≤ (s.chanSlots o.block k).getD 0 → o.lanes.all (fun l => s.fenceMet id o l) →
          s.chanServe id o = ((s.setMessages b.gang k (held ++ lanes.map (fun l => BitVec.ofNat 64 (ofWords l.b)))).updOp id (fun o =>
            { o with lanes := o.lanes.map (fun l => { l with stage := .done }) })).repark id)
        ∧ (o.opc = 0xE9 → (s.chanSlots o.block k).getD 0 < held.length + lanes.length → s.chanServe id o = s)
        ∧ (o.opc = 0xEA → held.length < lanes.length → s.chanServe id o = s)
        ∧ (o.opc = 0xEA → lanes.length ≤ held.length →
          s.chanServe id o = ((s.setMessages b.gang k (held.drop lanes.length)).updOp id (fun o =>
            { o with lanes := o.lanes.map (fun l => { l with stage := .done, res := recvWords lanes held l }) })).repark id))

/-- Flow instructions reach their units (R389, R392, R393, R398, R401, R406 to R408, R411, R412). The forms that count towards a domain
wait for what comes before them in their threads; an access of the unit that is held makes them wait.
OPEN reads its descriptor, or reports its address or a fault of the read, and gets a handle or a refusal; PUSH to a context that is
open goes lane by lane; STALE, FAULTED and CLOSED handles answer with their codes; DONE makes done what its lanes hold; CLOSE ends
the context, KILL frees it; ADD and TAKE of the Inlet go lane by lane, and DONE lowers the count in hand; STILL.WAIT.TEST, HOLD and
UNHOLD read and change the hold count.
Where it rests on a choice of the model, that is assumption log 29. -/
def Obligations.FlowUnits : Prop :=
  ∀ (s : State) (o : Op),
    let id := s.sel.x
    let h := o.handle
    let d := h % 256
    let v := s.domain d
    let sub := Rule.sub o.f
    let lanes := sortBy (·.lane) o.lanes
    let put (n : Nat) : State := s.setFlow { s.f with domains := Tab.set s.f.domains d (n, v.2) }
    let ends (t : State) : Prop := exec .variableLatencyComplete s = .next (s.stilled t)
    let gated := o.opc ∈ [0xE0, 0xE1, 0xE4, 0xE5, 0xE6, 0xE7] ∨ (o.opc = 0xE3 ∧ o.move = none) ∨ (o.opc = 0xE8 ∧ 2 ≤ sub)
    s.op? id = some o → s.residentOp o → s.live o.block → o.lanes ≠ [] →
      (gated → s.flowReady id o = false → ends s)
      ∧ (o.opc = 0xE8 → sub = 1 → ends (s.finishWith id [BitVec.ofNat 32 (s.stillWord d)]))
      ∧ (s.flowReady id o = true →
        (o.opc = 0xE8 → sub = 2 → v.1 = 65535 → ends (s.finishWith id [0xFFFFFFFF]))
        ∧ (o.opc = 0xE8 → sub = 2 → v.1 ≠ 65535 → ends ((put (v.1 + 1)).finishWith id [BitVec.ofNat 32 (v.1 + 1)]))
        ∧ (o.opc = 0xE8 → sub = 3 → v.1 = 0 → ends (s.finishWith id [0]))
        ∧ (o.opc = 0xE8 → sub = 3 → v.1 ≠ 0 → ends (s.stilled ((put (v.1 - 1)).finishWith id [BitVec.ofNat 32 (v.1 - 1)])))
        ∧ (o.opc = 0xE0 → ∀ l b, o.leader = some l → s.block? o.block = some b → l.stage = .sent →
          let read := s.load (s.agentOf o.block l.key) l.ea 64
          (l.ea % 64 ≠ 0 → ends (s.finishWith id [5]))
          ∧ (l.ea % 64 = 0 → ∀ s1 k a, read = (s1, .error (.page k a)) → ends (s1.faultLeader id l k a false))
          ∧ (l.ea % 64 = 0 → ∀ s1 a, read = (s1, .error (.poisoned a)) → ends (s1.poisonLeader id o l a))
          ∧ (l.ea % 64 = 0 → ∀ s1, read = (s1, .error .held) → ends s)
          ∧ (l.ea % 64 = 0 → ∀ s1 b64, read = (s1, .ok b64) →
            let opened := s1.weirOpen (b.core.getD 0) b (s1.ctxOf o.block) (ofBytes b64)
            (opened = none → ends s)
            ∧ (∀ r, opened = some r → ends (s.stilled (r.1.finishWith id [BitVec.ofNat 32 r.2])))))
        ∧ (s.weirOf o.block h = none →
          (o.opc = 0xE1 → ends (s.finishWith id [4]))
          ∧ (o.opc = 0xE3 → o.move = none → ends (s.finishOp id))
          ∧ (o.opc = 0xE4 → ends (s.finishWith id [1])))
        ∧ (∀ e w, s.weirOf o.block h = some (e, w) →
          (o.opc = 0xE1 → w.state = .faulted → ends (s.finishWith id [5]))
          ∧ (o.opc = 0xE1 → w.state = .closed → ends (s.finishWith id [3]))
          ∧ (o.opc = 0xE1 → w.state = .open_ →
            (s.pushLanes e false lanes = none → ends s)
            ∧ (∀ r, s.pushLanes e false lanes = some r → ends (s.stilled (r.1.finishLanes id r.2))))
          ∧ (o.opc = 0xE3 → o.move = none →
            (s.doneLanes e w lanes = none → ends s) ∧ (∀ s1, s.doneLanes e w lanes = some s1 → ends (s.stilled (s1.finishOp id))))
          ∧ (o.opc = 0xE4 → sub = 1 →
            let kept_ := s.keepScatters w (s.scattersOf o.block h)
            (kept_ = none → ends s) ∧ (∀ s1, kept_ = some s1 → ends (s.stilled ((s1.weirFree e).finishWith id [0]))))
          ∧ (o.opc = 0xE4 → sub ≠ 1 → w.state = .open_ →
            ends (s.stilled (((s.updWeir e (fun w => { w with state := .closed })).weirSettle e).finishWith id [0])))
          ∧ (o.opc = 0xE4 → sub ≠ 1 → w.state ≠ .open_ → ends (s.finishWith id [2])))
        ∧ (o.opc = 0xE5 →
          let added := s.addItems (s.ctxOf o.block).secure lanes
          (added = none → ends s) ∧ (∀ r, added = some r → ends (s.stilled (r.1.finishLanes id r.2))))
        ∧ (o.opc = 0xE6 →
          let n := h % 4096
          let code := s.listCode (s.ctxOf o.block).secure n
          let refused (t : State) (c : Nat) : State := t.finishWith id [0, 0, 0, BitVec.ofNat 32 (256 + c)]
          (code ≠ 0 → ends (refused s code))
          ∧ (code = 0 → ∀ l, Tab.look s.f.lists n = some l →
            let k := min lanes.length l.count
            let words (items : List (List Byte)) (i : Nat) : List Word :=
              (match items[i]? with | some b => wordsOf 2 (ofBytes b) ++ [1] | none => [0, 0, 0]) ++ [BitVec.ofNat 32 k]
            (∀ s1, s.takeItems l 0 k = (s1, .error true) → ends s)
            ∧ (∀ s1, s.takeItems l 0 k = (s1, .error false) → ends (refused (s1.updList n (fun l => { l with faulted := true })) 4))
            ∧ (∀ s1 items, s.takeItems l 0 k = (s1, .ok items) → ends (s.stilled
              ((s1.updList n (fun l => { l with taken := l.taken + k, count := l.count - k, inHand := l.inHand + k })).finishLanes id
                ((lanes.zip (List.range lanes.length)).map (fun p => (p.1.lane, words items p.2))))))))
        ∧ (o.opc = 0xE7 → ends (s.stilled ((lanes.foldl (fun s l =>
            s.updList ((l.c.getD 0 0).toNat % 4096) (fun x => { x with inHand := x.inHand - 1 })) s).finishOp id))))

/-- The steps of the Weir and of the Inlet (R395 to R398, R401, R402, R404, R408). The first TAKE that can complete is served, in the
order of the Weir, one that has waited 4,096 cycles being able to; a gather waits for what its thread's order puts before it, and
gathers and scatters end with the constraints handed out or done,
in a fault or in poison of their copies, and a scatter whose context was killed ends with its writes.
An access of the unit that faults makes its context or its list FAULTED, and a write of SYS.INLETTAB makes the lists of the table
usable or none, none only where every list is idle.
A step that is not due leaves the state as it was (the model's choice, assumption log 11).
Where it rests on a choice of the model, that is assumption log 29. -/
def Obligations.FlowSteps : Prop :=
  ∀ (s : State) (value : Dword),
    let id := s.sel.x
    let moved (o : Op) (l : LaneOp) (r : State × Moved) (ends : State → State) : State :=
      match r.2 with
      | .done => ends r.1
      | .page k va w => r.1.faultLeader id l k va w
      | .poisoned va => r.1.poisonLeader id o l va
      | .held => s
    let first (die : Nat) (i : Nat) (t : State) : Prop := ∃ before after o, s.takesAt die = before ++ (i, o) :: after
      ∧ (∀ p ∈ before, (s.serveTake p.1 p.2).2 = false) ∧ s.serveTake i o = (t, true)
    let noneEnds (die : Nat) : Prop := ∀ p ∈ s.takesAt die, (s.serveTake p.1 p.2).2 = false
    (∀ i s1, first s.sel.x i s1 → exec .weirTakeService s = .next (s.stilled s1))
    ∧ (noneEnds s.sel.x → exec .weirTakeService s = .next s)
    ∧ (∀ o, s.op? id = some o →
        let due := o.opc = 0xE2 ∧ o.served = false ∧ o.lanes ≠ [] ∧ s.live o.block ∧ o.takeExpired s.clock
        (due → ∀ i s1, first (s.takeDie o) i s1 → exec .weirTakeTimeout s = .next (s.stilled s1))
        ∧ (due → noneEnds (s.takeDie o) → exec .weirTakeTimeout s = .next s)
        ∧ (¬due → exec .weirTakeTimeout s = .next s))
    ∧ (∀ o m l, s.op? id = some o → o.opc = 0xE2 → o.served → s.live o.block → o.move = some m → o.leader = some l → l.stage = .sent →
        let got := (sortBy (·.lane) o.lanes).filter (fun l => l.res.getD 3 0xFFFFFFFF != 0xFFFFFFFF)
        let parts := got.flatMap (fun l => moveParts m l.lane (bytesOf 16 (ofWords l.res)))
        let behind := s.gatherBlocked id l m.len parts = true ∨ s.fullReady id o = false
        (behind → exec .weirGatherComplete s = .next s)
        ∧ (¬behind → exec .weirGatherComplete s = .next (moved o l (s.gather (s.agentOf o.block l.key) o.block m.len parts)
          (fun s => s.endTake id o (o.lanes.map (fun l => (l.lane, l.res)))))))
    ∧ (∀ o m l, s.op? id = some o → o.opc = 0xE3 → s.live o.block → o.move = some m → o.leader = some l → l.stage = .sent → s.flowReady id o →
        let lanes := sortBy (·.lane) o.lanes
        (o.served = true → exec .weirScatterComplete s = .next
          (moved o l (s.scatter (s.agentOf o.block l.key) o.block m.len m.left) (fun s => s.finishOp id)))
        ∧ (o.served = false → s.weirOf o.block o.handle = none → exec .weirScatterComplete s = .next (s.finishOp id))
        ∧ (o.served = false → ∀ e w, s.weirOf o.block o.handle = some (e, w) →
          (w.state = .faulted → exec .weirScatterComplete s = .next (s.finishOp id))
          ∧ (w.state ≠ .faulted →
            (∀ s1, s.scatterParts w m lanes = (s1, .error true) → exec .weirScatterComplete s = .next s)
            ∧ (∀ s1, s.scatterParts w m lanes = (s1, .error false) → exec .weirScatterComplete s = .next ((s1.weirFault e).finishOp id))
            ∧ (∀ s1 parts, s.scatterParts w m lanes = (s1, .ok parts) → exec .weirScatterComplete s = .next
              (s.stilled (moved o l (s1.scatter (s1.agentOf o.block l.key) o.block m.len parts) (fun s2 =>
                match s2.doneLanes e w lanes with | some s3 => s3.finishOp id | none => s)))))))
    ∧ (∀ w, Tab.look s.f.weirs id = some w →
        let inUse := (w.state = .open_ ∨ w.state = .closed) ∧ w.place.isSome
        let read := s.releasable w (w.pending.map (fun p => (p.1, none)))
        (inUse → ∀ s1, read = (s1, .error false) → exec .weirOwnAccessFault s = .next (s1.weirFault id))
        ∧ (inUse → ∀ s1, read = (s1, .error true) → exec .weirOwnAccessFault s = .next s)
        ∧ (inUse → ∀ s1 r, read = (s1, .ok r) → exec .weirOwnAccessFault s = .next s)
        ∧ (¬inUse → exec .weirOwnAccessFault s = .next s))
    ∧ (∀ l, Tab.look s.f.lists id = some l →
        let read := s.ownLoad l.agent (l.itemVa 0) 8
        (l.faulted = false → ∀ s1, read = (s1, .error false) →
          exec .inletRingFault s = .next (s1.updList id (fun l => { l with faulted := true })))
        ∧ (l.faulted = false → ∀ s1, read = (s1, .error true) → exec .inletRingFault s = .next s)
        ∧ (l.faulted = false → ∀ s1 b, read = (s1, .ok b) → exec .inletRingFault s = .next s)
        ∧ (l.faulted = true → exec .inletRingFault s = .next s))
    ∧ (let v := bits value.toNat 17 35 * 2 ^ 17 + value.toNat % 2
       let was := bit s.r.inletTab.toNat 0
       let idle := s.f.lists.all (fun p => p.2.count == 0 && p.2.inHand == 0)
       let s1 := s.setSys { s.r with inletTab := BitVec.ofNat 64 v }
       (was = false → bit v 0 = true → exec (.inletEnable value) s = .next
          (s1.setFlow { s.f with lists := s1.readLists (bits v 17 35 * 2 ^ 17) }))
       ∧ (was = true → bit v 0 = true → exec (.inletEnable value) s = .next s1)
       ∧ (bit v 0 = false → (was = true → idle = true) → exec (.inletEnable value) s = .next (s1.setFlow { s.f with lists := [] }))
       ∧ (was = true → bit v 0 = false → idle = false → exec (.inletEnable value) s = .next s))

/-- CTX.SAVE, CTX.LOAD and PRIO (R446, R447, R449): a privileged grid's CTX forms find out their code at issue, begin their saves or
lift the suspension, and are outstanding until the saves have ended; PRIO gives the block the leader's class, capped at CLASS, and every
executing lane the class before.
SYS.CTXCMD (R456): while no operation runs, a write starts one and STATUS is its code; while one runs, a write has no effect.
A step that is not due leaves the state as it was (the model's choice, assumption log 11).
Where it rests on a choice of the model, that is assumption log 51. -/
def Obligations.ContextResults : Prop :=
  (∀ (s : State) (f : Slot) (g : Group) (l : LaneV) (rest : List LaneV),
      running s g f = l :: rest →
        let gid := s.cur.group
        let ls := s.lanesOf g f
        let v := readA f l.th 1
        let start (op : Nat) : State := (s.startOp gid g op f (sentLanes (l :: rest) 0)).1
        let began (t : State) (code : Nat) (blks : List Nat) : State :=
          (t.updOp s.nextId (fun o => { o with tag := code, move := some ⟨0, 0, 0, blks, [], [], []⟩ })).advance gid g ls
        (∀ i ∈ [Instr.ctxSaveLaunch f, .ctxSaveAsid f, .ctxSaveDie f], issuesPriv s 0xF0 f g → outsideTx s g f →
          let r := (start 0xF0).ctxSave (ctxTarget (Rule.sub f) v) (some g.block)
          exec i s = .next (kept s 0xF0 f g (began r.1 r.2.1 r.2.2)))
        ∧ (∀ i ∈ [Instr.ctxLoadLaunch f, .ctxLoadAsid f, .ctxLoadDie f], issuesPriv s 0xF1 f g → outsideTx s g f →
          let r := (start 0xF1).ctxLoad (ctxTarget (Rule.sub f) v)
          exec i s = .next (kept s 0xF1 f g (began r.1 r.2 [])))
        ∧ (issues s 0xF3 f g → ∀ b r, s.block? g.block = some b → s.record? g.block = some r →
          exec (.prio f) s = .next (kept s 0xF3 f g (((s.updBlock g.block (fun b => { b with cls := min (v % 4) r.cls })).eachLane (l :: rest) (fun _ t =>
            t.setVal f.d.toNat 1 b.cls)).advance gid g ls))))
  ∧ (∀ (s : State) (v : Word),
      let t (k : Nat) : CtxTarget := ctxTarget k v.toNat
      (∀ r ∈ [(Instr.ctxcmdSaveLaunch v, 0), (.ctxcmdSaveAsid v, 1), (.ctxcmdSaveDie v, 2)],
        (s.ctxRuns = false → let c := s.ctxSave (t r.2) none
          exec r.1 s = .next (c.1.setSys { c.1.r with ctxStatus := c.2.1, ctxBusy := c.2.2 }))
        ∧ (s.ctxRuns → exec r.1 s = .next s))
      ∧ (∀ r ∈ [(Instr.ctxcmdLoadLaunch v, 0), (.ctxcmdLoadAsid v, 1), (.ctxcmdLoadDie v, 2)],
        (s.ctxRuns = false → let c := s.ctxLoad (t r.2)
          exec r.1 s = .next (c.1.setSys { c.1.r with ctxStatus := c.2, ctxBusy := [] }))
        ∧ (s.ctxRuns → exec r.1 s = .next s)))

/-- Answers to fault records (R444, R445): REPLAY and DELIVER act on what waits for the record, or are kept, in the order of the
answers, in the image of a block that is saved; KILL kills the launch; a SEQ that names no outstanding record has no effect.
A step that is not due leaves the state as it was (the model's choice, assumption log 11). -/
def Obligations.FaultAnswers : Prop :=
  ∀ (s : State) (seq : Word),
    (s.reportOf seq.toNat = none → exec (.faultackReplay seq) s = .next s ∧ exec (.faultackDeliver seq) s = .next s
        ∧ exec (.faultackKill seq) s = .next s)
    ∧ (∀ r, s.reportOf seq.toNat = some r → ∀ a ∈ [(Instr.faultackReplay seq, 0), (.faultackDeliver seq, 1)],
        (∀ id lanes, r.who = .op id lanes → (s.op? id).any (fun o => s.live o.block) →
          exec a.1 s = .next ((s.dropReport r.id).answerOp id lanes a.2))
        ∧ (∀ id lanes, r.who = .op id lanes → (s.op? id).any (fun o => s.live o.block) = false →
          exec a.1 s = .next (s.setReports (s.l.reports.filter (fun x => x.id != r.id) ++ [{ r with answer := some a.2 }])))
        ∧ (∀ gid, r.who = .group gid → exec a.1 s = .next ((s.dropReport r.id).answerGroup gid r.id a.2)))
    ∧ (∀ r, s.reportOf seq.toNat = some r →
        let runs := (s.launch? (r.handle % 256)).any (fun l => l.gen == r.handle / 256 && !l.state.final)
        (runs = true → exec (.faultackKill seq) s = .next ((s.dropReport r.id).killLaunch (r.handle % 256)))
        ∧ (runs = false → exec (.faultackKill seq) s = .next (s.dropReport r.id)))

/-- The fault ring (R441 to R443, R477): the oldest waiting report is written where the ring is enabled and its next slot is free,
source 0 becomes pending, SEQ and the index go on, and a report that awaits an answer keeps its SEQ; without a report, with the ring
off or full nothing is written, a full ring having been looked at; a write of FAULTQ or RECLAIM takes its fields and returns its index to 0.
A step that is not due leaves the state as it was (the model's choice, assumption log 11).
Where it rests on a choice of the model, that is assumption log 34. -/
def Obligations.FaultRing : Prop :=
  ∀ (s : State) (value : Dword),
    (∀ r, s.l.reports.find? (fun r => r.seq.isNone) = some r → bit s.r.faultq.toNat 0 → s.faultRoom →
      let s0 := s.faultPeek.2
      let seq := s0.l.fqSeq
      let slots := 128 * 2 ^ min (Sys2Proof.Machine.bits s.r.faultq.toNat 1 4) 9
      let s1 := (s0.ctrlWrite ⟨false, true⟩ s0.faultSlot (bytesOf 32 (r.bits seq))).raiseIntr 0
      let s2 : State := { s1 with l := { s1.l with
        fqSeq := if seq = 0xFFFFFFFF then 1 else seq + 1
        fqIndex := if s0.l.fqIndex + 1 = slots then 0 else s0.l.fqIndex + 1 } }
      ((r.type ≠ 0 ∨ r.who = .nobody) → exec .faultRecordWrite s = .next (s2.dropReport r.id))
      ∧ (r.type = 0 → r.who ≠ .nobody → exec .faultRecordWrite s = .next
          (s2.setReports (s2.l.reports.map (fun x => if x.id == r.id then { x with seq := some seq } else x)))))
    ∧ (s.l.reports.find? (fun r => r.seq.isNone) = none → exec .faultRecordWrite s = .next s)
    ∧ (∀ r, s.l.reports.find? (fun r => r.seq.isNone) = some r → bit s.r.faultq.toNat 0 → s.faultRoom = false →
        exec .faultRecordWrite s = .next s.faultPeek.2)
    ∧ (bit s.r.faultq.toNat 0 = false → exec .faultRecordWrite s = .next s)
    ∧ (∃ t, exec (.faultqWrite value) s = .next t ∧ t.l.fqIndex = 0 ∧ t.r.faultq = (value &&& 0x000FFFFFFFFFF01F#64) ∧ t.m = s.m ∧ t.v = s.v)
    ∧ (∃ t, exec (.reclaimWrite value) s = .next t ∧ t.l.rcIndex = 0 ∧ t.m = s.m ∧ t.v = s.v
        ∧ t.r.reclaim = ((value &&& 0x000FFFFFFFFFF01F#64) ||| (s.r.reclaim &&& 0xFFF0000000000000#64)))

/-- Saves and lane slices (R55, R246, R347, R380, R403, R436, R438): the save of a block with nothing left to wait for ends, once its
writes are not held at their homes: what remains of its transactions' aborts is done, its image and, with the last block of the grid, its Weir contexts written, or the launch killed where a write of the save area fails, the image
of a launch killed meanwhile discarded; then a core that waited for it is remapped. A failed lane slice stops its core, records the slice and the blocks in the order of their placement,
marks the groups whose registers cannot be read, and begins the saves.
A step that is not due leaves the state as it was (the model's choice, assumption log 11).
Where it rests on a choice of the model, that is assumption log 6, 24, 49 and 50. -/
def Obligations.SavesAndRemaps : Prop :=
  ∀ (s : State) (core slice : Nat) (unreadable : List Nat),
    (s.block? s.sel.x = none → exec .blockSaveComplete s = .next s)
    ∧ (∀ b r, s.block? s.sel.x = some b → s.record? s.sel.x = some r →
        ((s.saveDue s.sel.x b = false ∨ s.saveHeld r b.image = true) → exec .blockSaveComplete s = .next s)
        ∧ (s.saveDue s.sel.x b = true → s.saveHeld r b.image = false →
          let home := b.core.getD 0
          let s1 := ((((s.endAborts s.sel.x).recordOps s.sel.x).freeze s.sel.x).dropDirty home r.asid).updBlock s.sel.x (fun b => { b with saving := false })
          let image := s1.saveBytes b.launch r s.sel.x (r.saveBase + 65536 + b.image * r.imageSize) r.imageSize
          (∀ w, image = (w, false) → exec .blockSaveComplete s = .next (w.remapCore home))
          ∧ (∀ w, image = (w, true) →
            (∀ x, w.saveWeirs b.launch r s.sel.x = (x, false) → exec .blockSaveComplete s = .next (x.remapCore home))
            ∧ (∀ x, w.saveWeirs b.launch r s.sel.x = (x, true) →
              let y := (x.updBlock s.sel.x (fun b => { b with core := none, chunks := [] })).refreshLaunch b.launch
              (s.killedBlock b = false → exec .blockSaveComplete s = .next (y.remapCore home))
              ∧ (s.killedBlock b = true → exec .blockSaveComplete s = .next ((y.killLaunch b.launch).remapCore home))))))
    ∧ (let fails := core < 512 ∧ slice < 65 ∧ (s.coreOf core).stopped = false ∧ (s.coreOf core).mode ≠ 2
       let vs := (sortBy (fun p => p.2.placed) (s.blocksOn core)).map Prod.fst
       let s1 := s.updCore core (fun c => { c with stopped := true, slice := slice, victims := vs })
       let s2 := s1.setGroups (s1.v.groups.map (fun p =>
         if unreadable.contains p.1 && vs.contains p.2.block then (p.1, { p.2 with laneFault := true }) else p))
       (fails → exec (.laneSliceFailure core slice unreadable) s = .next ((vs.foldl State.beginSave s2).remapCore core))
       ∧ (¬fails → exec (.laneSliceFailure core slice unreadable) s = .next s))

/-- Placement (R423, R424, R426, R427, R429, R434). What a core has freed goes to the gangs that reserve on its die first; of the
offers that launches then make it the best is taken, and the others age; without one nothing is placed.
A gang whose fallback is due is placed on what it holds, where that is enough.
A launch of a lower class claims nothing; one of class 3 claims a core for each block that no core can take, and a gang the cores of
one die for the members that find no room; claims once made are pressed by saving what stands in the way.
A slice that has run out starts anew, the launch's blocks being saved where another waits.
A step that is not due leaves the state as it was (the model's choice, assumption log 11).
Where it rests on a choice of the model, that is assumption log 24, 28 and 57. -/
def Obligations.Placement : Prop :=
  ∀ (s : State),
    let k := s.sel.x
    let t := s.reserveGangs k
    let aged (i : Nat) : State := t.setLaunches (t.l.launches.map (fun p =>
      if p.1 != i && (t.offers k).any (fun q => q.1 == p.1) then (p.1, p.2.older) else p))
    let best := minBy (fun p => p.2.2) (t.offers k)
    (k < 512 → best = none → exec .blockPlacement s = .next t)
    ∧ (k < 512 → ∀ i r, best = some (i, .new, r) → exec .blockPlacement s = .next ((aged i).placeSome k i 8))
    ∧ (k < 512 → ∀ i b r, best = some (i, .saved b, r) → exec .blockPlacement s = .next
        ((((aged i).resume k b).updLaunch i (fun l => { l with age := 0 })).endClaim k i))
    ∧ (k < 512 → exec .gangReservation s = .next t)
    ∧ (512 ≤ k → exec .blockPlacement s = .next s ∧ exec .gangReservation s = .next s)
    ∧ (∀ w l, s.l.gangs.find? (fun w => w.launch == k) = some w → s.launch? k = some l →
        let size := min (l.record.gangf + 1) (l.record.total - l.next)
        let others : State := State.withReserved { s with l := { s.l with gangs := s.l.gangs.filter (fun x => x.launch != k) } } l.tier
        let cores := others.holding k [] 0 w.cores
        (s.fallbackDue k = false → exec .gangFallbackTimeout s = .next s)
        ∧ (s.fallbackDue k = true → size ≤ cores.length → exec .gangFallbackTimeout s = .next (s.placeGang k size l.record.fclass cores))
        ∧ (s.fallbackDue k = true → cores.length < size → exec .gangFallbackTimeout s = .next
            (s.updGang k (fun w => { w with cores := cores }))))
    ∧ (∀ l, s.launch? k = some l →
        let claims := l.record.cls = 3 ∧ s.eligibleLaunch l
        let claimed := s.l.claims.any (fun p => p.2 == k)
        let others : State := { s with l := { s.l with gangs := s.l.gangs.filter (fun w => w.launch != k) } }
        (¬claims → exec .class3Claim s = .next s)
        ∧ (claims → l.record.gangp = 0 →
            let s1 := s.pressClaims k l
            let u := s1.reservedView l.tier
            let short := u.shortOf k l - (s1.l.claims.filter (fun p => p.2 == k && !u.fitsAny p.1 k l)).length
            exec .class3Claim s = .next (s1.makeClaims k
              (claimsFor (fun _ s c => s.fitsAny c k l) (fun _ s c => s.takeAny c k l) short 0 (List.range 512) u)))
        ∧ (claims → l.record.gangp ≠ 0 → claimed = true → exec .class3Claim s = .next (s.pressClaims k l))
        ∧ (claims → l.record.gangp ≠ 0 → claimed = false →
            (s.gangWants k l = false ∨ s.stuck k l = false → exec .class3Claim s = .next s)
            ∧ (s.gangWants k l = true → s.stuck k l = true →
              ((others.reservedView l.tier).bestDieClaim k l = none → exec .class3Claim s = .next s)
              ∧ (∀ d room cs, (others.reservedView l.tier).bestDieClaim k l = some (d, room, cs) →
                let since := ((s.l.gangs.find? (fun w => w.launch == k)).map (·.since)).getD s.clock
                exec .class3Claim s = .next (({ others with l := { others.l with
                  gangs := others.l.gangs ++ [⟨k, d, room, since⟩] } } : State).makeClaims k cs)))))
    ∧ (∀ l, s.launch? k = some l →
        let due := ∃ t, l.slice = some t ∧ t ≤ s.clock ∧ l.state = .running
        let len := s.sliceLen l.record.cls
        let next := if len = 0 then none else some (s.clock + len)
        (¬due → exec .sliceExpiry s = .next s)
        ∧ (due → s.waitsFor k l = false → exec .sliceExpiry s = .next (s.updLaunch k (fun l => { l with slice := next })))
        ∧ (due → s.waitsFor k l = true → exec .sliceExpiry s = .next
            ((((s.blocksOf k).filter (fun p => p.2.core.isSome)).map Prod.fst).foldl State.beginSave s |>.updLaunch k (fun l =>
              { l with slice := next, rank := s.clock }))))

/-- Line entry (R148, R149, R152, R154, R178, R492): the line of the group's PC is fetched; with good parity and a good line word it
is entered where the flags of WAIT are zero, else its group waits; bad parity is fetched again, and a second time is PARITY; a bad line
word is ILLEGAL, and a launch that enters at a slot whose TARGETS bit is clear is TARGET; a page fault of the fetch is recorded, poison
is POISONED, and a fetch that is held changes nothing.
Timers of groups (R35, R39 to R41, R50, R203): with its flags at zero and what it waits for ended a parked group carries out its
decision, or issues again; a cove whose timer has run out issues where it may, and a release condition of YIELD is met 64 cycles later at
the latest. Where a group is in a Backwater wait and its longest-held thread has been held for its age timeout, that thread's PC becomes
current, the threads there are held no more, the others are held, and the group leaves the wait.
A step that is not due leaves the state as it was (the model's choice, assumption log 11).
Where it rests on a choice of the model, that is assumption log 36 and 47. -/
def Obligations.LineAndTimerSteps : Prop :=
  (∀ (s : State) (g : Group),
      let gid := s.sel.x
      let s0 := s.setCur ⟨gid, none, false, none, 0⟩
      let line := lineOf g.pc.toNat
      s0.entering gid = some g →
        (∀ b, g.heldLine = some b → exec .lineEntry s = .next (s0.meetWait gid b))
        ∧ (∀ (i : Instr) (again : State),
          ((i = .lineEntry ∧ g.heldLine = none ∧ again = s0)
            ∨ (i = .parityRefetch ∧ g.refetch = true ∧ again = s0.updGroup gid (fun g => { g with refetch := false }))) →
          let fetched := again.fetch (again.coreOfBlock g.block) (again.ctxOf g.block) line
          (∀ s1 b, fetched = (s1, .ok b) → lineParityOk b → exec i s = .next (s1.enterLine gid g b))
          ∧ (∀ s1 k a, fetched = (s1, .error (.page k a)) → exec i s = .next
              (s1.groupFault gid g lineOf false ((s1.lanesAt g).map (fun l => (l.key, a, k)))))
          ∧ (∀ s1 a, fetched = (s1, .error (.poisoned a)) → exec i s = .next (s1.entryLanes gid g ⟨.poisoned, 0, some a, false⟩))
          ∧ (∀ s1, fetched = (s1, .error .held) → exec i s = .next s0)
          ∧ (∀ s1 b, fetched = (s1, .ok b) → lineParityOk b = false →
            (i = .lineEntry → exec i s = .next
              ((s1.dropInst (s1.coreOfBlock g.block) (nameAsid (s1.ctxOf g.block).asid line) line).updGroup gid (fun g =>
                { g with refetch := true })))
            ∧ (i = .parityRefetch → exec i s = .next (s1.entryTrap gid g .parity))))
        ∧ (∀ (s1 : State) b, lineWordOk b = false → g.fresh = false →
            s1.enterLine gid g b = (s1.updGroup gid (fun g => { g with fresh := false })).entryTrap gid g .illegal)
        ∧ (∀ (s1 : State) b, g.fresh → bit (lineTargets b) (slotNo g.pc.toNat) = false → s1.enterLine gid g b = s1.entryLanes gid g ⟨.target, 0, none, false⟩))
  ∧ (∀ (s : State), (s.setCur ⟨s.sel.x, none, false, none, 0⟩).entering s.sel.x = none →
      exec .lineEntry s = .next s ∧ exec .parityRefetch s = .next s)
  ∧ (∀ (s : State) (g : Group),
      s.group? s.sel.x = some g → s.live g.block →
        (g.parks.contains .regroup → s.groupIdle s.sel.x g → g.plan.isSome → exec .regroupFlagWaitEnd s = .next (s.tryPlan s.sel.x))
        ∧ (g.parks.contains .regroup → s.groupIdle s.sel.x g → g.plan = none → exec .regroupFlagWaitEnd s = .next
            (s.unpark s.sel.x (fun p => p == .regroup)))
        ∧ (s.groupIdle s.sel.x g = false → exec .regroupFlagWaitEnd s = .next s)
        ∧ (s.coveFree g → g.due ≤ s.clock → exec .coveAgeTimeout s = .next (s.issueCove s.sel.x))
        ∧ ((s.coveFree g = false ∨ s.clock < g.due) → exec .coveAgeTimeout s = .next s)
        ∧ (g.st = .cove → exec .yieldReleaseTimeout s = .next ((s.updGroup s.sel.x (fun g =>
            { g with releases := g.releases.map (fun r => if r.due ≤ s.clock then { r with groups := [] } else r) })).checkCoves g.block))
        ∧ (g.st ≠ .cove → exec .yieldReleaseTimeout s = .next s))
  ∧ (∀ (s : State) (g : Group), s.group? s.sel.x = some g →
      let gid := s.sel.x
      let held := g.members.filterMap (fun k => (s.thread? k).bind (fun t => t.held.map (fun h => (h, t.pc))))
      let longest := minBy (fun p => p.1.since) held
      let waits := g.st = .backwater ∧ g.plan = none ∧ g.awaited = [] ∧ g.parks.contains .regroup = false ∧ s.live g.block
      let limit := s.ageTimeout (s.coreOfBlock g.block)
      (∀ h pc, longest = some (h, pc) → waits → h.since + h.timeout ≤ s.clock →
        let chosen := g.members.foldl (fun s k => s.updThread k (fun t =>
          { t with held := if t.pc == pc then none else some (t.held.getD ⟨s.clock, limit⟩) })) s
        exec .heldThreadAgeTimeout s = .next ((chosen.updGroup gid (fun g =>
          { g with
            pc := pc
            line := none })).unpark gid (fun p => p == .wait || p == .barrier || p == .stage)))
      ∧ ((longest = none ∨ ¬waits) → exec .heldThreadAgeTimeout s = .next s)
      ∧ (∀ h pc, longest = some (h, pc) → s.clock < h.since + h.timeout → exec .heldThreadAgeTimeout s = .next s))

/-- The collective instructions at issue (R240, R467, R473, R474): the leader's operands pass their checks, the instruction is
outstanding with the leader's words, and the group goes to NextPc; a buffer that does not start on 16 bytes is MISALIGNED, a length
that is no multiple of 16 or exceeds 16,777,216 is COPYLEN, and a buffer above the address space faults with NONCANON (R83).
At the unit (R468, R473) ALLRED and BCAST are refused with REFORMING, NOTMEMBER or BUSY, in that order, or accepted with the slot's next
number, which the token names; NOROOT, or a fault of the input, ends the round at once. COLL.WAIT gets STALE for a token refused or of
another epoch, else waits for the round's end and gets its code and SUSPECT, or, without .S and unless DONE, its leader takes PEERLOST.
COLL.REFORM waits for a reform of its slot, or begins one.
Where it rests on a choice of the model, that is assumption log 26. -/
def Obligations.CollectiveIssues : Prop :=
  (∀ (s : State) (f : Slot) (g : Group) (l : LaneV) (rest : List LaneV),
    outsideTx s g f → running s g f = l :: rest →
      let addr := l.th.val f.a.toNat 2
      let len := l.th.val f.b.toNat 1
      let word (op : Nat) (w : Word) : State := setOff s op f g ((sentLanes (l :: rest) 0).map (fun x => { x with b := [w] }))
      let trapped (op : Nat) (t : Trap) : State :=
        s.settleSlot (s.finish s.cur.group g (s.lanesOf g f) ⟨[], [], [(l.key, t)], []⟩) s.cur.group g op f
      (∀ r ∈ [(Instr.collAllred f, 0xF4), (.collBcast f, 0xF5)], issues s r.2 f g →
        let begun := setOff s r.2 f g ((sentLanes (l :: rest) addr).map (fun x =>
          { x with
            b := [BitVec.ofNat 32 len]
            c := [l.th.reg f.c.toNat] }))
        (addr % 16 = 0 → len % 16 = 0 → len ≤ 16777216 → addr < 2 ^ 57 → exec r.1 s = .next (kept s r.2 f g begun))
        ∧ (addr % 16 = 0 → len % 16 = 0 → len ≤ 16777216 → 2 ^ 57 ≤ addr → exec r.1 s = .next
          (kept s r.2 f g (begun.faultLanes s.nextId [l.lane] .nonCanon true)))
        ∧ (addr % 16 ≠ 0 → exec r.1 s = .next (trapped r.2 ⟨.misaligned, 0, some addr, true⟩))
        ∧ (addr % 16 = 0 → (len % 16 ≠ 0 ∨ 16777216 < len) → exec r.1 s = .next (trapped r.2 ⟨.copyLen, 0, none, false⟩)))
      ∧ (∀ i ∈ [Instr.collWait f, .collWaitS f], issues s 0xF6 f g → exec i s = .next (kept s 0xF6 f g (word 0xF6 (l.th.reg f.a.toNat))))
      ∧ (issues s 0xF7 f g → exec (.collReform f) s = .next (kept s 0xF7 f g (word 0xF7 (l.th.reg f.c.toNat)))))
  ∧ (∀ (s : State) (o : Op) (l : LaneOp),
      let id := s.sel.x
      let ends (t : State) : Prop := exec .variableLatencyComplete s = .next (s.stilled t)
      s.op? id = some o → s.residentOp o → s.live o.block → o.leader = some l →
        ((o.opc = 0xF4 ∨ o.opc = 0xF5) → l.stage = .sent →
          let word := (l.c.getD 0 0).toNat
          let n := word % 16
          let len := (l.b.getD 0 0).toNat
          let bcast := o.opc = 0xF5
          let root := if bcast then bits word 8 3 else 0
          let ready := s.flowReady id { o with lanes := [l] }
          let refused (code : Nat) : State := s.finishWith id [BitVec.ofNat 32 (n * 2 ^ 28 + code * 65536)]
          let reforming := (s.reforming n).isSome ∨ (s.slot n).reformed = some s.clock
          let member := bit (s.commAlive n) s.r.pkg
          let room := (s.slot n).open_.length < 16
          (ready = false → ends s)
          ∧ (ready → 2 ^ 57 ≤ l.ea → ends (s.faultLanes id [l.lane] .nonCanon true))
          ∧ (ready → l.ea < 2 ^ 57 → reforming → ends (refused 3))
          ∧ (ready → l.ea < 2 ^ 57 → ¬reforming → member = false → ends (refused 1))
          ∧ (ready → l.ea < 2 ^ 57 → ¬reforming → member → ¬room → ends (refused 2))
          ∧ (ready → l.ea < 2 ^ 57 → ¬reforming → member → room →
            let c := s.ctxOf o.block
            let seq := (s.slot n).next
            let ring := s.commAlive n
            let r : Round :=
              { epoch := s.commEpoch n
                seq := seq
                header := ⟨decide bcast, if bcast then 0 else Rule.sub o.f, if bcast then 0 else Rule.ty o.f, len, root⟩
                ring := ring
                addr := l.ea
                asid := c.asid
                priv := c.priv
                secure := c.secure
                sent := false
                due := s.clock + s.commTimeout n
                input := []
                parts := []
                outcome := none }
            let read := s.load r.agent l.ea len
            let taken (t : State) : State := (t.updSlot n (fun x =>
              { x with
                next := if seq = 65535 then 1 else seq + 1
                rounds := x.rounds.filter (fun q => q.seq != seq) ++ [r] })).finishWith id
                  [BitVec.ofNat 32 (n * 2 ^ 28 + s.commEpoch n % 4096 * 65536 + seq % 65536)]
            let reads := bcast → bit ring root = true ∧ root = s.r.pkg
            (bcast → bit ring root = false → ends ((taken s).endRound n seq 6 0))
            ∧ (bcast → bit ring root → root ≠ s.r.pkg → ends ((taken s).beginRound n r []))
            ∧ (reads → ∀ s1 b, read = (s1, .ok b) → ends ((taken s1).beginRound n r b))
            ∧ (reads → ∀ s1, read = (s1, .error .held) → ends s)
            ∧ (reads → ∀ s1 e, e ≠ .held → read = (s1, .error e) → ends ((taken s1).roundFault n r))))
        ∧ (o.opc = 0xF6 →
          let token := (l.b.getD 0 0).toNat
          let n := bits token 28 4
          let stale := token % 65536 = 0 ∨ bits token 16 12 ≠ s.commEpoch n % 4096
          let round := (s.slot n).rounds.find? (fun r => r.seq == token % 65536)
          let given (code suspect : Nat) : Prop :=
            let w := suspect * 256 + code
            ((Rule.sub o.f = 1 ∨ w % 256 = 0) → ends (s.finishWith id [BitVec.ofNat 32 w]))
            ∧ (Rule.sub o.f ≠ 1 → w % 256 ≠ 0 → ends
                (((s.trapLanes id [l.lane] (fun _ => ⟨.peerLost, 0, none, false⟩)).finishOp id).tryPlans o.block))
          (stale → given 3 0)
          ∧ (¬stale → (round = none ∨ ∃ r, round = some r ∧ r.outcome = none) → ends s)
          ∧ (¬stale → ∀ r code suspect, round = some r → r.outcome = some (code, suspect) → given code suspect))
        ∧ (o.opc = 0xF7 →
          let n := (l.b.getD 0 0).toNat % 16
          let set := Nat.xor (s.commAlive n) (Nat.land (s.commAlive n) (s.commSuspect n))
          ((s.reforming n).isSome → ends s)
          ∧ (s.reforming n = none → ends (((s.updSlot n (fun x =>
              { x with
                reform := some ⟨id, set, [], 0, s.clock + s.commTimeout n⟩
                reformed := some s.clock })).tell set 3 n 0 (bytesOf 1 set)).stepReform n false 65))))

/-- Rounds and reforms (R466, R468 to R470, R472 to R475, R491). A write of SYS.COMM makes a slot anew unless a round, a reform or a
WAIT of it is outstanding, in which case only TIMEOUT is taken; a part with another header ends the round with MISMATCH, an input part is kept, and
with the last one the member's own segment is combined, written and sent; a part of the result is written, and with the last one the
round is done; aborts and timeouts end rounds, the silent members being named, and those of an abort of a round that has ended here
join SUSPECT (R491); a part that nothing expects has no effect, and one
for a round that is still to be accepted here waits, as does one whose write is held.
The sets of a reform are gathered; with all in, or at the timeout without those missing, a reform ends where all agree or after 64
exchanges, and else exchanges anew.
A step that is not due leaves the state as it was (the model's choice, assumption log 11).
Where it rests on a choice of the model, that is assumption log 26. -/
def Obligations.CollectiveSteps : Prop :=
  ∀ (s : State) (slot seq sender : Nat) (header : CollHeader) (part : List Byte) (silent : BitVec 8) (set : BitVec 8) (value : Dword),
    let own := s.r.pkg
    let v := value.toNat
    let old := s.comm slot
    let waits := s.v.ops.any (fun p => p.2.opc == 0xF6 && p.2.lanes.any (fun l => bits (l.b.getD 0 0).toNat 28 4 == slot))
    let ahead := 1 ≤ seq ∧ seq ≤ 65535 ∧ (seq + 65535 - (s.slot slot).next) % 65535 < 16
    (slot < 16 → (s.slot slot).open_ = [] → s.reforming slot = none → waits = false → exec (.commMembersWrite slot value) s = .next
      ((s.setComm slot (commValue 0 (bits v 32 16) (Nat.land (v % 256) s.r.alive) 0 v)).updSlot slot (fun _ => ⟨1, [], none, [], none⟩)))
    ∧ (slot < 16 → ((s.slot slot).open_ ≠ [] ∨ (s.reforming slot).isSome ∨ waits) → exec (.commMembersWrite slot value) s = .next
      (s.setComm slot (commValue (bits old 48 16) (bits v 32 16) (bits old 16 8) (bits old 8 8) old)))
    ∧ (∀ result, s.openRound slot seq = none →
        (¬ahead → exec (.collPartReceived slot seq sender header result part) s = .next s)
        ∧ (ahead → exec (.collPartReceived slot seq sender header result part) s = .next
            (s.keepMail slot (.part seq sender header result part))))
    ∧ (∀ r result, s.openRound slot seq = some r →
        let arrives (h : CollHeader) (t : State) : Prop := exec (.collPartReceived slot seq sender h result part) s = .next t
        let segment := r.seg (rankIn r.ring (if result then sender else own))
        let expected := sender ≠ own ∧ bit r.ring sender ∧ r.parts.all (fun p => !(p.1 == sender && p.2.1 == result))
        let fits := if r.header.bcast then
            result = true ∧ sender = r.header.root ∧ own ≠ r.header.root ∧ part.length = r.header.len
          else part.length = segment.2
        (¬expected → arrives header s)
        ∧ (expected → header ≠ r.header → arrives header (s.endRound slot seq 2 0))
        ∧ (expected → ¬fits → arrives r.header s)
        ∧ (expected → fits → result = true →
            let put := s.putResult slot r (if r.header.bcast then 0 else segment.1) part
            (put = none → arrives r.header (s.keepMail slot (.part seq sender r.header result part)))
            ∧ (∀ s1, put = some (s1, false) → arrives r.header s1)
            ∧ (∀ s1, put = some (s1, true) → arrives r.header
              ((s1.updRound slot r.seq (fun r => { r with parts := r.parts ++ [(sender, true, [])] })).roundDone slot r.seq)))
        ∧ (expected → fits → result = false →
            let r1 : Round := { r with parts := r.parts ++ [(sender, false, part)] }
            let put := s.putResult slot r1 (r1.seg (rankIn r1.ring own)).1 (r1.result own)
            (r1.got false + 1 ≠ r1.members → arrives r.header (s.updRound slot r.seq (fun _ => r1)))
            ∧ (r1.got false + 1 = r1.members → put = none → arrives r.header
                (s.keepMail slot (.part seq sender r.header result part)))
            ∧ (r1.got false + 1 = r1.members → ∀ s1, put = some (s1, false) → arrives r.header s1)
            ∧ (r1.got false + 1 = r1.members → ∀ s1, put = some (s1, true) → arrives r.header
                (((s1.updRound slot r.seq (fun _ => r1)).tellPart r1.ring true slot r1 (r1.result own)).roundDone slot r.seq))))
    ∧ (∀ r, s.openRound slot seq = some r →
        exec (.collAbortReceived slot seq silent true) s = .next (s.endRound slot r.seq 5 (s.commSuspect slot))
        ∧ exec (.collAbortReceived slot seq silent false) s = .next
            ((s.addSuspect slot silent.toNat).endRound slot r.seq 1 ((s.addSuspect slot silent.toNat).commSuspect slot)))
    ∧ (s.openRound slot seq = none → ∀ fault,
        (¬ahead → s.endedRound slot seq = false → exec (.collAbortReceived slot seq silent fault) s = .next s)
        ∧ (¬ahead → s.endedRound slot seq = true → exec (.collAbortReceived slot seq silent fault) s = .next
            (if fault then s else s.addSuspect slot silent.toNat))
        ∧ (ahead → exec (.collAbortReceived slot seq silent fault) s = .next
            ((if fault then s else s.addSuspect slot silent.toNat).keepMail slot (.abort seq silent fault))))
    ∧ (s.openRound s.sel.x s.sel.y = none → exec .collTimeout s = .next s)
    ∧ (∀ r, s.openRound s.sel.x s.sel.y = some r →
        let noInput := maskOf ((onesOf 8 r.ring).filter (fun p => p != own && !r.parts.any (fun q => q.1 == p && !q.2.1)))
        let mute := if r.header.bcast = false ∧ noInput ≠ 0 then noInput else r.silent own
        let s1 := s.addSuspect s.sel.x mute
        (s.clock < r.due → exec .collTimeout s = .next s)
        ∧ (r.due ≤ s.clock → exec .collTimeout s = .next
            ((s1.tell r.ring 2 s.sel.x r.seq (bytesOf 2 mute)).endRound s.sel.x r.seq 1 (s1.commSuspect s.sel.x))))
    ∧ (s.reforming slot = none →
        ((sender = own ∨ bit (s.commAlive slot) sender = false) → exec (.reformExchange slot sender set) s = .next s)
        ∧ (sender ≠ own → bit (s.commAlive slot) sender → exec (.reformExchange slot sender set) s = .next
            (s.keepMail slot (.set sender set.toNat))))
    ∧ (∀ r, s.reforming slot = some r →
        let expected := sender ≠ own ∧ bit r.set sender
        let fresh := r.got.all (fun q => q.1 != sender)
        let s1 := s.updSlot slot (fun c => { c with reform := some { r with got := r.got ++ [(sender, set.toNat)] } })
        (¬expected → exec (.reformExchange slot sender set) s = .next s)
        ∧ (expected → ¬fresh → exec (.reformExchange slot sender set) s = .next (s.keepMail slot (.set sender set.toNat)))
        ∧ (expected → fresh → exec (.reformExchange slot sender set) s = .next (s1.stepReform slot false 65)))
    ∧ (∀ n (t : State), t.settleSlotMail n =
        (t.slot n).mail.foldl (fun t m => t.openMail n m) (t.updSlot n (fun c => { c with mail := [] })))
    ∧ (∀ r, s.reforming s.sel.x = some r →
        (s.clock < r.due → exec .reformExchangeTimeout s = .next s)
        ∧ (r.due ≤ s.clock → exec .reformExchangeTimeout s = .next (s.stepReform s.sel.x true 65)))
    ∧ (s.reforming s.sel.x = none → exec .reformExchangeTimeout s = .next s)
    ∧ (∀ r (late : Bool) (k : Nat), s.reforming slot = some r →
        let others := (onesOf 8 r.set).filter (fun p => p != own)
        let missing := others.filter (fun p => !r.got.any (fun q => q.1 == p))
        let met := (r.got.filter (fun q => others.contains q.1)).foldl (fun m q => Nat.land m q.2) r.set
        let next := Nat.xor met (Nat.land met (maskOf missing))
        let ended := (next = r.set ∧ r.got.all (fun q => q.2 == r.set)) ∨ 63 ≤ r.count
        (missing ≠ [] → late = false → s.stepReform slot late (k + 1) = s)
        ∧ ((missing = [] ∨ late = true) → ended → s.stepReform slot late (k + 1) = s.endReform slot { r with set := next })
        ∧ ((missing = [] ∨ late = true) → ¬ended → s.stepReform slot late (k + 1) =
            ((s.updSlot slot (fun c => { c with reform := some { r with
              set := next
              got := []
              count := r.count + 1
              due := s.clock + s.commTimeout slot } })).tell next 3 slot 0 (bytesOf 1 next)).stepReform slot false k))

/-- The instructions of the host cores outside transactions (R175, R231 to R237, R309, R451, R452, R478, R493): accesses, AMO, LR and
SC, fences, SYS.ASID, illegal instructions, the Ivesh extension, and the interrupt, which aborts a transaction with PREEMPT.
An access that faults takes the exception of a page fault, one of a poisoned line that of an access fault, one that is misaligned its
own; one that is held is made again. A load or store that touches two granules checks both parts, makes one of them, which a free value
names, and the other in a later turn.
A step that is not due leaves the state as it was (the model's choice, assumption log 11).
Where it rests on a choice of the model, that is assumption log 15, 19, 27 and 65. -/
def Obligations.HostResults : Prop :=
  ∀ (s : State) (rd rs1 rs2 : BitVec 5) (f3 : BitVec 3) (imm : BitVec 12) (f5 : BitVec 5) (aq rl wide : Bool) (word : BitVec 32),
    (s.me.tx = none →
      let h := s.cur.hart
      let went (t : State) (v : Nat) : State := t.updMe (fun k => k.went rd v)
      let past (t : State) : State := t.updMe (fun k => { k with pc := k.pc + 4 })
      let trapped (cause tval : Nat) : State := s.updHart h (fun k => k.trap cause tval false)
      let failed (store : Bool) (e : MemErr) : State :=
        match e with
        | .page _ a => trapped (if store then 15 else 13) a
        | .poisoned a => trapped (if store then 7 else 5) a
        | .held => s
      let va := wrap 64 ((s.me.x rs1 : Int) + signed 12 imm.toNat)
      let n := 2 ^ (f3.toNat % 4)
      let at_ := s.me.x rs1
      let w := if wide then 8 else 4
      let name := nameAsid (s.hartCtx h).asid at_
      let atomic (op : BitVec 5) (t : State) : Prop := exec (.hostAtomic op aq rl wide rd rs1 rs2) s = .next t
      let access (store : Bool) (t : State) : Prop := exec (.hostAccess store f3 rd rs1 imm) s = .next t
      let loaded (t : State) (b : List Byte) : State := went t (if f3.toNat < 4 then signExtend (8 * n) (ofBytes b) else ofBytes b)
      let stored (t : State) : State := t.updMe (fun k => { k with pc := k.pc + 4, wait := none })
      let data := bytesOf n (s.me.x rd)
      let cut := (va / 16 + 1) * 16 - va
      let piece (upper : Bool) : Nat × Nat := if upper then (va + cut, n - cut) else (va, cut)
      let piecesOf := pieces va n 16
      let me := s.hartAgent h
      let get (t : State) (upper : Bool) : State × Except MemErr (List Byte) := t.readPieces me .read [piece upper]
      let put (t : State) (upper : Bool) : State × Except MemErr Unit :=
        t.writePieces me false [piece upper] (if upper then data.drop cut else data.take cut)
      let held (t : State) (upper : Bool) (b : List Byte) : State := t.updHart h (fun k => { k with wait := some (.half upper b) })
      let waiting := ∃ upper b, s.me.wait = some (.half upper b)
      ((va / 16 = (va + n - 1) / 16 ∨ s.translating = false) →
        (∀ s1 b, s.hostRead h va n .read = .ok s1 b → access false (loaded s1 b))
        ∧ (∀ e, s.hostRead h va n .read = .fail e → access false (failed false e))
        ∧ (∀ s1 b, s.hostWrite h va data = .ok s1 b → access true (stored s1))
        ∧ (∀ e, s.hostWrite h va data = .fail e → access true (failed true e)))
      ∧ (va / 16 ≠ (va + n - 1) / 16 → s.translating → ¬waiting →
        (∀ s1 e, s.checkRange me .read piecesOf = (s1, some e) → access false (failed false e))
        ∧ (∀ s1 e, s.checkRange me .write piecesOf = (s1, some e) → access true (failed true e))
        ∧ (∀ s1, s.checkRange me .read piecesOf = (s1, none) →
          let upper := (Config.freeDword s1.fresh).getLsbD 0
          (∀ s2 b, get { s1 with fresh := s1.fresh + 1 } upper = (s2, .ok b) → access false (held s2 upper b))
          ∧ (∀ s2 e, get { s1 with fresh := s1.fresh + 1 } upper = (s2, .error e) → access false (failed false e)))
        ∧ (∀ s1, s.checkRange me .write piecesOf = (s1, none) →
          let upper := (Config.freeDword s1.fresh).getLsbD 0
          (∀ s2 u, put { s1 with fresh := s1.fresh + 1 } upper = (s2, .ok u) → access true (held s2 upper []))
          ∧ (∀ s2 e, put { s1 with fresh := s1.fresh + 1 } upper = (s2, .error e) → access true (failed true e))))
      ∧ (va / 16 ≠ (va + n - 1) / 16 → s.translating → ∀ upper first, s.me.wait = some (.half upper first) →
        (∀ s1 b, get s (!upper) = (s1, .ok b) → access false (loaded s1 (if upper then b ++ first else first ++ b)))
        ∧ (∀ s1 e, get s (!upper) = (s1, .error e) → access false (failed false e))
        ∧ (∀ s1 u, put s (!upper) = (s1, .ok u) → access true (stored s1))
        ∧ (∀ s1 e, put s (!upper) = (s1, .error e) → access true (failed true e)))
      ∧ (at_ % w ≠ 0 → atomic f5 (trapped (if f5 = 2 then 4 else 6) at_))
      ∧ (at_ % w = 0 →
        (∀ s1 b, s.hostRead h at_ w .read = .ok s1 b →
          atomic 2 (s1.updMe (fun k => { k.went rd (signExtend (8 * w) (ofBytes b)) with reservation := some (name, at_, w) })))
        ∧ (∀ e, s.hostRead h at_ w .read = .fail e → atomic 2 (failed false e))
        ∧ (s.me.reservation ≠ some (name, at_, w) → atomic 3 (s.updMe (fun k => { k.went rd 1 with reservation := none })))
        ∧ (s.me.reservation = some (name, at_, w) →
          (∀ s1 b, s.hostWrite h at_ (bytesOf w (s.me.x rs2)) = .ok s1 b →
            atomic 3 (s1.updMe (fun k => { k.went rd 0 with reservation := none })))
          ∧ (∀ e, s.hostWrite h at_ (bytesOf w (s.me.x rs2)) = .fail e → atomic 3 (failed true e)))
        ∧ (f5 ≠ 2 → f5 ≠ 3 →
          (∀ e, s.hostRead h at_ w .both = .fail e → atomic f5 (failed true e))
          ∧ (∀ s1 b, s.hostRead h at_ w .both = .ok s1 b →
            let put := s1.hostWrite h at_ (bytesOf w (amoValue f5.toNat (8 * w) (ofBytes b) (s.me.x rs2)))
            (∀ s2 c, put = .ok s2 c → atomic f5 (went s2 (signExtend (8 * w) (ofBytes b))))
            ∧ (∀ e, put = .fail e → atomic f5 (failed true e)))))
      ∧ (∀ a b c, exec (.hostFence a b c) s = .next (past s))
      ∧ (∀ a b, exec (.xfence a b) s = .next (past s))
      ∧ exec (.hostIllegalInstruction word) s = .next (trapped 2 word.toNat)
      ∧ (s.me.mode ≠ 0 →
        let source := if f3.toNat < 4 then at_ else rs1.toNat
        let old := s.me.csr 0x5C0
        let new := match f3.toNat % 4 with
          | 1 => source
          | 2 => Nat.lor old source
          | _ => Nat.xor old (Nat.land old source)
        exec (.hostAsidCsrWrite f3 rd rs1) s = .next (s.updMe (fun k => (k.setCsr 0x5C0 (new % 4096)).went rd old)))
      ∧ (s.me.mode = 0 → exec (.hostAsidCsrWrite f3 rd rs1) s = .next
          (trapped 2 ((0x5C0 : BitVec 12) ++ rs1 ++ f3 ++ rd ++ (0x73 : BitVec 7)).toNat))
      ∧ (at_ % 128 ≠ 0 → exec (.xlaunch rd rs1) s = .next (went s 4))
      ∧ (at_ % 128 = 0 → ∀ s1 b, s.hostRead h at_ 128 .read = .ok s1 b → exec (.xlaunch rd rs1) s = .next
          (let c := s.hartCtx h
           let r := s1.submitRecord (ofBytes b) c.asid c.priv c.secure
           went r.1 r.2))
      ∧ (at_ % 128 = 0 → ∀ e, s.hostRead h at_ 128 .read = .fail e → exec (.xlaunch rd rs1) s = .next (failed false e))
      ∧ (∀ v, s.waitWord 256 (at_ % 2 ^ 32) = some v → exec (.xlwait rd rs1) s = .next (went s v))
      ∧ (s.waitWord 256 (at_ % 2 ^ 32) = none → exec (.xlwait rd rs1) s = .next
          (s.updMe (fun k => { k with wait := some (.launch rd.toNat (at_ % 2 ^ 32)) })))
      ∧ (at_ % 8 ≠ 0 → exec (.xpoll rd rs1 rs2) s = .next (trapped 4 at_))
      ∧ (at_ % 8 = 0 →
        let reads := match s.me.wait with | some (.poll _ _ _ n _) => n | _ => 0
        let early := match s.me.wait with | some (.poll _ _ _ _ due) => decide (s.clock < due) | _ => false
        (early = true → exec (.xpoll rd rs1 rs2) s = .next s)
        ∧ (early = false →
          (∀ e, s.hostRead h at_ 8 .read = .fail e → exec (.xpoll rd rs1 rs2) s = .next (failed false e))
          ∧ (∀ s1 b, s.hostRead h at_ 8 .read = .ok s1 b →
            (ofBytes b ≠ s.me.x rs2 → exec (.xpoll rd rs1 rs2) s = .next (went s1 (ofBytes b)))
            ∧ (ofBytes b = s.me.x rs2 → exec (.xpoll rd rs1 rs2) s = .next (s1.updMe (fun k => { k with
                wait := some (.poll rd.toNat at_ (BitVec.ofNat 64 (s.me.x rs2)) (reads + 1) (s.clock + 64 * 2 ^ min reads 6)) }))))))
      ∧ (let len := s.me.x rs2
         let dropped := s.discardPages (s.hartCtx h) at_ (at_ + len) (s.pagesOfRange (s.hartCtx h) at_ (at_ + len))
         (len = 0 ∨ s.translating = false → exec (.xdiscard rs1 rs2) s = .next (past s))
         ∧ (len ≠ 0 → s.translating = true → 2 ^ 57 < at_ + len → exec (.xdiscard rs1 rs2) s = .next (trapped 15 at_))
         ∧ (len ≠ 0 → s.translating = true → at_ + len ≤ 2 ^ 57 →
            (∀ s1, dropped = (s1, .done) → exec (.xdiscard rs1 rs2) s = .next (past s1))
            ∧ (∀ s1 k a, dropped = (s1, .fault k a) → exec (.xdiscard rs1 rs2) s = .next (trapped 15 a))
            ∧ (∀ s1 a, dropped = (s1, .held a) → exec (.xdiscard rs1 rs2) s = .next s))))
    ∧ (let k := s.sel.x
       let pending (h : Hart) : Hart := { h.setCsr 0x344 (Nat.lor (h.csr 0x344) 512) with irq := true }
       let s1 := s.updHart k pending
       let taken := (s1.hart k).running = true ∧ (s1.hart k).takesIntr = true
       (s.intrLine k = false → exec .hostInterrupt s = .next s)
       ∧ (s.intrLine k = true → ¬taken → exec .hostInterrupt s = .next s1)
       ∧ (s.intrLine k = true → taken → (s1.hart k).tx = none → exec .hostInterrupt s = .next (s1.updHart k (fun h => h.trap 9 0 true)))
       ∧ (s.intrLine k = true → taken → (s1.hart k).tx ≠ none →
          exec .hostInterrupt s = .next ((s1.abortHost k .preempt 0).updHart k (fun h => h.trap 9 0 true))))

/-- Host transactions (R237, R341, R345, R348 to R350). BEGIN opens one or goes a level deeper, at 15 levels it aborts with NEST;
COMMIT goes up a level or takes a ticket, and without a transaction gives NOTX; ABORT, and an instruction that a transaction does not
admit, abort; STAT reads the status.
A ticket is served after every lower one: the writes are applied and the hart goes on with 0, or the transaction aborts where a line
or a granule is no longer what it was; where a write must wait, so does the ticket. The eviction of a marked line aborts with CAPACITY.
A step that is not due leaves the state as it was (the model's choice, assumption log 11).
Where it rests on a choice of the model, that is assumption log 15 and 27. -/
def Obligations.HostTransactions : Prop :=
  ∀ (s : State) (rd rs1 rs2 : BitVec 5) (code : BitVec 8),
    let h := s.cur.hart
    let me := s.me
    let went (v : Nat) : State := s.updMe (fun k => k.went rd v)
    (me.tx = none →
      exec (.xtxBegin rd) s = .next (s.updMe (fun k =>
        { k.went rd 0 with
          tx := some ⟨1, me.regs, me.fregs, me.vregs, me.csrs, me.pc, rd.toNat, s.clock, [], [], [], none⟩
          lastAbort := (0, 0) }))
      ∧ exec (.xtxCommit rd) s = .next (went 14)
      ∧ exec (.xtxAbort code) s = .next (s.updMe (fun k => { k with pc := k.pc + 4 })))
    ∧ exec (.xtxStat rd) s = .next (went (match me.tx with
        | some x => statusWord x.depth true false 0 me.lastAbort.2 me.lastAbort.1
        | none => statusWord 0 false false 0 me.lastAbort.2 me.lastAbort.1))
    ∧ (∀ x, me.tx = some x →
        (x.depth < 15 → exec (.xtxBegin rd) s = .next (s.updMe (fun k => { k.went rd 0 with tx := some { x with depth := x.depth + 1 } })))
        ∧ (15 ≤ x.depth → exec (.xtxBegin rd) s = .next (s.abortHost h .nest 0))
        ∧ (2 ≤ x.depth → exec (.xtxCommit rd) s = .next
            (s.updMe (fun k => { k.went rd 0 with tx := some { x with depth := x.depth - 1 } })))
        ∧ (x.depth = 1 → x.ticket = none → exec (.xtxCommit rd) s = .next
            (({ s with x := { s.x with
              next := (s.x.next + 1) % 2 ^ 64
              tickets := s.x.tickets ++ [⟨s.x.next, true, h, [], [], 0⟩] } } : State).updMe (fun k =>
                { k with tx := some { x with ticket := some s.x.next }, wait := some (.commit rd.toNat) })))
        ∧ exec (.xtxAbort code) s = .next (s.abortHost h .explicit code.toNat)
        ∧ (∀ i ∈ [Instr.xlaunch rd rs1, .xlwait rd rs1, .xpoll rd rs1 rs2, .xdiscard rs1 rs2], exec i s = .next (s.abortHost h .instr 0))
        ∧ (∀ a b, exec (.xfence a b) s = .next (s.abortHost h .instr 0)))
    ∧ (∀ x n d, (s.hart s.sel.x).tx = some x → x.ticket = some n → (s.hart s.sel.x).wait = some (.commit d) →
        let k := s.sel.x
        let s1 : State := { s with x := { s.x with tickets := s.x.tickets.filter (fun t => t.n != n) } }
        let published := s1.publishAll (512 + k) (s.hartCtx k) (512 + k) x.buf
        ((∃ t ∈ s.x.tickets, t.n < n) → exec .hostTxTicketServed s = .next s)
        ∧ ((∀ t ∈ s.x.tickets, n ≤ t.n) →
          (∀ e, s.hostReject k x = some e → exec .hostTxTicketServed s = .next (s.abortHost k e 0))
          ∧ (s.hostReject k x = none → published = none → exec .hostTxTicketServed s = .next s)
          ∧ (s.hostReject k x = none → ∀ s2, published = some s2 → exec .hostTxTicketServed s = .next (s2.updHart k (fun k =>
              { k.went (BitVec.ofNat 5 d) 0 with
                tx := none
                lastAbort := (0, 0) })))))
    ∧ (∀ x, (s.hart s.sel.x).tx = some x →
        let marked := ∃ l ∈ x.readLines ++ x.writtenLines, l.1 = s.sel.z ∧ l.2.1 ≤ s.sel.y ∧ s.sel.y < l.2.1 + l.2.2
        (marked → exec .hostTxEvictionAbort s = .next (s.abortHost s.sel.x .capacity 0))
        ∧ (¬marked → exec .hostTxEvictionAbort s = .next s))
    ∧ ((s.hart s.sel.x).tx = none → exec .hostTxEvictionAbort s = .next s ∧ exec .hostTxTicketServed s = .next s)

/-- Writes of device registers (R53, R109, R430, R434, R451, R453 to R458, R478, R488), lost packages (R464, R465), and stacks and
dies out of service (R486, R487). A change of a secure range discards the attributes and translations that it now forbids. A package
that is lost is not ALIVE, its HOLD bits and every copy of its lines go, what it owned is poisoned, and its rounds end.
A step that is not due leaves the state as it was (the model's choice, assumption log 11).
Where it rests on a choice of the model, that is assumption log 20, 58 and, for the order of the conditions of R487, 63. -/
def Obligations.RegisterWrites : Prop :=
  ∀ (s : State) (value : Dword) (who : Writer) (n : Nat) (packages : BitVec 8),
    let v := value.toNat
    let write (off : Nat) (w : Writer) : Host.Outcome State Fault Refusal := exec (.registerWrite off value w) s
    let k := s.sel.x
    (write 0x00 who = .next (s.setSys { s.r with asidTab := BitVec.ofNat 64 (bits v 15 37 * 2 ^ 15 + v % 2) }))
    ∧ (write 0x30 who = .next (s.setSys { s.r with slice := BitVec.ofNat 64 (v % 2 ^ 48) }))
    ∧ (write 0x38 who = .next (s.setSys { s.r with gangctl := BitVec.ofNat 64 (v % 65536) }))
    ∧ (write 0x48 who = .next (s.setSys { s.r with intr := BitVec.ofNat 64 (intrWrite s.r.intr.toNat v) }))
    ∧ (write 0x58 who = .next (if who.controller then s.setSys { s.r with world := s.worldWrite value } else s))
    ∧ (write 0x60 who = .next (if who.secure then s.setSys { s.r with powercap := BitVec.ofNat 64 (clampCap s.r.powercap.toNat v) } else s))
    ∧ (n < 8 →
        let s1 := s.setSys { s.r with
          secRange := Tab.set s.r.secRange n (BitVec.ofNat 64 (bits v 63 1 * 2 ^ 63 + bits v 52 6 * 2 ^ 52 + bits v 16 36 * 65536)) }
        let stays (a : Attr) : Bool := a.world || !s1.secureIn a.frame a.size
        write (0x80 + 8 * n) who = .next (if who.controller then s1.setMem { s1.m with
          attrs := s1.m.attrs.filter (fun p => stays p.2)
          tlb := s1.m.tlb.filter (fun p => stays p.2) } else s))
    ∧ (n < 1024 → write (0x2000 + 8 * n) who = .next (s.setSys { s.r with c3budget := Tab.set s.r.c3budget n (v % 65536) }))
    ∧ (n < 512 → write (0x10000 + 64 * n + 8) who = .next (s.updCore n (fun c => { c with coveAge := v % 65536 })))
    ∧ (n < 512 → write (0x10000 + 64 * n + 16) who = .next
        (if who.controller && bits v 24 2 < 3 && (s.blocksOn n).isEmpty then s.updCore n (laneMapOf v) else s))
    ∧ (n < 64 → write (0x20000 + 64 * n) who = .next (s.updHart n (fun h => h.setCsr 0x5C0 (v % 4096))))
    ∧ (0x21000 ≤ n → n < 0x80000000000 → write n who = .next s)
    ∧ (s.m.tdbSet = false → exec (.tdbbaseWrite value) s = .next
        ((s.setSys { s.r with tdbBase := value &&& 0x000FFFFFFFFF0000#64 }).setMem { s.m with tdbSet := true }))
    ∧ (s.m.tdbSet → exec (.tdbbaseWrite value) s = .next s)
    ∧ (n < 64 → (s.hart n).running = false → exec (.hoststartWrite n value) s = .next
        (s.updHart n (fun h => { h with running := true, mode := 3, pc := BitVec.ofNat 64 (v % 2 ^ 57), wait := none })))
    ∧ ((s.hart n).running → exec (.hoststartWrite n value) s = .next s)
    ∧ (64 ≤ n → exec (.hoststartWrite n value) s = .next s)
    ∧ (exec (.nodeLoseWrite packages) s = .next (((List.range 8).filter (bit packages.toNat)).foldl State.losePackage s))
    ∧ (exec .peerPowerOffReport s = .next (s.losePackage k))
    ∧ ((k = s.r.pkg ∨ 8 ≤ k ∨ bit s.r.alive k = false) → s.losePackage k = s)
    ∧ (k ≠ s.r.pkg → k < 8 → bit s.r.alive k →
        let t := s.losePackage k
        let far (frame : Nat) : Prop := frame / 2 ^ 48 ≠ k
        (∀ j, bit t.r.alive j = (bit s.r.alive j && j != k)) ∧ t.r.intr.getLsbD 2 = true ∧ t.m.mem = s.m.mem
        ∧ (∀ pa, pa / 2 ^ 48 = k → t.paClass pa = .unbacked)
        ∧ (∀ e ∈ s.m.remoteHeld, e.2.2 = true → e.2.1.getLsbD k = true → ∀ off, s.paClass (s.r.pkg * 2 ^ 48 + 64 * e.1) = .memory off →
            t.poisonedAt off 64 = true)
        ∧ (∀ e ∈ t.m.remoteHeld, e.2.1.getLsbD k = false)
        ∧ (∀ e ∈ s.m.remoteLines, e.1 / 2 ^ 48 = k → ∀ l ∈ t.m.lines, l.asid = e.2.1 → ¬(l.va < e.2.2 + 4096 ∧ e.2.2 < l.va + l.data.length))
        ∧ (∀ e ∈ t.m.remoteLines, far e.1) ∧ (∀ c ∈ t.m.copies, far c.attr.frame) ∧ (∀ p ∈ t.m.attrs, far p.2.frame)
        ∧ (∀ p ∈ t.m.tlb, far p.2.frame) ∧ (∀ p ∈ t.v.reqs, p.2.attr.frame / 2 ^ 48 = k → p.2.stage = .home)
        ∧ (∀ i < 16, ∀ r ∈ (t.slot i).open_, bit r.ring k = false))
    ∧ (∀ t, (s.port k).down = some t → k < 7 → t + 3000000 ≤ s.clock → exec .linkDownTimeout s = .next
        (s.losePackage ((s.r.pkg + k + 1) % 8)))
    ∧ ((7 ≤ k ∨ ∀ t, (s.port k).down = some t → s.clock < t + 3000000) → exec .linkDownTimeout s = .next s)
    ∧ (k < 12 → s.stackOut k = false → ∃ t, exec .stackTakeout s = .next t ∧ t.stackOut k = true ∧ t.v = s.v ∧ t.m.mem = s.m.mem
        ∧ (∀ j, (s.setSys { s.r with stackCtl := Tab.set s.r.stackCtl k 1 }).nextStack k = some j →
            ∀ i < 4, Tab.get t.m.shardMap (4 * k + i) 0 = 4 * j + i)
        ∧ ((s.setSys { s.r with stackCtl := Tab.set s.r.stackCtl k 1 }).nextStack k = none → t.m.shardMap = s.m.shardMap))
    ∧ ((12 ≤ k ∨ s.stackOut k) → exec .stackTakeout s = .next s)
    ∧ ((4 ≤ k ∨ bits (Tab.get s.r.dieCtl k 0).toNat 2 2 = 2) → exec .dieIsolate s = .next s)
    ∧ (k < 4 → bits (Tab.get s.r.dieCtl k 0).toNat 2 2 ≠ 2 → s.isolateStatus k ≠ 0 → exec .dieIsolate s = .next
        (s.setSys { s.r with
          dieCtl := Tab.set s.r.dieCtl k (BitVec.ofNat 64 (s.isolateStatus k * 16 + (Tab.get s.r.dieCtl k 0).toNat % 16)) }))
    ∧ (k < 4 → bits (Tab.get s.r.dieCtl k 0).toNat 2 2 ≠ 2 → s.isolateStatus k = 0 → ∃ t, exec .dieIsolate s = .next t ∧
        (∀ i < 128, (t.coreOf (128 * k + i)).mode = 2) ∧ Tab.get t.r.dieCtl k 0 = 8#64)
    ∧ (s.r.c3window ≠ s.clock / 4096 → exec .c3PoliceWindow s = .next (s.setSys { s.r with c3window := s.clock / 4096, c3used := [] }))
    ∧ (s.r.c3window = s.clock / 4096 → exec .c3PoliceWindow s = .next s)

/-- Boot, links and coherence between packages (R457, R461 to R464, R485, R489). Boot happens once, of a controller whose image is
verified; it clears memory, takes what fuses and straps say, and where the host firmware is verified loads it, takes SYS.WORLD and starts
hart 0 at it in machine mode; every other field of the harts stays as it was. A flit that fails its CRC makes the port ask for a
replay. A recalibrated lane changes nothing, and every lane failure sets source 3 (the model's choices, assumption log 23).
A step that is not due leaves the state as it was (the model's choice, assumption log 11).
Where it rests on a choice of the model, that is assumption log 10, 13 and 21. -/
def Obligations.NodeSteps : Prop :=
  ∀ (s : State) (boot : Boot) (port cls pa package : Nat) (flit : List Byte) (exclusive : Bool),
    let p := s.sel.x
    let up (t : State) : State := ((t.setSys { t.r with linkUp := Nat.lor t.r.linkUp (2 ^ p) }).updPort p (fun x => { x with down := none })).raiseIntr 3
    let down (t : State) : State := (t.setSys { t.r with linkUp := Nat.xor t.r.linkUp (2 ^ p) }).updPort p (fun x => { x with down := some t.clock })
    (s.powered = false → s.n.off = false → boot.ownVerified → (s.hart 0).running = false → ∃ t, exec (.powerGood boot) s = .next t ∧ t.powered
        ∧ (let pkg := boot.package.toNat
           let recorded (i : Nat) : Nat := ((boot.measurements.find? (fun p => p.1 == i)).map (·.2)).getD 0
           t.r.pkg = pkg ∧ t.r.present = Nat.lor boot.present.toNat (2 ^ pkg) ∧ t.r.alive = t.r.present
           ∧ (∀ p < 7, bit t.r.linkUp p = (bit boot.linkUp.toNat p && bit t.r.present ((pkg + p + 1) % 8))
               ∧ (t.port p).lanes = 17 ∧ (t.port p).seq = 0
               ∧ (t.port p).down = (if bit t.r.linkUp p then none else some s.clock))
           ∧ (∀ sh, sh ∈ t.m.retired ↔ sh ∈ boot.retired ∧ sh < 18432)
           ∧ t.m.poison = [] ∧ t.m.tdbs = [] ∧ t.m.shardMap = [] ∧ t.n.address = boot.address.toNat
           ∧ (∀ i ∈ [1, 3, 4], t.measurement i = BitVec.ofNat 384 (recorded i)) ∧ t.measurement 2 = Config.sha384 boot.firmware
           ∧ (∀ before after core slices, boot.fuses = before ++ (core, slices) :: after → core < 512 → (∀ p ∈ after, p.1 ≠ core) →
               t.coreOf core = { CoreSt.reset with
                 mode := if slices.length ≤ 1 then 0 else if slices.length = 2 then 1 else 2
                 nfail := slices.length
                 skipA := slices.getD 0 64
                 skipB := slices.getD 1 0x7F })
           ∧ (∀ core, (∀ p ∈ boot.fuses, p.1 ≠ core) → t.coreOf core = s.coreOf core)
           ∧ (boot.hostVerified → t.m.mem = Memory.writes [] 0x10000000000 boot.firmware ∧ t.r.world = boot.hostSecure
               ∧ t.hart 0 = { s.hart 0 with
                   running := true
                   mode := 3
                   pc := BitVec.ofNat 64 (pkg * 2 ^ 48 + 0x10000000000)
                   wait := none })
           ∧ (boot.hostVerified = false → t.m.mem = [] ∧ t.r.world = s.r.world ∧ t.hart 0 = s.hart 0)
           ∧ (∀ h, h ≠ 0 → t.hart h = s.hart h)))
    ∧ ((s.powered ∨ s.n.off ∨ boot.ownVerified = false) → exec (.powerGood boot) s = .next s)
    ∧ (port < 7 → bit s.r.linkUp port → flit.length = 256 →
        exec (.xankorFlitReceived port cls true flit) s = .next
          ((s.setNode { s.n with flits := s.n.flits ++ [(port, cls, flit)] }).updPort port (fun x =>
            { x with
              seq := x.seq + 1
              replay := false }))
        ∧ exec (.xankorFlitReceived port cls false flit) s = .next
          ((s.updPort port (fun x => { x with replay := true })).sendLink 9 ((s.r.pkg + port + 1) % 8) (s.port port).seq []))
    ∧ ((7 ≤ port ∨ bit s.r.linkUp port = false ∨ flit.length ≠ 256) → ∀ ok, exec (.xankorFlitReceived port cls ok flit) s = .next s)
    ∧ (p < 7 → bit s.r.linkUp p → exec .xankorLinkDown s = .next (down s))
    ∧ ((7 ≤ p ∨ bit s.r.linkUp p = false) → exec .xankorLinkDown s = .next s)
    ∧ (p < 7 → bit s.r.linkUp p = false → bit s.r.present ((s.r.pkg + p + 1) % 8) → 12 ≤ (s.port p).lanes → exec .xankorLinkUp s = .next (up s))
    ∧ ((7 ≤ p ∨ bit s.r.linkUp p ∨ bit s.r.present ((s.r.pkg + p + 1) % 8) = false ∨ (s.port p).lanes < 12) →
        exec .xankorLinkUp s = .next s)
    ∧ (exec .laneRecalibration s = .next s)
    ∧ (p < 7 → (s.port p).lanes ≠ 0 →
        let s1 := (s.updPort p (fun x => { x with lanes := x.lanes - 1, spared := true })).raiseIntr 3
        (13 ≤ (s.port p).lanes → exec .xankorLaneFailure s = .next s1)
        ∧ ((s.port p).lanes < 13 → bit s.r.linkUp p → exec .xankorLaneFailure s = .next (down s1))
        ∧ ((s.port p).lanes < 13 → bit s.r.linkUp p = false → exec .xankorLaneFailure s = .next s1))
    ∧ ((7 ≤ p ∨ (s.port p).lanes = 0) → exec .xankorLaneFailure s = .next s)
    ∧ (((∀ off, s.paClass pa ≠ .memory off) ∨ 8 ≤ package ∨ package = s.r.pkg ∨ bit s.r.alive package = false
          ∨ s.recallOwn pa exclusive = none) →
        exec (.remoteLineRequest package pa exclusive) s = .next s)
    ∧ (∀ off, s.paClass pa = .memory off → package < 8 → package ≠ s.r.pkg → bit s.r.alive package → ∀ s1, s.recallOwn pa exclusive = some s1 →
        let s2 := s1.recallHolders (pa / 64 * 64) 64 exclusive (some package) []
        (s2.poisonedAt (off / 64 * 64) 64 → exec (.remoteLineRequest package pa exclusive) s = .next (s2.sendLink 7 package (pa / 64 * 64) []))
        ∧ (s2.poisonedAt (off / 64 * 64) 64 = false → exec (.remoteLineRequest package pa exclusive) s = .next
            (let others := s2.m.remoteHeld.filter (fun (e : Nat × BitVec 8 × Bool) => e.1 != off / 64)
             let before := ((s2.m.remoteHeld.find? (fun (e : Nat × BitVec 8 × Bool) => e.1 == off / 64)).map (fun e => e.2.1)).getD 0
             let holders := if exclusive then 1#8 <<< package else before ||| (1#8 <<< package)
             let s3 := s2.setMem { s2.m with remoteHeld := others ++ [(off / 64, holders, exclusive)] }
             s3.sendLink 5 package (pa / 64 * 64) (s3.physBytes (off / 64 * 64) 64))))
    ∧ (let granule := pa / 64 * 64
       let named := s.m.remoteLines.filter (fun (e : Nat × Nat × Nat) => e.1 == granule / 4096 * 4096)
       exec (.recallReceived pa exclusive) s = .next
         ((named.foldl (fun (s : State) (e : Nat × Nat × Nat) => s.recallLine granule e.2.1 (e.2.2 + granule % 4096) exclusive) s).sendLink 4
           (granule / 2 ^ 48) granule []))

/-- PCIe and Ethernet (R478 to R481). Inbound traffic of a port acts in its order of arrival: what its home holds, and what arrives
behind it, waits. A port that is not there, a frame for a port without EN, and a port whose next descriptor is not owned do nothing.
A step that is not due leaves the state as it was (the model's choice, assumption log 11).
Where it rests on a choice of the model, that is assumption log 21 and 22. -/
def Obligations.PortSteps : Prop :=
  ∀ (s : State) (port len : Nat) (addr value : Dword) (data : List Byte) (prio : BitVec 3) (ok : Bool),
    let a := addr.toNat
    let done (t : State) (status : Nat) (d : List Byte) : State := { t with out := t.out ++ [⟨.pcieAnswer, port, status, d⟩] }
    let later (m : Inbound) : State := s.setNode { s.n with inbound := s.n.inbound ++ [m] }
    let clear (id : Nat) : Prop := ∀ m ∈ s.n.inbound, m.agent ≠ id
    let reads (t : State) : Prop := exec (.pcieInboundRequest port addr false len data) s = .next t
    let writes (d : List Byte) (t : State) : Prop :=
      exec (.pcieInboundRequest port addr true len d) s = .next t ∧ (d = [] → len = 0 → exec (.pcieMsiWrite port addr) s = .next t)
    let frame (t : State) : Prop := exec (.ethReceive port prio ok data) s = .next t
    let p := s.sel.x
    let en (p : Nat) : Bool := bit (s.ethReg p) 0
    let ring (p : Nat) : Nat := bits (s.ethReg p) 12 40 * 4096
    let idx (p : Nat) : Nat × Nat := Tab.get s.n.eth p (0, 0)
    (port < 2 → ¬clear (724 + port) → reads (later (.pcie port a false len data)) ∧ writes data (later (.pcie port a true len data)))
    ∧ (port < 2 → clear (724 + port) →
        (a / 4096 = 2 ^ 52 - 1 → writes data (s.raiseIntr (6 + port)))
        ∧ (2 ^ 57 ≤ a → reads (done s 1 []))
        ∧ (2 ^ 57 ≤ a → a / 4096 ≠ 2 ^ 52 - 1 → writes data (done s 1 []))
        ∧ (a < 2 ^ 57 →
          (∀ s1 b, s.load (inbound (724 + port)) a len = (s1, .ok b) → reads (done s1 0 b))
          ∧ (∀ s1 e, s.load (inbound (724 + port)) a len = (s1, .error e) →
              reads (if e = .held then later (.pcie port a false len data) else done s1 2 []))
          ∧ (∀ s1 u, s.store (inbound (724 + port)) a data = (s1, .ok u) → writes data (done s1 0 []))
          ∧ (∀ s1 e, s.store (inbound (724 + port)) a data = (s1, .error e) →
              writes data (if e = .held then later (.pcie port a true len data) else done s1 2 []))))
    ∧ (2 ≤ port → reads s ∧ writes data s ∧ exec (.pcieMsiWrite port addr) s = .next s)
    ∧ (p < 2 → exec .pcieAerError s = .next (s.raiseIntr (6 + p)))
    ∧ (2 ≤ p → exec .pcieAerError s = .next s)
    ∧ (port < 4 → value.getLsbD 0 → exec (.ethEnable port value) s = .next
        ((s.setOther (0x3A0 + 8 * port) (bits value.toNat 12 40 * 4096 + 1)).setEth port 0 0))
    ∧ (port < 4 → value.getLsbD 0 = false → exec (.ethEnable port value) s = .next
        (s.setOther (0x3A0 + 8 * port) (bits value.toNat 12 40 * 4096)))
    ∧ (4 ≤ port → exec (.ethEnable port value) s = .next s ∧ frame s)
    ∧ ((4 ≤ p ∨ en p = false) → exec .ethTransmit s = .next s)
    ∧ (p < 4 → en p →
        let pa := ring p + 32 * (idx p).1
        (∀ s1, s.descriptor pa = (none, s1) → exec .ethTransmit s = .next s1)
        ∧ (∀ s1 d, s.descriptor pa = (some d, s1) →
          let size := bits d 128 16
          let prio := bits d 1 3
          let got := s1.load (inbound (728 + p)) (bits d 192 64) size
          let ends (t : State) (status : Nat) : State := (t.descriptorDone pa d status prio none).setEth p (((idx p).1 + 1) % 128) (idx p).2
          ((size < 60 ∨ 9216 < size) → exec .ethTransmit s = .next (ends s1 2))
          ∧ (60 ≤ size → size ≤ 9216 →
            (∀ s2 b, got = (s2, .ok b) → exec .ethTransmit s = .next (ends { s2 with out := s2.out ++ [⟨.ethFrame, p, prio, b⟩] } 0))
            ∧ (∀ s2 e, got = (s2, .error e) → exec .ethTransmit s = .next (if e = .held then s1 else ends s2 3)))))
    ∧ (port < 4 → ¬clear (728 + port) → frame (later (.eth port prio.toNat ok data)))
    ∧ (port < 4 → clear (728 + port) → en port = false → frame s)
    ∧ (port < 4 → clear (728 + port) → en port →
        let pa := ring port + 4096 + 32 * (idx port).2
        (∀ s1, s.descriptor pa = (none, s1) → frame s1)
        ∧ (∀ s1 d, s.descriptor pa = (some d, s1) →
          let put := s1.store (inbound (728 + port)) (bits d 192 64) data
          let ends (t : State) (status : Nat) : State :=
            (t.descriptorDone pa d status prio.toNat (some data.length)).setEth port (idx port).1 (((idx port).2 + 1) % 128)
          (ok = false → frame (ends s1 1))
          ∧ (ok → (9216 < data.length ∨ bits d 128 16 < data.length) → frame (ends s1 2))
          ∧ (ok → data.length ≤ 9216 → data.length ≤ bits d 128 16 →
            (∀ s2 u, put = (s2, .ok u) → frame (ends s2 0))
            ∧ (∀ s2 e, put = (s2, .error e) → frame (if e = .held then later (.eth port prio.toNat ok data) else ends s2 3)))))

/-- The controller, the clock and the power (R457, R482 to R484, R488, R489). A reply is tagged with the code of the REQUEST that it
answers, which is the model's choice, as is the effect of three requests on the session; what the cited standards fix of it is a free
value (assumption log 7). A verified image is activated once its controller is quiet and a millisecond has passed; FREQ falls once in a
millisecond; a thermal event makes an in-band interrupt.
A step that is not due leaves the state as it was (the model's choice, assumption log 11).
Where it rests on a choice of the model, that is assumption log 7 and 23. -/
def Obligations.ControllerSteps : Prop :=
  ∀ (s : State) (sensor : Sensor) (reading controller : Nat) (measurement : BitVec 384) (draw : BitVec 16) (hot : Bool),
    let said (t : State) (code : Nat) (d : List Byte) : State :=
      { t with
        fresh := t.fresh + 1
        out := t.out ++ [⟨.reply, code, t.sel.x, d ++ Config.answer t.fresh⟩] }
    let inBand (t : State) (event : Nat) : State := { t with out := t.out ++ [⟨.inBand, t.n.address, event, []⟩] }
    let session (x : Session) : State := s.setNode { s.n with session := x }
    let waited (t : Option Nat) : Bool := t.all (fun t => t + 3000000 ≤ s.clock)
    let cap := s.r.powercap.toNat % 65536
    let freq := bits s.r.powercap.toNat 32 8
    let set (freq draw : Nat) : State := s.setSys { s.r with powercap := BitVec.ofNat 64 (freq % 256 * 2 ^ 32 + draw % 65536 * 65536 + cap) }
    let staged := s.n.staged ++ [(controller, measurement)]
    let quiet (part : Nat) : Prop :=
      (part = 3 → ∀ p ∈ s.v.reqs, p.2.stage ≠ .controller)
      ∧ (part = 4 → ∀ p ∈ s.c, (∀ r ∈ p.2.rounds, r.outcome ≠ none) ∧ p.2.reform = none ∧ p.2.mail = [])
    (∀ r ∈ [(Instr.getVersion, 0x84), (.getCapabilities, 0xE1), (.negotiateAlgorithms, 0xE3), (.getDigests, 0x81),
        (.getCertificate, 0x82), (.challenge, 0x83)], exec r.1 s = .next (said s r.2 []))
    ∧ (exec .keyExchange s = .next (said (session .keyed) 0xE4 []))
    ∧ (exec .finish s = .next (said (if s.n.session = .keyed then session .open_ else s) 0xE5 []))
    ∧ (exec .endSession s = .next (said (session .none) 0xEC []))
    ∧ (exec .getMeasurements s = .next (said s 0xE0 ([1, 2, 3, 4, 5, 6].flatMap (fun i => bytesOf 1 i ++ bytesOf 48 (s.measurement i).toNat))))
    ∧ (∀ i, s.measurement i =
        if i = 5 then Config.sha384
          (s.n.fuses.flatMap (fun p => bytesOf 2 p.1 ++ p.2.flatMap (bytesOf 1)) ++ s.m.retired.flatMap (bytesOf 2))
        else if i = 6 then Config.sha384
          (bytesOf 8 s.r.world.toNat ++ (List.range 8).flatMap (fun n => bytesOf 8 (Tab.get s.r.secRange n 0).toNat))
        else Tab.get s.n.measured i 0)
    ∧ (∃ t, exec (.pldmSensorRead sensor reading) s = .next t ∧ t = { s with out := t.out }
        ∧ ∃ k, t.out = s.out ++ [⟨.reply, k, 0, bytesOf 4 reading⟩])
    ∧ (controller ∈ [1, 3, 4] → ∀ part image rest, staged = (part, image) :: rest →
        (waited s.n.activated → quiet part → exec (.firmwareActivation controller measurement true) s = .next
          (s.setNode { s.n with
            measured := Tab.set s.n.measured part image
            activated := some s.clock
            staged := rest }))
        ∧ ((waited s.n.activated = false ∨ ¬quiet part) → exec (.firmwareActivation controller measurement true) s = .next
          (s.setNode { s.n with staged := staged })))
    ∧ (exec (.firmwareActivation controller measurement false) s = .next s)
    ∧ (controller ∉ [1, 3, 4] → exec (.firmwareActivation controller measurement true) s = .next s)
    ∧ ((cap < draw.toNat ∨ hot) →
        let falls := waited s.n.lowered
        let s1 := set (if falls && 16 ≤ freq then freq - 1 else freq) draw.toNat
        let s2 := (s1.setNode { s.n with
          cool := none
          lowered := if falls then some s.clock else s.n.lowered }).raiseIntr 9
        exec (.powerCapExceeded draw hot) s = .next (if hot then inBand s2 0 else s2))
    ∧ (draw.toNat ≤ cap → hot = false → exec (.powerCapExceeded draw hot) s = .next
        ((set freq draw.toNat).setNode { s.n with cool := some (s.n.cool.getD s.clock) }))
    ∧ (∀ t, s.n.cool = some t → s.clock < t + 30000000 → exec .clockRaise s = .next s)
    ∧ (∀ t, s.n.cool = some t → t + 30000000 ≤ s.clock → freq < 30 → exec .clockRaise s = .next
        ((set (freq + 1) (bits s.r.powercap.toNat 16 16)).raiseIntr 9))
    ∧ (s.n.cool = none → exec .clockRaise s = .next s)
    ∧ (30 ≤ freq → exec .clockRaise s = .next s)
    ∧ (∃ t, exec .junctionOvertemp s = .next t ∧ t.n.off ∧ t.r.intr.getLsbD 9 = true ∧ t.m = s.m ∧ t.v = s.v ∧ t.harts = s.harts
        ∧ t.out.getLast? = some ⟨.inBand, s.n.address, 1, []⟩)

/-- The checks of a slot (R173, R174, R55, R383). An unassigned opcode, or 0xFF, makes the group take ILLEGAL; a slot of any
vector-core instruction that fails a check of R173 makes the group take that check's trap, whatever the guard, and does nothing else; a
group that awaits ENGINERESET or LANEFAULT takes it before anything else. -/
def Obligations.SlotChecks : Prop :=
  ∀ (s : State) (g0 : Group), s.group? s.cur.group = some g0 →
    let g := s.asSeen g0
    (∀ op c, g0.pendingTrap = none → c = Cause.illegal → exec (.unassignedOpcode op) s = .next
      (s.settleHandler (s.groupTrap s.cur.group g0 (s.lanesOf g0 (slotOf 0)) c) s.cur.group g0))
    ∧ (∀ i op sub f c, i.slot? = some (op, sub, f) → g.pendingTrap = none → checkSlot (s.declared g.block) g op f = some c →
        exec i s = .next (s.settleHandler (s.groupTrap s.cur.group g (s.lanesOf g f) c) s.cur.group g))
    ∧ (∀ i op sub f c, i.slot? = some (op, sub, f) → g.pendingTrap = some c →
        exec i s = .next (s.takePending s.cur.group g (s.lanesOf g f) c))

/-- What each lane of an integer instruction holds afterwards (R27, R156, R191, R192, R215 to R223). In a state whose lanes at the
PC have different threads: an executing lane's D registers hold the words of the result, formed from the registers before, and every
lane at the PC is at NextPc. It is not said of a higher slot whose lower slot returns lanes from their handlers, which then go on
elsewhere (R161, R448). What BFI.B64 inserts above bit 31 where its length exceeds 32 is the model's choice (assumption log 45). -/
def Obligations.IntegerLanes : Prop :=
  ∀ (s t : State) (f : Slot) (g : Group), ∀ r ∈ integerRows f g,
    issuesB s r.op f g → noReturn s → exec r.instr s = .next t → ((s.lanesOf g f).map (·.key)).Nodup →
      ∀ l ∈ s.lanesOf g f, ∃ th, t.thread? l.key = some th ∧ th.pc = nextPc g.pc ∧
        (l.run → ∀ i < r.regs, th.reg (f.d.toNat + i) = (wordsOf r.regs (r.val l)).getD i 0)

/-- The frame of the instructions whose lanes execute by themselves, of the exchanges and of the votes (R22, R27, R156, R192). Where
one goes on to a next state: memory, the special registers, blocks, launches, other groups and everything else that is not a register
of a thread at the PC are unchanged; the group keeps its scalars, flags and owed registers; of outstanding instructions only the
lower slot's of the same pair learns which registers stand; of a thread only the PC, and where its lane executes D and the draw
counter, may change; a register form changes no predicate, a predicate form no register, and only those that
round draw. It is not said of a higher slot whose lower slot returns lanes from their handlers (R161, R448). -/
def Obligations.LanewiseFrame : Prop :=
  ∀ (s t : State) (f : Slot) (g : Group),
    let rest : Prop :=
      (t = { s with v := { s.v with threads := t.v.threads, groups := t.v.groups, ops := t.v.ops } })
      ∧ (∀ k o, (∀ p, s.cur.snap = some p → p.lower ≠ k) → s.op? k = some o → t.op? k = some o)
      ∧ (∀ k o, s.op? k = some o → ∃ o', t.op? k = some o' ∧ { o' with lanes := o.lanes } = o)
      ∧ (∀ k, k ≠ s.cur.group → t.group? k = s.group? k)
      ∧ (∀ g0, s.group? s.cur.group = some g0 → ∃ line, t.group? s.cur.group = some { g0 with pc := nextPc g.pc, line := line })
      ∧ (∀ k, (∀ l ∈ s.lanesOf g f, l.key ≠ k) → t.thread? k = s.thread? k)
    let thread (same : Thread → Thread → Prop) : Prop :=
      ∀ l ∈ s.lanesOf g f, ∀ th, s.thread? l.key = some th → ∃ th', t.thread? l.key = some th' ∧ same th th'
        ∧ th' = { th with pc := nextPc g.pc, regs := th'.regs, preds := th'.preds, draws := th'.draws }
        ∧ ((∀ x ∈ s.lanesOf g f, x.key = l.key → x.run = false) →
            th'.regs = th.regs ∧ th'.preds = th.preds ∧ th'.draws = th.draws)
    let outsideD (n : Nat) (th th' : Thread) : Prop := ∀ k, (k < f.d.toNat ∨ f.d.toNat + n ≤ k) → th'.reg k = th.reg k
    (∀ r ∈ integerRows f g ++ bitsRows s f g ++ exchangeRows s f g, issuesB s r.op f g → noReturn s → exec r.instr s = .next t →
      rest ∧ thread (fun th th' => outsideD r.regs th th' ∧ th'.preds = th.preds ∧ th'.draws = th.draws))
    ∧ (∀ r ∈ predicateRows f g ++ voteRows s f g, issuesB s r.op f g → noReturn s → exec r.instr s = .next t →
      rest ∧ thread (fun th th' => th'.regs = th.regs ∧ th'.draws = th.draws
        ∧ ∀ k < 96, k ≠ f.d.toNat → th'.preds.getLsbD k = th.preds.getLsbD k))
    ∧ (∀ r ∈ floatRows s f g, issuesB s r.op f g → noReturn s → exec r.instr s = .next t →
      rest ∧ thread (fun th th' => outsideD (max 1 (wOf f)) th th' ∧ th'.preds = th.preds))

/-- Further frames, and the values of the scratchpad. Arithmetic of variable latency changes no memory, no block, no register and no
predicate when it issues (R153, R157), which is not said of a higher slot whose lower slot returns lanes from their handlers. One
lane's access of the scratchpad is as follows (R242, R248, R249, R251, R332): LDS and LDF bring the bytes at its address as their type
extends them, STS and STF store the low bytes of the data, LDF.C empties and STF fills the granule, FEMARK marks its range, which a
length of zero leaves as it is (assumption log 55), SBAR.ARRIVE counts and SBAR.TEST compares; LDF of an empty and STF.W of a full granule
wait. It changes no other byte, no other full bit, and nothing else of the block, and its bytes stay listed in rising order. A host store with translation off to the package's memory changes the bytes it stores and, of the
hart, the pc (R451). -/
def Obligations.StoreFrames : Prop :=
  (∀ (s t : State) (f : Slot) (g : Group), ∀ r ∈ slowRows s f g, issuesB s r.2.1 f g → noReturn s → exec r.1 s = .next t →
    t.m = s.m ∧ t.v.blocks = s.v.blocks ∧ t.r = s.r ∧ t.harts = s.harts
      ∧ ∀ k th, s.thread? k = some th → ∃ th', t.thread? k = some th' ∧ th'.regs = th.regs ∧ th'.preds = th.preds)
  ∧ (∀ (b b' : Block) (op : Nat) (f : Slot) (l l' : LaneOp), b.serve op f l = some (b', l') →
      let stored := if op = 0x83 ∨ op = 0x85 then tyWidth (Rule.ty f) / 8 else if op = 0xB3 then 8 else 0
      let size := tyWidth (Rule.ty f) / 8
      let loaded := wordsOf (Rule.regs (Rule.ty f))
        (if tySigned (Rule.ty f) then writeInt (Rule.ty f) (ofBytes (b.bytes l.ea size) : Int) else ofBytes (b.bytes l.ea size))
      let word := ofBytes (b.bytes l.ea 8)
      let given := ofWords l.b
      let expected := bits word 32 16
      let sum := bits word 16 16 + given % 65536
      let rises (b : Block) : Prop := Tab.risesFrom none b.scratch = true
      let put (n v : Nat) : Prop := rises b → ∀ i < n, b'.byte (l.ea + i) = BitVec.ofNat 8 (v / 256 ^ i)
      (rises b → rises b') ∧
      (∀ a, (a < l.ea ∨ l.ea + stored ≤ a) → b'.byte a = b.byte a)
      ∧ b' = { b with scratch := b'.scratch, full := b'.full }
      ∧ (op ∉ [0x84, 0x85, 0x86] → b'.full = b.full)
      ∧ (op ∈ [0x84, 0x85] → ∀ a, a / 16 ≠ l.ea / 16 → b'.isFull a = b.isFull a)
      ∧ l' = { l with stage := .done, res := l'.res }
      ∧ (op = 0x82 ∨ op = 0x84 → l'.res = loaded)
      ∧ (op = 0x83 ∨ op = 0x85 → put size given)
      ∧ (op = 0x84 → b.isFull l.ea ∧ b'.isFull l.ea = (Rule.sub f != 1))
      ∧ (op = 0x85 → (Rule.sub f = 0 → b.isFull l.ea = false) ∧ b'.isFull l.ea = true)
      ∧ (op = 0x86 → l.ea % 16 = 0 → given % 16 = 0 →
          ∀ a, b'.isFull a = (if l.ea ≤ a ∧ a < l.ea + given then Rule.sub f == 1 else b.isFull a))
      ∧ (op = 0xB3 → bits word 48 16 = 0 ∧ expected ≠ 0 ∧ l'.res = wordsOf 1 (word % 65536)
          ∧ put 8 (if expected ≤ sum then expected * 2 ^ 32 + (word % 65536 + 1) % 65536
              else expected * 2 ^ 32 + sum * 65536 + word % 65536))
      ∧ (op = 0xB4 → l'.res = wordsOf 1 (if word % 65536 ≠ given % 65536 then 1 else 0)))
  ∧ (∀ (b : Block) (op : Nat) (f : Slot) (l : LaneOp), b.serve op f l = none ↔
      (op = 0x84 ∧ b.isFull l.ea = false) ∨ (op = 0x85 ∧ Rule.sub f = 0 ∧ b.isFull l.ea)
      ∨ (op = 0xB3 ∧ (bits (ofBytes (b.bytes l.ea 8)) 48 16 ≠ 0 ∨ bits (ofBytes (b.bytes l.ea 8)) 32 16 = 0)))
  ∧ (∀ (s t : State) (f3 : BitVec 3) (reg rs1 : BitVec 5) (imm : BitVec 12) (off : Nat),
      let va := wrap 64 ((s.me.x rs1 : Int) + signed 12 imm.toNat)
      let n := 2 ^ (f3.toNat % 4)
      s.me.tx = none → s.translating = false → s.paClass va = .memory off → s.poisonedAt off n = false →
        exec (.hostAccess true f3 reg rs1 imm) s = .next t →
        (∀ a, (a < off ∨ off + n ≤ a) → Memory.read t.m.mem a = Memory.read s.m.mem a)
        ∧ t.v = s.v ∧ t.r = s.r ∧ t.l = s.l ∧ t.out = s.out
        ∧ (∀ h, h ≠ s.cur.hart → t.hart h = s.hart h) ∧ t.me = { s.me with pc := s.me.pc + 4 })

/-- A step runs the decoded instruction (R16, R33, R146, R150, R159, R160, R161, R173, R231, R325, R450). A store to a device register acts
first, but a store to SYS.CTXCMD after the context operation that a core issues in that cycle. Else, of the turns of the agenda that
fall in the next cycle, the first of least rank acts: where the arbiter of a core chooses a group whose line is entered, the slot at its
PC is executed, as an unassigned opcode where it decodes to nothing, both slots of a pair in order, the higher one where the lower one
neither trapped nor moved the group elsewhere, and an illegal pair takes ILLEGAL; a group whose line is not entered enters it; where a
hart runs, the word it fetches; and an event is executed on its object. Around it the step only advances the agenda and the clock, makes
coves that are due READY, notes that the group issued, and lets the units do what they do at once.
Where it rests on a choice of the model, that is assumption logs 1, 39 and, for the base instructions of a hart, 56. -/
def Obligations.StepRuns : Prop :=
  ∀ (s : State) (i j : Instr), s.n.off = false →
    let runs (w : BitVec 96) (i : Instr) : Prop :=
      decodeSlot w = .ok i ∨ (∃ e, decodeSlot w = .error e) ∧ i = .unassignedOpcode (w.extractLsb' 0 8)
    let issued (s0 : State) (core : Nat) : Prop :=
      ∀ gid g, s0.arbiter core = some gid → s0.group? gid = some g →
        let at_ : State :=
          { s0 with
            sel := ⟨gid, 0, 0⟩
            cur := ⟨gid, none, false, none, 0⟩ }
        (g.entered = none → step s = ended s (exec (if g.refetch then .parityRefetch else .lineEntry) at_))
        ∧ (∀ bits_, g.entered = some bits_ →
          let k := slotNo g.pc.toNat
          let s2 := (at_.updGroup gid (fun g => { g with since := s0.clock })).noteLeft gid
          (isLower bits_ k = false → runs (lineSlot bits_ k) i → step s = ended s (exec i s2))
          ∧ (isLower bits_ k → pairLegal bits_ k = false → step s = ended s (exec (.unassignedOpcode 0xFF) s2))
          ∧ (isLower bits_ k → pairLegal bits_ k → runs (lineSlot bits_ k) i → runs (lineSlot bits_ (k + 1)) j →
              ∀ s3, exec i (s2.setCur ⟨gid, none, false, some [], 0⟩) = .next s3 →
                (State.higher (s2.setCur ⟨gid, none, false, some [], 0⟩) s3 = none → step s = ended s (.next s3))
                ∧ (∀ s4, State.higher (s2.setCur ⟨gid, none, false, some [], 0⟩) s3 = some s4 → step s = ended s (exec j s4))))
    (∀ off value who more, s.r.queue = (off, value, who) :: more →
      (off ≠ 0x68 → s.ctxPeer off = none)
      ∧ (s.ctxPeer off = none → ∀ sel, registerEvent off value who = some (i, sel) →
        step s = ended s (exec i { s.setSys { s.r with queue := more } with sel := sel }))
      ∧ (∀ act rest, s.ctxPeer off = some (act, rest) → s.powered →
        ∃ core, act = .issue core ∧ (s.issueClass core).1 = 34 ∧ issued { s with agenda := rest } core))
    ∧ (∀ (head : Turn) (rest : List Turn), s.r.queue = [] → s.agenda = head :: rest →
      let s1 : State := ({ s with clock := s.clock + head.wait }).ageCoves s.clock
      s1.powered →
      let peers := rest.takeWhile (fun t => t.wait == 0)
      let b := bestTurn s1.actRank { head with wait := 0 } peers
      let s0 : State := { s1 with agenda := b.2 ++ rest.drop peers.length }
      (∀ u ∈ { head with wait := 0 } :: peers, s1.actRank b.1.act ≤ s1.actRank u.act)
      ∧ (∀ core, b.1.act = .issue core → issued s0 core)
      ∧ (∀ h s2 w, b.1.act = .host h → h < 64 → (s0.hart h).running → s0.hostFetch h = .word s2 w →
          (decodeHost w = .ok i → step s = ended s (exec i (s2.setCur ⟨0, none, false, none, h⟩)))
          ∧ (∀ e, decodeHost w = .error e → step s = ended s (.next ((s2.rvStep h w).getD s0))))
      ∧ (∀ sel, b.1.act = .event i sel → isEvent i → step s = ended s (exec i { s0 with sel := sel })))

/-- Words of the encoding decode to the instructions that they stand for (R162, R171, R231, R348).
Where it rests on a choice of the model, that is assumption log 15. -/
def Obligations.DecodeExamples : Prop :=
  decodeTableWord 96 0x000000010340000002020010 = some (.iadd ⟨0, false, 2, 2, 0, 0, 0x40, 3, 0, 1⟩)
  ∧ decodeTableWord 96 0x000000000D01070506080043 = some (.fma ⟨0, false, 8, 6, 5, 7, 1, 13, 0, 0⟩)
  ∧ decodeTableWord 96 0x0000000C0000000000140003 = some (.call ⟨0, false, 20, 0, 0, 0, 0, 0, 0, 12⟩)
  ∧ decodeTableWord 96 0x000000000010000D040C008C = some (.copy ⟨0, false, 12, 4, 13, 0, 0x10, 0, 0, 0⟩)
  ∧ decodeTableWord 32 0x0005850B = some (.xlaunch 10 11)
  ∧ decodeTableWord 32 0x0140200B = some (.xfence 2 4)
  ∧ decodeTableWord 32 0x0050202B = some (.xtxAbort 5)
  ∧ decodeTableWord 96 0xFF = some (.unassignedOpcode 0xFF)

/-- Decoding and encoding agree (R162, R171, R231, R348; the encodings of the base instructions are the model's, assumption log 15):
the words of every well-formed instruction decode to it, with every operand at every value; words that decode to an instruction other
than an illegal one are its words, so that no bit of them is dropped; an unlisted word of custom-0 or custom-1 is the illegal
instruction of R175. -/
def Obligations.DecodeEncode : Prop :=
  (∀ (i : Instr) (w : Words), i.wf → (∀ v, i ≠ .hostIllegalInstruction v) → encode i = some w → decodeWords w = .ok i)
  ∧ (∀ (i : Instr) (w : Words), (∀ op, i ≠ .unassignedOpcode op) → decodeWords w = .ok i → encode i = some w)
  ∧ (∀ v : BitVec 32, (v.extractLsb' 0 7 = 0x0B ∧ decodeCustom0 v = none ∨ v.extractLsb' 0 7 = 0x2B ∧ decodeCustom1 v = none) →
      decodeWords (.host v) = .ok (.hostIllegalInstruction v))

/-- Reserved encodings are refused (R172, R173, R175). What the decoder gives is well-formed; a guard of 96 or more, an operand, SUB,
TYPE or M that the row does not accept, or an unused field that is not zero, is no instruction of an assigned opcode.
Where it rests on a choice of the model, that is assumption log 15. -/
def Obligations.DecodeSound : Prop :=
  (∀ (i : Instr) (w : Words), decodeWords w = .ok i → i.wf)
  ∧ (∀ (i : Instr) (w : BitVec 96), 96 ≤ (w.extractLsb' 8 7).toNat → decodeSlot w = .ok i → ∃ op, i = .unassignedOpcode op)
  ∧ (∀ w : BitVec 96, w.extractLsb' 0 8 = 0xFF → decodeSlot w = .ok (.unassignedOpcode 0xFF))

/-- Reset (R110, R116, R410, R426, R430, R433, R434, R442, R457, R466, R477, R488): the values that the spec gives the registers, read
as software reads them; memory is in its canonical form; the cores wait for boot. The spec gives none for SYS.POWERCAP.DRAW, which is
zero (the model's choice, assumption log 13), nor for memory before boot, which reads zero (the model's choice, assumption log 12). -/
def Obligations.ResetValues : Prop :=
  let s := State.reset
  s.clock = 0 ∧ s.powered = false ∧ memoryCanonical s ∧ (∀ a, Memory.read s.m.mem a = 0)
  ∧ s.regRead 0x00 = 0 ∧ s.regRead 0x20 = 0 ∧ s.regRead 0x40 = 0 ∧ s.regRead 0x48 = 0
  ∧ s.regRead 0x30 = 733 * 2 ^ 32 + 733 * 2 ^ 16 + 733 ∧ s.regRead 0x38 = 0x40 ∧ s.regRead 0x60 = 30 * 2 ^ 32 + 3600
  ∧ (∀ n < 16, s.regRead (0x200 + 8 * n) = 200 * 2 ^ 32) ∧ (∀ n < 1024, s.regRead (0x2000 + 8 * n) = 0xFFFF)
  ∧ tdbState (s.tdb 0) = 0 ∧ (∀ t, 0 < t → t < 1024 → tdbState (s.tdb t) = 3) ∧ (∀ d, s.domain d = (0, 0))
  ∧ s.l.fqSeq = 1 ∧ s.l.rcSeq = 1

/-- Physical memory (R6, R457): a write keeps the canonical form, its bytes are read back, every other byte reads as before, and
memories in canonical form that read alike are equal; every write at a controller keeps the form (R142, R454). -/
def Obligations.MemoryCanonical : Prop :=
  (∀ (m : List Host.Cell) (a : Nat) (data : List Byte), Memory.wf m →
    Memory.wf (Memory.writes m a data)
    ∧ (∀ i < data.length, Memory.read (Memory.writes m a data) (a + i) = data.getD i 0)
    ∧ (∀ b, (b < a ∨ a + data.length ≤ b) → Memory.read (Memory.writes m a data) b = Memory.read m b))
  ∧ (∀ (m n : List Host.Cell), Memory.wf m → Memory.wf n → (∀ a, Memory.read m a = Memory.read n a) → m = n)
  ∧ (∀ (s : State) (who : Writer) (pa : Nat) (data : List Byte), memoryCanonical s → memoryCanonical (s.ctrlWrite who pa data))

/-- An invariant of every step: physical memory keeps its canonical form, whatever instruction or event acts and whatever the units do of
themselves after it (R6, R139, R142, R454, R457); the state after reset has it. -/
def Obligations.StepKeepsMemory : Prop :=
  memoryCanonical State.reset ∧ ∀ s t : State, memoryCanonical s → step s = .next t → memoryCanonical t

end
end

