-- ==== Sys2Proof/Laws/Tab.lean ====
section
/-! SUPPORT. What sparse tables answer after an update, and that updates keep the keys rising. -/

namespace Sys2Proof.Machine

theorem Tab.look_set {α : Type} (t : Tab α) (q p : Nat) (v : α) :
    Tab.look (Tab.set t q v) p = if q = p then some v else Tab.look t p := by
  induction t with
  | nil => rfl
  | cons e t ih =>
    unfold Tab.set
    split
    · simp only [Tab.look]
    · split
      · next h => by_cases hp : q = p <;> simp [Tab.look, ← h, hp]
      · next h1 h2 =>
        by_cases hp : e.1 = p
        · simp [Tab.look, hp, show q ≠ p by omega]
        · simp [Tab.look, hp, ih]

@[simp] theorem Tab.look_set_same {α : Type} (t : Tab α) (q : Nat) (v : α) : Tab.look (Tab.set t q v) q = some v := by
  simp [Tab.look_set]

theorem Tab.look_set_other {α : Type} (t : Tab α) {q p : Nat} (v : α) (h : q ≠ p) : Tab.look (Tab.set t q v) p = Tab.look t p := by
  simp [Tab.look_set, h]

theorem Tab.get_set {α : Type} (t : Tab α) (q p : Nat) (v d : α) :
    Tab.get (Tab.set t q v) p d = if q = p then v else Tab.get t p d := by
  simp only [Tab.get, Tab.look_set]; split <;> rfl

theorem Tab.look_upd {α : Type} (t : Tab α) (q p : Nat) (h : α → α) :
    Tab.look (Tab.upd t q h) p = if q = p then (Tab.look t p).map h else Tab.look t p := by
  induction t with
  | nil => simp [Tab.upd, Tab.look]
  | cons e t ih =>
    unfold Tab.upd
    split
    · next hq => subst hq; by_cases hp : e.1 = p <;> simp [Tab.look, hp]
    · next hq =>
      by_cases hp : e.1 = p
      · simp [Tab.look, hp, show q ≠ p by omega]
      · simp [Tab.look, hp, ih]

theorem Tab.look_del_other {α : Type} (t : Tab α) {q p : Nat} (h : q ≠ p) : Tab.look (Tab.del t q) p = Tab.look t p := by
  induction t with
  | nil => rfl
  | cons e t ih =>
    unfold Tab.del
    split
    · next hq => simp [Tab.look, show e.1 ≠ p by omega]
    · simp only [Tab.look, ih]

/-- A key below every key of a rising table is absent. -/
theorem Tab.look_below {α : Type} (t : Tab α) (lo q : Nat) (h : Tab.risesFrom (some lo) t = true) (hq : q ≤ lo) :
    Tab.look t q = none := by
  induction t generalizing lo with
  | nil => rfl
  | cons e t ih =>
    simp only [Tab.risesFrom, Bool.and_eq_true, decide_eq_true_eq] at h
    simp [Tab.look, show e.1 ≠ q by omega, ih e.1 h.2 (by omega)]

theorem Tab.risesFrom_le {α : Type} (t : Tab α) (lo hi : Nat) (h : Tab.risesFrom (some hi) t = true) (hl : lo ≤ hi) :
    Tab.risesFrom (some lo) t = true := by
  cases t with
  | nil => rfl
  | cons e t =>
    simp only [Tab.risesFrom, Bool.and_eq_true, decide_eq_true_eq] at h ⊢
    exact ⟨by omega, h.2⟩

theorem Tab.risesFrom_none {α : Type} (t : Tab α) (lo : Nat) (h : Tab.risesFrom (some lo) t = true) :
    Tab.risesFrom none t = true := by
  cases t with
  | nil => rfl
  | cons e t =>
    simp only [Tab.risesFrom, Bool.and_eq_true] at h ⊢
    exact ⟨trivial, h.2⟩

/-- The key `q` may stand above the bound `lo`. -/
def Tab.above (lo : Option Nat) (q : Nat) : Bool := match lo with | none => true | some l => decide (l < q)

theorem Tab.risesFrom_cons {α : Type} (lo : Option Nat) (e : Nat × α) (t : Tab α) :
    Tab.risesFrom lo (e :: t) = (Tab.above lo e.1 && Tab.risesFrom (some e.1) t) := by
  cases lo <;> rfl

theorem Tab.risesFrom_set {α : Type} (t : Tab α) (lo : Option Nat) (q : Nat) (v : α) (h : Tab.risesFrom lo t = true)
    (hq : Tab.above lo q = true) : Tab.risesFrom lo (Tab.set t q v) = true := by
  induction t generalizing lo with
  | nil => simp [Tab.set, Tab.risesFrom_cons, hq, Tab.risesFrom]
  | cons e t ih =>
    rw [Tab.risesFrom_cons, Bool.and_eq_true] at h
    unfold Tab.set
    split
    · next hlt => rw [Tab.risesFrom_cons, hq, Tab.risesFrom_cons, h.2]; simp [Tab.above, hlt]
    · split
      · next he => subst he; simp [Tab.risesFrom_cons, hq, h.2]
      · next h1 h2 =>
        rw [Tab.risesFrom_cons, h.1, Bool.true_and]
        exact ih (some e.1) h.2 (by simp [Tab.above]; omega)

theorem Tab.risesFrom_del {α : Type} (t : Tab α) (lo : Option Nat) (q : Nat) (h : Tab.risesFrom lo t = true) :
    Tab.risesFrom lo (Tab.del t q) = true := by
  induction t generalizing lo with
  | nil => rfl
  | cons e t ih =>
    rw [Tab.risesFrom_cons, Bool.and_eq_true] at h
    unfold Tab.del
    split
    · cases lo with
      | none => exact Tab.risesFrom_none t e.1 h.2
      | some l =>
        have hl := h.1
        simp only [Tab.above, decide_eq_true_eq] at hl
        exact Tab.risesFrom_le t l e.1 h.2 (by omega)
    · rw [Tab.risesFrom_cons, h.1, Bool.true_and]; exact ih (some e.1) h.2

/-- A deleted key of a rising table is absent. -/
theorem Tab.look_del_same {α : Type} (t : Tab α) (lo : Option Nat) (q : Nat) (h : Tab.risesFrom lo t = true) :
    Tab.look (Tab.del t q) q = none := by
  induction t generalizing lo with
  | nil => rfl
  | cons e t ih =>
    rw [Tab.risesFrom_cons, Bool.and_eq_true] at h
    unfold Tab.del
    split
    · next he => exact Tab.look_below t e.1 q h.2 (by omega)
    · next he => simp [Tab.look, he, ih (some e.1) h.2]

end Sys2Proof.Machine
end

