-- ==== Sys2Proof/Laws/State.lean ====
section
/-! SUPPORT. One lemma per field per update of the state, each true by unfolding, and what a table of the state answers after an
update of one entry. -/

namespace Sys2Proof.Machine

/-! State.setThreads -/

@[simp] theorem State.setThreads_clock (s : State) (t : Tab Thread) : (s.setThreads t).clock = s.clock := rfl
@[simp] theorem State.setThreads_powered (s : State) (t : Tab Thread) : (s.setThreads t).powered = s.powered := rfl
@[simp] theorem State.setThreads_m (s : State) (t : Tab Thread) : (s.setThreads t).m = s.m := rfl
@[simp] theorem State.setThreads_l (s : State) (t : Tab Thread) : (s.setThreads t).l = s.l := rfl
@[simp] theorem State.setThreads_x (s : State) (t : Tab Thread) : (s.setThreads t).x = s.x := rfl
@[simp] theorem State.setThreads_harts (s : State) (t : Tab Thread) : (s.setThreads t).harts = s.harts := rfl
@[simp] theorem State.setThreads_r (s : State) (t : Tab Thread) : (s.setThreads t).r = s.r := rfl
@[simp] theorem State.setThreads_f (s : State) (t : Tab Thread) : (s.setThreads t).f = s.f := rfl
@[simp] theorem State.setThreads_c (s : State) (t : Tab Thread) : (s.setThreads t).c = s.c := rfl
@[simp] theorem State.setThreads_n (s : State) (t : Tab Thread) : (s.setThreads t).n = s.n := rfl
@[simp] theorem State.setThreads_fresh (s : State) (t : Tab Thread) : (s.setThreads t).fresh = s.fresh := rfl
@[simp] theorem State.setThreads_nextId (s : State) (t : Tab Thread) : (s.setThreads t).nextId = s.nextId := rfl
@[simp] theorem State.setThreads_agenda (s : State) (t : Tab Thread) : (s.setThreads t).agenda = s.agenda := rfl
@[simp] theorem State.setThreads_sel (s : State) (t : Tab Thread) : (s.setThreads t).sel = s.sel := rfl
@[simp] theorem State.setThreads_cur (s : State) (t : Tab Thread) : (s.setThreads t).cur = s.cur := rfl
@[simp] theorem State.setThreads_out (s : State) (t : Tab Thread) : (s.setThreads t).out = s.out := rfl
@[simp] theorem State.setThreads_threads (s : State) (t : Tab Thread) : (s.setThreads t).v.threads = t := rfl
@[simp] theorem State.setThreads_groups (s : State) (t : Tab Thread) : (s.setThreads t).v.groups = s.v.groups := rfl
@[simp] theorem State.setThreads_blocks (s : State) (t : Tab Thread) : (s.setThreads t).v.blocks = s.v.blocks := rfl
@[simp] theorem State.setThreads_ops (s : State) (t : Tab Thread) : (s.setThreads t).v.ops = s.v.ops := rfl
@[simp] theorem State.setThreads_reqs (s : State) (t : Tab Thread) : (s.setThreads t).v.reqs = s.v.reqs := rfl
@[simp] theorem State.setThreads_locks (s : State) (t : Tab Thread) : (s.setThreads t).v.locks = s.v.locks := rfl
@[simp] theorem State.setThreads_cores (s : State) (t : Tab Thread) : (s.setThreads t).v.cores = s.v.cores := rfl
@[simp] theorem State.setThreads_passes (s : State) (t : Tab Thread) : (s.setThreads t).v.passes = s.v.passes := rfl

/-! State.setGroups -/

@[simp] theorem State.setGroups_clock (s : State) (t : Tab Group) : (s.setGroups t).clock = s.clock := rfl
@[simp] theorem State.setGroups_powered (s : State) (t : Tab Group) : (s.setGroups t).powered = s.powered := rfl
@[simp] theorem State.setGroups_m (s : State) (t : Tab Group) : (s.setGroups t).m = s.m := rfl
@[simp] theorem State.setGroups_l (s : State) (t : Tab Group) : (s.setGroups t).l = s.l := rfl
@[simp] theorem State.setGroups_x (s : State) (t : Tab Group) : (s.setGroups t).x = s.x := rfl
@[simp] theorem State.setGroups_harts (s : State) (t : Tab Group) : (s.setGroups t).harts = s.harts := rfl
@[simp] theorem State.setGroups_r (s : State) (t : Tab Group) : (s.setGroups t).r = s.r := rfl
@[simp] theorem State.setGroups_f (s : State) (t : Tab Group) : (s.setGroups t).f = s.f := rfl
@[simp] theorem State.setGroups_c (s : State) (t : Tab Group) : (s.setGroups t).c = s.c := rfl
@[simp] theorem State.setGroups_n (s : State) (t : Tab Group) : (s.setGroups t).n = s.n := rfl
@[simp] theorem State.setGroups_fresh (s : State) (t : Tab Group) : (s.setGroups t).fresh = s.fresh := rfl
@[simp] theorem State.setGroups_nextId (s : State) (t : Tab Group) : (s.setGroups t).nextId = s.nextId := rfl
@[simp] theorem State.setGroups_agenda (s : State) (t : Tab Group) : (s.setGroups t).agenda = s.agenda := rfl
@[simp] theorem State.setGroups_sel (s : State) (t : Tab Group) : (s.setGroups t).sel = s.sel := rfl
@[simp] theorem State.setGroups_cur (s : State) (t : Tab Group) : (s.setGroups t).cur = s.cur := rfl
@[simp] theorem State.setGroups_out (s : State) (t : Tab Group) : (s.setGroups t).out = s.out := rfl
@[simp] theorem State.setGroups_threads (s : State) (t : Tab Group) : (s.setGroups t).v.threads = s.v.threads := rfl
@[simp] theorem State.setGroups_groups (s : State) (t : Tab Group) : (s.setGroups t).v.groups = t := rfl
@[simp] theorem State.setGroups_blocks (s : State) (t : Tab Group) : (s.setGroups t).v.blocks = s.v.blocks := rfl
@[simp] theorem State.setGroups_ops (s : State) (t : Tab Group) : (s.setGroups t).v.ops = s.v.ops := rfl
@[simp] theorem State.setGroups_reqs (s : State) (t : Tab Group) : (s.setGroups t).v.reqs = s.v.reqs := rfl
@[simp] theorem State.setGroups_locks (s : State) (t : Tab Group) : (s.setGroups t).v.locks = s.v.locks := rfl
@[simp] theorem State.setGroups_cores (s : State) (t : Tab Group) : (s.setGroups t).v.cores = s.v.cores := rfl
@[simp] theorem State.setGroups_passes (s : State) (t : Tab Group) : (s.setGroups t).v.passes = s.v.passes := rfl

/-! State.setBlocks -/

@[simp] theorem State.setBlocks_clock (s : State) (t : Tab Block) : (s.setBlocks t).clock = s.clock := rfl
@[simp] theorem State.setBlocks_powered (s : State) (t : Tab Block) : (s.setBlocks t).powered = s.powered := rfl
@[simp] theorem State.setBlocks_m (s : State) (t : Tab Block) : (s.setBlocks t).m = s.m := rfl
@[simp] theorem State.setBlocks_l (s : State) (t : Tab Block) : (s.setBlocks t).l = s.l := rfl
@[simp] theorem State.setBlocks_x (s : State) (t : Tab Block) : (s.setBlocks t).x = s.x := rfl
@[simp] theorem State.setBlocks_harts (s : State) (t : Tab Block) : (s.setBlocks t).harts = s.harts := rfl
@[simp] theorem State.setBlocks_r (s : State) (t : Tab Block) : (s.setBlocks t).r = s.r := rfl
@[simp] theorem State.setBlocks_f (s : State) (t : Tab Block) : (s.setBlocks t).f = s.f := rfl
@[simp] theorem State.setBlocks_c (s : State) (t : Tab Block) : (s.setBlocks t).c = s.c := rfl
@[simp] theorem State.setBlocks_n (s : State) (t : Tab Block) : (s.setBlocks t).n = s.n := rfl
@[simp] theorem State.setBlocks_fresh (s : State) (t : Tab Block) : (s.setBlocks t).fresh = s.fresh := rfl
@[simp] theorem State.setBlocks_nextId (s : State) (t : Tab Block) : (s.setBlocks t).nextId = s.nextId := rfl
@[simp] theorem State.setBlocks_agenda (s : State) (t : Tab Block) : (s.setBlocks t).agenda = s.agenda := rfl
@[simp] theorem State.setBlocks_sel (s : State) (t : Tab Block) : (s.setBlocks t).sel = s.sel := rfl
@[simp] theorem State.setBlocks_cur (s : State) (t : Tab Block) : (s.setBlocks t).cur = s.cur := rfl
@[simp] theorem State.setBlocks_out (s : State) (t : Tab Block) : (s.setBlocks t).out = s.out := rfl
@[simp] theorem State.setBlocks_threads (s : State) (t : Tab Block) : (s.setBlocks t).v.threads = s.v.threads := rfl
@[simp] theorem State.setBlocks_groups (s : State) (t : Tab Block) : (s.setBlocks t).v.groups = s.v.groups := rfl
@[simp] theorem State.setBlocks_blocks (s : State) (t : Tab Block) : (s.setBlocks t).v.blocks = t := rfl
@[simp] theorem State.setBlocks_ops (s : State) (t : Tab Block) : (s.setBlocks t).v.ops = s.v.ops := rfl
@[simp] theorem State.setBlocks_reqs (s : State) (t : Tab Block) : (s.setBlocks t).v.reqs = s.v.reqs := rfl
@[simp] theorem State.setBlocks_locks (s : State) (t : Tab Block) : (s.setBlocks t).v.locks = s.v.locks := rfl
@[simp] theorem State.setBlocks_cores (s : State) (t : Tab Block) : (s.setBlocks t).v.cores = s.v.cores := rfl
@[simp] theorem State.setBlocks_passes (s : State) (t : Tab Block) : (s.setBlocks t).v.passes = s.v.passes := rfl

/-! State.setOps -/

@[simp] theorem State.setOps_clock (s : State) (t : Tab Op) : (s.setOps t).clock = s.clock := rfl
@[simp] theorem State.setOps_powered (s : State) (t : Tab Op) : (s.setOps t).powered = s.powered := rfl
@[simp] theorem State.setOps_m (s : State) (t : Tab Op) : (s.setOps t).m = s.m := rfl
@[simp] theorem State.setOps_l (s : State) (t : Tab Op) : (s.setOps t).l = s.l := rfl
@[simp] theorem State.setOps_x (s : State) (t : Tab Op) : (s.setOps t).x = s.x := rfl
@[simp] theorem State.setOps_harts (s : State) (t : Tab Op) : (s.setOps t).harts = s.harts := rfl
@[simp] theorem State.setOps_r (s : State) (t : Tab Op) : (s.setOps t).r = s.r := rfl
@[simp] theorem State.setOps_f (s : State) (t : Tab Op) : (s.setOps t).f = s.f := rfl
@[simp] theorem State.setOps_c (s : State) (t : Tab Op) : (s.setOps t).c = s.c := rfl
@[simp] theorem State.setOps_n (s : State) (t : Tab Op) : (s.setOps t).n = s.n := rfl
@[simp] theorem State.setOps_fresh (s : State) (t : Tab Op) : (s.setOps t).fresh = s.fresh := rfl
@[simp] theorem State.setOps_nextId (s : State) (t : Tab Op) : (s.setOps t).nextId = s.nextId := rfl
@[simp] theorem State.setOps_agenda (s : State) (t : Tab Op) : (s.setOps t).agenda = s.agenda := rfl
@[simp] theorem State.setOps_sel (s : State) (t : Tab Op) : (s.setOps t).sel = s.sel := rfl
@[simp] theorem State.setOps_cur (s : State) (t : Tab Op) : (s.setOps t).cur = s.cur := rfl
@[simp] theorem State.setOps_out (s : State) (t : Tab Op) : (s.setOps t).out = s.out := rfl
@[simp] theorem State.setOps_threads (s : State) (t : Tab Op) : (s.setOps t).v.threads = s.v.threads := rfl
@[simp] theorem State.setOps_groups (s : State) (t : Tab Op) : (s.setOps t).v.groups = s.v.groups := rfl
@[simp] theorem State.setOps_blocks (s : State) (t : Tab Op) : (s.setOps t).v.blocks = s.v.blocks := rfl
@[simp] theorem State.setOps_ops (s : State) (t : Tab Op) : (s.setOps t).v.ops = t := rfl
@[simp] theorem State.setOps_reqs (s : State) (t : Tab Op) : (s.setOps t).v.reqs = s.v.reqs := rfl
@[simp] theorem State.setOps_locks (s : State) (t : Tab Op) : (s.setOps t).v.locks = s.v.locks := rfl
@[simp] theorem State.setOps_cores (s : State) (t : Tab Op) : (s.setOps t).v.cores = s.v.cores := rfl
@[simp] theorem State.setOps_passes (s : State) (t : Tab Op) : (s.setOps t).v.passes = s.v.passes := rfl

/-! State.setReqs -/

@[simp] theorem State.setReqs_clock (s : State) (t : Tab Req) : (s.setReqs t).clock = s.clock := rfl
@[simp] theorem State.setReqs_powered (s : State) (t : Tab Req) : (s.setReqs t).powered = s.powered := rfl
@[simp] theorem State.setReqs_m (s : State) (t : Tab Req) : (s.setReqs t).m = s.m := rfl
@[simp] theorem State.setReqs_l (s : State) (t : Tab Req) : (s.setReqs t).l = s.l := rfl
@[simp] theorem State.setReqs_x (s : State) (t : Tab Req) : (s.setReqs t).x = s.x := rfl
@[simp] theorem State.setReqs_harts (s : State) (t : Tab Req) : (s.setReqs t).harts = s.harts := rfl
@[simp] theorem State.setReqs_r (s : State) (t : Tab Req) : (s.setReqs t).r = s.r := rfl
@[simp] theorem State.setReqs_f (s : State) (t : Tab Req) : (s.setReqs t).f = s.f := rfl
@[simp] theorem State.setReqs_c (s : State) (t : Tab Req) : (s.setReqs t).c = s.c := rfl
@[simp] theorem State.setReqs_n (s : State) (t : Tab Req) : (s.setReqs t).n = s.n := rfl
@[simp] theorem State.setReqs_fresh (s : State) (t : Tab Req) : (s.setReqs t).fresh = s.fresh := rfl
@[simp] theorem State.setReqs_nextId (s : State) (t : Tab Req) : (s.setReqs t).nextId = s.nextId := rfl
@[simp] theorem State.setReqs_agenda (s : State) (t : Tab Req) : (s.setReqs t).agenda = s.agenda := rfl
@[simp] theorem State.setReqs_sel (s : State) (t : Tab Req) : (s.setReqs t).sel = s.sel := rfl
@[simp] theorem State.setReqs_cur (s : State) (t : Tab Req) : (s.setReqs t).cur = s.cur := rfl
@[simp] theorem State.setReqs_out (s : State) (t : Tab Req) : (s.setReqs t).out = s.out := rfl
@[simp] theorem State.setReqs_threads (s : State) (t : Tab Req) : (s.setReqs t).v.threads = s.v.threads := rfl
@[simp] theorem State.setReqs_groups (s : State) (t : Tab Req) : (s.setReqs t).v.groups = s.v.groups := rfl
@[simp] theorem State.setReqs_blocks (s : State) (t : Tab Req) : (s.setReqs t).v.blocks = s.v.blocks := rfl
@[simp] theorem State.setReqs_ops (s : State) (t : Tab Req) : (s.setReqs t).v.ops = s.v.ops := rfl
@[simp] theorem State.setReqs_reqs (s : State) (t : Tab Req) : (s.setReqs t).v.reqs = t := rfl
@[simp] theorem State.setReqs_locks (s : State) (t : Tab Req) : (s.setReqs t).v.locks = s.v.locks := rfl
@[simp] theorem State.setReqs_cores (s : State) (t : Tab Req) : (s.setReqs t).v.cores = s.v.cores := rfl
@[simp] theorem State.setReqs_passes (s : State) (t : Tab Req) : (s.setReqs t).v.passes = s.v.passes := rfl

/-! State.setLocks -/

@[simp] theorem State.setLocks_clock (s : State) (t : List RangeLock) : (s.setLocks t).clock = s.clock := rfl
@[simp] theorem State.setLocks_powered (s : State) (t : List RangeLock) : (s.setLocks t).powered = s.powered := rfl
@[simp] theorem State.setLocks_m (s : State) (t : List RangeLock) : (s.setLocks t).m = s.m := rfl
@[simp] theorem State.setLocks_l (s : State) (t : List RangeLock) : (s.setLocks t).l = s.l := rfl
@[simp] theorem State.setLocks_x (s : State) (t : List RangeLock) : (s.setLocks t).x = s.x := rfl
@[simp] theorem State.setLocks_harts (s : State) (t : List RangeLock) : (s.setLocks t).harts = s.harts := rfl
@[simp] theorem State.setLocks_r (s : State) (t : List RangeLock) : (s.setLocks t).r = s.r := rfl
@[simp] theorem State.setLocks_f (s : State) (t : List RangeLock) : (s.setLocks t).f = s.f := rfl
@[simp] theorem State.setLocks_c (s : State) (t : List RangeLock) : (s.setLocks t).c = s.c := rfl
@[simp] theorem State.setLocks_n (s : State) (t : List RangeLock) : (s.setLocks t).n = s.n := rfl
@[simp] theorem State.setLocks_fresh (s : State) (t : List RangeLock) : (s.setLocks t).fresh = s.fresh := rfl
@[simp] theorem State.setLocks_nextId (s : State) (t : List RangeLock) : (s.setLocks t).nextId = s.nextId := rfl
@[simp] theorem State.setLocks_agenda (s : State) (t : List RangeLock) : (s.setLocks t).agenda = s.agenda := rfl
@[simp] theorem State.setLocks_sel (s : State) (t : List RangeLock) : (s.setLocks t).sel = s.sel := rfl
@[simp] theorem State.setLocks_cur (s : State) (t : List RangeLock) : (s.setLocks t).cur = s.cur := rfl
@[simp] theorem State.setLocks_out (s : State) (t : List RangeLock) : (s.setLocks t).out = s.out := rfl
@[simp] theorem State.setLocks_threads (s : State) (t : List RangeLock) : (s.setLocks t).v.threads = s.v.threads := rfl
@[simp] theorem State.setLocks_groups (s : State) (t : List RangeLock) : (s.setLocks t).v.groups = s.v.groups := rfl
@[simp] theorem State.setLocks_blocks (s : State) (t : List RangeLock) : (s.setLocks t).v.blocks = s.v.blocks := rfl
@[simp] theorem State.setLocks_ops (s : State) (t : List RangeLock) : (s.setLocks t).v.ops = s.v.ops := rfl
@[simp] theorem State.setLocks_reqs (s : State) (t : List RangeLock) : (s.setLocks t).v.reqs = s.v.reqs := rfl
@[simp] theorem State.setLocks_locks (s : State) (t : List RangeLock) : (s.setLocks t).v.locks = t := rfl
@[simp] theorem State.setLocks_cores (s : State) (t : List RangeLock) : (s.setLocks t).v.cores = s.v.cores := rfl
@[simp] theorem State.setLocks_passes (s : State) (t : List RangeLock) : (s.setLocks t).v.passes = s.v.passes := rfl

/-! State.setCores -/

@[simp] theorem State.setCores_clock (s : State) (t : Tab CoreSt) : (s.setCores t).clock = s.clock := rfl
@[simp] theorem State.setCores_powered (s : State) (t : Tab CoreSt) : (s.setCores t).powered = s.powered := rfl
@[simp] theorem State.setCores_m (s : State) (t : Tab CoreSt) : (s.setCores t).m = s.m := rfl
@[simp] theorem State.setCores_l (s : State) (t : Tab CoreSt) : (s.setCores t).l = s.l := rfl
@[simp] theorem State.setCores_x (s : State) (t : Tab CoreSt) : (s.setCores t).x = s.x := rfl
@[simp] theorem State.setCores_harts (s : State) (t : Tab CoreSt) : (s.setCores t).harts = s.harts := rfl
@[simp] theorem State.setCores_r (s : State) (t : Tab CoreSt) : (s.setCores t).r = s.r := rfl
@[simp] theorem State.setCores_f (s : State) (t : Tab CoreSt) : (s.setCores t).f = s.f := rfl
@[simp] theorem State.setCores_c (s : State) (t : Tab CoreSt) : (s.setCores t).c = s.c := rfl
@[simp] theorem State.setCores_n (s : State) (t : Tab CoreSt) : (s.setCores t).n = s.n := rfl
@[simp] theorem State.setCores_fresh (s : State) (t : Tab CoreSt) : (s.setCores t).fresh = s.fresh := rfl
@[simp] theorem State.setCores_nextId (s : State) (t : Tab CoreSt) : (s.setCores t).nextId = s.nextId := rfl
@[simp] theorem State.setCores_agenda (s : State) (t : Tab CoreSt) : (s.setCores t).agenda = s.agenda := rfl
@[simp] theorem State.setCores_sel (s : State) (t : Tab CoreSt) : (s.setCores t).sel = s.sel := rfl
@[simp] theorem State.setCores_cur (s : State) (t : Tab CoreSt) : (s.setCores t).cur = s.cur := rfl
@[simp] theorem State.setCores_out (s : State) (t : Tab CoreSt) : (s.setCores t).out = s.out := rfl
@[simp] theorem State.setCores_threads (s : State) (t : Tab CoreSt) : (s.setCores t).v.threads = s.v.threads := rfl
@[simp] theorem State.setCores_groups (s : State) (t : Tab CoreSt) : (s.setCores t).v.groups = s.v.groups := rfl
@[simp] theorem State.setCores_blocks (s : State) (t : Tab CoreSt) : (s.setCores t).v.blocks = s.v.blocks := rfl
@[simp] theorem State.setCores_ops (s : State) (t : Tab CoreSt) : (s.setCores t).v.ops = s.v.ops := rfl
@[simp] theorem State.setCores_reqs (s : State) (t : Tab CoreSt) : (s.setCores t).v.reqs = s.v.reqs := rfl
@[simp] theorem State.setCores_locks (s : State) (t : Tab CoreSt) : (s.setCores t).v.locks = s.v.locks := rfl
@[simp] theorem State.setCores_cores (s : State) (t : Tab CoreSt) : (s.setCores t).v.cores = t := rfl
@[simp] theorem State.setCores_passes (s : State) (t : Tab CoreSt) : (s.setCores t).v.passes = s.v.passes := rfl

/-! State.setReports -/

@[simp] theorem State.setReports_clock (s : State) (t : List Report) : (s.setReports t).clock = s.clock := rfl
@[simp] theorem State.setReports_powered (s : State) (t : List Report) : (s.setReports t).powered = s.powered := rfl
@[simp] theorem State.setReports_v (s : State) (t : List Report) : (s.setReports t).v = s.v := rfl
@[simp] theorem State.setReports_m (s : State) (t : List Report) : (s.setReports t).m = s.m := rfl
@[simp] theorem State.setReports_x (s : State) (t : List Report) : (s.setReports t).x = s.x := rfl
@[simp] theorem State.setReports_harts (s : State) (t : List Report) : (s.setReports t).harts = s.harts := rfl
@[simp] theorem State.setReports_r (s : State) (t : List Report) : (s.setReports t).r = s.r := rfl
@[simp] theorem State.setReports_f (s : State) (t : List Report) : (s.setReports t).f = s.f := rfl
@[simp] theorem State.setReports_c (s : State) (t : List Report) : (s.setReports t).c = s.c := rfl
@[simp] theorem State.setReports_n (s : State) (t : List Report) : (s.setReports t).n = s.n := rfl
@[simp] theorem State.setReports_fresh (s : State) (t : List Report) : (s.setReports t).fresh = s.fresh := rfl
@[simp] theorem State.setReports_nextId (s : State) (t : List Report) : (s.setReports t).nextId = s.nextId := rfl
@[simp] theorem State.setReports_agenda (s : State) (t : List Report) : (s.setReports t).agenda = s.agenda := rfl
@[simp] theorem State.setReports_sel (s : State) (t : List Report) : (s.setReports t).sel = s.sel := rfl
@[simp] theorem State.setReports_cur (s : State) (t : List Report) : (s.setReports t).cur = s.cur := rfl
@[simp] theorem State.setReports_out (s : State) (t : List Report) : (s.setReports t).out = s.out := rfl
@[simp] theorem State.setReports_launches (s : State) (t : List Report) : (s.setReports t).l.launches = s.l.launches := rfl
@[simp] theorem State.setReports_reports (s : State) (t : List Report) : (s.setReports t).l.reports = t := rfl
@[simp] theorem State.setReports_suspAsids (s : State) (t : List Report) : (s.setReports t).l.suspAsids = s.l.suspAsids := rfl
@[simp] theorem State.setReports_closedDies (s : State) (t : List Report) : (s.setReports t).l.closedDies = s.l.closedDies := rfl
@[simp] theorem State.setReports_gangs (s : State) (t : List Report) : (s.setReports t).l.gangs = s.l.gangs := rfl
@[simp] theorem State.setReports_claims (s : State) (t : List Report) : (s.setReports t).l.claims = s.l.claims := rfl
@[simp] theorem State.setReports_fqIndex (s : State) (t : List Report) : (s.setReports t).l.fqIndex = s.l.fqIndex := rfl
@[simp] theorem State.setReports_fqSeq (s : State) (t : List Report) : (s.setReports t).l.fqSeq = s.l.fqSeq := rfl
@[simp] theorem State.setReports_rcIndex (s : State) (t : List Report) : (s.setReports t).l.rcIndex = s.l.rcIndex := rfl
@[simp] theorem State.setReports_rcSeq (s : State) (t : List Report) : (s.setReports t).l.rcSeq = s.l.rcSeq := rfl
@[simp] theorem State.setReports_gangNext (s : State) (t : List Report) : (s.setReports t).l.gangNext = s.l.gangNext := rfl

/-! State.setLaunches -/

@[simp] theorem State.setLaunches_clock (s : State) (t : Tab Launch) : (s.setLaunches t).clock = s.clock := rfl
@[simp] theorem State.setLaunches_powered (s : State) (t : Tab Launch) : (s.setLaunches t).powered = s.powered := rfl
@[simp] theorem State.setLaunches_v (s : State) (t : Tab Launch) : (s.setLaunches t).v = s.v := rfl
@[simp] theorem State.setLaunches_m (s : State) (t : Tab Launch) : (s.setLaunches t).m = s.m := rfl
@[simp] theorem State.setLaunches_x (s : State) (t : Tab Launch) : (s.setLaunches t).x = s.x := rfl
@[simp] theorem State.setLaunches_harts (s : State) (t : Tab Launch) : (s.setLaunches t).harts = s.harts := rfl
@[simp] theorem State.setLaunches_r (s : State) (t : Tab Launch) : (s.setLaunches t).r = s.r := rfl
@[simp] theorem State.setLaunches_f (s : State) (t : Tab Launch) : (s.setLaunches t).f = s.f := rfl
@[simp] theorem State.setLaunches_c (s : State) (t : Tab Launch) : (s.setLaunches t).c = s.c := rfl
@[simp] theorem State.setLaunches_n (s : State) (t : Tab Launch) : (s.setLaunches t).n = s.n := rfl
@[simp] theorem State.setLaunches_fresh (s : State) (t : Tab Launch) : (s.setLaunches t).fresh = s.fresh := rfl
@[simp] theorem State.setLaunches_nextId (s : State) (t : Tab Launch) : (s.setLaunches t).nextId = s.nextId := rfl
@[simp] theorem State.setLaunches_agenda (s : State) (t : Tab Launch) : (s.setLaunches t).agenda = s.agenda := rfl
@[simp] theorem State.setLaunches_sel (s : State) (t : Tab Launch) : (s.setLaunches t).sel = s.sel := rfl
@[simp] theorem State.setLaunches_cur (s : State) (t : Tab Launch) : (s.setLaunches t).cur = s.cur := rfl
@[simp] theorem State.setLaunches_out (s : State) (t : Tab Launch) : (s.setLaunches t).out = s.out := rfl
@[simp] theorem State.setLaunches_launches (s : State) (t : Tab Launch) : (s.setLaunches t).l.launches = t := rfl
@[simp] theorem State.setLaunches_reports (s : State) (t : Tab Launch) : (s.setLaunches t).l.reports = s.l.reports := rfl
@[simp] theorem State.setLaunches_suspAsids (s : State) (t : Tab Launch) : (s.setLaunches t).l.suspAsids = s.l.suspAsids := rfl
@[simp] theorem State.setLaunches_closedDies (s : State) (t : Tab Launch) : (s.setLaunches t).l.closedDies = s.l.closedDies := rfl
@[simp] theorem State.setLaunches_gangs (s : State) (t : Tab Launch) : (s.setLaunches t).l.gangs = s.l.gangs := rfl
@[simp] theorem State.setLaunches_claims (s : State) (t : Tab Launch) : (s.setLaunches t).l.claims = s.l.claims := rfl
@[simp] theorem State.setLaunches_fqIndex (s : State) (t : Tab Launch) : (s.setLaunches t).l.fqIndex = s.l.fqIndex := rfl
@[simp] theorem State.setLaunches_fqSeq (s : State) (t : Tab Launch) : (s.setLaunches t).l.fqSeq = s.l.fqSeq := rfl
@[simp] theorem State.setLaunches_rcIndex (s : State) (t : Tab Launch) : (s.setLaunches t).l.rcIndex = s.l.rcIndex := rfl
@[simp] theorem State.setLaunches_rcSeq (s : State) (t : Tab Launch) : (s.setLaunches t).l.rcSeq = s.l.rcSeq := rfl
@[simp] theorem State.setLaunches_gangNext (s : State) (t : Tab Launch) : (s.setLaunches t).l.gangNext = s.l.gangNext := rfl

/-! State.setSys -/

@[simp] theorem State.setSys_clock (s : State) (r : Sys) : (s.setSys r).clock = s.clock := rfl
@[simp] theorem State.setSys_powered (s : State) (r : Sys) : (s.setSys r).powered = s.powered := rfl
@[simp] theorem State.setSys_v (s : State) (r : Sys) : (s.setSys r).v = s.v := rfl
@[simp] theorem State.setSys_m (s : State) (r : Sys) : (s.setSys r).m = s.m := rfl
@[simp] theorem State.setSys_l (s : State) (r : Sys) : (s.setSys r).l = s.l := rfl
@[simp] theorem State.setSys_x (s : State) (r : Sys) : (s.setSys r).x = s.x := rfl
@[simp] theorem State.setSys_harts (s : State) (r : Sys) : (s.setSys r).harts = s.harts := rfl
@[simp] theorem State.setSys_r (s : State) (r : Sys) : (s.setSys r).r = r := rfl
@[simp] theorem State.setSys_f (s : State) (r : Sys) : (s.setSys r).f = s.f := rfl
@[simp] theorem State.setSys_c (s : State) (r : Sys) : (s.setSys r).c = s.c := rfl
@[simp] theorem State.setSys_n (s : State) (r : Sys) : (s.setSys r).n = s.n := rfl
@[simp] theorem State.setSys_fresh (s : State) (r : Sys) : (s.setSys r).fresh = s.fresh := rfl
@[simp] theorem State.setSys_nextId (s : State) (r : Sys) : (s.setSys r).nextId = s.nextId := rfl
@[simp] theorem State.setSys_agenda (s : State) (r : Sys) : (s.setSys r).agenda = s.agenda := rfl
@[simp] theorem State.setSys_sel (s : State) (r : Sys) : (s.setSys r).sel = s.sel := rfl
@[simp] theorem State.setSys_cur (s : State) (r : Sys) : (s.setSys r).cur = s.cur := rfl
@[simp] theorem State.setSys_out (s : State) (r : Sys) : (s.setSys r).out = s.out := rfl

/-! State.setMem -/

@[simp] theorem State.setMem_clock (s : State) (m : MemSys) : (s.setMem m).clock = s.clock := rfl
@[simp] theorem State.setMem_powered (s : State) (m : MemSys) : (s.setMem m).powered = s.powered := rfl
@[simp] theorem State.setMem_v (s : State) (m : MemSys) : (s.setMem m).v = s.v := rfl
@[simp] theorem State.setMem_m (s : State) (m : MemSys) : (s.setMem m).m = m := rfl
@[simp] theorem State.setMem_l (s : State) (m : MemSys) : (s.setMem m).l = s.l := rfl
@[simp] theorem State.setMem_x (s : State) (m : MemSys) : (s.setMem m).x = s.x := rfl
@[simp] theorem State.setMem_harts (s : State) (m : MemSys) : (s.setMem m).harts = s.harts := rfl
@[simp] theorem State.setMem_r (s : State) (m : MemSys) : (s.setMem m).r = s.r := rfl
@[simp] theorem State.setMem_f (s : State) (m : MemSys) : (s.setMem m).f = s.f := rfl
@[simp] theorem State.setMem_c (s : State) (m : MemSys) : (s.setMem m).c = s.c := rfl
@[simp] theorem State.setMem_n (s : State) (m : MemSys) : (s.setMem m).n = s.n := rfl
@[simp] theorem State.setMem_fresh (s : State) (m : MemSys) : (s.setMem m).fresh = s.fresh := rfl
@[simp] theorem State.setMem_nextId (s : State) (m : MemSys) : (s.setMem m).nextId = s.nextId := rfl
@[simp] theorem State.setMem_agenda (s : State) (m : MemSys) : (s.setMem m).agenda = s.agenda := rfl
@[simp] theorem State.setMem_sel (s : State) (m : MemSys) : (s.setMem m).sel = s.sel := rfl
@[simp] theorem State.setMem_cur (s : State) (m : MemSys) : (s.setMem m).cur = s.cur := rfl
@[simp] theorem State.setMem_out (s : State) (m : MemSys) : (s.setMem m).out = s.out := rfl

/-! State.setCur -/

@[simp] theorem State.setCur_clock (s : State) (c : Cur) : (s.setCur c).clock = s.clock := rfl
@[simp] theorem State.setCur_powered (s : State) (c : Cur) : (s.setCur c).powered = s.powered := rfl
@[simp] theorem State.setCur_v (s : State) (c : Cur) : (s.setCur c).v = s.v := rfl
@[simp] theorem State.setCur_m (s : State) (c : Cur) : (s.setCur c).m = s.m := rfl
@[simp] theorem State.setCur_l (s : State) (c : Cur) : (s.setCur c).l = s.l := rfl
@[simp] theorem State.setCur_x (s : State) (c : Cur) : (s.setCur c).x = s.x := rfl
@[simp] theorem State.setCur_harts (s : State) (c : Cur) : (s.setCur c).harts = s.harts := rfl
@[simp] theorem State.setCur_r (s : State) (c : Cur) : (s.setCur c).r = s.r := rfl
@[simp] theorem State.setCur_f (s : State) (c : Cur) : (s.setCur c).f = s.f := rfl
@[simp] theorem State.setCur_c (s : State) (c : Cur) : (s.setCur c).c = s.c := rfl
@[simp] theorem State.setCur_n (s : State) (c : Cur) : (s.setCur c).n = s.n := rfl
@[simp] theorem State.setCur_fresh (s : State) (c : Cur) : (s.setCur c).fresh = s.fresh := rfl
@[simp] theorem State.setCur_nextId (s : State) (c : Cur) : (s.setCur c).nextId = s.nextId := rfl
@[simp] theorem State.setCur_agenda (s : State) (c : Cur) : (s.setCur c).agenda = s.agenda := rfl
@[simp] theorem State.setCur_sel (s : State) (c : Cur) : (s.setCur c).sel = s.sel := rfl
@[simp] theorem State.setCur_cur (s : State) (c : Cur) : (s.setCur c).cur = c := rfl
@[simp] theorem State.setCur_out (s : State) (c : Cur) : (s.setCur c).out = s.out := rfl

/-! State.setNode -/

@[simp] theorem State.setNode_clock (s : State) (x : Node) : (s.setNode x).clock = s.clock := rfl
@[simp] theorem State.setNode_powered (s : State) (x : Node) : (s.setNode x).powered = s.powered := rfl
@[simp] theorem State.setNode_v (s : State) (x : Node) : (s.setNode x).v = s.v := rfl
@[simp] theorem State.setNode_m (s : State) (x : Node) : (s.setNode x).m = s.m := rfl
@[simp] theorem State.setNode_l (s : State) (x : Node) : (s.setNode x).l = s.l := rfl
@[simp] theorem State.setNode_x (s : State) (x : Node) : (s.setNode x).x = s.x := rfl
@[simp] theorem State.setNode_harts (s : State) (x : Node) : (s.setNode x).harts = s.harts := rfl
@[simp] theorem State.setNode_r (s : State) (x : Node) : (s.setNode x).r = s.r := rfl
@[simp] theorem State.setNode_f (s : State) (x : Node) : (s.setNode x).f = s.f := rfl
@[simp] theorem State.setNode_c (s : State) (x : Node) : (s.setNode x).c = s.c := rfl
@[simp] theorem State.setNode_n (s : State) (x : Node) : (s.setNode x).n = x := rfl
@[simp] theorem State.setNode_fresh (s : State) (x : Node) : (s.setNode x).fresh = s.fresh := rfl
@[simp] theorem State.setNode_nextId (s : State) (x : Node) : (s.setNode x).nextId = s.nextId := rfl
@[simp] theorem State.setNode_agenda (s : State) (x : Node) : (s.setNode x).agenda = s.agenda := rfl
@[simp] theorem State.setNode_sel (s : State) (x : Node) : (s.setNode x).sel = s.sel := rfl
@[simp] theorem State.setNode_cur (s : State) (x : Node) : (s.setNode x).cur = s.cur := rfl
@[simp] theorem State.setNode_out (s : State) (x : Node) : (s.setNode x).out = s.out := rfl

/-! State.setFlow -/

@[simp] theorem State.setFlow_clock (s : State) (x : Flow) : (s.setFlow x).clock = s.clock := rfl
@[simp] theorem State.setFlow_powered (s : State) (x : Flow) : (s.setFlow x).powered = s.powered := rfl
@[simp] theorem State.setFlow_v (s : State) (x : Flow) : (s.setFlow x).v = s.v := rfl
@[simp] theorem State.setFlow_m (s : State) (x : Flow) : (s.setFlow x).m = s.m := rfl
@[simp] theorem State.setFlow_l (s : State) (x : Flow) : (s.setFlow x).l = s.l := rfl
@[simp] theorem State.setFlow_x (s : State) (x : Flow) : (s.setFlow x).x = s.x := rfl
@[simp] theorem State.setFlow_harts (s : State) (x : Flow) : (s.setFlow x).harts = s.harts := rfl
@[simp] theorem State.setFlow_r (s : State) (x : Flow) : (s.setFlow x).r = s.r := rfl
@[simp] theorem State.setFlow_f (s : State) (x : Flow) : (s.setFlow x).f = x := rfl
@[simp] theorem State.setFlow_c (s : State) (x : Flow) : (s.setFlow x).c = s.c := rfl
@[simp] theorem State.setFlow_n (s : State) (x : Flow) : (s.setFlow x).n = s.n := rfl
@[simp] theorem State.setFlow_fresh (s : State) (x : Flow) : (s.setFlow x).fresh = s.fresh := rfl
@[simp] theorem State.setFlow_nextId (s : State) (x : Flow) : (s.setFlow x).nextId = s.nextId := rfl
@[simp] theorem State.setFlow_agenda (s : State) (x : Flow) : (s.setFlow x).agenda = s.agenda := rfl
@[simp] theorem State.setFlow_sel (s : State) (x : Flow) : (s.setFlow x).sel = s.sel := rfl
@[simp] theorem State.setFlow_cur (s : State) (x : Flow) : (s.setFlow x).cur = s.cur := rfl
@[simp] theorem State.setFlow_out (s : State) (x : Flow) : (s.setFlow x).out = s.out := rfl

/-! What is found after an update -/

theorem State.updThread_thread? (s : State) (k p : Nat) (h : Thread → Thread) :
    (s.updThread k h).thread? p = if k = p then (s.thread? p).map h else s.thread? p := Tab.look_upd s.v.threads k p h

@[simp] theorem State.updThread_group? (s : State) (k p : Nat) (h : Thread → Thread) : (s.updThread k h).group? p = s.group? p := rfl
@[simp] theorem State.updThread_block? (s : State) (k p : Nat) (h : Thread → Thread) : (s.updThread k h).block? p = s.block? p := rfl
@[simp] theorem State.updThread_op? (s : State) (k p : Nat) (h : Thread → Thread) : (s.updThread k h).op? p = s.op? p := rfl
@[simp] theorem State.updThread_req? (s : State) (k p : Nat) (h : Thread → Thread) : (s.updThread k h).req? p = s.req? p := rfl

theorem State.updGroup_group? (s : State) (k p : Nat) (h : Group → Group) :
    (s.updGroup k h).group? p = if k = p then (s.group? p).map h else s.group? p := Tab.look_upd s.v.groups k p h

@[simp] theorem State.updGroup_thread? (s : State) (k p : Nat) (h : Group → Group) : (s.updGroup k h).thread? p = s.thread? p := rfl
@[simp] theorem State.updGroup_block? (s : State) (k p : Nat) (h : Group → Group) : (s.updGroup k h).block? p = s.block? p := rfl
@[simp] theorem State.updGroup_op? (s : State) (k p : Nat) (h : Group → Group) : (s.updGroup k h).op? p = s.op? p := rfl
@[simp] theorem State.updGroup_req? (s : State) (k p : Nat) (h : Group → Group) : (s.updGroup k h).req? p = s.req? p := rfl

theorem State.updBlock_block? (s : State) (k p : Nat) (h : Block → Block) :
    (s.updBlock k h).block? p = if k = p then (s.block? p).map h else s.block? p := Tab.look_upd s.v.blocks k p h

@[simp] theorem State.updBlock_thread? (s : State) (k p : Nat) (h : Block → Block) : (s.updBlock k h).thread? p = s.thread? p := rfl
@[simp] theorem State.updBlock_group? (s : State) (k p : Nat) (h : Block → Block) : (s.updBlock k h).group? p = s.group? p := rfl
@[simp] theorem State.updBlock_op? (s : State) (k p : Nat) (h : Block → Block) : (s.updBlock k h).op? p = s.op? p := rfl
@[simp] theorem State.updBlock_req? (s : State) (k p : Nat) (h : Block → Block) : (s.updBlock k h).req? p = s.req? p := rfl

theorem State.updOp_op? (s : State) (k p : Nat) (h : Op → Op) :
    (s.updOp k h).op? p = if k = p then (s.op? p).map h else s.op? p := Tab.look_upd s.v.ops k p h

@[simp] theorem State.updOp_thread? (s : State) (k p : Nat) (h : Op → Op) : (s.updOp k h).thread? p = s.thread? p := rfl
@[simp] theorem State.updOp_group? (s : State) (k p : Nat) (h : Op → Op) : (s.updOp k h).group? p = s.group? p := rfl
@[simp] theorem State.updOp_block? (s : State) (k p : Nat) (h : Op → Op) : (s.updOp k h).block? p = s.block? p := rfl
@[simp] theorem State.updOp_req? (s : State) (k p : Nat) (h : Op → Op) : (s.updOp k h).req? p = s.req? p := rfl

theorem State.updReq_req? (s : State) (k p : Nat) (h : Req → Req) :
    (s.updReq k h).req? p = if k = p then (s.req? p).map h else s.req? p := Tab.look_upd s.v.reqs k p h

@[simp] theorem State.updReq_thread? (s : State) (k p : Nat) (h : Req → Req) : (s.updReq k h).thread? p = s.thread? p := rfl
@[simp] theorem State.updReq_group? (s : State) (k p : Nat) (h : Req → Req) : (s.updReq k h).group? p = s.group? p := rfl
@[simp] theorem State.updReq_block? (s : State) (k p : Nat) (h : Req → Req) : (s.updReq k h).block? p = s.block? p := rfl
@[simp] theorem State.updReq_op? (s : State) (k p : Nat) (h : Req → Req) : (s.updReq k h).op? p = s.op? p := rfl

theorem State.updHart_hart (s : State) (k p : Nat) (h : Hart → Hart) :
    (s.updHart k h).hart p = if k = p then h (s.hart k) else s.hart p := by
  simp only [State.hart, State.updHart, Tab.get_set]

theorem State.updCore_coreOf (s : State) (k p : Nat) (h : CoreSt → CoreSt) :
    (s.updCore k h).coreOf p = if k = p then h (s.coreOf k) else s.coreOf p := by
  simp only [State.coreOf, State.updCore, State.setCores, Tab.get_set]

end Sys2Proof.Machine
end

