-- ==== Sys2Proof/Laws/Issue.lean ====
section
/-! SUPPORT. One lemma for each shared operation of issue: what it does where the slot passes the checks, and where it does
not. -/

namespace Sys2Proof.Laws

open Sys2Proof Sys2Proof.Machine

/-- A slot that passes the checks of R173 has its own effect. -/
theorem issue_next {s : State} {op f g} {body} (h : issues s op f g) :
    s.issue op f body = .next (s.settleSlot (body s.cur.group g (s.lanesOf g f)) s.cur.group g op f) := by
  simp only [issues, Bool.and_eq_true, beq_iff_eq, Option.isNone_iff_eq_none] at h
  obtain ⟨g0, h0, rfl⟩ := Option.map_eq_some_iff.mp h.1.1
  simp only [State.issue, h0, h.1.2, h.2]

/-- A slot that fails a check of R173 makes the group take that check's trap. -/
theorem issue_check {s : State} {op f g0 c} {body} (h : s.group? s.cur.group = some g0) (hp : (s.asSeen g0).pendingTrap = none)
    (hc : checkSlot (s.declared (s.asSeen g0).block) (s.asSeen g0) op f = some c) :
    s.issue op f body = .next (s.settleHandler (s.groupTrap s.cur.group (s.asSeen g0) (s.lanesOf (s.asSeen g0) f) c)
      s.cur.group (s.asSeen g0)) := by
  simp only [State.issue, h, hp, hc]

/-- A group with a pending trap takes it before anything else. -/
theorem issue_pending {s : State} {op f g0 c} {body} (h
    : s.group? s.cur.group = some g0) (hp : (s.asSeen g0).pendingTrap = some c) :
    s.issue op f body = .next (s.takePending s.cur.group (s.asSeen g0) (s.lanesOf (s.asSeen g0) f) c) := by
  simp only [State.issue, h, hp]

theorem issuesB_issues {s : State} {op f g} (h : issuesB s op f g) : issues s op f g := by
  simp [issuesB] at h; exact h.1

/-- An issue with neither traps nor aborts nor targets ends at NextPc. -/
theorem finish_plain {s : State} {gid g ls x} : s.finish gid g ls ⟨[], x, [], []⟩ = (s.advance gid g ls, none) := by
  unfold State.finish
  simp [State.after]

/-- An issue that nothing keeps from taking effect leaves what it leaves; of a higher slot, its registers stand. -/
theorem slot_none {s s1 : State} {g op f} : s.settleSlot (s1, none) s.cur.group g op f = kept s op f g s1 := rfl

/-- An issue that is held leaves its group where it is. -/
theorem slot_hold {s s1 : State} {g op f} : s.settleSlot (s1, some .hold) s.cur.group g op f = stays s g := rfl

/-- Only a higher slot beside a lower one that returns lanes has lanes to send on. -/
theorem goBack_none {s : State} {gid g stay} (h : noReturn s) : s.goBack gid g stay = s := by
  unfold State.goBack
  simp only [noReturn, Bool.or_eq_true, Option.isNone_iff_eq_none, List.isEmpty_iff] at h
  split
  · rename_i h1 h2
    rcases h with h | h <;> simp_all
  · rfl

theorem stays_alone {s : State} {g} (h : noReturn s) : stays s g = s := goBack_none h

theorem settle_none {s s1 : State} {gid g} : s.settleHandler (s1, none) gid g = s1 := rfl

theorem asSeen_block {s : State} {g : Group} : (s.asSeen g).block = g.block := by
  unfold State.asSeen; split <;> rfl

/-- A grid that may run it runs a privileged instruction (R272, R446). -/
theorem asPriv_next {s : State} {op f g b} (h : issuesPriv s op f g) : s.asPrivileged op f b = b s := by
  simp only [issuesPriv, issues, Bool.and_eq_true, beq_iff_eq] at h
  obtain ⟨g0, h0, rfl⟩ := Option.map_eq_some_iff.mp h.1.1.1
  have h2 := h.2
  rw [asSeen_block] at h2
  unfold State.asPrivileged
  simp only [h0, h2, if_true]

/-- A note on the lower slot's outstanding instruction is all that a higher slot's writes add. -/
theorem keepHigher_rest {s : State} {op f ls} : s.keepHigher op f ls = s.setOps (s.keepHigher op f ls).v.ops := by
  unfold State.keepHigher
  split
  · rfl
  · simp only []
    split <;> rfl

/-- Where the lower slot returns no lanes, what a higher slot wrote stands by that note alone. -/
theorem kept_rest {s t : State} {op f g} (h : noReturn t) : kept s op f g t = t.setOps (kept s op f g t).v.ops := by
  have e : kept s op f g t = t.keepHigher op f (s.lanesOf g f) := by
    unfold kept
    simp only []
    split
    · rfl
    · apply goBack_none
      rw [keepHigher_rest]
      exact h
  rw [e]
  exact keepHigher_rest

theorem kept_threads {s t : State} {op f g} (h : noReturn t) : (kept s op f g t).v.threads = t.v.threads := by
  rw [kept_rest h]; rfl
theorem kept_groups {s t : State} {op f g} (h : noReturn t) : (kept s op f g t).v.groups = t.v.groups := by
  rw [kept_rest h]; rfl
theorem kept_m {s t : State} {op f g} (h : noReturn t) : (kept s op f g t).m = t.m := by rw [kept_rest h]; rfl

/-- Outside a pair's higher slot there is nothing to note. -/
theorem kept_alone {s t : State} {op f g} (h : t.cur.snap = none) : kept s op f g t = t := by
  unfold kept State.keepHigher
  simp only [h]
  split
  · rfl
  · exact goBack_none (by simp [noReturn, h])

/-- A lanewise instruction changes each executing lane and moves the group to NextPc. -/
theorem lanewise_next {s : State} {op f g eff} (h : issuesB s op f g) : s.lanewise op f eff
    = .next (kept s op f g (ran s f g (eff g))) := by
  unfold State.lanewise
  rw [issue_next (issuesB_issues h)]
  simp [issuesB] at h
  simp only [h.2, Bool.false_eq_true, if_false]
  rfl

/-- The same with a value in D. -/
theorem lanewiseD_next {s : State} {op f g w val} (h : issuesB s op f g) : s.lanewiseD op f w val
    = .next (kept s op f g (wroteD s f g w (val g))) := lanewise_next h

/-- The same with a predicate in D. -/
theorem lanewiseP_next {s : State} {op f g val} (h : issuesB s op f g) : s.lanewiseP op f val
    = .next (kept s op f g (wroteP s f g (val g))) := lanewise_next h

/-- The same for a value formed from every executing lane. -/
theorem acrossLanes_next {s : State} {op f g eff} (h : issuesB s op f g) : s.acrossLanes op f eff
    = .next (kept s op f g (ran s f g (eff g (s.lanesOf g f)))) := by
  unfold State.acrossLanes
  rw [issue_next (issuesB_issues h)]
  simp [issuesB] at h
  simp only [h.2, Bool.false_eq_true, if_false]
  rfl

/-- The scalar pipe: the effect, and NextPc. -/
theorem issuesScalar_next {s : State} {op f g eff} (h : issuesScalar s op f g) :
    s.scalarOp op f eff = .next (kept s op f g ((eff s s.cur.group g (s.lanesOf g f)).advance s.cur.group g (s.lanesOf g f))) :=
        by
  unfold State.scalarOp
  simp only [issuesScalar, Bool.and_eq_true] at h
  rw [issue_next h.1.1]
  simp [h.1.2, h.2, State.settleSlot, State.after, kept]

/-- A thread that no listed lane names is as before. -/
theorem eachLane_other {ls : List LaneV} {s : State} {e} {k : Nat} (h : ∀ l ∈ ls, l.key ≠ k) :
    (s.eachLane ls e).thread? k = s.thread? k := by
  induction ls generalizing s with
  | nil => rfl
  | cons a t ih =>
    rw [State.eachLane, ih (fun l hl => h l (List.mem_cons_of_mem _ hl)), State.updThread_thread?,
        if_neg (h a List.mem_cons_self)]

/-- Outside the threads, a change of listed lanes leaves the state as it was. -/
theorem eachLane_rest {ls : List LaneV} {s : State} {e} :
    s.eachLane ls e = s.setThreads (s.eachLane ls e).v.threads := by
  induction ls generalizing s with
  | nil => rfl
  | cons a t ih => rw [State.eachLane, ih]; rfl

/-- Next PCs that agree resolve to the one they agree on (R197). -/
theorem stayingPc_all {fall p : Pc} {l : List Pc} (hne : l ≠ []) (h : ∀ q ∈ l, q = p) : stayingPc fall l = p := by
  have hl : l = List.replicate l.length p := by
    apply List.eq_replicate_iff.mpr; exact ⟨rfl, h⟩
  unfold stayingPc
  have hp : ∀ q ∈ l, (l.filter (fun r => r == q)).length = l.length := by
    intro q hq
    have : l.filter (fun r => r == q) = l := by
      apply List.filter_eq_self.mpr
      intro r hr; simp [h r hr, h q hq]
    rw [this]
  have hbest : l.foldl (fun m p => max m (l.filter (fun q => q == p)).length) 0 = l.length := by
    have : ∀ (k : List Pc) (m : Nat), (∀ q ∈ k, q ∈ l) → m ≤ l.length →
        k.foldl (fun m p => max m (l.filter (fun q => q == p)).length) m = if k = [] then m else l.length := by
      intro k
      induction k with
      | nil => intro m _ _; simp
      | cons a k ih =>
        intro m hk hm
        simp only [List.foldl_cons]
        rw [ih _ (fun q hq => hk q (List.mem_cons_of_mem _ hq)) (by rw [hp a (hk a (List.mem_cons_self))]; omega)]
        rw [hp a (hk a (List.mem_cons_self))]
        split <;> simp; omega
    rw [this l 0 (fun q h => h) (by omega)]; simp [hne]
  simp only [hbest]
  have htop : l.filter (fun q => (l.filter (fun r => r == q)).length == l.length) = l := by
    apply List.filter_eq_self.mpr
    intro q hq; simp [hp q hq]
  rw [htop]
  split
  · rename_i hc; simp at hc; exact h _ hc
  · rename_i hc
    cases l with
    | nil => exact absurd rfl hne
    | cons a t =>
      have hmin : ∀ (l : List Pc), l ≠ [] → ∃ x ∈ l, minBy (fun q : Pc => q.toNat) l = some x := by
        intro l
        induction l with
        | nil => intro h; exact absurd rfl h
        | cons b t ih =>
          intro _
          unfold minBy
          by_cases ht : t = []
          · subst ht; simp [minBy]
          · obtain ⟨x, hx, he⟩ := ih ht
            simp only [he]
            split
            · exact ⟨x, List.mem_cons_of_mem _ hx, rfl⟩
            · exact ⟨b, List.mem_cons_self, rfl⟩
      obtain ⟨x, hx, he⟩ := hmin (a :: t) (by simp)
      simp only [he, Option.getD_some]; exact h x hx

/-- An issue after which every lane has the one next PC moves the group there. -/
theorem finish_uniform {s : State} {gid g ls nx x p} (hne : ls ≠ []) (hnx : nx ≠ [])
    (h : ∀ l ∈ ls, nx.find? (fun q => q.1 == l.key) = some (l.key, p)) :
    s.finish gid g ls ⟨nx, x, [], []⟩ =
      ((s.updGroup gid (fun y => { y with plan := none })).setNext gid g ls p x, none) := by
  have hmap : ls.map (fun l => match nx.find? (fun q => q.1 == l.key) with | some q => q | none => (l.key,
      nextPc g.pc)) = ls.map (fun l => (l.key, p)) := by
    apply List.map_congr_left
    intro l hl; rw [h l hl]
  have hst : stayingPc (nextPc g.pc) ((ls.map (fun l => (l.key, p))).map Prod.snd) = p :=
    stayingPc_all (by simpa using hne) (by simp)
  unfold State.finish
  simp only [List.filter_nil, List.map_nil, List.isEmpty_nil, Bool.and_self, Bool.true_and, if_true, List.append_nil,
      List.nil_append, List.any_nil, List.foldl_nil]
  have : nx.isEmpty = false := by cases nx; simp at hnx; rfl
  rw [this]
  simp only [Bool.false_eq_true, if_false]
  erw [hmap]
  simp only [hst, State.after]
  simp

theorem run_all {s : State} {g f} (h : allRun s g f) : running s g f = s.lanesOf g f := by
  simp only [allRun, Bool.and_eq_true] at h
  unfold running
  apply List.filter_eq_self.mpr
  intro l hl
  exact (List.all_eq_true.mp h.2) l hl

/-- No lane that executes has a transaction open. -/
theorem outside_lane {s g f} (h : outsideTx s g f) : ∀ l ∈ running s g f, l.inTx = false ∧ s.txOpen l.key = false := by
    intro l hl
    have := List.all_eq_true.mp h l hl
    simpa only [Bool.and_eq_true, Bool.not_eq_true'] using this

/-- An instruction made once for the group goes by its lowest executing lane. -/
theorem groupWide_next {s : State} {op f g body l rest} (h : issues s op f g) (ho : outsideTx s g f) (hr : running s g f = l ::
    rest) :
   s.groupWide op f body = .next (s.settleSlot (body s.cur.group g (s.lanesOf g f) l (l :: rest)) s.cur.group g op f) := by
  unfold State.groupWide
  rw [issue_next h]
  have hrun : (s.lanesOf g f).filter (fun l => l.run) = l :: rest := hr
  simp only [hrun]
  have : (l :: rest).any (fun l => l.inTx) = false := by
    rw [List.any_eq_false]; intro x hx
    rw [← hr] at hx
    simp [(outside_lane ho x hx).1]
  simp only [this, Bool.false_eq_true, if_false]

/-- Used by transfer_all. -/
theorem find_key {ls : List LaneV} {p : Pc} : ∀ l ∈ ls, (ls.map (fun l => (l.key,
    p))).find? (fun q => q.1 == l.key) = some (l.key, p) := by
  intro l hl
  induction ls with
  | nil => simp at hl
  | cons a t ih =>
    simp only [List.map_cons, List.find?_cons]
    by_cases e : a.key = l.key
    · simp [e]
    · have : (a.key == l.key) = false := by simpa using e
      simp only [this]
      apply ih
      cases hl with
      | head => exact absurd rfl e
      | tail _ h => exact h

/-- Used by transfer_all. -/
theorem faults_none {ls : List (LaneV × Target)} {p} (h : ls.all (fun x => x.2 == .pc (some p))) :
   ls.filterMap (fun p => match p.2 with | .fault k ad => some (p.1.key, ad, k) | _ => none) = [] := by
  rw [List.filterMap_eq_nil_iff]
  intro a ha
  have := List.all_eq_true.mp h a ha
  simp at this
  simp [this]

/-- Used by transfer_all. -/
theorem checks_fst {core c} {ls : List (LaneV × Target)} {s : State} {p} (h : ls.all (fun x => x.2 == .pc (some p))) :
   (s.checkTargets core c ls).2.map Prod.fst = ls.map Prod.fst ∧ ∀ x ∈ (s.checkTargets core c ls).2, x.2.2 = p := by
  induction ls generalizing s with
  | nil => simp [State.checkTargets]
  | cons a t ih =>
    obtain ⟨l, tg⟩ := a
    simp only [List.all_cons, Bool.and_eq_true, beq_iff_eq] at h
    obtain ⟨rfl, h⟩ := h
    simp only [State.checkTargets]
    have := ih (s := (s.checkTarget core c (some p)).1) h
    constructor
    · simp [this.1]
    · intro x hx
      simp at hx
      rcases hx with rfl | hx
      · rfl
      · exact this.2 x hx

/-- Used by transfer_all. -/
theorem targets_fst {tgt} {ls : List LaneV} {s : State} : (s.targets tgt ls).2.map Prod.fst = ls := by
  induction ls generalizing s with
  | nil => rfl
  | cons a t ih => simp [State.targets, ih]

/-- Used by transfer_all. -/
theorem okchecks {cs : List (LaneV × TargetCheck × Nat)} {p} (h : cs.all (fun x => x.2.1 == .ok)) (h2 : ∀ x ∈ cs, x.2.2 = p) :
   faultedChecks cs = [] ∧ cs.filter (fun p => p.2.1 == .ok) = cs ∧ cs.filterMap (fun p => (targetTrap p.2.1).map (fun t =>
       (p.1.key, t))) = []
   ∧ cs.map (fun p => (p.1.key, BitVec.ofNat 64 p.2.2)) = (cs.map Prod.fst).map (fun l => (l.key, BitVec.ofNat 64 p)) := by
  refine ⟨?_, ?_, ?_, ?_⟩
  · unfold faultedChecks
    rw [List.filterMap_eq_nil_iff]
    intro a ha
    have := List.all_eq_true.mp h a ha
    simp at this; simp [this]
  · apply List.filter_eq_self.mpr; intro a ha; exact List.all_eq_true.mp h a ha
  · rw [List.filterMap_eq_nil_iff]
    intro a ha
    have := List.all_eq_true.mp h a ha
    simp at this; simp [this, targetTrap]
  · rw [List.map_map]; apply List.map_congr_left
    intro a ha; simp [h2 a ha]

/-- Used by transfer_all. -/
theorem ok_unheld {cs : List (LaneV × TargetCheck × Nat)} (h : cs.all (fun x => x.2.1 == .ok)) : checksHeld cs = false := by
  unfold checksHeld
  rw [List.any_eq_false]
  intro x hx
  have := List.all_eq_true.mp h x hx
  simp only [beq_iff_eq] at this
  simp [this]

/-- A transfer whose lanes all have one target that may be entered. -/
theorem transfer_all {s : State} {op f g tgt link p s1} (h : issues s op f g) (hu : oneTarget s g f tgt p = some s1) :
    s.transfer op f tgt link = .next (kept s op f g (transferred s s1 f g link p)) := by
  unfold State.transfer
  rw [issue_next h]
  unfold oneTarget at hu
  simp only at hu
  split at hu
  · rename_i hc
    simp only [Bool.and_eq_true] at hc
    split at hu
    · rename_i hok
      have hrun := run_all hc.1
      unfold running at hrun
      simp only [hrun]
      erw [faults_none hc.2]
      simp only [ok_unheld hok, Bool.false_eq_true, if_false, List.isEmpty_nil, Bool.not_true]
      have hck := checks_fst (core := s.coreOfBlock g.block) (c := s.ctxOf g.block) (s :=
          (s.targets (fun s l => tgt s g l) (s.lanesOf g f)).1) hc.2
      have ho := okchecks hok hck.2
      rw [ho.1, ho.2.1, ho.2.2.1, ho.2.2.2, hck.1, targets_fst]
      have hne : s.lanesOf g f ≠ [] := by
        have := hc.1; simp [allRun] at this; exact this.1
      have hk : (List.map (fun p => p.1.key) (((s.targets (fun s l => tgt s g l) (s.lanesOf g f)).1).checkTargets (s.coreOfBlock
          g.block) (s.ctxOf g.block) (s.targets (fun s l => tgt s g l) (s.lanesOf g f)).2).2) = (s.lanesOf g f).map (·.key) := by
        have e := congrArg (List.map (fun l : LaneV => l.key)) hck.1
        simp only [List.map_map] at e
        rw [show (List.map ((fun l : LaneV => l.key) ∘ Prod.fst) (s.targets (fun s l => tgt s g l) (s.lanesOf g f)).2) = List.map
            (fun l => l.key) ((s.targets (fun s l => tgt s g l) (s.lanesOf g f)).2.map Prod.fst) by rw [List.map_map],
                targets_fst] at e
        exact e
      rw [hk]
      simp only [List.isEmpty_nil, Bool.not_true, Bool.false_eq_true, if_false]
      rw [finish_uniform hne (by simpa using hne) (fun l hl => find_key l hl), slot_none]
      cases hu
      rfl
    · cases hu
  · cases hu

/-- A transfer that no lane executes. -/
theorem transfer_none {s : State} {op f g tgt link} (h : issues s op f g) (hr : running s g f = []) :
    s.transfer op f tgt link = .next (kept s op f g (s.advance s.cur.group g (s.lanesOf g f))) := by
  unfold State.transfer
  rw [issue_next h]
  unfold running at hr
  simp only [hr, State.targets, State.checkTargets, checksHeld, List.any_nil, List.filterMap_nil, List.isEmpty_nil,
      Bool.not_true, Bool.false_eq_true, if_false, faultedChecks, List.filter_nil, List.map_nil, State.eachLane, ite_self]
  rw [finish_plain, slot_none]

/-- Used by finish_traps. -/
theorem foldl_upd_map {ls : List LaneV} {s : State} {tr : Trap} {e : Thread → Thread} :
   (ls.map (fun l => (l.key, tr))).foldl (fun s p => s.updThread p.1 e) s = ls.foldl (fun s l => s.updThread l.key e) s := by
  induction ls generalizing s with
  | nil => rfl
  | cons a t ih => simp [ih]

/-- An issue after which every lane takes one trap outside transactions enters the handler (R440). -/
theorem finish_traps {s s' : State} {gid g ls} {tr : Trap} (hne : ls ≠ [])
    (hnt : ∀ l ∈ ls, s.txOpen l.key = false)
    {hp} (h : (s.setCur { s.cur with trapped := true }).handlerReady g.block (s.coreOfBlock g.block) = (s', .ok, hp))
    (hh : ∀ l ∈ ls, s.inHandler l.key = false) :
    s.finish gid g ls ⟨[], [], ls.map (fun l => (l.key, tr)), []⟩ =
      ((((ls.foldl (fun s l => s.updThread l.key (takeTrap hp g.pc tr)) s').updGroup gid
          (fun x => { x with plan := none })).setNext gid g ls hp (ls.map (·.key))), none) := by
  have e1 : (ls.map (fun l => (l.key, tr))).filter (fun p => !s.txOpen p.1) = ls.map (fun l => (l.key, tr)) := by
    apply List.filter_eq_self.mpr
    intro a ha; rw [List.mem_map] at ha; obtain ⟨l, hl, rfl⟩ := ha
    simp only [hnt l hl]; rfl
  have e2 : (ls.map (fun l => (l.key, tr))).filter (fun p => s.txOpen p.1) = [] := by
    rw [List.filter_eq_nil_iff]
    intro a ha; rw [List.mem_map] at ha; obtain ⟨l, hl, rfl⟩ := ha
    simp only [hnt l hl]; decide
  have e3 : (ls.map (fun l => (l.key, tr))).isEmpty = false := by
    cases ls; exact absurd rfl hne; rfl
  unfold State.finish
  simp only [e1, e2, e3, List.map_nil, List.append_nil, Bool.false_and, Bool.false_eq_true, if_false, List.isEmpty_nil]
  have hc : (s.setCur { s.cur with trapped := true }).coreOfBlock g.block = s.coreOfBlock g.block := rfl
  rw [hc, h]
  have e4 : (ls.map (fun l => (l.key, tr))).filter (fun p => (s.setCur { s.cur with trapped := true }).inHandler p.1
      || (!(match TargetCheck.ok with | .hold => true | .page _ _ => true | _ => false) && TargetCheck.ok != TargetCheck.ok)) = [] := by
    rw [List.filter_eq_nil_iff]
    intro a ha; rw [List.mem_map] at ha; obtain ⟨l, hl, rfl⟩ := ha
    have hi : (s.setCur { s.cur with trapped := true }).inHandler l.key = s.inHandler l.key := rfl
    simp [hi, hh l hl]
  cases hls : ls with
  | nil => exact absurd hls hne
  | cons a rest =>
  rw [← hls]
  simp only [e4]
  have e5 : ls.map (fun l => if (ls.map (fun l => (l.key, tr))).any (fun p => p.1 == l.key) then (l.key, hp)
     else if ([] : List (Nat × Abort × Nat)).any (fun p => p.1 == l.key) then (l.key,
         match (s'.thread? l.key).bind (·.tx) with | some x => nextPc x.pc | none => nextPc g.pc)
     else match ([] : List (Nat × Pc)).find? (fun p => p.1 == l.key) with | some p => p | none => (l.key,
         nextPc g.pc)) = ls.map (fun l => (l.key, hp)) := by
    apply List.map_congr_left
    intro l hl
    have : (ls.map (fun l => (l.key, tr))).any (fun p => p.1 == l.key) = true := by
      rw [List.any_eq_true]; exact ⟨(l.key, tr), by simpa using ⟨l, hl, rfl⟩, by simp⟩
    simp [this]
  have hst : stayingPc (nextPc g.pc) ((ls.map (fun l => (l.key, hp))).map Prod.snd) = hp :=
    stayingPc_all (by simpa using hne) (by simp)
  erw [e5]
  simp only [hst, State.after]
  have e6 : (ls.map (fun l => (l.key, hp))).all (fun p => p.2 == hp) = true := by
    simp
  simp only [Bool.true_and, e6, if_true, List.foldl_nil]
  simp [List.foldl_map, Function.comp_def]

end Sys2Proof.Laws
end

