-- ==== Sys2Proof/Laws/Memory.lean ====
section
/-! SUPPORT. Every memory operation keeps the canonical form, and memory after reset has it. -/

namespace Sys2Proof.Machine

theorem Tab.all_set {α : Type} (t : Tab α) (q : Nat) (v : α) (p : Nat × α → Bool) (h : t.all p = true) (hv : p (q, v) = true) :
    (Tab.set t q v).all p = true := by
  induction t with
  | nil => simp [Tab.set, hv]
  | cons e t ih =>
    simp only [List.all_cons, Bool.and_eq_true] at h
    unfold Tab.set
    split
    · simp [hv, h.1, h.2]
    · split
      · simp [hv, h.2]
      · simp [h.1, ih h.2]

theorem Tab.all_del {α : Type} (t : Tab α) (q : Nat) (p : Nat × α → Bool) (h : t.all p = true) : (Tab.del t q).all p = true := by
  induction t with
  | nil => rfl
  | cons e t ih =>
    simp only [List.all_cons, Bool.and_eq_true] at h
    unfold Tab.del
    split
    · exact h.2
    · simp [h.1, ih h.2]

theorem Memory.write_wf (m : List Host.Cell) (a : Nat) (b : Byte) (h : Memory.wf m = true) : Memory.wf (Memory.write m a b) = true := by
  simp only [Memory.wf, Bool.and_eq_true] at h ⊢
  unfold Memory.write
  split
  · exact ⟨Tab.risesFrom_del m none a h.1, Tab.all_del m a _ h.2⟩
  · next hb => exact ⟨Tab.risesFrom_set m none a b h.1 rfl, Tab.all_set m a b _ h.2 (by simpa using hb)⟩

theorem Memory.writes_wf (m : List Host.Cell) (a : Nat) (d : List Byte) (h : Memory.wf m = true) :
    Memory.wf (Memory.writes m a d) = true := by
  induction d generalizing m a with
  | nil => exact h
  | cons b t ih => exact ih _ _ (Memory.write_wf m a b h)

theorem Memory.read_write (m : List Host.Cell) (a p : Nat) (b : Byte) (h : Memory.wf m = true) :
    Memory.read (Memory.write m a b) p = if a = p then b else Memory.read m p := by
  simp only [Memory.wf, Bool.and_eq_true] at h
  unfold Memory.read Memory.write Tab.get
  split
  · next hb =>
    by_cases hp : a = p
    · rw [← hp, Tab.look_del_same m none a h.1, if_pos rfl, hb]; rfl
    · rw [Tab.look_del_other m hp, if_neg hp]
  · rw [Tab.look_set]; split <;> rfl

/-- Repeated writes, each from an address with bytes of its own, keep the form. -/
theorem Memory.foldl_writes_wf (l : List Nat) (d : Nat → List Byte) (m : List Host.Cell) (h : Memory.wf m = true) :
    Memory.wf (l.foldl (fun m a => Memory.writes m a (d a)) m) = true := by
  induction l generalizing m with
  | nil => exact h
  | cons a l ih => exact ih _ (Memory.writes_wf m a (d a) h)

theorem Tab.risesFrom_filter {α : Type} (t : Tab α) (lo : Option Nat) (p : Nat × α → Bool) (h : Tab.risesFrom lo t = true) :
    Tab.risesFrom lo (t.filter p) = true := by
  induction t generalizing lo with
  | nil => rfl
  | cons e t ih =>
    rw [Tab.risesFrom_cons, Bool.and_eq_true] at h
    by_cases hp : p e = true
    · rw [List.filter_cons_of_pos hp, Tab.risesFrom_cons, h.1, Bool.true_and]; exact ih _ h.2
    · rw [List.filter_cons_of_neg hp]
      have hn := ih (some e.1) h.2
      cases lo with
      | none => exact Tab.risesFrom_none _ e.1 hn
      | some l =>
        have hl := h.1
        simp only [Tab.above, decide_eq_true_eq] at hl
        exact Tab.risesFrom_le _ l e.1 hn (by omega)

/-- Memory with a range cleared (R139) keeps the form. -/
theorem Memory.filter_wf (m : List Host.Cell) (p : Host.Cell → Bool) (h : Memory.wf m = true) : Memory.wf (m.filter p) = true := by
  simp only [Memory.wf, Bool.and_eq_true] at h ⊢
  refine ⟨Tab.risesFrom_filter m none p h.1, ?_⟩
  rw [List.all_eq_true] at h ⊢
  exact fun x hx => h.2 x (List.mem_filter.mp hx).1

theorem reset_memory_wf : Memory.wf State.reset.m.mem = true := rfl

end Sys2Proof.Machine
end

