-- ==== Sys2Proof/Tests/Slice0.lean ====
section
/-! SUPPORT. Small tests: words written out from the encoding tables, ill-formed terms refused, single instructions on small states
with results worked by hand from the rules, and states that meet the hypotheses of the statements. -/

set_option Elab.async false

namespace Sys2Proof.Tests

open Sys2Proof Sys2Proof.Machine Sys2Proof.Claims

/-! ## Small states -/

/-- A group of the threads given, at PC 64, with one scalar. -/
def groupOf (keys : List Nat) : Group :=
  { emptyGroup 1 0 .ready keys 64 (0, 0) 0 with
    whole := true
    scalars := [(0, 5)]
    line := some ⟨64, lineWith 0, true⟩ }

/-- A package in which core 0 holds block 1 of `n` threads, of which group 2 holds the threads `keys`. -/
def small (n : Nat) (keys : List Nat) : State :=
  { State.reset with
    powered := true
    v := { State.reset.v with
      threads := newThreads 1 { soloRecord with ntid := n } [0]
      groups := [(2, groupOf keys)]
      blocks := [(1, soloBlock)] }
    l := { State.reset.l with launches := [(0, soloLaunch)] }
    cur := ⟨2, none, false, none, 0⟩
    nextId := 3 }

/-- One thread, alone in its group. -/
def demo : State := small 1 [2048]

def demoGroup : Group := groupOf [2048]

/-- The same with registers. -/
def withRegs (rs : List (Nat × Nat)) : State :=
  demo.updThread 2048 (fun t => rs.foldl (fun t p => t.setVal p.1 1 p.2) t)

/-- The opcode of a slot. -/
def opOf (w : BitVec 96) : Nat := w.toNat % 256

/-- A slot decodes, its instruction goes on, and the state after it has a property. -/
def runs (s : State) (w : BitVec 96) (p : State → Bool) : Bool :=
  match decodeSlot w with
  | .ok i => match exec i s with
    | .next t => p t
    | _ => false
  | .error _ => false

/-- An instruction goes on, and the state after it has a property. -/
def does (s : State) (i : Instr) (p : State → Bool) : Bool :=
  match exec i s with
  | .next t => p t
  | _ => false

/-- The state after an instruction or an event that goes on. -/
def after (s : State) (i : Instr) : State := match exec i s with
  | .next t => t
  | _ => s

def afterSlot (s : State) (w : BitVec 96) : State := match decodeSlot w with
  | .ok i => after s i
  | .error _ => s

def aim (s : State) (x y z : Nat) : State := { s with sel := ⟨x, y, z⟩ }

def regOf (t : State) (key n : Nat) : Nat := match t.thread? key with | some th => th.val n 1 | none => 0

def predOf (t : State) (key n : Nat) : Bool := match t.thread? key with | some th => th.pred n | none => false

/-- From these registers of the thread, the slot writes this to v3. -/
def gives (w : BitVec 96) (rs : List (Nat × Nat)) (v : Nat) : Bool :=
  runs (withRegs rs) w (fun t => regOf t 2048 3 == v && (t.thread? 2048).any (fun th => th.pc == 65))

/-- An outstanding instruction of the group holds this result for its first lane. -/
def owes (w : BitVec 96) (rs : List (Nat × Nat)) (v : List Word) : Bool :=
  runs (withRegs rs) w (fun t => match t.op? 3 with
    | some o => o.lanes.map (·.res) == [v] && !((t.group? 2).any (·.flagsClear))
    | none => false)

/-! ## Results worked by hand: the table of R223, and the rules named -/

theorem test_iadd_wraps : gives 0x000000000300000502030010 [(2, 0x7FFFFFFF), (5, 1)] 0x80000000 := by decide +kernel

theorem test_iadd_saturates : gives 0x000000000308000502030010 [(2, 0x7FFFFFFF), (5, 1)] 0x7FFFFFFF := by decide +kernel

theorem test_iadd_narrow :
    gives 0x000000000100000502030010 [(2, 0x1234567F), (5, 1)] 0xFFFFFF80
    ∧ gives 0x000000000500000502030010 [(2, 0xFF), (5, 1)] 0 := by decide +kernel

theorem test_isub_imul :
    gives 0x000000000708000502030011 [(2, 3), (5, 5)] 0
    ∧ gives 0x000000000300000502030012 [(2, 65536), (5, 65536)] 0
    ∧ gives 0x000000000308000502030012 [(2, 65536), (5, 65536)] 0x7FFFFFFF
    ∧ gives 0x000000000700000502030013 [(2, 0xFFFFFFFF), (5, 0xFFFFFFFF)] 0xFFFFFFFE := by decide +kernel

/-- 7 × −3 + 5 = −16. -/
theorem test_imad : gives 0x000000000300070502030014 [(2, 7), (5, 0xFFFFFFFD), (7, 5)] 0xFFFFFFF0 := by decide +kernel

theorem test_idiv :
    owes 0x000000000300000502030015 [(2, 0xFFFFFFF9), (5, 2)] [0xFFFFFFFD]
    ∧ owes 0x000000002300000502030015 [(2, 0xFFFFFFF9), (5, 2)] [0xFFFFFFFF]
    ∧ owes 0x000000000308000502030015 [(2, 0x80000000), (5, 0)] [0x80000000] := by decide +kernel

theorem test_imin_imax :
    gives 0x000000000300000502030016 [(2, 0xFFFFFFFF), (5, 1)] 0xFFFFFFFF
    ∧ gives 0x000000000700000502030016 [(2, 0xFFFFFFFF), (5, 1)] 1
    ∧ gives 0x000000000300000502030017 [(2, 0xFFFFFFFF), (5, 1)] 1 := by decide +kernel

theorem test_iabs_ineg :
    gives 0x000000000300000002030018 [(2, 0x80000000)] 0x80000000
    ∧ gives 0x000000000308000002030018 [(2, 0x80000000)] 0x7FFFFFFF
    ∧ gives 0x000000000708000002030019 [(2, 5)] 0 := by decide +kernel

theorem test_logic :
    gives 0x00000000090000050203001A [(2, 0xC), (5, 0xA)] 8
    ∧ gives 0x00000000090000050203001B [(2, 0xC), (5, 0xA)] 14
    ∧ gives 0x00000000090000050203001C [(2, 0xC), (5, 0xA)] 6
    ∧ gives 0x00000000090000000203001D [(2, 0xC)] 0xFFFFFFF3 := by decide +kernel

/-- A count of 32 or more (R219), with the count as an immediate. -/
theorem test_shifts :
    gives 0x00000020094000000203001E [(2, 0xFFFFFFFF)] 0
    ∧ gives 0x00000020094000000203001F [(2, 0xFFFFFFFF)] 0
    ∧ gives 0x000000280340000002030020 [(2, 0x80000000)] 0xFFFFFFFF
    ∧ gives 0x000000210940000002030021 [(2, 0x80000001)] 3 := by decide +kernel

theorem test_fields :
    gives 0x000004080340000002030022 [(2, 0xF00)] 0xFFFFFFFF
    ∧ gives 0x000003080940070002030023 [(2, 5), (7, 0xFFFF)] 0xFDFF := by decide +kernel

theorem test_bit_counts :
    gives 0x000000000900000002030024 [(2, 0xF0F0)] 8
    ∧ gives 0x000000000A00000002030025 [(2, 0), (3, 1)] 31
    ∧ gives 0x000000000900000002030026 [(2, 1)] 0x80000000 := by decide +kernel

theorem test_isel :
    gives 0x000000000900000502030027 [(2, 7), (5, 9)] 7
    ∧ gives 0x000000000900010502030027 [(2, 7), (5, 9)] 9 := by decide +kernel

/-- The sum of the pair 0xFFFF_FFFF, 0 and of −1 and of 1 read as S32: the high word (R222). -/
theorem test_iadd64_lea :
    runs (withRegs [(2, 0xFFFFFFFF), (5, 0xFFFFFFFF)]) 0x000000002400000502060029 (fun t => regOf t 2048 6 == 0xFFFFFFFE && regOf t 2048 7 == 0)
    ∧ runs (withRegs [(2, 0xFFFFFFFF), (5, 1)]) 0x000000002400000502060029 (fun t => regOf t 2048 6 == 0 && regOf t 2048 7 == 1)
    ∧ runs (withRegs [(2, 16), (5, 0xFFFFFFFF)]) 0x00000000630000050206002B (fun t => regOf t 2048 6 == 8 && regOf t 2048 7 == 0)
    ∧ runs (withRegs [(2, 3), (5, 0xFFFFFFFF), (8, 1)]) 0x00000000040008050206002A (fun t => regOf t 2048 6 == 0xFFFFFFFE
        && regOf t 2048 7 == 0xFFFFFFFF) := by decide +kernel

theorem test_moves :
    gives 0x00000000090000000203002C [(2, 0x7FC00001)] 0x7FC00001
    ∧ gives 0x12345678094000000003002D [] 0x12345678 := by decide +kernel

/-- ICMP.LT of −1 and 1, signed and not; PSET, PAND.NB, PNOT; p0 is not written (R22). -/
theorem test_predicates :
    runs (withRegs [(2, 0xFFFFFFFF), (5, 1)]) 0x000000004300000502030028 (fun t => predOf t 2048 3)
    ∧ runs (withRegs [(2, 0xFFFFFFFF), (5, 1)]) 0x000000004700000502030028 (fun t => !predOf t 2048 3)
    ∧ runs (withRegs [(5, 4)]) 0x000000000000000500030030 (fun t => predOf t 2048 3)
    ∧ runs demo 0x000000002000000100030031 (fun t => predOf t 2048 3)
    ∧ runs demo 0x000000000000000000030034 (fun t => !predOf t 2048 3)
    ∧ runs demo 0x000000000000000000000034 (fun t => predOf t 2048 0) := by decide +kernel

theorem test_ballots :
    runs demo 0x000000000000000000040036 (fun t => regOf t 2048 4 == 1 && regOf t 2048 5 == 0)
    ∧ runs demo 0x000000000000000001030037 (fun t => !predOf t 2048 3)
    ∧ runs demo 0x000000000000000000030038 (fun t => predOf t 2048 3) := by decide +kernel

/-- SMOVI.HI keeps the low word; SALU.SUB wraps; SPUT extends the sign; SGET (R227, R228). -/
theorem test_scalars :
    runs demo 0x000000072840000000000039 (fun t => (t.group? 2).any (fun g => Tab.look g.scalars 0 == some 0x0000000700000005))
    ∧ runs demo 0x00000006284000000004003C (fun t => (t.group? 2).any (fun g => Tab.look g.scalars 4 == some 0xFFFFFFFFFFFFFFFF))
    ∧ runs (withRegs [(2, 0x80000000)]) 0x00000000030000000204003B (fun t =>
        (t.group? 2).any (fun g => Tab.look g.scalars 4 == some 0xFFFFFFFF80000000))
    ∧ gives 0x00000000090000000003003A [] 5
    ∧ runs demo 0x00000005084000000003003D (fun t => predOf t 2048 3) := by decide +kernel

/-- FMA, FMUL and FADD of the example of R283, and FADD rounded up (R70). -/
theorem test_float_arithmetic :
    gives 0x000000000D00070502030043 [(2, 0x3F800001), (5, 0x3F7FFFFE), (7, 0xBF800000)] 0xA8800000
    ∧ gives 0x000000000D00000502030042 [(2, 0x3F800001), (5, 0x3F7FFFFE)] 0x3F800000
    ∧ gives 0x000000000D00000502030040 [(2, 0x3F800000), (5, 0x33800000)] 0x3F800000
    ∧ gives 0x000000000D02000502030040 [(2, 0x3F800000), (5, 0x33800000)] 0x3F800001
    ∧ gives 0x000000000D00000502030041 [(2, 0x3F800000), (5, 0x40000000)] 0xBF800000 := by decide +kernel

/-- −0 is below +0, and the other operand of a NaN is taken (R284). -/
theorem test_float_min_max :
    gives 0x000000000D00000502030044 [(2, 0), (5, 0x80000000)] 0x80000000
    ∧ gives 0x000000000D00000502030045 [(2, 0x7FC00000), (5, 0x3F800000)] 0x3F800000 := by decide +kernel

theorem test_float_bits :
    gives 0x000000000D00000002030046 [(2, 0xFFC00001)] 0x7FC00001
    ∧ gives 0x000000000D00000002030047 [(2, 0x7FC00001)] 0xFFC00001
    ∧ gives 0x000000000D00010502030049 [(2, 7), (5, 9)] 9
    ∧ gives 0x000000000D0000000203004A [(2, 0x7F800000)] 256 := by decide +kernel

/-- FSCALE 1 by 3, FRND 2.5 to even, FDOT2.HF 1 × 2 + 3 × 4 + 0.5 (R288 to R290). -/
theorem test_float_scale_round_dot :
    gives 0x000000000D0000050203004B [(2, 0x3F800000), (5, 3)] 0x41000000
    ∧ gives 0x000000000D0000000203004C [(2, 0x40200000)] 0x40000000
    ∧ gives 0x000000000D0007050203004D [(2, 0x42003C00), (5, 0x44004000), (7, 0x3F000000)] 0x41680000 := by decide +kernel

/-- A comparison with a NaN is unordered, and −0 = +0 (R286). -/
theorem test_fcmp :
    runs (withRegs [(2, 0x80000000)]) 0x000000000D00000502030048 (fun t => predOf t 2048 3)
    ∧ runs (withRegs [(2, 0x7FC00000)]) 0x000000000D00000202030048 (fun t => !predOf t 2048 3) := by decide +kernel

/-- 1/2, √4, 1/4, 1/√4 (R291), and the special inputs 0 of R293. -/
theorem test_slow_float :
    owes 0x000000000D00000002030050 [(2, 0x40000000)] [0x3F000000]
    ∧ owes 0x000000000D00000002030052 [(2, 0x40800000)] [0x40000000]
    ∧ owes 0x000000000D00000502030053 [(2, 0x3F800000), (5, 0x40800000)] [0x3E800000]
    ∧ owes 0x000000000D00000002030051 [(2, 0x40800000)] [0x3F000000] := by decide +kernel

theorem test_slow_special :
    owes 0x000000000D00000002030054 [] [0x3F800000]
    ∧ owes 0x000000000D00000002030055 [] [0xFF800000]
    ∧ owes 0x000000000D00000002030056 [(2, 0x80000000)] [0x80000000]
    ∧ owes 0x000000000D00000002030057 [] [0x3F800000]
    ∧ owes 0x000000000D00000002030058 [(2, 0xFF800000)] [0xBF800000] := by decide +kernel

/-- The example of R295: 470 becomes 448 with .SATF and NaN without. CVTS of 1.0 with the scales 2 and 1; PACK and UNPACK of halves. -/
theorem test_conversions :
    gives 0x000000000F080D0002030060 [(2, 0x43EB0000)] 0x7E
    ∧ gives 0x000000000F000D0002030060 [(2, 0x43EB0000)] 0x7F
    ∧ gives 0x000000000D000F0502030061 [(2, 0x38), (5, 0x7F80)] 0x40000000
    ∧ gives 0x0000000014000D0502030062 [(2, 0x3F800000), (5, 0x40000000)] 0x40003C00
    ∧ gives 0x000000002D00140002030063 [(2, 0x40003C00)] 0x40000000 := by decide +kernel

def integerSlots : List (BitVec 96) :=
  [0x000000000300000502030010, 0x000000000308000502030011, 0x000000000300000502030012, 0x000000000700000502030013,
   0x000000000300070502030014, 0x000000000300000502030016, 0x000000000300000502030017, 0x000000000300000002030018,
   0x000000000708000002030019, 0x00000000090000050203001A, 0x00000000090000050203001B, 0x00000000090000050203001C,
   0x00000000090000000203001D, 0x00000020094000000203001E, 0x00000020094000000203001F, 0x000000280340000002030020,
   0x000000210940000002030021, 0x000004080340000002030022, 0x000003080940070002030023, 0x000000000900000002030024,
   0x000000000A00000002030025, 0x000000000900000002030026, 0x000000000900010502030027, 0x000000002400000502060029,
   0x00000000040008050206002A, 0x00000000630000050206002B, 0x00000000090000000203002C, 0x12345678094000000003002D]

def predicateSlots : List (BitVec 96) :=
  [0x000000004300000502030028, 0x000000000000000500030030, 0x000000002000000100030031, 0x000000000000000100030032,
   0x000000000000000100030033, 0x000000000000000000030034, 0x000000000000000001030035, 0x000000000D00000502030048]

def exchangeSlots : List (BitVec 96) :=
  [0x000000000000000000040036, 0x000000000900000002030068, 0x000000006900000002030069, 0x00000000090000050203006A,
   0x00000008094000000203006B, 0x0000003F094000000203006C, 0x0000003F294000000203006D, 0x00000000290000000204006E]

def voteSlots : List (BitVec 96) := [0x000000000000000001030037, 0x000000000000000000030038, 0x00000000090000000203006E]

def floatSlots : List (BitVec 96) :=
  [0x000000000D02000502030040, 0x000000000D00000502030041, 0x000000000D00000502030042, 0x000000000D01070506080043,
   0x000000000D0000050203004B, 0x000000000D0007050203004D, 0x000000000D0000000203004C, 0x000000000F080D0002030060,
   0x000000000D000F0502030061, 0x0000000014000D0502030062]

def bitsSlots : List (BitVec 96) :=
  [0x000000000D00000502030044, 0x000000000D00000502030045, 0x000000000D00000002030046, 0x000000000D00000002030047,
   0x000000000D00010502030049, 0x000000000D0000000203004A, 0x000000002D00140002030063, 0x00000000000000000003000E,
   0x0000000000000000000300B9, 0x0000000040000000000400F2, 0x0000000060000000000300F2, 0x0000000080000000000400F2]

def slowSlots : List (BitVec 96) :=
  [0x000000000300000502030015, 0x000000000D00000002030050, 0x000000000D00000002030051, 0x000000000D00000002030052,
   0x000000000D00000502030053, 0x000000000D00000002030054, 0x000000000D00000002030055, 0x000000000D00000002030056,
   0x000000000D00000002030057, 0x000000000D00000002030058]

/-- The slots are those of a table, in its order, and each meets the hypothesis that it issues. -/
def meets (rows : Slot → List Nat) (ws : List (BitVec 96)) : Bool :=
  ws.map opOf == rows (slotOf 0) && ws.all (fun w => issuesB demo (opOf w) (slotOf w) demoGroup)

theorem witness_IntegerResults : meets (fun f => (integerRows f demoGroup).map (·.op)) integerSlots := by decide +kernel
theorem witness_PredicateResults : meets (fun f => (predicateRows f demoGroup).map (·.op)) predicateSlots := by decide +kernel
theorem witness_ExchangeResults :
    meets (fun f => (exchangeRows demo f demoGroup).map (·.op)) exchangeSlots
    ∧ meets (fun f => (voteRows demo f demoGroup).map (·.op)) voteSlots := by decide +kernel
theorem witness_FloatResults : meets (fun f => (floatRows demo f demoGroup).map (·.op)) floatSlots := by decide +kernel
theorem witness_BitsResults : meets (fun f => (bitsRows demo f demoGroup).map (·.op)) bitsSlots := by decide +kernel
theorem witness_SlowResults : meets (fun f => (slowRows demo f demoGroup).map (·.2.1)) slowSlots := by decide +kernel
theorem witness_ScalarResults :
    issuesB demo 0x00 (slotOf 0) demoGroup
    ∧ ([0x000000072840000000000039, 0x00000000090000000003003A, 0x00000000030000000204003B, 0x00000006284000000004003C,
        0x00000005084000000003003D] : List (BitVec 96)).all (fun w => issuesScalar demo (opOf w) (slotOf w) demoGroup)
    ∧ (demo.lanesOf demoGroup (slotOf 0x00000000030000000204003B)).any (·.lane == 0) := by decide +kernel
theorem witness_ReductionResults :
    issues demo 0x6F (slotOf 0x00000000070000000204016F) demoGroup
    ∧ issues demo 0x70 (slotOf 0x000000010700000002050070) demoGroup := by decide +kernel

/-- Forty lanes that hold their number in v2, p1 false in lane 5 alone: the example of R304. -/
def forty : State :=
  (List.range 40).foldl (fun s l => s.updThread (2048 + l) (fun t => (t.setVal 2 1 l).setPred 1 (l != 5)))
    (small 40 ((List.range 40).map (2048 + ·)))

theorem test_shuffle_up :
    runs forty 0x00000008094000000203016B (fun t =>
      (List.range 40).all (fun l => regOf t (2048 + l) 3 == (if l == 5 then 0 else if l < 8 then l else l - 8))) := by decide +kernel

theorem test_redux :
    runs forty 0x00000000070000000204016F (fun t =>
      (List.range 40).all (fun l => regOf t (2048 + l) 4 == (if l == 5 then 0 else 775))) := by decide +kernel

theorem test_scan :
    runs forty 0x000000000700000002050170 (fun t => regOf t 2058 5 == 50 && regOf t 2053 5 == 0 && regOf t 2087 5 == 775)
    ∧ runs forty 0x000000010700000002050170 (fun t => regOf t 2048 5 == 0 && regOf t 2050 5 == 1) := by decide +kernel

theorem test_votes :
    runs forty 0x00000000290000000206006E (fun t => regOf t 2055 6 == 128 && regOf t 2055 7 == 0)
    ∧ runs forty 0x000000000000000001040136 (fun t => regOf t 2048 4 == 0xFFFFFFDF && regOf t 2048 5 == 0xFF)
    ∧ runs forty 0x000000006900000002030069 (fun t => regOf t 2048 3 == 3 && regOf t 2055 3 == 7)
    ∧ runs forty 0x000000000900000002030068 (fun t => regOf t 2048 3 == 1 && regOf t 2055 3 == 6) := by decide +kernel

theorem test_shuffles :
    runs forty 0x00000008094000000203006C (fun t => regOf t 2048 3 == 8 && regOf t 2087 3 == 0)
    ∧ runs forty 0x00000003094000000203006D (fun t => regOf t 2049 3 == 2)
    ∧ runs forty 0x00000002A94000000203006A (fun t => regOf t 2049 3 == 0 && regOf t 2053 3 == 4) := by decide +kernel

/-! ## Control, traps and regrouping -/

/-- A page of the kernel's names, uncached, from physical address 0. -/
def page : Attr := ⟨1, 0, 2097152, 0, 2, 0, false, true, true, true, true, 0x200000, 0x1D⟩

/-- Translation is on, and the page is known to core 0, hart 0 and the shards. Lines 64 and 128 may be entered in every slot; at 256 stands a table of one
entry, 65. -/
def mapped (s : State) : State :=
  (s.setSys { s.r with asidTab := 0x40001 }).setMem { s.m with
    mem := [(66, 0xF0), (67, 0x81), (130, 0xF0), (131, 0x81), (256, 1), (264, 65)]
    attrs := [(0, page), (512, page)]
    tlb := (List.range 48).map (fun k => (k, page)) }

/-- Two lanes, p1 true in the second alone. -/
def twoLanes : State := mapped ((small 2 [2048, 2049]).updThread 2049 (fun t => t.setPred 1 true))

/-- The thread's launch has a handler at 129. -/
def handled : State :=
  { mapped demo with l := { demo.l with launches := [(0, { soloLaunch with record := { soloRecord with handler := 129 } })] } }

/-- The block has thread 1 in its spawn pool. -/
def spawning : State := mapped { demo with v := { demo.v with blocks := [(1, { soloBlock with pool := [1] })] } }

def goesTo (s : State) (w : BitVec 96) (tgt : State → Group → LaneV → State × Target) (p : Nat) : Bool :=
  issues s (opOf w) (slotOf w) demoGroup && (oneTarget s demoGroup (slotOf w) tgt p).isSome

theorem witness_TransferResults :
    goesTo (mapped demo) 0x000000010000000000000001 (offsetTarget (slotOf 0x000000010000000000000001)) 65
    ∧ goesTo (mapped demo) 0x000000050000000000140003 (offsetTarget (slotOf 0x000000050000000000140003)) 128
    ∧ goesTo (mapped demo) 0x000000C00000000002000002 (fun s g l => s.tableTarget (slotOf 0x000000C00000000002000002) g l) 65
    ∧ goesTo (mapped demo) 0x000000C00000000002140004 (fun s g l => s.tableTarget (slotOf 0x000000C00000000002140004) g l) 65
    ∧ goesTo (mapped (withRegs [(20, 68)])) 0x000000000000000014000005
        (fun s _ l => (s, .pc (some (readA (slotOf 0x000000000000000014000005) l.th 2)))) 68
    ∧ issues demo 0x01 (slotOf 0x000000010000000000000101) demoGroup
    ∧ running demo demoGroup (slotOf 0x000000010000000000000101) = [] := by decide +kernel

theorem witness_TransferResults_divergent :
    let g := groupOf [2048, 2049]
    let f := slotOf 0x000000030000000000000101
    issues twoLanes 0x01 f g ∧ branchPc g.pc f.i32 = some 67 ∧ BitVec.ofNat 64 67 ≠ nextPc g.pc
    ∧ (running twoLanes g f).length = 1 ∧ (twoLanes.lanesOf g f).any (fun l => l.run == false)
    ∧ (twoLanes.checkTargets 0 (twoLanes.ctxOf 1) ((running twoLanes g f).map (fun l => (l, Target.pc (some 67))))).2.all
        (fun x => x.2.1 == .ok) := by decide +kernel

/-- The CALL of the example of R199 from PC 64 to slot 0 of the next line writes the link 65. -/
theorem test_call : runs (mapped demo) 0x000000050000000000140003 (fun t =>
    regOf t 2048 20 == 65 && regOf t 2048 21 == 0 && (t.thread? 2048).any (fun th => th.pc == 128)) := by decide +kernel

/-- The lanes of a divergent branch part: one stays, the other is filed (R197). -/
theorem test_divergence : runs twoLanes 0x000000030000000000000101 (fun t =>
    (t.thread? 2048).any (fun th => th.pc == 65) && (t.thread? 2049).any (fun th => th.pc == 67)
    && (t.group? 2).any (fun g => g.members.length == 1 && g.scalars.isEmpty)
    && t.v.groups.any (fun p => p.2.st == .cove && p.2.members.length == 1)) := by decide +kernel

theorem witness_ExitResults :
    issues demo 0x06 (slotOf 0x06) demoGroup ∧ outsideTx demo demoGroup (slotOf 0x06)
    ∧ (running demo demoGroup (slotOf 0x06)).length = 1
    ∧ issues demo 0x06 (slotOf 0x106) demoGroup ∧ running demo demoGroup (slotOf 0x106) = [] := by decide +kernel

theorem test_exit : runs demo 0x06 (fun t => (t.thread? 2048).all (fun th => th.exited) && (t.group? 2).isNone) := by decide +kernel

theorem witness_TrapTaken :
    let f := slotOf 0x000000070000000000000007
    issues handled 0x07 f demoGroup ∧ outsideTx handled demoGroup f ∧ allRun handled demoGroup f
    ∧ ((handled.setCur { handled.cur with trapped := true }).handlerReady 1 0).2.1 = .ok
    ∧ (handled.lanesOf demoGroup f).all (fun l => !handled.inHandler l.key)
    ∧ issues demo 0x07 f demoGroup ∧ running demo demoGroup f ≠ [] ∧ (demo.block? 1).isSome
    ∧ (demo.record? 1).any (fun r => r.handler == 0) := by decide +kernel

theorem test_trap : runs handled 0x000000070000000000000007 (fun t => (t.thread? 2048).any (fun th =>
    th.pc == 129 && th.trapPc == 64 && th.trapCause == 0x70C && th.trapAddr == 0 && th.resume == 65 && th.handler)) := by decide +kernel

/-- The thread is in its handler, and would resume at 131; v4:v5 names 130. -/
def inHandler : State :=
  mapped (demo.updThread 2048 (fun t => { t.setVal 4 2 130 with
    handler := true
    resume := 131
    trapCause := 0x70C }))

theorem witness_TrapReturns :
    let f := slotOf 0x0000000020000000040000F2
    issues inHandler 0xF2 f demoGroup ∧ outsideTx inHandler demoGroup f ∧ allRun inHandler demoGroup f
    ∧ (inHandler.lanesOf demoGroup f).all (fun l => l.th.handler && l.th.resume == 131 && readA f l.th 2 == 130)
    ∧ (inHandler.checkTargets 0 (inHandler.ctxOf 1) ((inHandler.lanesOf demoGroup f).map (fun l => (l, Target.pc (some 130))))).2.all
        (fun x => x.2.1 == .ok) := by decide +kernel

theorem test_trapret :
    runs inHandler 0x0000000000000000000000F2 (fun t => (t.thread? 2048).any (fun th => th.pc == 131 && !th.handler))
    ∧ runs inHandler 0x0000000020000000040000F2 (fun t => (t.thread? 2048).any (fun th => th.pc == 130 && !th.handler))
    ∧ runs inHandler 0x0000000060000000000900F2 (fun t => regOf t 2048 9 == 0x70C) := by decide +kernel

theorem witness_RegroupResults :
    let f := slotOf 0x00000001000000000000000A
    issues demo 0x08 (slotOf 0x08) demoGroup ∧ issues demo 0x09 (slotOf 0x09) demoGroup
    ∧ issues spawning 0x0A f demoGroup ∧ outsideTx spawning demoGroup f ∧ running spawning demoGroup f ≠ []
    ∧ branchPc demoGroup.pc f.i32 = some 65 ∧ (spawning.checkTarget 0 (spawning.ctxOf 1) (some 65)).2 = .ok
    ∧ ((spawning.checkTarget 0 (spawning.ctxOf 1) (some 65)).1.spawnAll 0 demoGroup 65 (running spawning demoGroup f)).2 = []
    ∧ spawning.groupIdle 2 demoGroup
    ∧ (let s := afterSlot spawning 0x0000000000010000000000B0
       (s.group? 2).any (fun g => issues s 0x0A f g && outsideTx s g f && !(running s g f).isEmpty && !s.groupIdle 2 g
         && branchPc g.pc f.i32 == some 66 && (s.checkTarget 0 (s.ctxOf 1) (some 66)).2 == .ok)) := by decide +kernel

theorem test_spawn : runs spawning 0x00000001000000000000000A (fun t => (t.thread? 2049).any (fun th => th.pc == 65)) := by decide +kernel

/-! ## Accesses, order, transactions -/

def accessSlots : List (BitVec 96) :=
  [0x000000000300000000030080, 0x000000000300000000000081, 0x000000000300000000030082, 0x000000000300000000000083,
   0x000000000900000000030084, 0x000000002900000000030084, 0x000000000900000000000085, 0x000000002900000000000085,
   0x86, 0x000000002000000000000086, 0x87, 0x000000002000000000000087, 0x000000000300000000030088, 0x000000000900000000030089,
   0x00000000030000000000008A, 0x00000000030000000003008B, 0x8F, 0x00000000200000000000008F, 0x90, 0xB3, 0xB4]

def Checked.isGo (c : Checked) : Bool := match c with
  | .go _ => true
  | _ => false

def Checked.isTrap (c : Checked) : Bool := match c with
  | .trap _ => true
  | _ => false

theorem witness_AccessIssues :
    accessSlots.map opOf = (accessRows (slotOf 0)).map (·.2)
    ∧ accessSlots.all (fun w =>
      let f := slotOf w
      issues demo (opOf w) f demoGroup && outsideTx demo demoGroup f && !(running demo demoGroup f).isEmpty
      && (running demo demoGroup f).all (fun l => Checked.isGo (demo.checkLane (opOf w) f 0 1 l)))
    ∧ issuesPriv demo 0xA6 (slotOf 0xA6) demoGroup
    ∧ (running demo demoGroup (slotOf 0xA6)).all (fun l => Checked.isGo (demo.checkLane 0xA6 (slotOf 0xA6) 0 1 l)) := by decide +kernel

/-- An address of 1 is misaligned for all but the prefetches, which do not trap, and the line operations, which take any. -/
theorem witness_AccessIssues_traps :
    (accessSlots.filter (fun w => !([0x86, 0x87, 0x8F, 0x90] : List Nat).contains (opOf w))).all (fun w =>
      (running (withRegs [(0, 1)]) demoGroup (slotOf w)).all (fun l =>
        Checked.isTrap ((withRegs [(0, 1)]).checkLane (opOf w) (slotOf w) 0 1 l))) := by decide +kernel

/-- The scratchpad has 65,536 bytes: the last word is in it, the next is not (R241). -/
theorem test_scratch_bound :
    runs (withRegs [(2, 65532)]) 0x000000000300000002030082 (fun t => (t.op? 3).isSome)
    ∧ runs (withRegs [(2, 65536)]) 0x000000000300000002030082 (fun t => (t.op? 3).isNone) := by decide +kernel

/-- SBAR.WAIT at [v4:v5], or what these bits name, for the phase in v5. -/
def stageSlot : BitVec 96 := 0x0000000000000005040000B5

theorem witness_OrderResults :
    let b := soloBlock
    let waiting := demo.updThread 2048 (fun t => { t with barPend := 1 })
    demo.block? 1 = some b ∧ issues demo 0xB0 (slotOf 0x0000000000010000000000B0) demoGroup
    ∧ issues demo 0xB1 (slotOf 0x0000000300000000000000B1) demoGroup
    ∧ (running demo demoGroup (slotOf 0x0000000300000000000000B1)).all (fun l => !l.th.barPend.getLsbD 3)
    ∧ issues demo 0xB2 (slotOf 0xB2) demoGroup
    ∧ (running demo demoGroup (slotOf 0xB2)).all (fun l => !demo.waitsAt b 0 l.th)
    ∧ issues waiting 0xB2 (slotOf 0xB2) demoGroup ∧ (running waiting demoGroup (slotOf 0xB2)).any (fun l => waiting.waitsAt b 0 l.th)
    ∧ issues demo 0xB5 (slotOf stageSlot) demoGroup
    ∧ (running (withRegs [(5, 1)]) demoGroup (slotOf stageSlot)).all (fun l =>
        Checked.isGo (demo.checkLane 0xB5 (slotOf stageSlot) 0 1 l) && !behindStage demo l.key 0
          && ofBytes (b.bytes 0 2) != l.th.val 5 1 % 65536)
    ∧ (running demo demoGroup (slotOf stageSlot)).any (fun l =>
        Checked.isGo (demo.checkLane 0xB5 (slotOf stageSlot) 0 1 l) && !behindStage demo l.key 0
          && ofBytes (b.bytes 0 2) == l.th.val 5 1 % 65536)
    ∧ (let s := afterSlot demo 0x0000000000010000000000B0
       s.group? 2 |>.any (fun g => issues s 0xB5 (slotOf stageSlot) g && (running s g (slotOf stageSlot)).any (fun l =>
         Checked.isGo (s.checkLane 0xB5 (slotOf stageSlot) 0 1 l) && behindStage s l.key 0))) := by decide +kernel

/-- A block barrier of one thread: its arrival completes the phase (R327). -/
theorem test_bar_arrive :
    runs { demo with v := { demo.v with blocks := [(1, { soloBlock with bars := [(3, ⟨false, 0, 1, [], [], none⟩)] })] } } 0x0000000300000000000000B1
      (fun t => (t.block? 1).any (fun b => (b.bar 3).phase && (b.bar 3).arrived == 0)) := by decide +kernel

/-- The thread has a transaction open at this depth. -/
def inTx (depth : Nat) : State :=
  demo.updThread 2048 (fun t => { t with tx := some ⟨depth, t.regs, t.preds, t.draws, 64, 9, 0, 0, false, [], [], false, none, none⟩ })

theorem witness_TxResults :
    issues demo 0xB6 (slotOf 0x0000000000000000000900B6) demoGroup
    ∧ (running (inTx 14) demoGroup (slotOf 0xB6)).all (fun l => decide (txDepth l.th < 15))
    ∧ issues demo 0xB7 (slotOf 0x0000000000000000000900B7) demoGroup
    ∧ (running demo demoGroup (slotOf 0xB7)).all (fun l => decide (txDepth l.th = 0))
    ∧ issues (inTx 2) 0xB7 (slotOf 0xB7) demoGroup ∧ (running (inTx 2) demoGroup (slotOf 0xB7)).all (fun l => decide (2 ≤ txDepth l.th))
    ∧ (running (inTx 1) demoGroup (slotOf 0xB7)).length = 1
    ∧ (running (inTx 1) demoGroup (slotOf 0xB7)).all (fun l => l.th.tx.any (fun x => x.depth == 1 && !x.doomed))
    ∧ issues demo 0xB8 (slotOf 0x0000000500000000000000B8) demoGroup ∧ (running demo demoGroup (slotOf 0xB8)).all (fun l => !l.inTx)
    ∧ issues (inTx 1) 0xB8 (slotOf 0xB8) demoGroup ∧ ((inTx 1).lanesOf demoGroup (slotOf 0xB8)).length = 1
    ∧ ((inTx 1).lanesOf demoGroup (slotOf 0xB8)).all (fun l => l.run && l.inTx) := by decide +kernel

/-- TBEGIN takes a snapshot and TABORT 5 goes back past it, with EXPLICIT 8 and CODE 5 as the last abort (R335, R342, R343). -/
theorem test_tx :
    runs demo 0x0000000000000000000900B6 (fun t => (t.thread? 2048).any (fun th => txDepth th == 1 && th.val 9 1 == 0))
    ∧ runs (inTx 1) 0x0000000500000000000000B8 (fun t => (t.thread? 2048).any (fun th =>
        th.tx.isNone && th.lastAbort == (8, 5) && th.pc == 65)) := by decide +kernel

/-! ## Copies and requests of devices -/

def goes (c : CopyCheck) : Bool := match c with
  | .go _ _ _ => true
  | _ => false

def copying (op : Nat) (w : BitVec 96) (s : State) : CopyCheck :=
  match running s demoGroup (slotOf w) with
  | l :: _ =>
    let o := copyOperands op (slotOf w) l.th
    s.copyCheck 0 1 o.1 o.2.1 o.2.2
  | [] => .nothing

/-- COPY.G2S of 32 bytes from 256 to scratchpad 0, and COPYM with the same operands. -/
def copySlot : BitVec 96 := 0x00000000000000060400008C
def copymSlot : BitVec 96 := 0x00000000000008060400008D
def discardSlot : BitVec 96 := 0x00000000080000060400008E
def xlateSlot : BitVec 96 := 0x0000000020000006040000A5
def toCopy : State := mapped (withRegs [(4, 256), (6, 32)])
def toCopyM : State := mapped (withRegs [(4, 256), (7, 32), (8, 1)])

theorem witness_CopyIssues :
    issues toCopy 0x8C (slotOf copySlot) demoGroup ∧ outsideTx toCopy demoGroup (slotOf copySlot)
    ∧ goes (copying 0x8C copySlot toCopy) ∧ 2 ≤ toCopy.freeLocks 0
    ∧ copying 0x8C copySlot demo = .nothing
    ∧ issues toCopyM 0x8D (slotOf copymSlot) demoGroup ∧ goes (copying 0x8D copymSlot toCopyM)
    ∧ copying 0x8C copySlot (withRegs [(6, 24)]) = .trap ⟨.copyLen, 0, none, false⟩
    ∧ ([0x18C, 0x18D, 0x00000000080000000000018E] : List (BitVec 96)).all (fun w =>
        issues demo (opOf w) (slotOf w) demoGroup && (running demo demoGroup (slotOf w)).isEmpty) := by decide +kernel

theorem test_copy : runs toCopy copySlot (fun t => (t.op? 3).any (fun o => o.move.isSome) && t.v.locks.length == 2) := by decide +kernel

/-- The copy's granules are moved, and it ends: the scratchpad holds the table's count, its granules are full, its locks are gone. -/
theorem test_copy_moves :
    let s := after (aim (after (aim (after (aim (afterSlot toCopy copySlot) 3 0 0) .copyGranule) 3 1 0) .copyGranule) 3 0 0) .copyEnd
    (s.block? 1).any (fun b => b.byte 0 == 1 && b.full.contains 1) ∧ s.v.locks = [] ∧ s.op? 3 = none := by decide +kernel

def privSlots : List (BitVec 96) :=
  [0xA0, 0xA1, 0xA2, 0xA3, 0xA4, 0xA5, 0x0000000020000000000000A5, 0x0000000040000000000000A5, 0x0000000060000000000000A5, 0xA6]

/-- The same launch without privilege. -/
def unprivileged : State :=
  { demo with l := { demo.l with launches := [(0, { soloLaunch with record := { soloRecord with priv := false } })] } }

theorem witness_DeviceRequests :
    issues demo 0x8E (slotOf 0x00000000080000060400008E) demoGroup
    ∧ demo.lockConflict 0x8E 0 none 1 0 64 = false
    ∧ privSlots.all (fun w => issuesPriv demo (opOf w) (slotOf w) demoGroup)
    ∧ privSlots.all (fun w => issues unprivileged (opOf w) (slotOf w) demoGroup && outsideTx unprivileged demoGroup (slotOf w))
    ∧ (unprivileged.ctxOf 1).priv = false ∧ (unprivileged.lanesOf demoGroup (slotOf 0xA0)).all (fun l => !l.inTx) := by decide +kernel

theorem test_privilege : runs unprivileged 0xA0 (fun t => (t.op? 3).isNone && (t.launch? 0).any (fun l => l.state == .poisoned)) := by decide +kernel

/-! ## Requests for lines -/

/-- LD.N32 v3, [v4:v5] from 256, whose page is known to the core, and to the shards alone. -/
def loadSlot : BitVec 96 := 0x000000000700000004030080
def loading : State := afterSlot (mapped (withRegs [(4, 256)])) loadSlot

/-- Tables (R90 to R93): the ASID table at 0x40000 names the root 0x50000 for ASID 1, and three tables lead to a leaf of 2 MiB that may
be read, written, executed and used by all, never cached, at physical address 0. -/
def paged (s : State) : State :=
  { s with
    r := { s.r with asidTab := 0x40001 }
    m := { s.m with
      mem := [(256, 1), (0x40008, 1), (0x4000A, 5), (0x50000, 1), (0x50001, 0x10), (0x50002, 5), (0x51000, 1), (0x51001, 0x20),
        (0x51002, 5), (0x52000, 1), (0x52001, 0x30), (0x52002, 5), (0x53000, 0x7D), (0x53006, 0x20)]
      attrs := []
      tlb := [] } }

def asking : State := afterSlot (paged (withRegs [(4, 256)])) loadSlot

def walked (e : Except Kind Attr) (a : Attr) : Bool := match e with
  | .ok b => a == b
  | .error _ => false

def failed (e : Except Kind Attr) (k : Kind) : Bool := match e with
  | .ok _ => false
  | .error j => j == k

theorem test_walk :
    walked ((paged demo).walk true 1 256) ⟨1, 0, 2097152, 0, 2, 0, false, true, true, true, true, 0x53000, 0x2000000000007D⟩
    ∧ failed ((paged demo).walk true 1 0x200000) .notValid ∧ failed ((paged demo).walk true 2 256) .notValid := by decide +kernel

/-- The same where the page is homed in Tarn 0. -/
def homed : State :=
  let m := (mapped (withRegs [(4, 256)]))
  afterSlot (m.setMem { m.m with
    attrs := [(0, { page with home := 0 })]
    tlb := (List.range 48).map (fun k => (k, { page with home := 0 })) }) loadSlot

theorem witness_AttributesArrive :
    (asking.op? 3).any (fun o => asking.live o.block && o.opc != 0x87 && (o.lanes.find? (fun l => l.stage == .attr)).any (fun l =>
      l.ea < 2 ^ 57 && (match (asking.forgetAttr 0 1 l.ea).requestAttr 0 true 1 l.ea with
        | (s1, .ok a) => (s1.permit (asking.ctxOf o.block) a (opAccess o.opc)).isNone
        | _ => false))) := by decide +kernel

theorem witness_RequestSteps :
    let s := aim homed 4 0 0
    (s.req? 4).any (fun q => q.op == 3 && q.stage == .home && (s.op? 3).any (fun o => o.opc == 0x80 && s.live o.block
      && (o.lanesIn q).all (fun l => !s.laneBlocked 3 o l)
      && (match (s.stage 0 (s.ctxOf o.block) q (needOf o q) []).2 with | .go q' => q'.stage == .shard | _ => false)))
    ∧ (loading.req? 4).any (fun q => q.op == 3 && q.stage == .shard) := by decide +kernel

/-- A load runs through the shard and the controller and delivers its word (R101). -/
theorem test_load :
    let s1 := after (aim loading 4 0 0) .shardWalkComplete
    let s2 := after s1 (.memoryControllerAccess 4 [])
    let s3 := after (aim s2 3 0 0) .variableLatencyComplete
    regOf s3 2048 3 = 1 ∧ (s3.op? 3).isNone ∧ (s3.group? 2).any (·.flagsClear) := by decide +kernel

/-- Through Tarn 0 it takes all four stages, and leaves the line there. -/
theorem test_load_homed :
    let s1 := after (aim homed 4 0 0) .homeSliceRequest
    let s2 := after (aim s1 4 0 0) .shardWalkComplete
    let s3 := after s2 (.memoryControllerAccess 4 [])
    let s4 := after (aim s3 4 0 0) .lineFillReturn
    let s5 := after (aim s4 3 0 0) .variableLatencyComplete
    regOf s5 2048 3 = 1 ∧ s5.m.lines.length = 1 := by decide +kernel

/-- A store of −1 to address 256 reaches memory, and is acknowledged. -/
theorem test_store :
    let s0 := afterSlot (mapped (withRegs [(4, 256), (6, 0xFFFFFFFF)])) 0x000000000700000604000081
    let s1 := after (aim s0 4 0 0) .shardWalkComplete
    let s2 := after s1 (.memoryControllerAccess 4 [])
    let s3 := after (aim s2 3 0 0) .storeAck
    (List.range 6).map (fun k => (Memory.read s3.m.mem (255 + k)).toNat) = [0, 255, 255, 255, 255, 0] ∧ (s3.op? 3).isNone
    := by decide +kernel

/-- ATOM.ADD returns the old value and stores the sum. -/
theorem test_atom :
    let s0 := afterSlot (mapped (withRegs [(4, 256), (6, 7)])) 0x000000000700000604030088
    let s1 := after (aim s0 4 0 0) .shardWalkComplete
    let s2 := after s1 (.memoryControllerAccess 4 [])
    let s3 := after (aim s2 3 0 0) .variableLatencyComplete
    regOf s3 2048 3 = 1 ∧ Memory.read s2.m.mem 256 = 8 := by decide +kernel

/-- RED.ADD.F32 of one lane adds 1.0 to the 2.0 at its home: 3.0 is 0x40400000 (R82, R258, R261). -/
theorem test_red :
    let m := (mapped (withRegs [(4, 256), (6, 0x3F800000)]))
    let s0 := afterSlot (m.setMem { m.m with
      attrs := [(0, { page with home := 0 })]
      mem := [(259, 0x40)]
      tlb := (List.range 48).map (fun k => (k, { page with home := 0 })) }) 0x000000000D0000060400008A
    let s1 := after (aim s0 4 0 0) .homeSliceRequest
    let s2 := after (aim s1 4 0 0) .shardWalkComplete
    let s3 := after s2 (.memoryControllerAccess 4 [])
    let s4 := after (aim s3 4 0 0) .lineFillReturn
    s4.m.lines.map (fun l => (l.data.take 4).map (·.toNat)) = [[0, 0, 0x40, 0x40]] := by decide +kernel

/-- A scratchpad store and a load of it. -/
theorem test_scratchpad :
    let s1 := after (aim (afterSlot (withRegs [(5, 0x1234)]) 0x000000080700000500000083) 3 0 0) .storeAck
    (s1.block? 1).any (fun b => ofBytes (b.bytes 8 4) == 0x1234 && b.byte 7 == 0 && b.byte 12 == 0) := by decide +kernel

theorem witness_InstructionsComplete :
    let s1 := aim (after (after (aim loading 4 0 0) .shardWalkComplete) (.memoryControllerAccess 4 [])) 3 0 0
    let s2 := aim (afterSlot (withRegs [(5, 1)]) 0x000000080700000500000083) 3 0 0
    let s3 := aim (afterSlot demo 0x0000000000010000000000B0) 3 0 0
    (s1.op? 3).any (fun o => s1.residentOp o && !ackOp o.opc && laneDone o && o.lanes.all LaneOp.ended)
    ∧ (s2.op? 3).any (fun o => s2.residentOp o && ackOp o.opc && o.lanes.all LaneOp.ended)
    ∧ (s3.op? 3).any (fun o => s3.residentOp o && o.opc == 0xB0 && !o.lanes.isEmpty && o.lanes.all (fun l => s3.fenceMet 3 o l))
    := by decide +kernel

def okBytes (r : State × Except MemErr (List Byte)) : Bool := match r.2 with
  | .ok _ => true
  | .error _ => false

/-- The copy of `test_copy_moves` before its granules, and after them; a multicast copy to position 0, and to position 5, which the
gang has not. -/
def copyBegun : State := aim (afterSlot toCopy copySlot) 3 0 0
def copyMoved : State := aim (after (aim (after copyBegun .copyGranule) 3 1 0) .copyGranule) 3 0 0
def toMembers (s : State) (w : List Nat) (busy : List Nat) : State :=
  s.updOp 3 (fun o => { o with move := some ⟨256, 0, 32, [], w, busy, []⟩ })
def multicast : State := aim (afterSlot toCopyM copymSlot) 3 0 0

theorem witness_CopySteps :
    (copyBegun.op? 3).any (fun o => copyBegun.live o.block && o.opc == 0x8C && Rule.sub o.f == 0 && !opReleases o.opc o.f
      && (o.move.any (fun m => m.todo.contains 0 && o.leader.any (fun l => l.stage == .sent
        && okBytes (copyBegun.load (copyBegun.agentOf o.block l.key) m.src 16)))))
    ∧ (copyMoved.op? 3).any (fun o => o.copied)
    ∧ (multicast.op? 3).any (fun o => o.opc == 0x8D && o.move.any (fun m => m.wait.contains 0) && multicast.live o.block && o.leader.isSome
      && (multicast.receiver o 0).any (fun p => p.2.core == some 0 && !p.2.saving) && multicast.freeLocks 0 != 0
      && 32 ≤ multicast.scratchSize 1)
    ∧ (aim (toMembers multicast [5] []) 3 5 0 |>.op? 3).any (fun o => (multicast.receiver o 5).isNone)
    ∧ (aim (toMembers multicast [] [5]) 3 5 0 |>.op? 3).any (fun o => (multicast.receiver o 5).isNone)
    ∧ ((toMembers multicast [] []).op? 3).any (fun o => o.copied) := by decide +kernel

/-! Further clauses of these statements: states in which each comes to its other ends. -/

/-- The core's table holds `n` more entries. -/
def crowded (n : Nat) (s : State) : State := { s with v := { s.v with locks := List.replicate n ⟨0, 9, true, none, 1, 512, 528⟩ } }

def faults (c : CopyCheck) : Bool := match c with
  | .fault _ _ => true
  | _ => false

theorem witness_CopyIssues_ends :
    faults (copying 0x8C copySlot (withRegs [(5, 0x2000000), (6, 32)])) ∧ faults (copying 0x8D copymSlot (withRegs [(5, 0x2000000), (7, 32)]))
    ∧ (crowded 63 toCopy).freeLocks 0 = 1 ∧ goes (copying 0x8C copySlot (crowded 63 toCopy))
    ∧ (crowded 64 toCopyM).freeLocks 0 = 0 ∧ goes (copying 0x8D copymSlot (crowded 64 toCopyM))
    ∧ copying 0x8D copymSlot (withRegs [(7, 24)]) = .trap ⟨.copyLen, 0, none, false⟩
    ∧ [copySlot, copymSlot, discardSlot].all (fun w => issues (inTx 1) (opOf w) (slotOf w) demoGroup
        && (running (inTx 1) demoGroup (slotOf w)).any (·.inTx)) := by decide +kernel

/-- The leader's registers, from these of the thread. -/
def leads (rs : List (Nat × Nat)) (w : BitVec 96) (p : Thread → Bool) : Bool :=
  match running (withRegs rs) demoGroup (slotOf w) with
  | l :: _ => p l.th
  | [] => false

theorem witness_DeviceRequests_ends :
    let ends (t : Thread) : Nat := globalEa (slotOf discardSlot) t + t.val 6 2
    leads [(4, 512), (6, 16)] discardSlot (fun t => ends t == 528) ∧ (crowded 1 demo).lockConflict 0x8E 0 none 1 512 528
    ∧ leads [(4, 528), (6, 16)] discardSlot (fun t => ends t == 544) ∧ (crowded 1 demo).lockConflict 0x8E 0 none 1 528 544 = false
    ∧ leads [(5, 0x2000000), (6, 16)] discardSlot (fun t => 2 ^ 57 < ends t)
    ∧ leads [(4, 0xFFFFFFF0), (5, 0x1FFFFFF), (6, 16)] discardSlot (fun t => ends t == 2 ^ 57)
    ∧ leads [(0, 64)] 0xA0 (fun t => t.val 0 2 % 64 == 0) ∧ leads [(0, 8)] 0xA0 (fun t => t.val 0 2 % 64 != 0)
    ∧ leads [(4, 4096), (6, 8192)] xlateSlot (fun t => t.val 4 2 % 4096 == 0 && t.val 6 2 % 4096 == 0 && t.val 4 2 + t.val 6 2 ≤ 2 ^ 57)
    ∧ leads [(4, 8), (6, 8192)] xlateSlot (fun t => t.val 4 2 % 4096 != 0)
    ∧ leads [(5, 0x2000000), (6, 4096)] xlateSlot (fun t => t.val 6 2 != 0 && 2 ^ 57 < t.val 4 2 + t.val 6 2)
    ∧ [0xA5, 0x0000000020000000000000A5].all (fun w : BitVec 96 => decide (Rule.sub (slotOf w) < 2))
    ∧ [0x0000000040000000000000A5, 0x0000000060000000000000A5].all (fun w : BitVec 96 => decide (2 ≤ Rule.sub (slotOf w)))
    ∧ unprivileged.openTx demoGroup = [] := by decide +kernel

/-- What the stage of request 4 comes to. -/
def stageOf (s : State) : String :=
  match s.req? 4, s.op? 3 with
  | some q, some o => (match (s.stage 0 (s.ctxOf o.block) q (needOf o q) []).2 with
    | .go _ => "go"
    | .hold => "hold"
    | .fault _ => "fault"
    | .poisoned => "poisoned"
    | .serve _ => "serve")
  | _, _ => "none"

/-- An operation on the line at 256, whose page is homed in Tarn 0. -/
def lineOp (w : BitVec 96) : State :=
  let m := (mapped (withRegs [(4, 256)]))
  aim (afterSlot (m.setMem { m.m with
    attrs := [(0, { page with home := 0 })]
    tlb := (List.range 48).map (fun k => (k, { page with home := 0 })) }) w) 4 0 0

/-- A load that waits at its home behind a fence, and a POLL that backs off. -/
def fenced : State := afterSlot (afterSlot (mapped (withRegs [(4, 256)])) 0x0000000000010000000000B0) loadSlot
def polling : State :=
  let s := afterSlot (mapped (withRegs [(4, 256), (6, 1)])) 0x00000000030000060403008B
  aim (after (after (aim s 4 0 0) .shardWalkComplete) (.memoryControllerAccess 4 [])) 3 0 0

theorem witness_RequestSteps_ends :
    stageOf homed = "go" ∧ stageOf (after (aim loading 4 0 0) .shardWalkComplete) = "serve"
    ∧ stageOf (after (aim (loading.setMem { loading.m with poison := [4] }) 4 0 0) .shardWalkComplete) = "poisoned"
    ∧ stageOf (loading.setMem { loading.m with tlb := [] }) = "fault"
    ∧ (fenced.req? 5).any (fun q => q.stage == .home && (fenced.op? q.op).any (fun o => (o.lanesIn q).any (fun l => fenced.laneBlocked 4 o l)))
    ∧ [0x00000000000000000400008F, 0x000000000000000004000090, 0x000000000000000004000087].all (fun w =>
        ((lineOp w).req? 4).any (fun q => q.stage == .home && ((lineOp w).op? 3).any (fun o => o.opc == opOf w
          && !(o.lanesIn q).any (fun l => (lineOp w).laneBlocked 3 o l) && !(lineOp w).heldLanes o q)))
    ∧ (polling.pollWaiting 3 0).any (fun p => p.2.due == 64 && polling.clock < p.2.due && !limitElapsed polling.clock p.1.issued p.2) := by
  decide +kernel

theorem witness_AttributesArrive_ends :
    let s := afterSlot (paged (withRegs [(4, 0x200000)])) loadSlot
    (s.op? 3).any (fun o => (o.lanes.find? (fun l => l.stage == .attr)).any (fun l =>
      l.ea < 2 ^ 57 && failed ((s.forgetAttr 0 1 l.ea).requestAttr 0 true 1 l.ea).2 .notValid))
    ∧ ((asking.forgetAttr 0 1 256).requestAttr 0 true 1 256).1.permit (asking.ctxOf 1) { page with write := false } .write = some .perm
    ∧ ((asking.updLane 3 0 (fun l => { l with ea := 2 ^ 57 })).op? 3).any (fun o =>
        (o.lanes.find? (fun l => l.stage == .attr)).any (fun l => 2 ^ 57 ≤ l.ea)) := by decide +kernel

def failsRead (r : State × Except MemErr (List Byte)) : Bool := match r.2 with
  | .ok _ => false
  | .error _ => true

/-- COPY.G2G of a line of 128 bytes from 512 to 256, whose line there is poisoned; and one to a page that may not be written. -/
def between (p : Attr) : State :=
  let m := mapped (withRegs [(2, 256), (4, 512), (6, 128)])
  aim (afterSlot (m.setMem { m.m with
    attrs := [(0, p)]
    poison := [4, 5]
    tlb := (List.range 48).map (fun k => (k, p)) }) 0x00000000400000060402008C) 3 0 0

theorem witness_CopySteps_ends :
    let behind := afterSlot (afterSlot toCopy 0x0000000000010000000000B0) copySlot
    (behind.op? 4).any (fun o => o.leader.any (fun l => behind.copyBlocked 4 o l false true 256 0))
    ∧ (copyBegun.op? 3).any (fun o => o.leader.any (fun l => !copyBegun.copyBlocked 3 o l false true 256 0) && !o.copied)
    ∧ (let bad := copyBegun.setMem { copyBegun.m with poison := [4] }
       (bad.op? 3).any (fun o => o.leader.any (fun l => failsRead (bad.copyLoad o (bad.agentOf 1 l.key) false 256 16))))
    ∧ ((between page).op? 3).any (fun o => Rule.sub o.f == 2 && o.move.any (fun m => m.todo.contains 0 && o.leader.any (fun l =>
        let ag := (between page).agentOf 1 l.key
        okBytes ((between page).copyLoad o ag false 512 16)
          && (match ((between page).store ag 256 (List.replicate 16 0)).2 with | .error (.poisoned _) => true | _ => false)
          && (between page).wholeLine ag 256 m.dst m.len == some (256, 64)
          && (match ((between page).copyLine o ag false m 256 64).2 with | .ok _ => true | _ => false))))
    ∧ ((between { page with write := false }).op? 3).any (fun o => o.leader.any (fun l =>
        match ((between { page with write := false }).store ((between page).agentOf 1 l.key) 256 (List.replicate 16 0)).2 with
        | .error (.page _ _) => true
        | _ => false))
    ∧ (crowded 64 multicast).freeLocks 0 = 0 := by decide +kernel

/-- A Tarn that resizes and one that drains, each with nothing left to move. -/
def tarnIn (st : Nat) : State := aim (demo.setTdb 5 (BitVec.ofNat 512 (st * 1024 + 5))) 5 0 0

/-- An XLATE.INV of ASID 1 outstanding. -/
def invalidating : State := aim (afterSlot (withRegs [(6, 1)]) 0x0000000040000600000000A5) 3 0 0

theorem witness_TarnSteps :
    tdbState ((tarnIn 1).tdb 5) = 1 ∧ tdbState ((tarnIn 2).tdb 5) = 2 ∧ (tarnIn 2).m.lines = []
    ∧ (let s1 := after (aim homed 4 0 0) .homeSliceRequest
       let s2 := after (aim s1 4 0 0) .shardWalkComplete
       let s4 := after (aim (after s2 (.memoryControllerAccess 4 [])) 4 0 0) .lineFillReturn
       s4.m.lines.all (fun l => (s4.lineAt l.tarn l.asid l.va).isSome) && !s4.m.lines.isEmpty
         && tdbState ((s4.setTdb 0 (BitVec.ofNat 512 2048)).tdb 0) == 2
         && s4.m.lines.all (fun l => !(s4.setTdb 0 (BitVec.ofNat 512 1024)).placedLine l))
    ∧ (invalidating.op? 3).any (fun o => o.opc == 0xA5 && invalidating.live o.block && o.move.any (fun m => m.len == 0)
        && o.leader.any (fun l => l.stage == .sent)) ∧ invalidating.v.reqs = [] := by decide +kernel

/-- The homed line, filled; and a request for it that its home has accepted. -/
def filled : State :=
  let s2 := after (aim (after (aim homed 4 0 0) .homeSliceRequest) 4 0 0) .shardWalkComplete
  after (aim (after s2 (.memoryControllerAccess 4 [])) 4 0 0) .lineFillReturn

theorem witness_TarnSteps_ends :
    (let s := filled.setMem { filled.m with lines := filled.m.lines }
     s.m.lines.all (fun l => s.lineBusy l.asid l.va l.data.length == false && s.placedLine l))
    ∧ (let s := after (aim homed 4 0 0) .homeSliceRequest
       filled.m.lines.all (fun l => s.lineBusy l.asid l.va l.data.length))
    ∧ (invalidating.op? 3).any (fun o => o.move.any (fun m => (xlateNames 0xA5 (Rule.sub o.f) m.src m.len m.dst).all (fun r =>
        !invalidating.holderIn (invalidating.doomedByInv r))))
    ∧ (let s := aim (afterSlot (withRegs [(4, 4096), (5, 0x2000000), (6, 4096)]) xlateSlot) 3 0 0
       (s.op? 3).any (fun o => o.opc == 0xA5 && Rule.sub o.f < 2 && o.move.any (fun m => m.len != 0 && 2 ^ 57 < m.src + m.len)))
    ∧ (let s := after (aim homed 4 0 0) .homeSliceRequest
       let t := after (aim s 4 0 0) .shardWalkComplete
       (t.req? 4).any (fun q => q.stage == .controller && meetsName (1, 0, 4096) q.attr.asid q.attr.va q.attr.size)) := by decide +kernel

/-- The end of a drain: the Tarn is RETIRED (R124). -/
theorem test_drain : does (tarnIn 2) .tarnDrainComplete (fun t => tdbState (t.tdb 5) == 3) := by decide +kernel

theorem witness_SharesRetire :
    let erred := aim ({ demo with clock := 100 }.setMem { demo.m with eccAt := [(7, 50)] }) 7 0 0
    bit demo.r.shareRet.toNat 31 = false ∧ demo.m.retired = []
    ∧ (after demo (.shareretWrite 18431)).m.retiring.find? (fun p => p.1 == 18431) = some (18431, true)
    ∧ bit (after demo (.shareretWrite 18431)).r.shareRet.toNat 31
    ∧ erred.shareGone 7 = false ∧ Tab.look erred.m.eccAt 7 = some 50 := by decide +kernel

theorem witness_SharesRetire_ends :
    demo.m.retiring.find? (fun p => p.1 == 7) = none ∧ Tab.look demo.m.eccAt 7 = none ∧ demo.shareGone 18431 = false
    ∧ ({ demo with m := { demo.m with retired := [7] } } : State).shareGone 7
    ∧ (let s : State := { demo.setMem { demo.m with eccAt := [(7, 50)] } with clock := 50 + 2 ^ 30 }
       (Tab.look s.m.eccAt 7).any (fun t => t + 2 ^ 30 ≤ s.clock))
    ∧ (let s : State := { demo.setMem { demo.m with eccAt := [(7, 50)] } with clock := 49 + 2 ^ 30 }
       (Tab.look s.m.eccAt 7).any (fun t => s.clock < t + 2 ^ 30 && t ≤ s.clock)) := by decide +kernel

/-- Share 18,432 does not exist: STATUS 1 at once (R128). -/
theorem test_shareret : does demo (.shareretWrite 18432) (fun t => t.r.shareRet.toNat == 18432 + 2 ^ 30) := by decide +kernel

theorem witness_ErrorsAndRefreshes :
    (match demo.paClass 0x1000 with | .memory off => off == 0x1000 | _ => false) = true ∧ demo.linesAtPa 0x1000 = []
    ∧ demo.m.copies = [] ∧ Tab.get demo.m.owedRefresh 0 0 < 8
    ∧ Tab.get (after demo (.refreshDue 0 3 true)).m.owedRefresh 3 0 = 1 := by decide +kernel

theorem witness_ErrorsAndRefreshes_ends :
    (match demo.paClass (2 ^ 48) with | .memory _ => false | _ => true) = true
    ∧ Tab.get ({ demo with m := { demo.m with owedRefresh := [(3, 8)] } } : State).m.owedRefresh 3 0 = 8
    ∧ Tab.get ({ demo with m := { demo.m with owedRefresh := [(3, 7)] } } : State).m.owedRefresh 3 0 < 8 := by decide +kernel

theorem test_poison : does (aim demo 0x1000 0 0) .memoryUncorrectableError (fun t => t.m.poison == [0x40]) := by decide +kernel

def twoEntries : State :=
  aim (demo.setMem { demo.m with
    dir := [⟨0, 1, 0, 64, 1, [3], 0⟩, ⟨0, 1, 64, 64, 1, [3], 0⟩]
    wbq := [⟨1, 0, List.replicate 64 7⟩] }) 0 1 0

theorem witness_DirectorySteps :
    let s := { twoEntries with clock := 1000000 }
    let find (va : Nat) : Option DirEntry := s.m.dir.find? (fun e => e.slice == 0 && e.asid == 1 && e.va == va)
    (find 0).any (fun a => (find (a.va + a.size)).any (fun b => (mergeDir s.clock a b).isSome))
    ∧ s.v.reqs = [] ∧ (s.m.wbq[s.sel.x]?).isSome := by decide +kernel

theorem witness_DirectorySteps_ends :
    let find (s : State) (va : Nat) : Option DirEntry := s.m.dir.find? (fun e => e.slice == 0 && e.asid == 1 && e.va == va)
    (find twoEntries 0).any (fun a => (find twoEntries (a.va + a.size)).any (fun b => (mergeDir twoEntries.clock a b).isNone))
    ∧ find demo 0 = none ∧ (find twoEntries 64).any (fun a => (find twoEntries (a.va + a.size)).isNone) ∧ demo.m.wbq[0]? = none
    ∧ (let w : WriteBack := ⟨1, 0, List.replicate 64 7⟩
       let s := demo.setMem { demo.m with wbq := [w, w] }
       (s.m.wbq[1]?).any (fun w => (s.m.wbq.take 1).any (fun o => o.asid == w.asid && o.va < w.va + w.data.length && w.va < o.va + o.data.length)))
    ∧ homed.v.reqs.any (fun q => q.2.asid == 1 && q.2.va ≤ 256 && 256 < q.2.va + q.2.size && q.2.attr.home < 2
        && (homed.op? q.2.op).any (fun o => homed.coreOfBlock o.block == 0)) := by decide +kernel

theorem test_directory_merge :
    does { twoEntries with clock := 1000000 } .directoryMerge (fun t => t.m.dir.map (fun e => (e.va, e.size)) == [(0, 128)]) := by
  decide +kernel

/-! ## Commits and launches -/

/-- TCOMMIT outstanding for a transaction of depth 1. -/
def committing : State := aim (afterSlot (inTx 1) 0x0000000000000000000900B7) 3 0 0

def accepts (v : Vote) : Bool := match v with
  | .accept => true
  | _ => false

def ticketed : State := aim (after committing .commitTicketRequest) 0 0 0

theorem witness_CommitSteps :
    (committing.op? 3).any (fun o => o.opc == 0xB7 && committing.live o.block && o.lanes.length == 1
      && o.lanes.all (fun l => l.stage == .sent && !committing.laneBlocked 3 o l && ((committing.thread? l.key).bind (·.tx)).any (fun x =>
        x.ticket.isNone && x.pending.isNone)))
    ∧ (ticketed.x.tickets.find? (fun t => t.n == 0)).any (fun t => !t.host && t.todo.isEmpty && (ticketed.thread? t.key).any (fun th => th.tx.isSome))
    ∧ (let s : State := { ticketed with x := { ticketed.x with tickets := ticketed.x.tickets.map (fun t => { t with todo := [4] }) } }
       (s.x.tickets.find? (fun t => t.n == 0)).any (fun t => t.todo.contains 4 && accepts (s.voteOf 4 t.key).2
        && !s.x.tickets.any (fun u => u.n < t.n && s.ticketTouches u 4)))
    ∧ ((inTx 1).thread? 2048).any (fun t => t.tx.any (fun x => x.start + 1048576 ≤ 1048576 && x.ticket.isNone)) := by decide +kernel

/-- A lane that commits what its transaction read and wrote, with slice 15 still to vote: the line of both is being served. -/
def busyLine (log : List Logged) (buf : List Buffered) : State :=
  let s := (after (aim homed 4 0 0) .homeSliceRequest).updThread 2048 (fun t =>
    { t with tx := some ⟨1, [], 0, 0, 64, 9, 0, 0, false, log, buf, false, some 0, none⟩ })
  { s with x := { s.x with tickets := [⟨0, false, 2048, [15], [], 5⟩] } }

/-- Thread 2048 or another one waits for the commit lock. -/
def lockWaits (key : Nat) : State := { demo with x := { demo.x with queue := [(3, key)] } }

theorem witness_CommitSteps_ends :
    (let s := committing.setOps (committing.v.ops.flatMap (fun p => [(2, { p.2 with opc := 0x81 }), p]))
     (s.op? 3).any (fun o => o.opc == 0xB7 && s.live o.block && o.lanes.any (fun l => l.stage == .sent && s.laneBlocked 3 o l))) = true
    ∧ (let s : State := { ticketed with x := { ticketed.x with tickets := [⟨0, false, 2048, [4], [], 3⟩, ⟨1, false, 2049, [4], [], 3⟩] } }
       s.x.tickets.any (fun u => u.n < 1 && s.ticketTouches u 4)) = true
    ∧ (let s := committing.updThread 2048 (fun t => { t with tx := t.tx.map (fun x => { x with doomed := true }) })
       match (s.voteOf 4 2048).2 with | .reject e => e == .conflict | _ => false) = true
    ∧ (match ((busyLine [⟨1, 256, List.replicate 16 0⟩] []).voteOf 15 2048).2 with | .wait => true | _ => false) = true
    ∧ ((busyLine [] []).publishAll 0 (demo.ctxOf 1) 2048 [⟨1, 256, List.replicate 16 (some 0)⟩]).isNone
    ∧ (lockWaits 2048).x.holder = none ∧ ((lockWaits 2048).v.groups.find? (fun p => p.2.members.contains 2048)).isSome
    ∧ ((lockWaits 9).v.groups.find? (fun p => p.2.members.contains 9)).isNone ∧ demo.x.queue = []
    ∧ ((inTx 1).thread? 2048).any (fun t => t.tx.any (fun x => 1048575 < x.start + 1048576)) := by decide +kernel

/-- The commit ends: vD is 0, the transaction is closed (R340). -/
theorem test_commit :
    let s := after (aim (after ticketed .txPublish) 3 0 0) .variableLatencyComplete
    (s.thread? 2048).any (fun th => th.tx.isNone && th.val 9 1 == 0 && th.pc == 65) ∧ s.x.tickets = [] := by decide +kernel

theorem witness_LaunchResults :
    let f := slotOf 0x00000000001000000403000B
    let s := aim (afterSlot (mapped (withRegs [(4, 256)])) 0x00000000001000000403000B) 3 0 0
    issues demo 0x0B f demoGroup ∧ outsideTx demo demoGroup f ∧ issues demo 0x0C (slotOf 0x00000000001000000203000C) demoGroup
    ∧ issues demo 0x0D (slotOf 0x00000000000000000203000D) demoGroup
    ∧ (s.op? 3).any (fun o => o.opc == 0x0B && s.live o.block && (minBy (·.lane) (o.lanes.filter (fun l => l.stage == .sent))).any (fun l =>
        !s.submitBlocked 3 o l && l.ea % 128 == 0 && okBytes (s.load (s.agentOf o.block l.key) l.ea 128))) := by decide +kernel

/-- A record of one block of one thread, whose save area has `n` bytes: 90,112 are the fewest that hold an image. -/
def recordAt (n : Nat) : Nat := 64 + 2 ^ 64 + 2 ^ 96 + 2 ^ 112 + 2 ^ 128 + 2 ^ 144 + n * 2 ^ 768

def launchSlot : BitVec 96 := 0x00000000001000000403000B

/-- LAUNCH of a record at an address. -/
def launching (va d : Nat) : State :=
  let m := mapped (withRegs [(4, va)])
  aim (afterSlot (m.setMem { m.m with mem := Memory.writes m.m.mem 512 (bytesOf 128 d) }) launchSlot) 3 0 0

/-- What the read of a record comes to. -/
def recordRead (s : State) : String :=
  match s.op? 3 with
  | some o => (match o.leader with
    | some l => (match (s.load (s.agentOf o.block l.key) l.ea 128).2 with
      | .ok _ => "ok"
      | .error .held => "held"
      | .error (.page _ _) => "page"
      | .error (.poisoned _) => "poisoned")
    | none => "none")
  | none => "none"

/-- The line of the record at 256 belongs to a commit of thread 2049 for which slice 15 has voted. -/
def publishing : State :=
  let s := lineOp launchSlot
  { s with
    x := { s.x with tickets := [⟨0, false, 2049, [], [15], 5⟩] }
    v := { s.v with threads := s.v.threads ++ [(2049, { freshThread 1 1 1 64 [] 0 with
      tx := some ⟨1, [], 0, 0, 64, 9, 0, 0, false, [], [⟨1, 256, List.replicate 16 (some 0)⟩], false, some 0, none⟩ })] } }

/-- LWAIT for a handle where entry 0 is the thread's own and entry 1, generation 1, is in this state. -/
def awaiting (h : Nat) (st : LState) : State :=
  let s := aim (afterSlot (withRegs [(2, h)]) 0x00000000001000000203000C) 3 0 0
  { s with l := { s.l with launches := s.l.launches ++ [(1, { soloLaunch with state := st })] } }

theorem witness_LaunchResults_ends :
    (let ok (d : Nat) : Bool := recordOk d (parseRecord d 1) 1 true
     ok (recordAt 90112) && !ok (recordAt 90111) && (parseRecord (recordAt 90112 + 2 ^ 191) 1).secure && ok (recordAt 90112 + 2 ^ 191)) = true
    ∧ [recordRead (launching 512 0), recordRead ((launching 512 0).setMem { (launching 512 0).m with poison := [9] }),
        recordRead (launching 0x400000 0), recordRead publishing] = ["ok", "poisoned", "page", "held"]
    ∧ lowest 256 (launching 512 0).entryFree = some 1
    ∧ (let s := launching 512 0
       lowest 256 ({ s with l := { s.l with launches := (List.range 256).map (fun i => (i, soloLaunch)) } } : State).entryFree) = none
    ∧ (let s := afterSlot (afterSlot (mapped (withRegs [(4, 256)])) 0x0000000000010000000000B0) launchSlot
       (s.op? 4).any (fun o => o.leader.any (fun l => s.submitBlocked 4 o l))) = true
    ∧ [(0, 0), (0x201, 7), (0x101, 3), (0x100, 3)].all (fun p => (awaiting 0 .running).launchCode p.1 == p.2)
    ∧ (awaiting 0x101 .done).launchCode 0x101 = 5
    ∧ ((awaiting 0x101 .running).op? 3).any (fun o => (awaiting 0x101 .running).residentOp o && (awaiting 0x101 .running).live o.block
        && !laneDone o && o.lanes.all (fun l => (l.b.getD 0 0).toNat == 0x101)) := by decide +kernel

/-- A record at an address that is no multiple of 128 gives 4, and LSTAT of a handle of a past generation gives STALE 7 (R209, R212). -/
theorem test_launch :
    (let s := after (aim (afterSlot (withRegs [(4, 64)]) 0x00000000001000000403000B) 3 0 0) .launchSubmission
     (s.op? 3).any (fun o => o.lanes.all (fun l => l.res == [4]))) = true
    ∧ (let s := after (aim (afterSlot (withRegs [(2, 0x500)]) 0x00000000000000000203000D) 3 0 0) .variableLatencyComplete
       regOf s 2048 3 == 7) = true := by decide +kernel

/-! ## The matrix engine -/

/-- Slot 0 holds one BF16 row of 1.5, −2, 3, 0.25; slot 1 an N8 row of 2, 2, 0, 7 (the example of R377); slot 2 waits. -/
def resvX : Resv := ⟨0, 12, false, 1, 4, 0, 0, 0, 1, true, [(0, 0xC0), (1, 0x3F), (3, 0xC0), (4, 0x40), (5, 0x40), (6, 0x80), (7, 0x3E)]⟩
def resvP : Resv := ⟨1, 5, false, 1, 4, 0, 0, 0, 1, true, [(0, 2), (1, 2), (3, 7)]⟩
def resvE : Resv := ⟨2, 12, false, 1, 4, 0, 0, 0, 1, false, []⟩

/-- The block holds a window of 16 rows of engine 0 and the three reservations; the group sees the whole window. -/
def windowGroup : Group := { demoGroup with awlimit := 16 }

def windowed (rs : List (Nat × Nat)) : State :=
  let s := withRegs rs
  { s with v := { s.v with
      blocks := [(1, { soloBlock with
        window := some ⟨0, 0, 16⟩
        resv := [resvX, resvP, resvE] })]
      groups := [(2, windowGroup)] } }

def rowsOf (n : Nat) : State := { demo with l := { demo.l with launches := [(0, { soloLaunch with record := { soloRecord with mrows := n } })] } }

theorem witness_WindowResults :
    let w := windowed []
    let ok (s : State) (g : Group) : Bool := issues s 0xC0 (slotOf 0x0000010000000000000200C0) g
      && wholeGroup s g (slotOf 0x0000010000000000000200C0) && !(s.lanesOf g (slotOf 0x0000010000000000000200C0)).isEmpty
    ok demo demoGroup ∧ ok w windowGroup ∧ ok (rowsOf 256) demoGroup ∧ (rowsOf 256).freeRows 0 256 = some 0
    ∧ issues w 0xC0 (slotOf 0x0000002020000000070300C0) windowGroup ∧ issues w 0xC0 (slotOf 0x0000000040000000000300C0) windowGroup
    ∧ issues w 0xC0 (slotOf 0x0000000060000000000300C0) windowGroup ∧ (w.block? 1).any (fun b => b.window.isSome && !b.resv.isEmpty)
    := by decide +kernel

/-- ALLOC of 256 rows where MROWS is 256, and where it is 0; SUB of 32 rows at 0 of 16; QUERY (R361, R362). -/
theorem test_windows :
    runs (rowsOf 256) 0x0000010000000000000300C0 (fun t => regOf t 2048 3 == 0 && (t.group? 2).any (fun g => g.awlimit == 256))
    ∧ runs demo 0x0000010000000000000300C0 (fun t => regOf t 2048 3 == 1)
    ∧ runs (windowed []) 0x0000002020000000070300C0 (fun t => regOf t 2048 3 == 3)
    ∧ runs (windowed []) 0x0000000420000000070300C0 (fun t => regOf t 2048 3 == 0 && (t.group? 2).any (fun g => g.awlimit == 4))
    ∧ runs (windowed []) 0x0000000060000000000300C0 (fun t => regOf t 2048 3 == 16 * 1024 + 16 * 1048576)
    ∧ runs (windowed []) 0x0000000040000000000300C0 (fun t => regOf t 2048 3 == 4) := by decide +kernel

/-- MPERM of X by P with M 1 and N 4 into row 0, MZERO of row 0, MREAD of row 0, MWRITE, OBFREE of slot 1, MLOAD to slot 2. -/
def mpermSlot : BitVec 96 := 0x0004018000000005040200C7
def mzeroSlot : BitVec 96 := 0x0000000100000000000200C9
def mreadSlot : BitVec 96 := 0x000000000A000000020400CA
def mwriteSlot : BitVec 96 := 0x000000000A000006020000CB
def obfreeSlot : BitVec 96 := 0x0000000000000000050000C2
def mloadSlot : BitVec 96 := 0x0000000000000908020C00C3
def forMatrix : State := windowed [(5, 1), (8, 0x2000000), (9, 16), (6, 0x3F800000), (7, 0x40000000)]

def planGoes (p : MatPlan) : Bool := match p with
  | .go _ _ _ _ => true
  | _ => false

theorem witness_MatrixIssues :
    let s := forMatrix
    let g := windowGroup
    wholeGroup s g (slotOf mpermSlot) ∧ s.matrixRoom 0 0
    ∧ (s.block? 1).any (fun b => b.window.isSome && b.productOk 0xC7 (slotOf mpermSlot) 0 1 && b.productOk 0xC8 (slotOf 0x0004000000000000040200C8) 0 0
        && b.productOk 0xC4 (slotOf 0x000400000C000004040200C4) 0 0 && b.productOk 0xC6 (slotOf 0x0000000000000000040200C6) 0 0
        && planGoes (s.mloadPlan g (s.lanesOf g (slotOf mloadSlot)) b 0 (slotOf mloadSlot) ((s.thread? 2048).getD (freshThread 1 0 0 64 [] 0))))
    ∧ ([mpermSlot, mzeroSlot, mreadSlot, mwriteSlot, obfreeSlot, mloadSlot, 0x0000000000000708040300C1, 0x0004000000000000040200C8,
        0x0000000000000004040200C5, 0x000400000C000004040200C4, 0x0000000000000000040200C6] : List (BitVec 96)).all (fun w =>
          issues s (opOf w) (slotOf w) g)
    ∧ ({ s with v := { s.v with groups := [(2, { windowGroup with whole := false })] } } : State).converged { windowGroup with whole := false } = false
    := by decide +kernel

/-- Entries 0 to `n` − 1 of engine 0 are taken. -/
def tableOf (n : Nat) : State :=
  let s := afterSlot forMatrix mzeroSlot
  { s with v := { s.v with ops := s.v.ops.flatMap (fun p => (List.range n).map (fun k => (10 + k, { p.2 with entry := k }))) } }

def planWaits (s : State) (w : BitVec 96) : Bool := match s.matrixPlan windowGroup (s.lanesOf windowGroup (slotOf w)) (opOf w) (slotOf w) with
  | .wait => true
  | _ => false

/-- Class 0 may take the entries 0 to 27 (R352). -/
theorem witness_MatrixIssues_ends :
    planWaits (tableOf 28) mzeroSlot ∧ (tableOf 27).matrixRoom 0 0 ∧ (tableOf 28).matrixRoom 0 0 = false ∧ (tableOf 28).matrixRoom 0 3
    ∧ planWaits (crowded 64 forMatrix) mloadSlot
    ∧ (let s := twoLanes
       let ls := s.lanesOf (groupOf [2048, 2049]) (slotOf 0x0000000100000000000201C9)
       ls.any (·.run) && !ls.all (·.run)) = true := by decide +kernel

/-- The product is posted, granted the engine, and its one pass leaves 3, 3, 1.5 and +0 in row 0 (R377). -/
theorem test_mperm :
    let s1 := aim (afterSlot forMatrix mpermSlot) 0 0 0
    let s2 := after s1 .matrixPassGrant
    let s3 := after s2 .matrixPassEnd
    (s3.block? 1).any (fun b => (List.range 4).map (fun c => (b.acc 0 c).toNat) == [0x40400000, 0x40400000, 0x3FC00000, 0])
    ∧ (after (aim s3 3 0 0) .matrixEntryComplete).op? 3 = none := by decide +kernel

/-- A product MMA.BF16 of the row with itself: 1.5 × 1.5 + 4 + 9 + 0.0625 = 15.3125. -/
theorem test_mma :
    let s3 := after (after (aim (afterSlot forMatrix 0x000400000C000004040200C4) 0 0 0) .matrixPassGrant) .matrixPassEnd
    (s3.block? 1).any (fun b => (b.acc 0 0).toNat == 0x41750000) := by decide +kernel

/-- MWRITE of N32 pairs and MREAD of them (R379); OBFREE; MZERO. -/
theorem test_accumulators :
    let pass (s : State) (w : BitVec 96) : State := after (after (aim (afterSlot s w) 0 0 0) .matrixPassGrant) .matrixPassEnd
    ((pass forMatrix obfreeSlot).block? 1).any (fun b => b.resv.map (·.slot) == [0, 2])
    ∧ ((pass (forMatrix.updBlock 1 (fun b => b.setAcc 0 5 7)) mzeroSlot).block? 1).any (fun b => b.rows.isEmpty) := by decide +kernel

def granted (w : BitVec 96) : State := after (aim (afterSlot forMatrix w) 0 0 0) .matrixPassGrant

theorem witness_MatrixPasses :
    let s := aim (afterSlot forMatrix mpermSlot) 0 0 0
    (minBy (fun p => s.passRank p.2) ((s.entriesOf 0).filter (fun p => s.eligible p.1 p.2))).any (fun p => p.1 == 3)
    ∧ Tab.look s.v.passes 0 = none ∧ s.resetting 0 = false
    ∧ [mpermSlot, mzeroSlot, mreadSlot, mwriteSlot, obfreeSlot].all (fun w =>
        (Tab.look (granted w).v.passes 0).any (fun p => p.1 == 3) && ((granted w).op? 3).any (fun o => o.opc == opOf w))
    ∧ ((granted mpermSlot).op? 3).any (fun o => ((granted mpermSlot).block? 1).any (fun b => (b.factors o).any (fun x =>
        o.chunks ≤ o.chunk + passChunks x.a.fmt && o.chunk ≤ o.chunks))) := by decide +kernel

/-- OBRES of one BF16 row of four elements, where the launch has 4 granules, and where it has 3. -/
def reserving (mgran : Nat) : State :=
  let m := windowed [(4, 0x4000C), (7, 1)]
  let s : State := { m with l := { m.l with launches := [(0, { soloLaunch with record := { soloRecord with mgran := mgran } })] } }
  after (aim (afterSlot s 0x0000000000000708040300C1) 0 0 0) .matrixPassGrant

/-- What its pass answers. -/
def reservedBy (s : State) : Option (Nat × Bool) :=
  (s.op? 3).bind (fun o => (s.block? 1).map (fun b =>
    let r := s.reserve 0 b (((s.record? 1).map (·.mgran)).getD 0) o
    (r.1, r.2.isSome)))

/-- MMA of K positions. -/
def mmaOf (k : Nat) : State :=
  let s := granted 0x000400000C000004040200C4
  s.updOp 3 (fun o => { o with f := { o.f with i32 := BitVec.ofNat 32 (k * 65536) } })

/-- The product ends with this pass. -/
def lastPass (s : State) : Bool :=
  (s.op? 3).any (fun o => (s.block? 1).any (fun b => (b.factors o).any (fun x => o.chunks ≤ o.chunk + passChunks x.a.fmt)))

theorem witness_MatrixPasses_ends :
    (Tab.look (granted mpermSlot).v.passes 0).isSome ∧ (after (aim demo 0 0 0) .engineResetWrite).resetting 0 ∧ demo.entriesOf 0 = []
    ∧ reservedBy (reserving 4) = some (3, true) ∧ reservedBy (reserving 3) = some (256, false)
    ∧ (let s := (granted mpermSlot).updBlock 1 (fun b => { b with resv := [] })
       (s.op? 3).any (fun o => (s.block? 1).any (fun b => (b.factors o).isNone))) = true
    ∧ lastPass (mmaOf 128) ∧ lastPass (mmaOf 129) = false
    ∧ ((after (granted mzeroSlot) .matrixPassEnd).op? 3).any (fun o => o.served && o.posted.isSome)
    ∧ ((granted mzeroSlot).op? 3).any (fun o => !o.served && o.posted.isSome)
    ∧ (let s := aim (afterSlot forMatrix mloadSlot) 3 0 0
       (s.op? 3).any (fun o => o.posted.isSome && !o.served && o.move.any (fun m => m.wait == [0] && m.busy == []))) = true
    ∧ (let s := after (aim (after (aim (afterSlot forMatrix mloadSlot) 3 0 0) .mloadDeliveryBegin) 3 0 0) .mloadDeliveryEnd
       (s.op? 3).any (fun o => o.posted.isSome && o.move.any (fun m => m.wait == [] && m.busy == []))) = true := by decide +kernel

def loadBegun : State := aim (afterSlot forMatrix mloadSlot) 3 0 0

theorem witness_EngineSteps :
    (loadBegun.op? 3).any (fun o => o.opc == 0xC3 && o.posted.isSome && loadBegun.live o.block && o.leader.any (fun l => loadBegun.fenceMet 3 o l)
      && o.move.any (fun m => m.wait.contains 0 && (loadBegun.receiver o 0).any (fun p => !p.2.saving && p.2.lands m.dst m.len
        && (p.2.resvAt 2).any (fun r => loadBegun.deliverable 3 o p.1 2 p.2 r))))
    ∧ demo.resetting 0 = false ∧ (after (aim demo 0 0 0) .engineResetWrite).resetting 0
    ∧ (let s := { granted mpermSlot with clock := 65536 }
       (Tab.look s.v.passes 0).any (fun p => p.2 + 65536 ≤ s.clock)) := by decide +kernel

def delivering : State := aim (after loadBegun .mloadDeliveryBegin) 3 0 0

theorem witness_EngineSteps_ends :
    (let s := toMembers loadBegun [5] [5]
     (s.op? 3).any (fun o => (s.receiver o 5).isNone && o.move.any (fun m => m.wait.contains 5 && m.busy.contains 5))) = true
    ∧ ((loadBegun.updBlock 1 (fun b => { b with resv := [resvX] })).block? 1).any (fun b => (b.resvAt 2).isNone)
    ∧ ((loadBegun.updBlock 1 (fun b => { b with saving := true })).block? 1).any (·.saving)
    ∧ (let s := loadBegun.setOps (loadBegun.v.ops.flatMap (fun p =>
         [(2, { p.2 with opc := 0xC2, lanes := p.2.lanes.map (fun l => { l with b := [2] }) }), p]))
       (s.op? 3).any (fun o => (s.block? 1).any (fun b => !s.deliverable 3 o 1 2 b resvE))) = true
    ∧ soloBlock.lands (2 * 2 ^ 24) 16 = false
    ∧ (delivering.op? 3).any (fun o => o.move.any (fun m => m.busy.contains 0) && (delivering.receiver o 0).isSome)
    ∧ delivering.v.threads.any (fun p => p.2.block == 1)
    ∧ (delivering.setThreads []).v.threads.all (fun p => p.2.block != 1)
    ∧ (let s := { granted mpermSlot with clock := 65535 }
       (Tab.look s.v.passes 0).any (fun p => s.clock < p.2 + 65536)) = true
    ∧ Tab.look demo.v.passes 0 = none ∧ 128 ≤ (aim demo 128 0 0).sel.x := by decide +kernel

/-- MLOAD delivers sixteen zero bytes to slot 2, which is FULL at the end (R371 to R373). -/
theorem test_mload :
    let s := after (aim (after loadBegun .mloadDeliveryBegin) 3 0 0) .mloadDeliveryEnd
    (s.block? 1).any (fun b => (b.resvAt 2).any (·.full)) := by decide +kernel

/-! ## Weir, Inlet, Stillwater, channels -/

/-- A context of four bodies, a ring of 64 entries, states of 16 bytes: handle 0x100; and a usable list 0 of domain 7. -/
def weir : Weir := ⟨1, .open_, some (0, 0), 0, 1, 1, true, true, 4, 6, 1, none, 0x1000, 0x2000, 0x3000, 0, []⟩
def list0 : InletList := ⟨false, some 7, 3, 2 ^ 56, 0, 0, 0, false⟩

/-- The launch has one channel of one slot. -/
def flowing (rs : List (Nat × Nat)) : State :=
  let s := mapped (withRegs rs)
  { s with
    f := { s.f with
      weirs := [(0, weir)]
      lists := [(0, list0)] }
    l := { s.l with launches := [(0, { soloLaunch with record := { soloRecord with
      nchan := 1
      chans := [0] } })] } }

def takeG : BitVec 96 := 0x0000000020000005041400E2
def flowSlots : List (BitVec 96) :=
  [0xE0, 0xE1, 0xE2, 0xE3, 0xE4, 0x0000000020000000000000E4, 0xE5, 0xE6, 0xE7, 0x0000000020000000000000E8, 0x0000000040000000000000E8,
   0x0000000060000000000000E8, takeG, 0x0000000020000005040000E3]

def lands (e : Except Trap Move) : Bool := match e with
  | .ok _ => true
  | .error _ => false

theorem witness_FlowIssues :
    flowSlots.all (fun w => issues demo (opOf w) (slotOf w) demoGroup && outsideTx demo demoGroup (slotOf w)
      && !(running demo demoGroup (slotOf w)).isEmpty)
    ∧ (flowing []).weirOf 1 0 = none ∧ (flowing []).weirOf 1 0x100 = some (0, weir)
    ∧ lands ((flowing []).landing demoGroup weir (65536 - 4096)) ∧ (flowing []).freeLocks 0 ≠ 0
    ∧ !lands ((flowing []).landing demoGroup weir (65536 - 4080)) := by decide +kernel

theorem witness_FlowIssues_ends :
    (crowded 64 (flowing [])).freeLocks 0 == 0
    ∧ (crowded 64 (flowing [])).weirOf 1 0x100 == some (0, weir)
    ∧ lands ((crowded 64 (flowing [])).landing demoGroup weir 0) := by
  decide +kernel

theorem witness_ChannelSteps :
    let s := flowing []
    let w : BitVec 96 := 0xE8
    let busy := { s with f := { s.f with domains := [(0, (1, 0))] } }
    issues busy 0xE8 (slotOf w) demoGroup ∧ (setOff busy 0xE8 (slotOf w) demoGroup []).domainBusy 0
    ∧ issues s 0xE9 (slotOf 0xE9) demoGroup ∧ issues s 0xEA (slotOf 0xEA) demoGroup ∧ s.chanSlots 1 0 = some 1
    ∧ issues s 0xE9 (slotOf 0x0000000100000000000000E9) demoGroup ∧ s.chanSlots 1 1 = none
    ∧ ((afterSlot s 0xEA).op? 3).any (fun o => o.waitsChan && (afterSlot s 0xEA).live o.block
        && ((afterSlot s 0xEA).block? 1).any (fun b => !(afterSlot s 0xEA).chanBehind 3 o b)) := by decide +kernel

/-- The channel of the launch, whose one slot may hold a message, and a SEND or RECV that waits for it. -/
def channel (msgs : List Dword) (w : BitVec 96) : State :=
  let s := flowing [(4, 7)]
  afterSlot (s.setFlow { s.f with chans := if msgs.isEmpty then [] else [(16, msgs)] }) w

/-- The instruction waits, first in line, and so many messages stand in the channel. -/
def waitsBehind (s : State) (n : Nat) : Bool :=
  (s.op? 3).any (fun o => o.waitsChan && s.live o.block && o.lanes.length == 1 && o.lanes.all (fun l => s.fenceMet 3 o l)
    && (s.block? 1).any (fun b => !s.chanBehind 3 o b && (s.messages b.gang (chanNo o.f)).length == n))

/-- Two lanes find one slot too few; a SEND that waits for room, and finds it; a RECV that waits for a message, and finds it. -/
theorem witness_ChannelSteps_ends :
    (running (small 2 [2048, 2049]) (groupOf [2048, 2049]) (slotOf 0xE9)).length == 2
    ∧ waitsBehind (channel [5] 0x0000000000000004000000E9) 1
    ∧ waitsBehind ((channel [5] 0x0000000000000004000000E9).setMessages 1 0 []) 0
    ∧ waitsBehind (channel [] 0xEA) 0
    ∧ waitsBehind ((channel [] 0xEA).setMessages 1 0 [5]) 1 := by
  decide +kernel

/-- A message that is sent is what a receive gets (R413, R414). -/
theorem test_channel :
    let s := afterSlot (flowing [(4, 7), (5, 9)]) 0x0000000000000004000000E9
    (s.f.chans.map (·.2)).map (fun l => l.map (·.toNat)) = [[9 * 2 ^ 32 + 7]] := by decide +kernel

/-- STILL.WAIT.HOLD makes a domain busy, and the word of .TEST says so (R410, R411). -/
theorem test_still :
    let s := after (aim (afterSlot (flowing [(2, 7)]) 0x0000000040000000020300E8) 3 0 0) .variableLatencyComplete
    regOf s 2048 3 = 1 ∧ s.domain 7 = (1, 0) ∧ s.domainBusy 7 := by decide +kernel

/-- INLET.TAKE from an empty list, and a WEIR.PUSH to a stale handle, give their codes (R393, R406). -/
theorem test_flow_codes :
    (let s := after (aim (afterSlot (flowing [(2, 1)]) 0x0000000000000000020400E6) 3 0 0) .variableLatencyComplete
     regOf s 2048 7 == 256 + 2) = true
    ∧ (let s := after (aim (afterSlot (flowing [(2, 5)]) 0x0000000000000008020400E1) 3 0 0) .variableLatencyComplete
       regOf s 2048 4 == 4) = true := by decide +kernel

def flowOp (w : BitVec 96) (rs : List (Nat × Nat)) : State := aim (afterSlot (flowing rs) w) 3 0 0

theorem witness_FlowUnits :
    [0x0000000020000000000000E8, 0x0000000040000000000000E8, 0x0000000060000000000000E8, 0xE1, 0xE3, 0xE4, 0x0000000020000000000000E4,
      0xE5, 0xE6, 0xE7].all (fun w =>
        let s := flowOp w [(0, 0x100)]
        (s.op? 3).any (fun o => s.residentOp o && s.live o.block && !o.lanes.isEmpty && s.flowReady 3 o))
    ∧ (flowing []).listCode true 1 ≠ 0 ∧ weir.state = .open_ := by decide +kernel

/-- The pages of the kernel's names and of the global window, homed in Tarn 0. -/
def homePages (s : State) : State :=
  s.setMem { s.m with
    attrs := []
    tlb := (List.range 48).flatMap (fun k => [(k, { page with home := 0 }), (k, { page with asid := 0, va := 2 ^ 56, home := 0, user := false })]) }

/-- The granules at 0x1000, 0x2000, 0x3000 and at the start of the window belong to a commit for which slice 15 has voted. -/
def committed (s : State) : State :=
  let b (a va : Nat) : Buffered := ⟨a, va, List.replicate 16 (some 0)⟩
  { s with
    x := { s.x with tickets := [⟨0, false, 2049, [], [15], 5⟩] }
    v := { s.v with threads := s.v.threads ++ [(2049, { freshThread 9 1 1 64 [] 0 with
      tx := some ⟨1, [], 0, 0, 64, 9, 0, 0, false, [], [b 1 0x1000, b 1 0x2000, b 1 0x3000, b 0 (2 ^ 56)], false, some 0, none⟩ })] } }

/-- The context with its first constraint in the hand of thread 2048. -/
def inHand (st : WeirState) : Weir :=
  { weir with
    state := st
    next := 1
    pending := [(0, some 2048)] }

def hands (w : BitVec 96) (st : WeirState) : State :=
  let s := homePages (flowOp w [(0, 0x100), (2, 0x100), (4, 0x100)])
  s.setFlow { s.f with weirs := [(0, inHand st)] }

def lanes3 (s : State) : List LaneOp := match s.op? 3 with
  | some o => o.lanes
  | none => []

/-- What a TAKE of one item comes to. -/
def taking (s : State) : String := match (s.takeItems { list0 with count := 1 } 0 1).2 with
  | .ok _ => "ok"
  | .error b => if b then "held" else "fault"

/-- WEIR.OPEN of a descriptor at an address. -/
def opening (va : Nat) : State := homePages (flowOp 0x0000000000000000020300E0 [(2, va), (3, va / 2 ^ 32)])
def openRead (s : State) : String :=
  match (s.load (s.agentOf 1 2048) ((lanes3 s).map (·.ea)).sum 64).2 with
  | .ok _ => "ok"
  | .error .held => "held"
  | .error (.page _ _) => "page"
  | .error (.poisoned _) => "poisoned"

def pushSlot : BitVec 96 := 0x0000000000000008020400E1

/-- The kernel's page is homed in Tarn 5, secure and pinned at its start on one share; a descriptor there that asks for zeroed bodies. -/
def pinnedPage (s : State) : State :=
  let s1 := s.setTdb 5 (BitVec.ofNat 512 (5 + 2 * 2 ^ 16 + 2 ^ 20 + 2 ^ 24 + 2 ^ 40 + 2 ^ 64 + 2 ^ 297))
  s1.setMem { s1.m with
    attrs := []
    tlb := (List.range 48).map (fun k => (k, { page with home := 1, tarn := 5, user := false, world := true })) }
def descriptor5 : Nat := 0x1000 + 0x2000 * 2 ^ 64 + 0x3000 * 2 ^ 128 + 4 * 2 ^ 192 + 6 * 2 ^ 224 + 2 ^ 249

/-- States in which each clause comes to its other ends. -/
theorem witness_FlowUnits_ends :
    (((aim (afterSlot homed 0xE7) 5 0 0).op? 5).any (fun o => (aim (afterSlot homed 0xE7) 5 0 0).residentOp o && !(aim (afterSlot homed 0xE7) 5 0 0).flowReady 5 o))
    ∧ ((({ demo with f := { demo.f with domains := [(0, (65535, 0))] } } : State).domain 0).1 == 65535 && (demo.domain 0).1 == 0)
    ∧ ((hands pushSlot .open_).pushLanes 0 false (lanes3 (hands pushSlot .open_))).isSome
    ∧ ((committed (hands pushSlot .open_)).pushLanes 0 false (lanes3 (hands pushSlot .open_))).isNone
    ∧ [WeirState.faulted, .closed].all (fun st => ((hands pushSlot st).weirOf 1 0x100).any (fun p => p.2.state == st))
    ∧ ((hands 0xE3 .open_).doneLanes 0 (inHand .open_) (lanes3 (hands 0xE3 .open_))).isSome
    ∧ ((committed (hands 0xE3 .open_)).doneLanes 0 (inHand .open_) (lanes3 (hands 0xE3 .open_))).isNone
    ∧ ((hands 0xE3 .open_).keepScatters (inHand .open_) ((hands 0x0000000020000005040000E3 .open_).scattersOf 1 0x100)).isSome
    ∧ ((committed (hands 0xE3 .open_)).keepScatters (inHand .open_) ((hands 0x0000000020000005040000E3 .open_).scattersOf 1 0x100)).isNone
    ∧ ((homePages (flowOp 0xE5 [])).addItems false (lanes3 (flowOp 0xE5 []))).isSome
    ∧ ((committed (homePages (flowOp 0xE5 []))).addItems false (lanes3 (flowOp 0xE5 []))).isNone
    ∧ [taking (homePages (flowing [])), taking (committed (homePages (flowing []))), taking (flowing [])] == ["ok", "held", "fault"]
    ∧ ((flowing []).listCode true 0 == 0 && weir.state == .open_)
    ∧ [openRead (opening 0x4000), openRead (committed (opening 0x2000)), openRead (opening 0x400000), openRead ((opening 0x4000).setMem { (opening 0x4000).m with poison := [256] })] == ["ok", "held", "page", "poisoned"]
    ∧ ((opening 0x4001).op? 3).any (fun o => o.leader.any (fun l => l.ea % 64 == 1))
    ∧ ((opening 0x4000).weirOpen 0 soloBlock (demo.ctxOf 1) 0).isSome
    ∧ ((pinnedPage (mapped demo)).weirOpen 0 soloBlock (demo.ctxOf 1) descriptor5).any (fun r => r.2 == 256)
    ∧ ((committed (pinnedPage (mapped demo))).weirOpen 0 soloBlock (demo.ctxOf 1) descriptor5).isNone := by
  decide +kernel

theorem witness_FlowSteps :
    let s := flowOp takeG [(4, 0x100)]
    (s.takesAt 0).length = 1 ∧ (s.op? 3).any (fun o => o.opc == 0xE2 && !o.served && s.live o.block && o.issued + 4096 ≤ 4096)
    ∧ (flowOp 0x0000000020000005040000E3 [(4, 0x100)] |>.op? 3).any (fun o => o.move.isSome && o.leader.any (fun l => l.stage == .sent))
    ∧ weir.place.isSome ∧ list0.faulted = false
    ∧ bit s.r.inletTab.toNat 0 = false ∧ s.f.lists.all (fun p => p.2.count == 0 && p.2.inHand == 0) := by decide +kernel

/-- A TAKE.G or DONE.S whose context is so, 4,096 cycles after its issue or before. -/
def atWeir (w : BitVec 96) (c : Weir) (clock : Nat) : State :=
  let s := homePages (flowOp w [(4, 0x100)])
  { s.setFlow { s.f with weirs := [(0, c)] } with clock := clock }

/-- No TAKE of die 0 ends. -/
def noTakeEnds (s : State) : Bool := (s.takesAt 0).length == 1 && (s.takesAt 0).all (fun p => !(s.serveTake p.1 p.2).2)

/-- The first TAKE of die 0 ends. -/
def takeEnds (s : State) : Bool := match s.takesAt 0 with
  | p :: _ => (s.serveTake p.1 p.2).2
  | [] => false

/-- What the copies of a gather and of a scatter, and the reads of the constraints in hand, come to. -/
def movedAs (r : State × Moved) : String := match r.2 with
  | .done => "done"
  | .page _ _ _ => "page"
  | .poisoned _ => "poisoned"
  | .held => "held"
def ownAs {α : Type} (r : State × Own α) : String := match r.2 with
  | .ok _ => "ok"
  | .error b => if b then "held" else "fault"
def gathered (s : State) (va : Nat) : String :=
  movedAs (s.gather (s.agentOf 1 2048) 1 16 [(0, va)]) ++ " " ++ movedAs (s.scatter (s.agentOf 1 2048) 1 16 [(0, va)])
def scatterSlot : BitVec 96 := 0x0000000020000005040000E3
def partsAs (s : State) : String := ownAs (s.scatterParts (inHand .open_) ⟨0, 0, 16, [], [], [], []⟩ (lanes3 s))
def openEntry : Weir := { inHand .open_ with pending := [(0, none)] }
def listOn (on : Bool) (count : Nat) : State :=
  let s := homePages (flowing [])
  { s.setFlow { s.f with lists := [(0, { list0 with count := count })] } with r := { s.r with inletTab := if on then 1 else 0 } }

/-- States in which each step comes to its other ends. -/
theorem witness_FlowSteps_ends :
    takeEnds (atWeir takeG { weir with state := .faulted } 0)
    ∧ noTakeEnds (atWeir takeG weir 4095)
    ∧ takeEnds (atWeir takeG weir 4096)
    ∧ (((atWeir takeG weir 4095).op? 3).any (fun o => !o.takeExpired 4095 && o.takeExpired 4096))
    ∧ [gathered (homePages demo) 256, gathered (homePages toCopy) 256, gathered (committed (homePages toCopy)) 0x1000, gathered ((homePages toCopy).setMem { (homePages toCopy).m with poison := [4] }) 256] == ["page page", "done done", "held held", "poisoned poisoned"]
    ∧ (((atWeir takeG weir 0).updOp 3 (fun o => { o with served := true })).op? 3 |>.any (fun o => o.served && o.move.isSome && o.leader.any (fun l => l.stage == .sent)))
    ∧ (((atWeir scatterSlot (inHand .open_) 0).op? 3).any (fun o => o.opc == 0xE3 && o.move.isSome && (atWeir scatterSlot weir 0).flowReady 3 o && o.leader.any (fun l => l.stage == .sent)))
    ∧ [partsAs (hands scatterSlot .open_), partsAs (committed (hands scatterSlot .open_)), partsAs (flowOp scatterSlot [(4, 0x100)])] == ["ok", "held", "ok"]
    ∧ partsAs ((hands scatterSlot .open_).setMem { (hands scatterSlot .open_).m with poison := [128] }) == "fault"
    ∧ [ownAs ((homePages toCopy).releasable openEntry [(0, none)]), ownAs ((committed (homePages toCopy)).releasable openEntry [(0, none)]), ownAs (demo.releasable openEntry [(0, none)])] == ["ok", "held", "fault"]
    ∧ [ownAs ((homePages toCopy).ownLoad list0.agent (list0.itemVa 0) 8), ownAs ((committed (homePages toCopy)).ownLoad list0.agent (list0.itemVa 0) 8), ownAs (demo.ownLoad list0.agent (list0.itemVa 0) 8)] == ["ok", "held", "fault"]
    ∧ (bit (listOn true 0).r.inletTab.toNat 0 && (listOn true 0).f.lists.all (fun p => p.2.count == 0 && p.2.inHand == 0) && !(listOn true 1).f.lists.all (fun p => p.2.count == 0 && p.2.inHand == 0)) := by
  decide +kernel

/-! ## Contexts, faults, saves, placement -/

/-- A block whose save has begun, with nothing left to wait for, and an area of its launch's for the image. -/
def saving : State :=
  let s := mapped demo
  { s with v := { s.v with blocks := [(1, { soloBlock with saving := true })] } }

def ctxSlots : List (BitVec 96) := [0xF0, 0x0000000020000000000000F0, 0x0000000040000000000000F0]
def ctxLoadSlots : List (BitVec 96) := [0xF1, 0x0000000020000000000000F1, 0x0000000040000000000000F1]

theorem witness_ContextResults :
    (ctxSlots ++ ctxLoadSlots).all (fun w => issuesPriv demo (opOf w) (slotOf w) demoGroup && outsideTx demo demoGroup (slotOf w)
      && !(running demo demoGroup (slotOf w)).isEmpty)
    ∧ issues demo 0xF3 (slotOf 0x0000000000000000060500F3) demoGroup ∧ (demo.block? 1).isSome ∧ (demo.record? 1).isSome
    ∧ demo.ctxRuns = false ∧ ({ saving with r := { demo.r with ctxBusy := [1] } } : State).ctxRuns := by decide +kernel

/-- PRIO asks for class 3 under CLASS 1, and gets the class before, 0 (R449). -/
theorem test_prio :
    runs { withRegs [(6, 3)] with l := { demo.l with launches := [(0, { soloLaunch with record := { soloRecord with cls := 1 } })] } }
      0x0000000000000000060500F3 (fun t => (t.block? 1).any (fun b => b.cls == 1) && regOf t 2048 5 == 0) := by decide +kernel

def reportFor (who : Awaiter) (seq : Option Nat) : Report := ⟨9, 0, 1, 256, 0x100, 1, 0, 0, false, 0, 14, who, seq, none⟩

/-- A fault ring of 128 slots at 0x100000, enabled; and one report. -/
def reporting (who : Awaiter) (seq : Option Nat) : State :=
  { loading with
    r := { loading.r with faultq := 0x100001 }
    l := { loading.l with reports := [reportFor who seq] } }

theorem witness_FaultAnswers :
    demo.reportOf 5 = none
    ∧ ((reporting (.op 3 [0]) (some 5)).reportOf 5).any (fun r => r.who == .op 3 [0])
    ∧ ((reporting (.op 3 [0]) (some 5)).op? 3).any (fun o => (reporting (.op 3 [0]) (some 5)).live o.block)
    ∧ ((reporting (.op 8 [0]) (some 5)).op? 8).isNone
    ∧ ((reporting (.group 2) (some 5)).reportOf 5).any (fun r => r.handle % 256 == 0 && r.handle / 256 == 1)
    ∧ (demo.launch? 0).any (fun l => l.gen == 1 && !l.state.final) := by decide +kernel

theorem test_kill : does (reporting (.op 3 [0]) (some 5)) (.faultackKill 5) (fun t =>
    (t.launch? 0).any (fun l => l.state == .poisoned) && t.l.reports.isEmpty) := by decide +kernel

theorem witness_FaultRing :
    let s := reporting .nobody none
    (s.l.reports.find? (fun r => r.seq.isNone)).any (fun r => r.who == .nobody) ∧ bit s.r.faultq.toNat 0 ∧ s.faultRoom
    ∧ ({ s with m := { s.m with mem := [(0x100004, 1)] } } : State).faultRoom = false ∧ bit demo.r.faultq.toNat 0 = false := by decide +kernel

theorem witness_FaultRing_ends :
    (((reporting (.op 3 [0]) none).l.reports.find? (fun r => r.seq.isNone)).any (fun r => r.type == 0 && r.who == .op 3 [0]))
    ∧ (reporting (.op 3 [0]) none).faultRoom
    ∧ (demo.l.reports.find? (fun r => r.seq.isNone)).isNone := by
  decide +kernel

/-- The record is written, source 0 is pending, and SEQ goes on (R442, R443). -/
theorem test_fault_record : does (reporting .nobody none) .faultRecordWrite (fun t =>
    t.l.fqSeq == 2 && t.l.fqIndex == 1 && t.r.intr.getLsbD 0 && t.l.reports.isEmpty
    && [0x100000, 0x100004, 0x10000C].map (fun a => (t.physByte a).toNat) == [14, 1, 1]) := by decide +kernel

theorem witness_SavesAndRemaps :
    (demo.block? 1).any (fun b => !demo.saveDue 1 b) ∧ (saving.block? 1).any (fun b => saving.saveDue 1 b)
    ∧ (demo.coreOf 9).stopped = false ∧ (demo.coreOf 9).mode < 2 ∧ demo.blocksOn 9 = [] := by decide +kernel

/-- A save whose area starts at `base`, of a grid with a Weir context or without, where the page at `va` is known. -/
def savingAt (va base : Nat) (weirs : Bool) : State :=
  let s := saving.setMem { saving.m with
    attrs := []
    tlb := (List.range 48).map (fun k => (k, { page with va := va, home := 0, user := false, world := true })) }
  { s with
    l := { s.l with launches := [(0, { soloLaunch with record := { soloRecord with saveBase := base, saveLen := 1048576 } })] }
    f := { s.f with weirs := if weirs then [(0, weir)] else [] } }

/-- Whether the image is written, and then the Weir contexts. -/
def imageWritten (s : State) : Option Bool :=
  match s.block? 1, s.record? 1 with
  | some b, some r =>
    if !s.saveDue 1 b then none
    else
      let w := (((s.recordOps 1).freeze 1).dropDirty 0 r.asid).saveBytes 0 r 1 (r.saveBase + 65536 + b.image * r.imageSize) r.imageSize
      if w.2 then some (w.1.saveWeirs 0 r 1).2 else none
  | _, _ => none

/-- The image and the contexts are written; the image is not; the contexts are not. -/
theorem witness_SavesAndRemaps_ends :
    imageWritten (savingAt 0 0 true) == some true
    ∧ imageWritten (savingAt 0 0x200000 true) == none
    ∧ imageWritten (savingAt 0x200000 0x1F0000 true) == some false
    ∧ imageWritten (savingAt 0x200000 0x1F0000 false) == some true
    ∧ ((savingAt 0 0x200000 true).block? 1).any (fun b => (savingAt 0 0x200000 true).saveDue 1 b)
    ∧ ((demo.updCore 9 (fun c => { c with stopped := true })).coreOf 9).stopped
    ∧ ((demo.updCore 9 (fun c => { c with mode := 2 })).coreOf 9).mode == 2 := by
  decide +kernel

/-- A launch whose one block is still to be placed. -/
def queued : State := { State.reset with l := { State.reset.l with launches := [(0, { soloLaunch with
    next := 0
    record := { soloRecord with saveLen := 1048576 } })] } }

def class3 : State :=
  { State.reset with l := { State.reset.l with launches := [(0, { soloLaunch with
      next := 0
      record := { soloRecord with cls := 3 } })] } }

theorem witness_Placement :
    demo.offers 5 = [] ∧ (minBy (fun p => p.2.2) (queued.offers 0)).any (fun p => p.1 == 0 && p.2.1 == .new)
    ∧ (demo.launch? 0).any (fun l => l.record.cls < 3)
    ∧ (class3.launch? 0).any (fun l => l.record.cls == 3 && class3.eligibleLaunch l)
    ∧ (({ demo with l := { demo.l with launches := [(0, { soloLaunch with slice := some 0 })] } } : State).launch? 0).any (fun l =>
        l.state == .running && l.slice == some 0 && !demo.waitsFor 0 l) := by decide +kernel

/-- A launch of one block of 512 threads, which takes every register of a core, in a gang or alone. -/
def wide (cls gangp : Nat) : Record :=
  { soloRecord with
    ntid := 512
    cls := cls
    gangp := gangp
    saveLen := 16777216 }

/-- A second launch, queued, and these dies closed. -/
def beside (r : Record) (dies : List Nat) : State :=
  { demo with l := { demo.l with
    launches := [(0, soloLaunch), (1, { soloLaunch with next := 0, record := r, state := .queued })]
    closedDies := dies } }

/-- A block of `queued` that has been saved. -/
def saved : State :=
  { queued with
    v := { queued.v with blocks := [(1, { soloBlock with core := none, chunks := [] })] }
    l := { queued.l with launches := queued.l.launches.map (fun p => (p.1, { p.2 with next := 1, state := .saved })) } }

/-- A gang of two blocks, or of one after its fallback, has reserved core 5. -/
def gangWaits (mode : Nat) : State :=
  let s := { queued with
    clock := 4096
    v := { queued.v with cores := [(5, { CoreSt.reset with mode := mode })] } }
  { s with l := { s.l with
    launches := s.l.launches.map (fun p => (p.1, { p.2 with record := { p.2.record with gangp := 1, gdimx := 2 } }))
    gangs := [⟨0, 0, [5], 0⟩] } }

def held5 (s : State) : List Nat :=
  let others : State := State.withReserved { s with l := { s.l with gangs := [] } } 4
  others.holding 0 [] 0 [5]
def slicing (s : State) : State :=
  { s with l := { s.l with launches := s.l.launches.map (fun p => if p.1 == 0 then (0, { p.2 with slice := some 0 }) else p) } }

/-- The ends of placement, of a fallback, of claims and of slices. -/
theorem witness_Placement_ends :
    (minBy (fun p => p.2.2) (saved.offers 0)).any (fun p => p.2.1 == .saved 1)
    ∧ ((gangWaits 0).fallbackDue 0 && held5 (gangWaits 0) == [5] && (gangWaits 2).fallbackDue 0 && held5 (gangWaits 2) == [])
    ∧ !({ gangWaits 0 with clock := 4095 } : State).fallbackDue 0
    ∧ (let s := beside { wide 3 1 with ntid := 4096 } []
       (s.launch? 1).any (fun l => s.gangWants 1 l && s.stuck 1 l && (s.bestDieClaim 1 l).isNone)) = true
    ∧ (demo.launch? 0).any (fun l => !demo.gangWants 0 l)
    ∧ (let s := beside (wide 3 1) [1, 2, 3]
       (s.launch? 1).any (fun l => !s.stuck 1 l)) = true
    ∧ (let s := slicing (beside { wide 0 0 with ntid := 4096 } [])
       (s.launch? 0).any (fun l => l.slice == some 0 && s.waitsFor 0 l)) = true := by
  decide +kernel

/-- Placement makes the block's 64 threads at the record's ENTRY (R424, R30). -/
theorem test_placement : does queued .blockPlacement (fun t =>
    t.v.blocks.length == 1 && t.v.threads.length == 64 && t.v.threads.all (fun p => p.2.pc == 64 && p.2.regs == [])) := by decide +kernel

/-- The group is about to enter its line, which the core fetches. -/
def enteringLine : State := aim (mapped { demo with v := { demo.v with groups := [(2, { demoGroup with line := none })] } }) 2 0 0

def parked (st : GroupState) (due : Nat) : State :=
  aim { demo with v := { demo.v with groups := [(2, { demoGroup with
    st := st
    due := due
    parks := [.regroup] })] } } 2 0 0

def fetched (r : State × Except MemErr (BitVec 512)) : Bool := match r.2 with
  | .ok b => lineParityOk b && lineWordOk b
  | .error _ => false

theorem witness_LineAndTimerSteps :
    let s0 := enteringLine.setCur ⟨2, none, false, none, 0⟩
    (s0.entering 2).any (fun g => g.heldLine.isNone) ∧ fetched (s0.fetch 0 (s0.ctxOf 1) 64)
    ∧ ((parked .backwater 0).group? 2).any (fun g => g.parks.contains .regroup && g.flagsClear && g.plan.isNone && (parked .backwater 0).live g.block)
    ∧ ((parked .cove 0).group? 2).any (fun g => g.st == .cove && g.due ≤ 0) ∧ ((parked .cove 5).group? 2).any (fun g => 0 < g.due)
    := by decide +kernel

/-- The group is about to enter the line of a PC. -/
def enteringAt (pc : Nat) (s : State) : State := s.updGroup 2 (fun g => { g with pc := BitVec.ofNat 64 pc })

/-- What the fetch of the group's line comes to. -/
def fetchAs (s : State) : String :=
  let s0 := s.setCur ⟨2, none, false, none, 0⟩
  match s0.group? 2 with
  | none => "none"
  | some g => match (s0.fetch 0 (s0.ctxOf 1) (lineOf g.pc.toNat)).2 with
    | .ok b => if lineParityOk b then (if lineWordOk b then "good" else "bad word") else "bad parity"
    | .error (.page _ _) => "page"
    | .error (.poisoned _) => "poisoned"
    | .error .held => "held"
def writes (s : State) (a : Nat) (b : Byte) : State := s.setMem { s.m with mem := Memory.write s.m.mem a b }

/-- The ends of a line's entry, and of the timers. -/
theorem witness_LineAndTimerSteps_ends :
    (((enteringLine.updGroup 2 (fun g => { g with line := some ⟨64, lineWith 0, false⟩ })).group? 2).any (fun g => g.heldLine.isSome && ((enteringLine.updGroup 2 (fun g => { g with line := some ⟨64, lineWith 0, false⟩ })).entering 2).isSome))
    ∧ [fetchAs enteringLine, fetchAs (writes enteringLine 80 1), fetchAs (enteringAt 0x400000 enteringLine), fetchAs (enteringLine.setMem { enteringLine.m with poison := [1] }), fetchAs (committed (homePages (enteringAt 0x1000 enteringLine)))] == ["good", "bad parity", "page", "poisoned", "held"]
    ∧ (demo.setCur ⟨2, none, false, none, 0⟩).entering 2 == none
    ∧ (!bit (lineTargets (lineWith 0)) 1 && bit (lineTargets (lineWith 0)) 0)
    ∧ lineWordOk (1 <<< 29) == false
    ∧ ((parked .backwater 0).updGroup 2 (fun g => { g with flags := [(3, 1)] })).groupIdle 2 ((((parked .backwater 0).updGroup 2 (fun g => { g with flags := [(3, 1)] })).group? 2).getD demoGroup) == false
    ∧ (parked .backwater 0).coveFree ((((parked .backwater 0)).group? 2).getD demoGroup) == false
    ∧ (parked .cove 0).coveFree ((((parked .cove 0)).group? 2).getD demoGroup) := by
  decide +kernel

theorem test_line_entry : does enteringLine .lineEntry (fun t => (t.group? 2).any (fun g => g.line.any (fun l => l.addr == 64 && l.entered)))
    := by decide +kernel

theorem test_cove_issues : does (parked .cove 0) .coveAgeTimeout (fun t => (t.group? 2).any (fun g => g.st == .ready)) := by decide +kernel

/-! ## Collectives -/

theorem witness_CollectiveIssues :
    ([0x000000000D000706040500F4, 0x0000000000000706040500F5, 0xF6, 0x0000000020000000000000F6, 0x0000000000000700001100F7] : List (BitVec 96)).all (fun w =>
      issues demo (opOf w) (slotOf w) demoGroup && outsideTx demo demoGroup (slotOf w) && !(running demo demoGroup (slotOf w)).isEmpty)
    := by decide +kernel

/-- A length of 24 is no multiple of 16 (R467). -/
theorem test_coll_length : runs (withRegs [(6, 24)]) 0x000000000D000706040500F4 (fun t => (t.op? 3).isNone)
    ∧ runs (withRegs [(6, 32)]) 0x000000000D000706040500F4 (fun t => (t.op? 3).isSome) := by decide +kernel

def f32s (l : List Nat) : List Byte := l.flatMap (fun x => bytesOf 4 x)

/-- The example of R476, in package 5: ALLRED.ADD.F32 over packages 0, 2 and 5, its own input 1, 2, 0, 0 read and sent, and that of
package 0 arrived. -/
def round5 : Round :=
  ⟨1, 1, ⟨false, 0, 13, 16, 0⟩, 0x25, 256, 1, true, true, true, 500, f32s [0x3F800000, 0x40000000, 0, 0],
    [(0, false, f32s [0x4B800000, 0, 0, 0])], none⟩

def ringing : State :=
  { demo with
    r := { demo.r with
      pkg := 5
      alive := 0x25
      other := [(0x218, 0x0001000000250025)]
      asidTab := 0x40001 }
    m := { demo.m with tlb := (List.range 48).map (fun k => (k, { page with
      frame := 5 * 2 ^ 48
      leaf := 5 * 2 ^ 48 + 0x200000 })) }
    c := [(3, ⟨2, [round5], none, [], none⟩)] }

theorem test_allred : does ringing (.collPartReceived 3 1 2 round5.header false (f32s [0x3F800000, 0, 0, 0])) (fun t =>
    t.physBytes 256 16 == f32s [0x4B800000, 0x40000000, 0, 0]
    && does t (.collPartReceived 3 1 0 round5.header true []) (fun u => does u (.collPartReceived 3 1 2 round5.header true []) (fun w =>
      (w.openRound 3 1).isNone && (w.slot 3).rounds.all (fun r => r.outcome == some (0, 0))))) := by decide +kernel

theorem witness_CollectiveSteps :
    (ringing.slot 4).open_ = [] ∧ ringing.reforming 4 = none ∧ (ringing.slot 3).open_ ≠ [] ∧ ringing.openRound 3 2 = none ∧ ringing.openRound 3 300 = none ∧ ringing.commBusy 4 = false
    ∧ (ringing.openRound 3 1).any (fun r => bit r.ring 2 && r.parts.all (fun p => !(p.1 == 2 && p.2.1 == false))
        && (r.seg (rankIn r.ring 5)).2 == 16 && r.due == 500)
    ∧ (let s := { ringing with
         c := [(3, ⟨2, [], some ⟨3, 0x25, [], 63, 100⟩, [], none⟩)]
         v := (afterSlot demo 0x0000000000000700001100F7).v }
       (s.reforming 3).any (fun r => bit r.set 2 && r.got.isEmpty && (onesOf 8 r.set).contains 0 && 63 ≤ r.count)) = true := by decide +kernel

/-- What the write of a part of a result comes to. -/
def putAs (s : State) : String := match s.putResult 3 round5 0 (List.replicate 16 0) with
  | none => "held"
  | some r => if r.2 then "ok" else "fault"

/-- The buffer of the round lies at 0x1000. -/
def putFar (s : State) : String := match s.putResult 3 { round5 with addr := 0x1000 } 0 (List.replicate 16 0) with
  | none => "held"
  | some r => if r.2 then "ok" else "fault"

/-- A reform of slot 3 over packages 0, 2 and 5, with these sets received, after so many exchanges. -/
def reforming3 (got : List (Nat × Nat)) (count : Nat) : State :=
  { ringing with
    c := [(3, ⟨2, [], some ⟨3, 0x25, got, count, 100⟩, [], none⟩)]
    v := (afterSlot demo 0x0000000000000700001100F7).v }

/-- A WAIT that holds a slot, rounds that are still to be accepted, parts that come twice or do not fit, writes that fault or are held,
and sets that come twice, agree or differ. -/
theorem witness_CollectiveSteps_ends :
    ((afterSlot demo 0xF6).commBusy 0 && ((afterSlot demo 0xF6).slot 0).open_.isEmpty && !(afterSlot demo 0xF6).commBusy 1)
    ∧ (ringing.roundAhead 3 2 && ringing.roundAhead 3 17 && !ringing.roundAhead 3 18 && !ringing.roundAhead 3 0)
    ∧ (round5.parts.any (fun p => p.1 == 0 && !p.2.1) && round5.header != ⟨true, 0, 0, 16, 0⟩ && (round5.seg (rankIn 0x25 5)).2 != 8)
    ∧ ((round5.seg (rankIn 0x25 2)).2 == 0 && round5.got false + 1 != round5.members)
    ∧ [putAs ringing, putAs { ringing with r := { ringing.r with asidTab := 0x20001 }, m := { ringing.m with tlb := [] } }, putFar (committed (homePages toCopy))] == ["ok", "fault", "held"]
    ∧ ((ringing.openRound 3 1).any (fun r => r.silent 5 == 5 && r.due == 500) && ringing.clock < 500)
    ∧ ((reforming3 [] 0).reforming 4 == none && bit ((reforming3 [] 0).commAlive 3) 2 && !bit ((reforming3 [] 0).commAlive 3) 1)
    ∧ (((reforming3 [(2, 5)] 0).reforming 3).any (fun r => r.got.any (fun q => q.1 == 2) && !bit r.set 1 && (reforming3 [(2, 5)] 0).clock < r.due && r.count < 63))
    ∧ (((reforming3 [(0, 0x25), (2, 0x25)] 0).reforming 3).any (fun r => r.got.all (fun q => q.2 == r.set)) && ((reforming3 [(0, 0x21), (2, 0x25)] 0).reforming 3).any (fun r => !r.got.all (fun q => q.2 == r.set) && r.count < 63)) := by
  decide +kernel

/-! ## Hosts -/

/-- Hart 0 runs in machine mode; x10 = 0x100, x11 = −2, memory holds 0xFFFF_FF80 at 0x100. -/
def hosting : State :=
  { State.reset with
    powered := true
    m := { State.reset.m with mem := [(0x100, 0x80), (0x101, 0xFF), (0x102, 0xFF), (0x103, 0xFF)] }
    harts := [(0, { Hart.reset with
      running := true
      pc := 0x1000
      regs := [(10, 0x100), (11, 0xFFFFFFFFFFFFFFFE)] })] }

def okRead (r : HostRead) : Bool := match r with
  | .ok _ _ => true
  | _ => false

def inHostTx (depth : Nat) (ticket : Option Nat) (wait : Option HostWait) : State :=
  hosting.updHart 0 (fun h => { h with
    tx := some ⟨depth, [], [], [], [], 0x1000, 5, 0, [], [(1, 640, 64)], [], ticket⟩
    wait := wait })

/-- Source 0 is pending and enabled, and routed to hart 0, which takes it in user mode or not. -/
def interrupting (mode mie : Nat) : State :=
  let s := hosting.updHart 0 (fun h => ({ h with mode := mode }).setCsr 0x304 mie)
  { s with r := { s.r with intr := 0x10001 } }

theorem witness_HostResults :
    hosting.me.tx = none ∧ okRead (hosting.hostRead 0 0x100 4 .read) ∧ okRead (hosting.hostRead 0 0x100 8 .both)
    ∧ okRead (hosting.hostWrite 0 0x100 [1, 2, 3, 4]) ∧ okRead (hosting.hostRead 0 0x100 128 .read)
    ∧ (match (paged hosting).hostRead 0 0x100 4 .read with | .fail (.page k _) => k == .notValid | _ => false) = true
    ∧ hosting.me.x 10 % 8 = 0 ∧ hosting.me.x 10 % 128 = 0 ∧ hosting.me.x 11 % 8 ≠ 0 ∧ hosting.me.mode ≠ 0
    ∧ (hosting.updMe (fun h => { h with reservation := some (0, 0x100, 4) })).me.reservation = some (0, 0x100, 4)
    ∧ hosting.waitWord 256 0 = some 0 ∧ ({ hosting with l := demo.l } : State).waitWord 256 0x100 = none
    ∧ hosting.intrLine 0 = false ∧ (interrupting 0 512).intrLine 0 ∧ (interrupting 0 512).me.running
    ∧ ({ (interrupting 0 512).me with irq := true } : Hart).takesIntr ∧ ({ (interrupting 0 0).me with irq := true } : Hart).takesIntr = false
    := by decide +kernel

/-- What an access of hart 0 comes to. -/
def readAs (r : HostRead) : String := match r with
  | .ok _ _ => "ok"
  | .fail (.page _ _) => "page"
  | .fail (.poisoned _) => "poisoned"
  | .fail .held => "held"
  | .abort _ => "abort"

/-- The kernel's names under ASID 1, with the pages that `m` sets up. -/
def hostPages (m : State → State) : State := m (hosting.updHart 0 (fun h => h.setCsr 0x5C0 1))

def poisoned4 (s : State) : State := s.setMem { s.m with poison := [4] }

/-- What XDISCARD of the first page comes to. -/
def discardAs (s : State) : String :=
  match (s.discardPages (s.hartCtx 0) 0 2097152 (s.pagesOfRange (s.hartCtx 0) 0 2097152)).2 with
  | .done => "done"
  | .fault _ _ => "fault"
  | .held _ => "held"

/-- Hart 0 backs off from 0x100 until a clock. -/
def backsOff (due : Nat) : State := hosting.updHart 0 (fun h => { h with wait := some (.poll 5 0x100 0 1 due) })

/-- Accesses that go through, meet a page fault or poison, or are held; a back-off; a range above 2^57; a discard; user mode; a
transaction that an interrupt finds. -/
theorem witness_HostResults_ends :
    [readAs ((hostPages mapped).hostRead 0 0x100 8 .read), readAs ((hostPages paged).hostRead 0 0x400000 8 .read), readAs ((poisoned4 (hostPages mapped)).hostRead 0 0x100 8 .read), readAs ((hostPages (fun s => committed (homePages (mapped s)))).hostRead 0 0x1000 8 .read)] == ["ok", "page", "poisoned", "held"]
    ∧ [readAs ((hostPages mapped).hostWrite 0 0x100 [1]), readAs ((hostPages paged).hostWrite 0 0x400000 [1]), readAs ((poisoned4 (hostPages mapped)).hostWrite 0 0x100 [1]), readAs ((hostPages (fun s => committed (homePages (mapped s)))).hostWrite 0 0x1000 [1])] == ["ok", "page", "poisoned", "held"]
    ∧ [readAs ((hostPages paged).hostRead 0 0x400000 128 .read), readAs ((hostPages paged).hostRead 0 0x400000 8 .both), readAs ((poisoned4 hosting).hostRead 0 0x100 4 .read)] == ["page", "page", "poisoned"]
    ∧ ((backsOff 64).clock < 64 && (backsOff 0).me.wait.isSome)
    ∧ ((hosting.hart 0).x 10 % 2 ^ 57 < 2 ^ 57 && (hostPages mapped).translating && (hostPages mapped).me.x 11 != 0 && 2 ^ 57 < (hostPages mapped).me.x 10 + (hostPages mapped).me.x 11)
    ∧ [discardAs (hostPages paged), discardAs (hostPages (fun s => writes (paged s) 0x53000 0x75))] == ["done", "fault"]
    ∧ (hosting.updHart 0 (fun h => { h with mode := 0 })).me.mode == 0
    ∧ ((interrupting 0 512).updHart 0 (fun h => { h with tx := (inHostTx 1 none none).me.tx })).me.tx.isSome := by
  decide +kernel

theorem test_host_access :
    does hosting (.hostAccess false 0 5 10 0) (fun t => t.me.x 5 == 0xFFFFFFFFFFFFFF80 && t.me.pc == 0x1004)
    ∧ does hosting (.hostAccess false 4 5 10 0) (fun t => t.me.x 5 == 0x80)
    ∧ does hosting (.hostAccess true 1 11 10 2) (fun t => (t.physBytes 0x100 6).map (·.toNat) == [0x80, 0xFF, 0xFE, 0xFF, 0, 0])
    ∧ does hosting (.hostAccess false 3 0 10 0) (fun t => t.me.x 0 == 0) := by decide +kernel

/-- AMOADD.W, and LR.W with SC.W (R309). -/
theorem test_host_atomic :
    does hosting (.hostAtomic 0 false false false 5 10 11) (fun t => t.me.x 5 == 0xFFFFFFFFFFFFFF80 && (t.physBytes 0x100 4).map (·.toNat) == [0x7E, 0xFF, 0xFF, 0xFF])
    ∧ does hosting (.hostAtomic 2 false false false 5 10 0) (fun t => does t (.hostAtomic 3 false false false 6 10 11) (fun u =>
        u.me.x 6 == 0 && (u.physBytes 0x100 4).map (·.toNat) == [0xFE, 0xFF, 0xFF, 0xFF] && u.me.reservation.isNone))
    ∧ does hosting (.hostAtomic 3 false false false 6 10 11) (fun u => u.me.x 6 == 1) := by decide +kernel

/-- XLWAIT of the handle 0 is INVALID at once; XPOLL of another value returns it; XLAUNCH of a record at 0x108 gives 4; an illegal word
traps (R175, R232 to R236). -/
theorem test_host_extension :
    does hosting (.xlwait 5 0) (fun t => t.me.x 5 == 0 && t.me.wait.isNone && t.me.pc == 0x1004)
    ∧ does hosting (.xpoll 5 10 11) (fun t => t.me.x 5 == 0xFFFFFF80)
    ∧ does (hosting.updMe (fun h => { h with regs := [(10, 0x108)] })) (.xlaunch 5 10) (fun t => t.me.x 5 == 4)
    ∧ does hosting (.hostIllegalInstruction 0x7B) (fun t => t.me.csr 0x342 == 2 && t.me.csr 0x343 == 0x7B && t.me.csr 0x341 == 0x1000) := by
  decide +kernel

/-- Hart 0 waits for its ticket, with nothing read or written. -/
def committing0 : State :=
  { hosting.updHart 0 (fun h => { h with
      tx := some ⟨1, [], [], [], [], 0x1000, 5, 0, [], [], [], some 4⟩
      wait := some (.commit 5) }) with x := { hosting.x with tickets := [⟨4, true, 0, [], [], 0⟩] } }

theorem witness_HostTransactions :
    hosting.me.tx = none ∧ (inHostTx 14 none none).me.tx.any (fun x => x.depth < 15) ∧ (inHostTx 15 none none).me.tx.any (fun x => 15 ≤ x.depth)
    ∧ (inHostTx 2 none none).me.tx.any (fun x => 2 ≤ x.depth) ∧ (inHostTx 1 none none).me.tx.any (fun x => x.depth == 1 && x.ticket.isNone)
    ∧ (committing0.hart 0).tx.any (fun x => x.ticket == some 4 && (committing0.hostReject 0 x).isNone
        && (committing0.publishAll 512 (committing0.hartCtx 0) 512 x.buf).isSome) ∧ committing0.x.tickets.all (fun t => 4 ≤ t.n)
    ∧ (committing0.hart 0).wait = some (.commit 5)
    ∧ (let s := inHostTx 1 (some 4) (some (.commit 5))
       (s.hart 0).tx.any (fun x => (s.hostReject 0 x).isSome)) = true
    ∧ (({ committing0 with x := { hosting.x with tickets := [⟨3, true, 1, [], [], 0⟩, ⟨4, true, 0, [], [], 0⟩] } } : State).x.tickets.any
        (fun t => t.n < 4)) := by decide +kernel

/-- The transaction's one write waits: its granule is being published. -/
def publishingHost : State :=
  let s := hostPages (fun s => committed (homePages (mapped s)))
  { s.updHart 0 (fun h => { h with
      tx := some ⟨1, [], [], [], [], 0x1000, 5, 0, [], [], [⟨1, 0x1000, List.replicate 16 (some 7)⟩], some 4⟩
      wait := some (.commit 5) }) with
    x := { s.x with tickets := s.x.tickets.map (fun t => { t with n := 5 }) ++ [⟨4, true, 0, [], [], 0⟩] } }

/-- A write that is still to be published, and a line that is not marked. -/
theorem witness_HostTransactions_ends :
    ((publishingHost.hart 0).tx.any (fun x => (publishingHost.hostReject 0 x).isNone && x.buf.length == 1))
    ∧ (!((inHostTx 1 none none).me.tx.any (fun x => (x.readLines ++ x.writtenLines).any (fun l => l.1 == 1 && l.2.1 ≤ 704 && 704 < l.2.1 + l.2.2)))) := by
  decide +kernel

/-- A ticket that is served commits: rd is 0, at NextPc. An eviction of a written line aborts with CAPACITY 6 (R348 to R350). -/
theorem test_host_tx :
    does committing0 .hostTxTicketServed (fun t => t.me.tx.isNone && t.me.x 5 == 0 && t.me.pc == 0x1004 && t.me.wait.isNone)
    ∧ does (aim (inHostTx 1 none none) 0 640 1) .hostTxEvictionAbort (fun t => t.me.tx.isNone && t.me.lastAbort == (6, 0))
    ∧ does (aim (inHostTx 1 none none) 0 704 1) .hostTxEvictionAbort (fun t => t.me.tx.isSome) := by decide +kernel

/-! ## Registers, the node, ports, the controller -/

theorem witness_RegisterWrites :
    demo.m.tdbSet = false ∧ (after demo (.tdbbaseWrite 0x10000)).m.tdbSet ∧ (demo.hart 1).running = false ∧ (hosting.hart 0).running
    ∧ (let s := aim { demo with n := { demo.n with ports := [(2, ⟨17, false, some 0, 0, false⟩)] }, clock := 3000000 } 2 0 0
       (s.port 2).down.any (fun t => t + 3000000 ≤ s.clock)) = true
    ∧ demo.stackOut 1 = false ∧ ((demo.setSys { demo.r with stackCtl := Tab.set demo.r.stackCtl 1 1 }).nextStack 1).isSome
    ∧ demo.isolateStatus 0 ≠ 0
    ∧ ({ State.reset with r := { State.reset.r with
         dieCtl := [(3, 4)]
         stackCtl := [(9, 1), (10, 1), (11, 1)] } } : State).isolateStatus 3 = 0
    ∧ ({ demo with clock := 4096 } : State).r.c3window ≠ 1 := by decide +kernel

def dieState (v : Dword) : State := { State.reset with r := { State.reset.r with dieCtl := [(3, v)] } }

/-- A package that may be lost, dies that are isolated or not closed, stacks none of which is in service, a window that runs on, and a
port that has been down for less than a millisecond. -/
theorem witness_RegisterWrites_ends :
    ((hosting.setSys { hosting.r with present := 3, alive := 3 }).r.alive == 3 && bit (hosting.setSys { hosting.r with present := 3, alive := 3 }).r.alive 1)
    ∧ (bits (Tab.get (dieState 8).r.dieCtl 3 0).toNat 2 2 == 2 && (dieState 4).isolateStatus 3 == 3 && demo.isolateStatus 0 == 1)
    ∧ ((List.range 12).foldl (fun (s : State) k => s.setSys { s.r with stackCtl := Tab.set s.r.stackCtl k 1 }) demo).nextStack 1 == none
    ∧ demo.r.c3window == demo.clock / 4096
    ∧ ([2, 3, 4].map (fun k => ((Tab.get ((aim { demo with n := { demo.n with ports := [(2, ⟨17, false, some 0, 0, false⟩)] }, clock := 2999999 } k 0 0).n.ports) k ⟨17, false, none, 0, false⟩).down.isSome))) == [true, false, false] := by
  decide +kernel

/-- TDBBASE takes one write only; a write of SYS.HOSTSTART starts a stopped hart (R109, R457). -/
theorem test_register_writes :
    does (after demo (.tdbbaseWrite 0x12345)) (.tdbbaseWrite 0x70000) (fun t => t.r.tdbBase == 0x10000)
    ∧ does demo (.hoststartWrite 1 0x4000) (fun t => (t.hart 1).running && (t.hart 1).pc == 0x4000) := by decide +kernel

def boot0 : Boot := ⟨[(40, [21])], 0, 1, 0, [7], 0, [0x13, 0, 0, 0], [(1, 5)], true, true, 3⟩

theorem witness_NodeSteps :
    State.reset.powered = false ∧ State.reset.n.off = false ∧ State.reset.harts = []
    ∧ (let s := { demo with r := { demo.r with
         present := 3
         alive := 3
         linkUp := 1 } }
       bit s.r.linkUp 0 && !bit s.r.linkUp 1 && bit s.r.present ((s.r.pkg + 0 + 1) % 8) && 12 ≤ (s.port 0).lanes && (s.recallOwn 0x1000 true).isSome
        && bit s.r.alive 1) = true := by decide +kernel

/-- Packages 0 and 1, joined by port 0, which has so many lanes. -/
def joined (lanes : Nat) : State :=
  { demo with
    r := { demo.r with
      present := 3
      alive := 3
      linkUp := 1 }
    n := { demo.n with ports := [(0, ⟨lanes, false, none, 0, false⟩)] } }

/-- Ports with 13, 12 and no lanes, one towards a package that is not fitted; a granule that may be asked for, whole or poisoned, and an
address that is none of this package's memory. -/
theorem witness_NodeSteps_ends :
    (((joined 13).port 0).lanes == 13 && ((joined 12).port 0).lanes < 13 && ((joined 0).port 0).lanes == 0 && bit (joined 12).r.linkUp 0 && !bit (joined 12).r.linkUp 1)
    ∧ !bit (joined 17).r.present (((joined 17).r.pkg + 1 + 1) % 8)
    ∧ ((match (joined 17).paClass 0x1000 with | .memory off => off == 0x1000 | _ => false) && (match (joined 17).paClass (2 ^ 48 * 7) with | .memory _ => false | _ => true))
    ∧ (((joined 17).recallOwn 0x1000 true).map (fun s => (s.recallHolders 0x1000 64 true (some 1) []).poisonedAt 0x1000 64)) == some false
    ∧ ((((joined 17).setMem { (joined 17).m with poison := [64] }).recallOwn 0x1000 true).map (fun s => (s.recallHolders 0x1000 64 true (some 1) []).poisonedAt 0x1000 64)) == some true := by
  decide +kernel

/-- Boot with slice 21 of core 40 fused off: SYS.LANEMAP reads 0x0001_7F15 (R53). -/
theorem test_boot : does State.reset (.powerGood boot0) (fun t => t.powered && (t.coreOf 40).laneMap == 0x17F15 && (t.hart 0).mode == 3)
    ∧ does (after State.reset (.powerGood boot0)) (.powerGood boot0) (fun t => (t.hart 0).running) := by decide +kernel

/-- Buffers lie in the global window, whose names are of ASID 0. -/
def globalPage : Attr := { page with
  asid := 0
  va := 2 ^ 56 }

/-- The ring of port 0 at 0x100000; its first descriptors, owned by the port: to send 60 bytes from 256, and to receive 1,024 at 512. -/
def etherPort : State :=
  { hosting with
    r := { hosting.r with
      other := [(0x3A0, 0x100001)]
      asidTab := 0x40001 }
    m := { hosting.m with
      tlb := (List.range 48).map (fun k => (k, globalPage))
      mem := Memory.writes (Memory.writes [] 0x100000 (bytesOf 32 (1 + 60 * 2 ^ 128 + (2 ^ 56 + 256) * 2 ^ 192))) 0x101000
        (bytesOf 32 (1 + 1024 * 2 ^ 128 + (2 ^ 56 + 512) * 2 ^ 192)) } }

theorem witness_PortSteps :
    bit (etherPort.ethReg 0) 0 ∧ bit (hosting.ethReg 0) 0 = false
    ∧ (etherPort.descriptor 0x100000).1.any (fun d => 60 ≤ bits d 128 16 && bits d 128 16 ≤ 9216 && okBytes (etherPort.load (inbound 728) (bits d 192 64) 60))
    ∧ (etherPort.descriptor 0x101000).1.any (fun d => 1024 ≤ bits d 128 16) ∧ (etherPort.descriptor 0x100020).1 = none
    ∧ okBytes (etherPort.load (inbound 724) (2 ^ 56 + 256) 8) := by decide +kernel

/-- Inbound accesses that go through, meet a page fault, or are held. -/
def inboundAs (s : State) (a : Nat) : List String :=
  [ownAs (s.ownLoad (inbound 728) a 8), ownAs (s.ownStore (inbound 728) a (List.replicate 8 0))]

/-- The pages of the window, which inbound accesses may use, homed in Tarn 0. -/
def openWindow (s : State) : State :=
  s.setMem { s.m with tlb := (List.range 48).map (fun k => (k, { globalPage with home := 0 })) }

/-- The first transmit descriptor asks for `n` bytes. -/
def sending (n : Nat) : State :=
  { etherPort with m := { etherPort.m with
    mem := Memory.writes etherPort.m.mem 0x100000 (bytesOf 32 (1 + n * 2 ^ 128 + (2 ^ 56 + 256) * 2 ^ 192)) } }

/-- Inbound accesses that go through, fault or are held; transmit lengths at the bounds of R481. -/
theorem witness_PortSteps_ends :
    [inboundAs etherPort (2 ^ 56 + 256), inboundAs { etherPort with m := { etherPort.m with tlb := [] } } (2 ^ 56 + 256), inboundAs (committed (openWindow etherPort)) (2 ^ 56)] == [["ok", "ok"], ["fault", "fault"], ["held", "held"]]
    ∧ ([59, 60, 9216, 9217].map (fun n => ((sending n).descriptor 0x100000).1.any (fun d => 60 ≤ bits d 128 16 && bits d 128 16 ≤ 9216)) == [false, true, true, false]) := by
  decide +kernel

/-- A frame of 60 bytes is sent, and its descriptor is given back; a longer one than the buffer takes gives status 2 (R481). -/
theorem test_ethernet :
    does etherPort .ethTransmit (fun t => t.out.length == 1 && (t.descriptor 0x100000).1.isNone && Tab.get t.n.eth 0 (0, 0) == (1, 0))
    ∧ does etherPort (.ethReceive 0 0 true (List.replicate 1025 7)) (fun t => (t.physBytes 512 1).map (·.toNat) == [0] && Tab.get t.n.eth 0 (0, 0) == (0, 1))
    ∧ does etherPort (.ethReceive 0 0 true [7, 8]) (fun t => (t.physBytes 512 3).map (·.toNat) == [7, 8, 0]) := by decide +kernel

theorem witness_ControllerSteps :
    bits State.reset.r.powercap.toNat 32 8 = 30 ∧ State.reset.r.powercap.toNat % 65536 = 3600 ∧ State.reset.n.cool = none
    ∧ ({ State.reset with n := { State.reset.n with activated := some 0 }, clock := 3000000 } : State).n.activated = some 0
    ∧ ({ State.reset with n := { State.reset.n with cool := some 0 }, clock := 30000000 } : State).n.cool = some 0 := by decide +kernel

def cooling (clock freq : Nat) : State :=
  { State.reset with
    clock := clock
    n := { State.reset.n with
      cool := some 0
      activated := some 0 }
    r := { State.reset.r with powercap := BitVec.ofNat 64 (freq * 2 ^ 32 + 3600) } }

/-- A clock that may rise, and a firmware that may be activated, or not yet; the bounds of FREQ. -/
theorem witness_ControllerSteps_ends :
    [29999999, 30000000].map (fun c => (cooling c 29).n.cool.any (fun t => t + 30000000 ≤ (cooling c 29).clock)) == [false, true]
    ∧ [2999999, 3000000].map (fun c => (cooling c 29).n.activated.any (fun t => t + 3000000 ≤ (cooling c 29).clock)) == [false, true]
    ∧ [15, 16, 29, 30].map (fun f => bits (cooling 0 f).r.powercap.toNat 32 8) == [15, 16, 29, 30] := by
  decide +kernel

/-- A draw over the cap lowers the clock by 0.1 GHz and raises source 9 (R488). -/
theorem test_power_cap : does State.reset (.powerCapExceeded 3601 false) (fun t => bits t.r.powercap.toNat 32 8 == 29 && t.r.intr.getLsbD 9)
    ∧ does State.reset (.powerCapExceeded 3600 false) (fun t => bits t.r.powercap.toNat 32 8 == 30 && t.n.cool.isSome) := by decide +kernel

/-! ## Slots, frames, steps -/

theorem witness_SlotChecks :
    demo.group? 2 = some demoGroup ∧ demoGroup.pendingTrap = none
    ∧ checkSlot (demo.declared 1) demoGroup 0x10 (slotOf 0x000000000B00000502030010) = some .illegal
    ∧ ({ demoGroup with engineReset := true } : Group).pendingTrap = some .engineReset
    ∧ ({ demoGroup with laneFault := true } : Group).pendingTrap = some .laneFault := by decide +kernel

theorem witness_IntegerLanes :
    issuesB forty 0x10 (slotOf 0x000000000300000502030010) (groupOf ((List.range 40).map (2048 + ·)))
    ∧ ((forty.lanesOf (groupOf ((List.range 40).map (2048 + ·))) (slotOf 0x000000000300000502030010)).map (·.key)).Nodup := by decide +kernel

/-- The hypotheses of LanewiseFrame are those of IntegerResults to FloatResults and that the instruction goes on. -/
theorem witness_LanewiseFrame :
    (integerSlots ++ bitsSlots ++ exchangeSlots ++ predicateSlots ++ voteSlots ++ floatSlots).all (fun w => runs demo w (fun _ => true)) := by
  decide +kernel

def storeOp : LaneOp := { laneOp ⟨0, 2048, freshThread 1 0 0 64 [] 0, true⟩ 8 [5] [] .ready with b := [5] }

theorem witness_StoreFrames :
    slowSlots.all (fun w => runs demo w (fun _ => true))
    ∧ (soloBlock.serve 0x83 (slotOf 0x000000000300000500000083) storeOp).isSome
    ∧ hosting.me.tx = none ∧ hosting.translating = false ∧ (match hosting.paClass 0x100 with | .memory off => off == 0x100 | _ => false) = true
    ∧ does hosting (.hostAccess true 3 11 10 0) (fun _ => true) := by decide +kernel

/-- The core's group at an IADD, a pair of IADDs, and a hart at an ADDI. -/
def stepping (w : BitVec 96) : State := State.reset.withSlot w

theorem witness_StepRuns :
    let s := stepping 0x000000000300000502030010
    s.powered ∧ s.n.off = false ∧ s.agenda = [⟨0, .issue 0⟩]
    ∧ (({ s with agenda := [] } : State).arbiter 0) = some 2
    ∧ (s.group? 2).any (fun g => g.entered.any (fun b => !isLower b (slotNo g.pc.toNat)
        && (match decodeSlot (lineSlot b (slotNo g.pc.toNat)) with | .ok i => i == .iadd (slotOf 0x000000000300000502030010) | _ => false)))
    := by decide +kernel

/-- Two IADDs, v3 and v4 := v2 + v5, as a pair, in a line that is entered. -/
def paired (lo hi : BitVec 96) : State :=
  let b : BitVec 512 := BitVec.ofNat 512 (hi.toNat * 2 ^ 128 + lo.toNat * 2 ^ 32 + 2 ^ 25 + 2 ^ 20)
  (stepping lo).updGroup 2 (fun g => { g with line := some ⟨64, b, true⟩ })

/-- Where the turn of core 0 stands: the lower slot and what follows it. -/
def pairAs (s : State) : String :=
  match s.group? 2 with
  | none => "none"
  | some g =>
    match g.entered with
    | none => "none"
    | some b =>
      if !isLower b (slotNo g.pc.toNat) then "single"
      else if !pairLegal b (slotNo g.pc.toNat) then "illegal"
      else
        match decodeSlot (lineSlot b (slotNo g.pc.toNat)) with
        | .error _ => "none"
        | .ok i =>
          match exec i { s with cur := ⟨2, none, false, some [], 0⟩ } with
          | .next t => if (State.higher { s with cur := ⟨2, none, false, some [], 0⟩ } t).isSome then "both" else "lower"
          | _ => "none"

/-- A single slot, a pair both of whose slots issue, one that is illegal and one that does not decode; a store to a register; a hart's
word; and turns of one cycle, of which the loss of a package comes first (R491). -/
theorem witness_StepRuns_ends :
    [pairAs (stepping 0x000000000300000502030010), pairAs (paired 0x000000000300000502030010 0x000000000300000502040010)] == ["single", "both"]
    ∧ [pairAs (paired 0x000000000000000000000001 0x000000000300000502040010), pairAs (paired 0x000000000B00000502030010 0x000000000300000502040010)] == ["illegal", "none"]
    ∧ ((match registerEvent 0x30 7 ⟨true, false⟩ with | some (i, _) => i == .registerWrite 0x30 7 ⟨true, false⟩ | none => false) && isEvent (.registerWrite 0x30 7 ⟨true, false⟩))
    ∧ (match (State.reset.withFetchWord 32 0x0050202B).hostFetch 0 with | .word _ w => (match decodeHost w with | .ok i => i == .xtxAbort 5 | _ => false) | _ => false) = true
    ∧ (bestTurn demo.actRank ⟨0, .host 3⟩ [⟨0, .host 2⟩, ⟨0, .event (.nodeLoseWrite 2) ⟨0, 0, 0⟩⟩]).1.act == .event (.nodeLoseWrite 2) ⟨0, 0, 0⟩ := by
  decide +kernel

/-- From reset, with a word placed: a slot runs as the first instruction, and so does a host word (ADDI x5, x0, 7 by the base encoding). -/
theorem test_first_step :
    (match step (State.reset.withFetchWord 96 0x000000000B00000502030010) with
      | .next t => t.l.launches.any (fun p => p.2.state == .poisoned)
      | _ => false) = true
    ∧ (match step (State.reset.withFetchWord 96 0x12345678094000000003002D) with
      | .next t => regOf t 2048 3 == 0x12345678
      | _ => false) = true
    ∧ (match step (State.reset.withFetchWord 32 0x0050202B) with
      | .next t => (t.hart 0).pc == 0x10000000004
      | _ => false) = true := by decide +kernel

/-! ## Decoding: a word of every constructor, its opcode and SUB from R171 and the rows of the instructions' chapters, and the
operand fields zero or as the row requires -/

/-- The word decodes to the constructor with the word's fields. -/
def reads (p : BitVec 96 × (Slot → Instr)) : Bool := match decodeSlot p.1 with
  | .ok i => i == p.2 (slotOf p.1)
  | .error _ => false

def controlWords : List (BitVec 96 × (Slot → Instr)) :=
  [(0x000000000000000000000000, .nop), (0x000000000000000000000001, .bra), (0x000000000000000000000002, .brx),
   (0x000000000000000000000003, .call), (0x000000000000000000000004, .callx), (0x000000000000000000000005, .ret),
   (0x000000000000000000000006, .exit), (0x000000000000000000000007, .trap), (0x000000000000000000000008, .reform),
   (0x000000000000000000000009, .yield), (0x00000000000000000000000A, .spawn), (0x00000000001000000000000B, .launch),
   (0x00000000001000000000000C, .lwait), (0x00000000000000000000000D, .lstat), (0x00000000000000000000000E, .sreg)]

theorem test_decode_control : controlWords.all reads := by decide +kernel

def integerWords : List (BitVec 96 × (Slot → Instr)) :=
  [(0x000000000100000000000010, .iadd), (0x000000000100000000000011, .isub), (0x000000000100000000000012, .imul),
   (0x000000000300000000000013, .imulh), (0x000000000100000000000014, .imad), (0x000000000300000000000015, .idiv),
   (0x000000000100000000000016, .imin), (0x000000000100000000000017, .imax), (0x000000000100000000000018, .iabs),
   (0x000000000100000000000019, .ineg), (0x00000000090000000000001A, .and), (0x00000000090000000000001B, .or),
   (0x00000000090000000000001C, .xor), (0x00000000090000000000001D, .not), (0x00000000090000000000001E, .shl),
   (0x00000000090000000000001F, .shr), (0x000000000300000000000020, .sar), (0x000000000900000000000021, .rot),
   (0x000000000300000000000022, .bfe), (0x000000000900000000000023, .bfi), (0x000000000900000000000024, .popc),
   (0x000000000900000000000025, .clz), (0x000000000900000000000026, .brev), (0x000000000900000000000027, .isel),
   (0x000000000100000000000028, .icmp), (0x000000000400000000000029, .iadd64), (0x00000000040000000000002A, .imad64),
   (0x00000000030000000000002B, .lea), (0x00000000000000000000002C, .mov), (0x00000000004000000000002D, .movi)]

theorem test_decode_integer : integerWords.all reads := by decide +kernel

def predicates_scalarsWords : List (BitVec 96 × (Slot → Instr)) :=
  [(0x000000000000000000000030, .pset), (0x000000000000000000000031, .pand), (0x000000000000000000000032, .por),
   (0x000000000000000000000033, .pxor), (0x000000000000000000000034, .pnot), (0x000000000000000000000035, .pmov),
   (0x000000000000000000000036, .pballot), (0x000000000000000000000037, .pany), (0x000000000000000000000038, .pall),
   (0x000000000440000000000039, .smovi), (0x00000000090000000000003A, .sget), (0x00000000030000000000003B, .sput),
   (0x00000000040000000000003C, .salu), (0x00000000040000000000003D, .scmp)]

theorem test_decode_predicates_scalars : predicates_scalarsWords.all reads := by decide +kernel

def floatWords : List (BitVec 96 × (Slot → Instr)) :=
  [(0x000000000B00000000000040, .fadd), (0x000000000B00000000000041, .fsub), (0x000000000B00000000000042, .fmul),
   (0x000000000B00000000000043, .fma), (0x000000000B00000000000044, .fmin), (0x000000000B00000000000045, .fmax),
   (0x000000000B00000000000046, .fabs), (0x000000000B00000000000047, .fneg), (0x000000000B00000000000048, .fcmp),
   (0x000000000B00000000000049, .fsel), (0x000000000B0000000000004A, .fclass), (0x000000000B0000000000004B, .fscale),
   (0x000000000B0000000000004C, .frnd), (0x000000000D0000000000004D, .fdot2), (0x000000000B00000000000050, .frcp),
   (0x000000000B00000000000051, .frsq), (0x000000000B00000000000052, .fsqrt), (0x000000000B00000000000053, .fdiv),
   (0x000000000B00000000000054, .fexp2), (0x000000000B00000000000055, .flog2), (0x000000000B00000000000056, .fsin),
   (0x000000000B00000000000057, .fcos), (0x000000000B00000000000058, .ftanh)]

theorem test_decode_float : floatWords.all reads := by decide +kernel

def conversion_exchangeWords : List (BitVec 96 × (Slot → Instr)) :=
  [(0x000000000100050000000060, .cvt), (0x000000000D000F0502030061, .cvts), (0x0000000014000D0502030062, .pack),
   (0x000000000300010000000063, .unpack), (0x000000000900000000000068, .qswap), (0x000000000900000000000069, .qbcast),
   (0x00000000090000000000006A, .shfl), (0x00000000090000000000006B, .shflup), (0x00000000090000000000006C, .shfldn),
   (0x00000000090000000000006D, .shflx), (0x00000000090000000000006E, .voteUni), (0x00000000290000000000006E, .voteMatch),
   (0x00000000030000000000006F, .redux), (0x000000000300000000000070, .scan)]

theorem test_decode_conversion_exchange : conversion_exchangeWords.all reads := by decide +kernel

def memoryWords : List (BitVec 96 × (Slot → Instr)) :=
  [(0x000000000100000000000080, .ld), (0x000000000100000000000081, .st), (0x000000000100000000000082, .lds),
   (0x000000000100000000000083, .sts), (0x000000000900000000000084, .ldfW), (0x000000002900000000000084, .ldfC),
   (0x000000000900000000000085, .stfW), (0x000000002900000000000085, .stfS), (0x000000000000000000000086, .femarkEmpty),
   (0x000000002000000000000086, .femarkFull), (0x000000000000000000000087, .prefL1),
   (0x000000002000000000000087, .prefTarn), (0x000000000300000000000088, .atom), (0x000000000900000000000089, .cas),
   (0x00000000030000000000008A, .red), (0x00000000030000000000008B, .poll), (0x00000000000000000000008C, .copy),
   (0x00000000000000000000008D, .copym), (0x00000000080000000000008E, .discard), (0x00000000000000000000008F, .cflushWb),
   (0x00000000200000000000008F, .cflushInv), (0x000000000000000000000090, .cinv)]

theorem test_decode_memory : memoryWords.all reads := by decide +kernel

def devicesWords : List (BitVec 96 × (Slot → Instr)) :=
  [(0x0000000000000000000000A0, .tarnDef), (0x0000000000000000000000A1, .tarnGrow),
   (0x0000000000000000000000A2, .tarnShrink), (0x0000000000000000000000A3, .tarnMove),
   (0x0000000000000000000000A4, .tarnRetire), (0x0000000000000000000000A5, .xlateInvAttr),
   (0x0000000020000000000000A5, .xlateInvLines), (0x0000000040000000000000A5, .xlateInvAttrall),
   (0x0000000060000000000000A5, .xlateInvLinesall), (0x0000000000000000000000A6, .poisonClear)]

theorem test_decode_devices : devicesWords.all reads := by decide +kernel

def orderWords : List (BitVec 96 × (Slot → Instr)) :=
  [(0x0000000000010000000000B0, .fence), (0x0000000000000000000000B1, .barArrive), (0x0000000000000000000000B2, .barWait),
   (0x0000000000000000000000B3, .sbarArrive), (0x0000000000000000000000B4, .sbarTest),
   (0x0000000000000000000000B5, .sbarWait), (0x0000000000000000000000B6, .tbegin), (0x0000000000000000000000B7, .tcommit),
   (0x0000000000000000000000B8, .tabort), (0x0000000000000000000000B9, .tstat)]

theorem test_decode_order : orderWords.all reads := by decide +kernel

def matrixWords : List (BitVec 96 × (Slot → Instr)) :=
  [(0x0000001000000000000000C0, .mwinAlloc), (0x0000000120000000000000C0, .mwinSub),
   (0x0000000040000000000000C0, .mwinFree), (0x0000000060000000000000C0, .mwinQuery), (0x0000000000000000000000C1, .obres),
   (0x0000000000000000000000C2, .obfree), (0x0000000000000000000000C3, .mload), (0x0000000020000000000000C3, .mloadPeer),
   (0x0000000001000000000000C4, .mma), (0x0000000000000000000000C5, .mmas), (0x0000000000000000000000C6, .mtrans),
   (0x0000000000000000000000C7, .mperm), (0x0000000000000000000000C8, .mrsum), (0x0000000100000000000000C9, .mzero),
   (0x000000000A000000000000CA, .mread), (0x000000000A000000000000CB, .mwrite)]

theorem test_decode_matrix : matrixWords.all reads := by decide +kernel

def flowWords : List (BitVec 96 × (Slot → Instr)) :=
  [(0x0000000000000000000000E0, .weirOpen), (0x0000000000000000000000E1, .weirPush),
   (0x0000000000000000000000E2, .weirTake), (0x0000000020000000000000E2, .weirTakeG),
   (0x0000000000000000000000E3, .weirDone), (0x0000000020000000000000E3, .weirDoneS),
   (0x0000000000000000000000E4, .weirCloseEnd), (0x0000000020000000000000E4, .weirCloseKill),
   (0x0000000000000000000000E5, .inletAdd), (0x0000000000000000000000E6, .inletTake),
   (0x0000000000000000000000E7, .inletDone), (0x0000000000000000000000E8, .stillWait),
   (0x0000000020000000000000E8, .stillWaitTest), (0x0000000040000000000000E8, .stillWaitHold),
   (0x0000000060000000000000E8, .stillWaitUnhold), (0x0000000000000000000000E9, .chanSend),
   (0x0000000000000000000000EA, .chanRecv)]

theorem test_decode_flow : flowWords.all reads := by decide +kernel

def context_collectiveWords : List (BitVec 96 × (Slot → Instr)) :=
  [(0x0000000000000000000000F0, .ctxSaveLaunch), (0x0000000020000000000000F0, .ctxSaveAsid),
   (0x0000000040000000000000F0, .ctxSaveDie), (0x0000000000000000000000F1, .ctxLoadLaunch),
   (0x0000000020000000000000F1, .ctxLoadAsid), (0x0000000040000000000000F1, .ctxLoadDie),
   (0x0000000000000000000000F2, .trapret), (0x0000000020000000000000F2, .trapretTo),
   (0x0000000040000000000000F2, .trapretGetpc), (0x0000000060000000000000F2, .trapretGetcause),
   (0x0000000080000000000000F2, .trapretGetaddr), (0x0000000000000000000000F3, .prio),
   (0x0000000003000000000000F4, .collAllred), (0x0000000000000000000000F5, .collBcast),
   (0x0000000000000000000000F6, .collWait), (0x0000000020000000000000F6, .collWaitS),
   (0x0000000000000000000000F7, .collReform)]

theorem test_decode_context_collective : context_collectiveWords.all reads := by decide +kernel

/-- The host words of the examples of R237 and R348, and base instructions by the RISC-V encodings (assumption log 15): LW, SD, FENCE,
AMOADD.D, LR.W, CSRRW of SYS.ASID; an unlisted word of custom-0 is the illegal instruction of R175. -/
theorem test_decode_host :
    decodeTableWord 32 0x0005850B = some (.xlaunch 10 11) ∧ decodeTableWord 32 0x0005950B = some (.xlwait 10 11)
    ∧ decodeTableWord 32 0x00C5B50B = some (.xpoll 10 11 12) ∧ decodeTableWord 32 0x0140200B = some (.xfence 2 4)
    ∧ decodeTableWord 32 0x00C5C00B = some (.xdiscard 11 12) ∧ decodeTableWord 32 0x0000052B = some (.xtxBegin 10)
    ∧ decodeTableWord 32 0x0000152B = some (.xtxCommit 10) ∧ decodeTableWord 32 0x0000352B = some (.xtxStat 10)
    ∧ decodeTableWord 32 0x0050202B = some (.xtxAbort 5) := by decide +kernel

theorem test_decode_base :
    decodeTableWord 32 0x00452283 = some (.hostAccess false 2 5 10 4) ∧ decodeTableWord 32 0xFEB53C23 = some (.hostAccess true 3 11 10 0xFF8)
    ∧ decodeTableWord 32 0x0330000F = some (.hostFence 0 3 3) ∧ decodeTableWord 32 0x00B532AF = some (.hostAtomic 0 false false true 5 10 11)
    ∧ decodeTableWord 32 0x100522AF = some (.hostAtomic 2 false false false 5 10 0)
    ∧ decodeTableWord 32 0x5C0512F3 = some (.hostAsidCsrWrite 1 5 10)
    ∧ decodeTableWord 32 0x0000700B = some (.hostIllegalInstruction 0x700B) := by decide +kernel

/-- The term is ill-formed. -/
def ill (i : Instr) : Bool := !i.wf

/-- Ill-formed terms, one for each check: TYPE, SUB, an M bit, an unused field, a guard of 96, an odd pair, a source type, RND 6, the
scalar pipe's guard, a SUB of another row; an order, a scope, widths, an AMO code, LR's rs2, a CSR form, an assigned opcode. -/
theorem test_ill_formed :
    ([.iadd (slotOf 0x000000000B00000502030010), .icmp (slotOf 0x00000000C300000502030028), .iabs (slotOf 0x000000000340000002030018),
      .iadd (slotOf 0x000000000300070502030010), .iadd (slotOf 0x000000000300000502036010), .iadd64 (slotOf 0x000000000400000402030029),
      .cvt (slotOf 0x000000000F08160002030060), .fadd (slotOf 0x000000000D06000502030040), .smovi (slotOf 0x000000070840000000000139),
      .ldfW (slotOf 0x000000002900000000030084), .xfence 0 4, .xfence 2 3, .hostAccess true 4 1 2 0, .hostAccess false 7 1 2 0,
      .hostAtomic 5 false false false 1 2 3, .hostAtomic 2 false false false 1 2 3, .hostAsidCsrWrite 4 1 2, .unassignedOpcode 0x10]
      : List Instr).all ill := by decide +kernel

/-- And the decoder refuses their words, or gives another instruction (R173, R175). -/
theorem test_decode_refuses :
    ([0x000000000B00000502030010, 0x00000000C300000502030028, 0x000000000340000002030018, 0x000000000300070502030010,
      0x000000000300000502036010, 0x000000000400000402030029, 0x000000000F08160002030060, 0x000000000D06000502030040,
      0x000000070840000000000139] : List Nat).all (fun w => (decodeTableWord 96 w).isNone)
    ∧ decodeTableWord 96 0x0F = some (.unassignedOpcode 0x0F) ∧ decodeTableWord 32 0x00000013 = none := by decide +kernel

theorem test_round_trip :
    (integerWords ++ memoryWords ++ matrixWords).all (fun p =>
      (encode (p.2 (slotOf p.1))) == some (.slot p.1) && (p.2 (slotOf p.1)).wf) := by decide +kernel

theorem witness_DecodeEncode :
    (Instr.xlaunch 10 11).wf ∧ encode (.xlaunch 10 11) = some (.host 0x0005850B) ∧ (decodeCustom0 0x0000700B).isNone
    ∧ (decodeCustom1 0x0000702B).isNone := by decide +kernel

theorem witness_DecodeSound :
    decodeTableWord 96 0x000000000300000502030010 = some (.iadd (slotOf 0x000000000300000502030010))
    ∧ decodeTableWord 96 0x60FE = some (.unassignedOpcode 0xFE) := by decide +kernel

theorem witness_MemoryCanonical :
    Memory.wf [(3, 1), (5, 2)] = true ∧ Memory.wf [(5, 2), (3, 1)] = false ∧ Memory.wf [(3, 0)] = false
    ∧ Memory.write [(3, 1)] 3 0 = [] ∧ Memory.wf State.reset.m.mem = true := by decide +kernel

/-! ## Transfers, traps and transactions: the other clauses -/

def rowOf (f : Slot) (op : Nat) : Option TransferRow := (transferRows f).find? (fun r => r.op == op)

/-- What the second part of TransferResults says of a transfer. -/
def transferAs (s : State) (g : Group) (w : BitVec 96) : String :=
  let f := slotOf w
  match rowOf f (opOf w) with
  | none => "no transfer"
  | some r =>
    let a := s.targets (fun s l => r.target s g l) (running s g f)
    let c := a.1.checkTargets (s.coreOfBlock g.block) (s.ctxOf g.block) a.2
    let np := nextPc g.pc
    let next := (s.lanesOf g f).map (fun l => match c.2.find? (fun x => x.1.key == l.key) with
      | some x => BitVec.ofNat 64 x.2.2
      | none => np)
    if !issues s (opOf w) f g || (running s g f).isEmpty then "does not issue"
    else if a.2.any (fun p => match p.2 with
      | .fault _ _ => true
      | _ => false) then "table fault"
    else if c.2.any (fun x => x.2.1 == .hold) then "held"
    else if faultedChecks c.2 != [] then "line fault"
    else if c.2.all (fun x => x.2.1 == .illegal) then "illegal"
    else if c.2.all (fun x => match x.2.1 with
      | .poisoned _ => true
      | _ => false) then "poisoned"
    else if c.2.all (fun x => x.2.1 == .ok) && next.any (fun p => p != stayingPc np next) then "diverges"
    else "together"

def poisonAt (l : List Nat) (s : State) : State := s.setMem { s.m with poison := l }

/-- The table at 256 names 67. -/
def ahead : State := writes twoLanes 264 67

theorem witness_TransferResults_others :
    [0x000000030000000000000101, 0x000000C00000000002000102, 0x000000050000000000140103, 0x000000C00000000002140104].map
      (transferAs ahead (groupOf [2048, 2049])) = List.replicate 4 "diverges"
    ∧ transferAs (ahead.updThread 2049 (fun t => t.setVal 20 1 68)) (groupOf [2048, 2049]) 0x000000000000000014000105 = "diverges"
    ∧ [0x000000C00000000002000102, 0x000000C00000000002140104].map
        (transferAs (ahead.setMem { ahead.m with attrs := [], tlb := [] }) (groupOf [2048, 2049])) = ["table fault", "table fault"]
    ∧ [0x00000FC00000000002000002, 0x00000FC00000000002140004].map (transferAs (committed (homePages (mapped demo))) demoGroup)
        = ["held", "held"]
    ∧ [0x0004FFFB0000000000140103, 0x0000000A0000000000140103].map (transferAs ahead (groupOf [2048, 2049])) = ["line fault", "illegal"]
    ∧ transferAs (poisonAt [2] ahead) (groupOf [2048, 2049]) 0x000000050000000000140103 = "poisoned"
    ∧ transferAs (poisonAt [4] ahead) (groupOf [2048, 2049]) 0x000000C00000000002000102 = "poisoned" := by decide +kernel

/-- The thread is in its handler, and TRAPRET stands in the lower slot of a pair. -/
def lowerTrap : State := inHandler.setCur ⟨2, none, false, some [], 0⟩

theorem witness_TrapReturns_lower :
    (issues lowerTrap 0xF2 (slotOf 0xF2) demoGroup && allRun lowerTrap demoGroup (slotOf 0xF2) && lowerTrap.cur.pair.isSome
      && lowerTrap.cur.snap.isNone)
    ∧ runs lowerTrap 0x0000000020000000040000F2 (fun t => t.cur.pair == some [(2048, 130, true)]) := by decide +kernel

/-- A trap that the first of its threads takes in its handler is fatal (R440). -/
theorem witness_TrapTaken_fatal :
    inHandler.inHandler 2048 ∧ issues inHandler 0x07 (slotOf 0x000000070000000000000007) demoGroup := by decide +kernel

/-- A transaction of depth 1 that has written or read the granule 64 of name 1. -/
def txOf (lock doomed writes : Bool) : Tx :=
  let b : List Buffered := if writes then [⟨1, 64, List.replicate 16 (some 0)⟩] else []
  ⟨1, [], 0, 0, 64, 9, 0, 0, lock, [⟨1, 64, List.replicate 16 0⟩], b, doomed, none, none⟩

/-- Two lanes with these transactions. -/
def pairTx (x y : Tx) : State :=
  (twoLanes.updThread 2048 (fun t => { t with tx := some x })).updThread 2049 (fun t => { t with tx := some y })

/-- What becomes of the TCOMMIT of two lanes. -/
def resolved (x y : Tx) : List Nat × List (Nat × Abort × Nat) :=
  let run := running (pairTx x y) (groupOf [2048, 2049]) (slotOf 0xB7)
  let txs := run.filterMap (fun l => l.th.tx.map (fun x => (l, x)))
  let r := resolveLanes (txs.filter (·.2.lock) ++ txs.filter (fun p => !p.2.lock)) []
  (r.1.map (·.key), r.2)

theorem witness_TxResults_others :
    (running (inTx 15) demoGroup (slotOf 0xB6)).all (fun l => decide (15 ≤ txDepth l.th)) ∧ issues (inTx 15) 0xB6 (slotOf 0xB6) demoGroup
    ∧ issues (pairTx (txOf false false true) (txOf false false false)) 0xB7 (slotOf 0xB7) (groupOf [2048, 2049])
    ∧ resolved (txOf false false true) (txOf false false false) = ([2048], [(2049, .lane, 0)])
    ∧ resolved (txOf false false true) (txOf true false true) = ([2049], [(2048, .lane, 0)])
    ∧ resolved (txOf false true true) (txOf false false true) = ([2049], [(2048, .conflict, 0)])
    ∧ resolved (txOf false true true) (txOf false true true) = ([], [(2048, .conflict, 0), (2049, .conflict, 0)])
    ∧ ((running (pairTx (txOf false false true) (txOf false false true)) (groupOf [2048, 2049]) (slotOf 0xB8)).filter (·.inTx)).length = 2
    ∧ ((demo.updThread 2048 (fun t => { t with tx := some (txOf false true true) })).thread? 2048).any (fun t => t.tx.any (·.doomed)) := by
  decide +kernel

/-! ## Requests, copies, Tarns, errors: the other clauses -/

theorem witness_DeviceRequests_above :
    leads [(1, 0x2000000)] 0xA0 (fun t => t.val 0 2 % 64 == 0 && t.val 0 2 == 2 ^ 57)
    ∧ leads [(5, 0x2000000)] xlateSlot (fun t => t.val 6 2 == 0 && t.val 4 2 == 2 ^ 57) := by decide +kernel

/-- Request 4 stands before its home again, with another agent's request for the line accepted there. -/
def behindAnother (s : State) : State := s.setReqs (s.v.reqs ++ s.v.reqs.map (fun p => (9, { p.2 with stage := .shard })))

/-- The line of `filled` again, for an instruction of a thread without accesses before it. -/
def onLine (w : BitVec 96) : State :=
  let s := lineOp w
  s.setMem { s.m with lines := filled.m.lines }

/-- The request may go on, so far as its thread's order is concerned. -/
def mayGo (s : State) : Bool :=
  (s.req? 4).any (fun q => q.stage == .home && (s.op? 3).any (fun o => s.going 3 o && !(o.lanesIn q).any (fun l => s.laneBlocked 3 o l)))

def flushHeld (s : State) : Bool :=
  (s.req? 4).any (fun q => s.lineBusy q.asid q.va q.size || (s.lineAt q.attr.tarn q.asid q.va).any (fun l => s.lineRetiring l))

def flushSlot : BitVec 96 := 0x00000000000000000400008F

/-- The granule at 256 belongs to a commit that slice 15 has voted on. -/
def voted (s : State) : State :=
  { s with
    x := { s.x with tickets := [⟨0, false, 2049, [], [15], 5⟩] }
    v := { s.v with threads := s.v.threads ++ [(2049, { freshThread 9 1 1 64 [] 0 with
      tx := some ⟨1, [], 0, 0, 64, 9, 0, 0, false, [], [⟨1, 256, List.replicate 16 (some 0)⟩], false, some 0, none⟩ })] } }

/-- CAS with release behind a load of its thread, at the line of `filled`, which holds 1; it expects `v`. -/
def casBehind (v : Nat) : State :=
  let m := mapped (withRegs [(4, 256), (10, 512), (6, v)])
  let s := afterSlot (afterSlot (m.setMem { m.m with
    lines := filled.m.lines
    attrs := [(0, { page with home := 0 })]
    tlb := (List.range 48).map (fun k => (k, { page with home := 0 })) }) 0x00000000070000000A030080) 0x000000000902000604090089
  s

def casHeldAt (s : State) : Bool :=
  (s.req? 6).any (fun q => (s.op? q.op).any (fun o =>
    match s.stage 0 (s.ctxOf o.block) q (needOf o q) [] with
    | (s1, .serve wh) => casHeld s1 (s1.servedReq 6 o q wh []) o q && !s1.heldLanes o q
    | _ => false))

/-- The request whose line is about to be filled, with a granule that a slice has voted on meanwhile. -/
def fillVoted : State :=
  let s2 := after (aim (after (aim homed 4 0 0) .homeSliceRequest) 4 0 0) .shardWalkComplete
  voted (after (aim s2 4 0 0) (.memoryControllerAccess 4 []))

theorem witness_RequestSteps_holds :
    [onLine flushSlot, behindAnother (onLine flushSlot), (onLine flushSlot).setMem { (onLine flushSlot).m with retiring := [(3872, false)] }].map
      (fun s => (mayGo s, flushHeld s)) = [(true, false), (true, true), (true, true)]
    ∧ mayGo (voted (lineOp loadSlot)) ∧ ((voted (lineOp loadSlot)).req? 4).any (fun q =>
        ((voted (lineOp loadSlot)).op? 3).any (fun o => (voted (lineOp loadSlot)).heldLanes o q))
    ∧ [casHeldAt (casBehind 1), casHeldAt (casBehind 2)] = [true, false]
    ∧ stageOf fillVoted = "serve" ∧ (fillVoted.req? 4).any (fun q => q.stage == .fill && (fillVoted.op? 3).any (fun o =>
        (fillVoted.stage 0 (fillVoted.ctxOf 1) q (needOf o q) []).1.heldLanes o q))
    ∧ (filled.lineAt 0 1 256).isSome ∧ tdbWpol (filled.tdb 0) = 0 := by decide +kernel

/-- The copies of `toCopy` and `toCopyM` with nothing left to move, a store of their thread before them still outstanding. -/
def copyLate (w : BitVec 96) (busy : List Nat) : State :=
  let s := afterSlot (afterSlot (mapped (withRegs [(4, 256), (6, 32), (7, 32), (8, 1), (10, 512)])) 0x000000000700000B0A000081) w
  aim (s.updOp 5 (fun o => { o with move := some ⟨256, 0, 32, [], [], busy, []⟩ })) 5 0 0
def lateFull (s : State) (opc : Nat) : Bool :=
  (s.op? 5).any (fun o => o.opc == opc && s.live o.block && o.leader.isSome && !s.fullReady 5 o)

/-- A multicast copy to position 1 of the gang, whose block 7 is saved. -/
def savedPeer : State :=
  let s := toMembers multicast [1] []
  s.setThreads (s.v.threads ++ [(7 * 2048, freshThread 7 0 0 64 [] 0)]) |>.setBlocks (s.v.blocks ++ [(7, { soloBlock with core := none, gangPos := 1 })])

theorem witness_CopySteps_holds :
    lateFull (copyLate copySlot []) 0x8C ∧ ((copyLate copySlot []).op? 5).any (fun o => o.copied)
    ∧ lateFull (copyLate copymSlot [0]) 0x8D ∧ ((copyLate copymSlot [0]).op? 5).any (fun o => o.move.any (fun m => m.busy.contains 0))
    ∧ (multicast.setThreads []).retired 1 ∧ ((multicast.setThreads []).op? 3).any (fun o => (multicast.setThreads []).live o.block
        && ((multicast.setThreads []).receiver o 0).isSome)
    ∧ multicast.retired 1 = false
    ∧ (savedPeer.op? 3).any (fun o => (savedPeer.receiver o 1).any (fun p => p.2.core.isNone && !savedPeer.retired p.1 && 32 ≤ savedPeer.scratchSize p.1)
        && o.move.any (fun m => m.wait.contains 1)) := by decide +kernel

/-- XLATE.INV of every line of ASID 1, where another thread has read the granule at 256 in its transaction: it is being published, or
holds the commit lock. -/
def invalidatingLines (s : State) : State := aim (afterSlot (s.updThread 2048 (fun t => t.setVal 6 1 1)) 0x0000000060000600000000A5) 3 0 0
def namesHeld (s : State) : Bool × Bool :=
  ((s.op? 3).any (fun o => o.opc == 0xA5 && s.going 3 o && o.move.any (fun m => (xlateNames 0xA5 (Rule.sub o.f) m.src m.len m.dst).any (fun r =>
      s.ticketHolds r.1 r.2.1 (r.2.2 - r.2.1) none))),
   (s.op? 3).any (fun o => Rule.sub o.f % 2 == 1 && o.move.any (fun m => (xlateNames 0xA5 (Rule.sub o.f) m.src m.len m.dst).any (fun r =>
      s.holderIn (s.doomedByInv r)))))
def lockHolder (s : State) : State :=
  { s with
    x := { s.x with holder := some 2049 }
    v := { s.v with threads := s.v.threads ++ [(2049, { freshThread 9 1 1 64 [] 0 with tx := some (txOf true false false) })] } }

theorem witness_TarnSteps_holds :
    [namesHeld (invalidatingLines demo), namesHeld (invalidatingLines (voted demo)), namesHeld (invalidatingLines (lockHolder demo))]
      = [(false, false), (true, false), (false, true)] := by decide +kernel

/-- DISCARD of the page of `paged`, which its thread may write. -/
def discarding (s : State) : State := aim (afterSlot (s.updThread 2048 (fun t => t.setVal 6 1 0x200000)) discardSlot) 3 0 0

/-- What becomes of it at its unit. -/
def discardEnds (id : Nat) (s : State) : String :=
  match s.op? id with
  | none => "none"
  | some o => match o.move, o.leader with
    | some m, some l =>
      let hi := m.src + m.len
      if !(s.residentOp o && s.live o.block && l.stage == .sent && o.opc == 0x8E) then "not there"
      else if s.poBlocked id l.key true (fun p x => !opScratch p.opc && m.src / 512 ≤ x.ea / 512 && x.ea < hi) then "behind"
      else match (s.discardPages (s.ctxOf o.block) m.dst hi (s.pagesOfRange (s.ctxOf o.block) m.dst hi)).2 with
        | .done => "done"
        | .fault _ _ => "fault"
        | .held _ => "held"
    | _, _ => "none"

/-- TARN.RETIRE of a Tarn that is in this state, by a launch in the secure world or not. -/
def retiring (v : Nat) (d : Nat) (secure : Bool) : State :=
  let s := (withRegs [(4, v)]).setTdb 5 (BitVec.ofNat 512 d)
  aim (afterSlot { s with l := { s.l with launches := [(0, { soloLaunch with record := { soloRecord with secure := secure } })] } }
    0x0000000000000000040800A4) 3 0 0

/-- Whether it is barred, names no Tarn that may retire, and finds the device busy. -/
def retires (s : State) : List Bool :=
  match (s.op? 3).bind (·.leader) with
  | none => []
  | some l => [!(s.ctxOf 1).secure && tdbWorld (s.tdb (l.ea % 1024)), decide (1024 ≤ l.ea) || l.ea % 1024 == 0, s.tarnBusy .retire (l.ea % 1024)]

/-- A TARN instruction with this image at an address, whose Tarn 5 has the descriptor `old`. -/
def tarnOp (op va image old : Nat) : State :=
  let m := mapped (withRegs [(4, va)])
  let s := m.setTdb 5 (BitVec.ofNat 512 old)
  aim (afterSlot (s.setMem { s.m with mem := Memory.writes s.m.mem 512 (bytesOf 64 image) }) (BitVec.ofNat 96 (op + 0x04080000))) 3 0 0

def imageRead (id : Nat) (s : State) : String :=
  match s.op? id with
  | none => "none"
  | some o => match o.leader with
    | none => "none"
    | some l =>
      if !(s.residentOp o && s.live o.block && l.stage == .sent && o.tag == 0) then "not there"
      else if s.poBlocked id l.key false (fun p x => !opScratch p.opc && opWrites p.opc && x.ea / 512 == l.ea / 512) then "behind"
      else match s.load (s.agentOf o.block l.key) l.ea 64 with
        | (_, .error (.page _ _)) => "page"
        | (_, .error (.poisoned _)) => "poisoned"
        | (_, .error .held) => "held"
        | (s1, .ok b) => match s1.judgeTarn (tarnOpOf o.opc) (s.ctxOf o.block).secure (BitVec.ofNat 512 (ofBytes b)) with
          | .refused _ => "refused"
          | .accepted _ => "accepted"

/-- Tarn 5, ACTIVE, on one slice, bank and way, or on two ways. -/
def image5 (ways : Nat) : Nat := 5 + ways * 2 ^ 24 + 2 ^ 40 + 2 ^ 64

theorem witness_InstructionsComplete_units :
    [paged demo, writes (paged demo) 0x53000 0x75, voted (paged demo)].map (fun s => discardEnds 3 (discarding s)) = ["done", "fault", "held"]
    ∧ discardEnds 5 (aim (afterSlot (loading.updThread 2048 (fun t => t.setVal 6 1 0x200000)) discardSlot) 5 0 0) = "behind"
    ∧ [retires (retiring 5 0 true), retires (retiring 1029 0 true), retires (retiring 5 2048 true), retires (retiring 5 (2 ^ 20) false)]
        = [[false, false, false], [false, true, false], [false, false, true], [true, false, false]]
    ∧ [tarnOp 0xA0 512 0 3072, tarnOp 0xA0 512 (image5 1) 3072, tarnOp 0xA1 512 (image5 3) (image5 1), tarnOp 0xA2 512 (image5 1) (image5 3),
        tarnOp 0xA3 512 (image5 1) (image5 2)].map (imageRead 3) = ["refused", "accepted", "accepted", "accepted", "accepted"]
    ∧ [tarnOp 0xA0 0x400000 0 3072, poisonAt [8] (tarnOp 0xA0 512 0 3072), committed (homePages (tarnOp 0xA0 0x1000 0 3072))].map (imageRead 3)
        = ["page", "poisoned", "held"]
    ∧ imageRead 5 (aim (afterSlot (afterSlot (mapped (withRegs [(4, 512)])) 0x000000000700000604000081) 0x0000000000000000040800A0) 5 0 0)
        = "behind" := by decide +kernel

/-- A page that the range holds only in part, one that may not be written, one that a slice has voted on, and one that is discarded. -/
theorem witness_InstructionsComplete_pages :
    (mapped demo).permit (demo.ctxOf 1) { page with write := false } .write = some .perm
    ∧ (mapped demo).permit (demo.ctxOf 1) page .write = none
    ∧ [voted (mapped demo), mapped demo].map (fun s => s.ticketHolds 1 0 2097152 none || s.holderIn (s.doomedIn page 0 2097152)) = [true, false]
    ∧ (match (mapped demo).paClass page.leaf with | .memory off => off == page.leaf | _ => false) = true := by decide +kernel

/-- A flow of one core's orders: the gather waits behind a store of its thread to the body it reads. -/
theorem witness_FlowSteps_behind :
    (let s := afterSlot (afterSlot (homePages (flowing [(4, 0x100), (10, 0x1000)])) 0x000000000700000B0A000081) takeG
     (s.op? 4).any (fun o => o.opc == 0xE2 && o.leader.any (fun l => s.gatherBlocked 4 l 16 [(0, 0x1000)]))) = true := by decide +kernel

/-- A fault ring whose next slot is still VALID, in the package's memory. -/
theorem witness_FaultRing_full :
    (let s : State := { reporting .nobody none with m := { (reporting .nobody none).m with mem := [(0x100004, 1)] } }
     (s.l.reports.find? (fun r => r.seq.isNone)).isSome && bit s.r.faultq.toNat 0 && !s.faultRoom) = true := by decide +kernel

/-- A save that is due, where a slice has voted on a granule of its area. -/
theorem witness_SavesAndRemaps_held :
    let s := saving
    (s.block? 1).any (fun b => (s.record? 1).any (fun r =>
      (voted s).saveHeld { r with saveBase := 0, saveLen := 1048576 } b.image && !s.saveHeld { r with saveBase := 0, saveLen := 1048576 } b.image))
    := by decide +kernel

/-- A group in a Backwater wait, whose thread 2049 has been held since cycle 5 with a limit of 10. -/
def backwater (clock : Nat) : State :=
  let s := aim { twoLanes with clock := clock } 2 0 0
  (s.updThread 2049 (fun t => { t with pc := 70, held := some ⟨5, 10⟩ })).updGroup 2 (fun g => { g with
    st := .backwater
    parks := [.wait] })

/-- The longest-held thread of the group, and whether the group waits. -/
def heldLongest (s : State) : Option (Nat × Nat × Bool) :=
  (s.group? 2).bind (fun g =>
    (minBy (fun (p : Held × Pc) => p.1.since) (g.members.filterMap (fun k => (s.thread? k).bind (fun t => t.held.map (fun h => (h, t.pc)))))).map
      (fun p => (p.1.since + p.1.timeout, p.2.toNat, g.st == .backwater && g.plan.isNone && g.awaited.isEmpty && !g.parks.contains .regroup
        && s.live g.block)))

theorem witness_LineAndTimerSteps_held :
    heldLongest (backwater 15) = some (15, 70, true) ∧ (backwater 14).clock < 15 ∧ heldLongest demo = none
    ∧ (let s := enteringLine.updGroup 2 (fun g => { g with refetch := true })
       ((s.setCur ⟨2, none, false, none, 0⟩).entering 2).any (fun g => g.refetch && g.heldLine.isNone)) = true := by decide +kernel

/-! ## Collectives, engines, hosts, the node: the other clauses -/

/-- A collective instruction outstanding in package 5, with these registers. -/
def colling (w : BitVec 96) (rs : List (Nat × Nat)) (s : State) : State :=
  aim (afterSlot (s.updThread 2048 (fun t => rs.foldl (fun t p => t.setVal p.1 1 p.2) t)) w) 3 0 0
def allredSlot : BitVec 96 := 0x000000000D000706040500F4
def bcastSlot : BitVec 96 := 0x0000000000000706040500F5
def slot3 (k : CollSlot → CollSlot) (s : State) : State := s.updSlot 3 k

/-- What the unit finds when the instruction reaches it. -/
def collAs (s : State) : String :=
  match s.op? 3 with
  | none => "none"
  | some o => match o.leader with
    | none => "none"
    | some l =>
      let word := (l.c.getD 0 0).toNat
      let n := word % 16
      let bcast := o.opc = 0xF5
      let root := bits word 8 3
      if !(s.residentOp o && s.live o.block && l.stage == .sent) then "not there"
      else if !s.flowReady 3 { o with lanes := [l] } then "behind"
      else if 2 ^ 57 ≤ l.ea then "above"
      else if (s.reforming n).isSome || (s.slot n).reformed == some s.clock then "reforming"
      else if !bit (s.commAlive n) s.r.pkg then "no member"
      else if 16 ≤ (s.slot n).open_.length then "busy"
      else if bcast && !bit (s.commAlive n) root then "no root"
      else if bcast && root != s.r.pkg then "receives"
      else match s.load ⟨708, ⟨(s.ctxOf o.block).asid, (s.ctxOf o.block).priv, (s.ctxOf o.block).secure, 0⟩, none⟩ l.ea (l.b.getD 0 0).toNat with
        | (_, .ok _) => "reads"
        | (_, .error .held) => "held"
        | (_, .error _) => "fault"

def bufferAt (lo hi : Nat) (w : BitVec 96) (word : Nat) (s : State) : State := colling w [(4, lo), (5, hi), (6, 16), (7, word)] s

theorem witness_CollectiveIssues_unit :
    [bufferAt 256 0 allredSlot 3 ringing, bufferAt 256 0 bcastSlot 0x103 ringing, bufferAt 256 0 bcastSlot 3 ringing,
      bufferAt 256 0 bcastSlot 0x503 ringing, bufferAt 256 0 allredSlot 4 ringing].map collAs
        = ["reads", "no root", "receives", "reads", "no member"]
    ∧ [bufferAt 0x400000 0 allredSlot 3 ringing, bufferAt 0x1000 0 allredSlot 3 (committed (homePages ringing)),
        (bufferAt 0 0x2000000 allredSlot 3 ringing).updLane 3 0 (fun l => { l with stage := .sent })].map collAs = ["fault", "held", "above"]
    ∧ [slot3 (fun c => { c with reformed := some 0 }), slot3 (fun c => { c with reform := some ⟨3, 0x25, [], 0, 100⟩ }),
        slot3 (fun c => { c with rounds := List.replicate 16 round5 })].map (fun k => collAs (bufferAt 256 0 allredSlot 3 (k ringing)))
        = ["reforming", "reforming", "busy"]
    ∧ (let s := bufferAt 256 0 allredSlot 3 ringing
       collAs (s.setOps (s.v.ops.flatMap (fun p => [(2, { p.2 with opc := 0x81, lanes := p.2.lanes.map (fun l => { l with stage := .ready }) }), p]))))
        = "behind" := by decide +kernel

/-- What COLL.WAIT for a token finds. -/
def waitAs (token : Nat) (s : State) : String :=
  let t := colling 0x0000000000000000040500F6 [(4, token)] s
  match t.op? 3 with
  | none => "none"
  | some o => match o.leader with
    | none => "none"
    | some l =>
      let word := (l.b.getD 0 0).toNat
      let n := bits word 28 4
      if !(t.residentOp o && t.live o.block && word == token) then "not there"
      else if word % 65536 == 0 || bits word 16 12 != t.commEpoch n % 4096 then "stale"
      else match (t.slot n).rounds.find? (fun r => r.seq == word % 65536) with
        | none => "none yet"
        | some r => match r.outcome with
          | none => "running"
          | some p => if p.1 == 0 then "done" else "ended"

def endedAs (code suspect : Nat) : State := slot3 (fun c => { c with rounds := [{ round5 with outcome := some (code, suspect) }] }) ringing

theorem witness_CollectiveIssues_wait :
    [waitAs 0x30010001 ringing, waitAs 0x30020001 ringing, waitAs 0x30000000 ringing, waitAs 0x30010002 ringing,
      waitAs 0x30010001 (endedAs 0 0), waitAs 0x30010001 (endedAs 1 4)] = ["running", "stale", "stale", "none yet", "done", "ended"]
    ∧ (Rule.sub (slotOf 0x0000000000000000040500F6), Rule.sub (slotOf 0x0000000020000000040500F6)) = (0, 1)
    ∧ (let s := colling 0x0000000000000700001100F7 [(7, 3)] ringing
       let t := slot3 (fun c => { c with reform := some ⟨3, 0x25, [], 0, 100⟩ }) s
       (s.op? 3).any (fun o => o.opc == 0xF7 && s.residentOp o && o.leader.isSome) && (s.reforming 3).isNone && (t.reforming 3).isSome) = true := by
  decide +kernel

theorem witness_CollectiveSteps_ended :
    (endedAs 1 4).openRound 3 1 = none ∧ (endedAs 1 4).endedRound 3 1 ∧ (endedAs 1 4).endedRound 3 2 = false
    ∧ ¬((1 + 65535 - ((endedAs 1 4).slot 3).next) % 65535 < 16) ∧ ((endedAs 1 4).slot 3).next = 2 := by decide +kernel

/-- A group without a window; a window of sixteen rows that sixteen rows from row 1 on leave; a slot that holds no reservation; an MLOAD
whose destination word has a reserved bit. -/
def trapsIn (s : State) (g : Group) (w : BitVec 96) : Bool :=
  issues s (opOf w) (slotOf w) g && wholeGroup s g (slotOf w) && !(s.lanesOf g (slotOf w)).isEmpty

theorem witness_MatrixIssues_traps :
    ([mpermSlot, obfreeSlot, mloadSlot, 0x0000000000000708040300C1] : List (BitVec 96)).all (trapsIn demo demoGroup)
    ∧ (demo.block? 1).any (fun b => b.window.isNone)
    ∧ ([mpermSlot, mzeroSlot, mreadSlot, mwriteSlot] : List (BitVec 96)).all (trapsIn (windowed [(2, 16), (5, 1)]) windowGroup)
    ∧ windowGroup.awlimit < windowGroup.awbase + 16 + mOf (slotOf mpermSlot)
    ∧ windowGroup.awlimit < windowGroup.awbase + 16 + (slotOf mzeroSlot).i32.toNat
    ∧ ((windowed []).block? 1).any (fun b => b.productOk 0xC7 (slotOf mpermSlot) 0 9 == false && b.productOk 0xC7 (slotOf mpermSlot) 0 1)
    ∧ trapsIn (windowed [(8, 0x2080000), (9, 16)]) windowGroup mloadSlot ∧ bits 0x2080000 19 5 ≠ 0 ∧ bits (3 * 2 ^ 29) 29 3 ≠ 0
    ∧ (let s := windowed [(8, 0x2080000), (9, 16)]
       (s.block? 1).any (fun b => (s.lanesOf windowGroup (slotOf mloadSlot)).any (fun l =>
        match s.mloadPlan windowGroup (s.lanesOf windowGroup (slotOf mloadSlot)) b 0 (slotOf mloadSlot) l.th with
        | .trap _ => true
        | _ => false))) = true := by decide +kernel

theorem witness_EngineSteps_retired :
    ((loadBegun.setThreads []).op? 3).any (fun o => (loadBegun.setThreads []).live o.block && (loadBegun.setThreads []).retired 1
      && ((loadBegun.setThreads []).receiver o 0).any (fun p => p.1 == 1 && (p.2.resvAt 2).isSome)) ∧ loadBegun.retired 1 = false := by decide +kernel

/-- Hart 0 reads or writes eight bytes that begin at 0x10C, where the page is so; x10 is the address. -/
def twoParts (m : State → State) (at_ : Nat) (wait : Option HostWait) : State :=
  (hostPages m).updHart 0 (fun h => { h with
    regs := [(10, BitVec.ofNat 64 at_)]
    wait := wait })

/-- What the check of both parts, and the access of one, come to. -/
def partsOf (s : State) (acc : Access) : String × String × String :=
  let va := s.me.x 10
  let me := s.hartAgent 0
  let cut := (va / 16 + 1) * 16 - va
  let err (e : MemErr) : String := match e with
    | .page _ _ => "page"
    | .poisoned _ => "poisoned"
    | .held => "held"
  (match (s.checkRange me acc (pieces va 8 16)).2 with
    | some e => err e
    | none => "ok",
   match (s.readPieces me .read [(va, cut)]).2 with
    | .ok _ => "ok"
    | .error e => err e,
   match (s.writePieces me false [(va, cut)] (List.replicate cut 0)).2 with
    | .ok _ => "ok"
    | .error e => err e)

theorem witness_HostResults_parts :
    (twoParts mapped 0x10C none).translating ∧ 0x10C / 16 ≠ (0x10C + 7) / 16 ∧ (twoParts mapped 0x10C none).me.wait.isNone
    ∧ partsOf (twoParts mapped 0x10C none) .read = ("ok", "ok", "ok")
    ∧ (partsOf (twoParts paged 0x1FFFFC none) .write).1 = "page"
    ∧ (partsOf (poisonAt [4] (twoParts mapped 0x10C none)) .write).1 = "poisoned"
    ∧ partsOf (twoParts (fun s => committed (homePages (mapped s))) 0x100C none) .read = ("ok", "held", "held")
    ∧ (twoParts mapped 0x10C (some (.half true [1, 2, 3, 4]))).me.wait = some (.half true [1, 2, 3, 4])
    ∧ hosting.translating = false := by decide +kernel

/-- A load of eight bytes over two granules is complete with its second part, whichever was made first. -/
theorem test_two_parts :
    [HostWait.half false [0, 0, 0, 7], .half true [9, 0, 0, 0]].all (fun w =>
      does (twoParts (fun s => writes (writes (mapped s) 0x10F 7) 0x110 9) 0x10C (some w)) (.hostAccess false 3 5 10 0) (fun u =>
        u.me.x 5 == 0x0000000907000000 && u.me.pc == 0x1004 && u.me.wait.isNone)) := by decide +kernel

/-- Boots whose host firmware fails its verification, and whose controller's own does; a flit of 256 bytes at a port that is up. -/
theorem witness_NodeSteps_boots :
    boot0.ownVerified ∧ boot0.hostVerified ∧ { boot0 with ownVerified := false }.ownVerified = false
    ∧ boot0.fuses = [] ++ (40, [21]) :: [] ∧ (State.reset.hart 0).running = false
    ∧ bit (joined 17).r.linkUp 0 ∧ (List.replicate 256 (0 : Byte)).length = 256 ∧ bit (joined 17).r.linkUp 1 = false := by decide +kernel

theorem test_boot_unverified :
    does State.reset (.powerGood { boot0 with hostVerified := false }) (fun t => t.powered && !(t.hart 0).running && t.m.mem == [])
    ∧ does State.reset (.powerGood { boot0 with ownVerified := false }) (fun t => !t.powered) := by decide +kernel

/-- A flit whose CRC fails is not delivered, and its replay is asked for. -/
theorem test_flit :
    does (joined 17) (.xankorFlitReceived 0 1 false (List.replicate 256 0)) (fun t => t.n.flits.isEmpty && (t.port 0).replay && t.out.length == 1)
    ∧ does (joined 17) (.xankorFlitReceived 0 1 true (List.replicate 256 0)) (fun t => t.n.flits.length == 1 && (t.port 0).seq == 1) := by
  decide +kernel

/-- A write of port 0 that waits for its home, and one behind it. -/
theorem witness_PortSteps_waits :
    let s := committed (openWindow etherPort)
    inboundAs s (2 ^ 56) = ["held", "held"]
    ∧ (etherPort.setNode { etherPort.n with inbound := [.pcie 0 256 true 8 []] }).n.inbound.any (fun m => m.agent == 724)
    ∧ (etherPort.setNode { etherPort.n with inbound := [.eth 0 0 true []] }).n.inbound.any (fun m => m.agent == 728)
    ∧ etherPort.n.inbound = [] := by decide +kernel

/-- A verified image that waits for requests at memory, or for a round; a clock that fell less than a millisecond ago. -/
theorem witness_ControllerSteps_waits :
    (after (aim loading 4 0 0) .shardWalkComplete).v.reqs.any (fun p => p.2.stage == .controller)
    ∧ loading.v.reqs.all (fun p => p.2.stage != .controller)
    ∧ ringing.c.any (fun p => p.2.rounds.any (fun r => r.outcome.isNone)) ∧ demo.c = []
    ∧ [2999999, 3000000].map (fun c => ({ (cooling c 29) with n := { (cooling c 29).n with lowered := some 0 } } : State).n.lowered.all
        (fun t => t + 3000000 ≤ c)) = [false, true] := by decide +kernel

theorem test_activation :
    does (cooling 2999999 29) (.firmwareActivation 3 7 true) (fun t => t.n.staged == [(3, 7)])
    ∧ does (cooling 3000000 29) (.firmwareActivation 3 7 true) (fun t => t.n.staged == [] && t.measurement 3 == 7) := by decide +kernel

/-- Scratchpad accesses of a block of which granule 0 is full and holds 0x87, 0x65, 0x43, 0x21 and a barrier for two with one arrived. -/
def padBlock : Block := { soloBlock with
  scratch := [(0, 0x87), (1, 0x65), (2, 0x43), (3, 0x21), (18, 1), (20, 2)]
  full := [0] }
def padLane (ea b : Nat) : LaneOp := { laneOp ⟨0, 2048, freshThread 1 0 0 64 [] 0, true⟩ ea [BitVec.ofNat 32 b] [] .ready with b := [BitVec.ofNat 32 b] }

theorem witness_StoreFrames_each :
    Tab.risesFrom none padBlock.scratch = true
    ∧ (padBlock.serve 0x82 (slotOf 0x000000000300000000030082) (padLane 0 0)).any (fun r => r.2.res == [0x21436587])
    ∧ (padBlock.serve 0x82 (slotOf 0x000000000100000000030082) (padLane 0 0)).any (fun r => r.2.res == [0xFFFFFF87])
    ∧ (padBlock.serve 0x83 (slotOf 0x000000000300000000000083) (padLane 6 0x1234)).any (fun r => (r.1.bytes 5 6).map (·.toNat) == [0, 0x34, 0x12, 0, 0, 0])
    ∧ (padBlock.serve 0x84 (slotOf 0x000000000900000000030084) (padLane 0 0)).any (fun r => r.1.isFull 0)
    ∧ (padBlock.serve 0x84 (slotOf 0x000000002900000000030084) (padLane 0 0)).any (fun r => !r.1.isFull 0)
    ∧ (padBlock.serve 0x85 (slotOf 0x000000000900000000000085) (padLane 32 5)).any (fun r => r.1.isFull 32)
    ∧ (padBlock.serve 0x85 (slotOf 0x000000002900000000000085) (padLane 0 5)).any (fun r => r.1.isFull 0 && r.1.byte 0 == 5)
    ∧ (padBlock.serve 0x86 (slotOf 0x000000002000000000000086) (padLane 32 32)).any (fun r => [0, 31, 32, 63, 64].map r.1.isFull == [true, false, true, true, false])
    ∧ (padBlock.serve 0xB3 (slotOf 0xB3) (padLane 16 1)).any (fun r => (r.1.bytes 16 8).map (·.toNat) == [1, 0, 0, 0, 2, 0, 0, 0])
    ∧ (padBlock.serve 0xB4 (slotOf 0xB4) (padLane 16 1)).any (fun r => r.2.res == [1]) := by decide +kernel

theorem witness_StoreFrames_none :
    [padBlock.serve 0x84 (slotOf 0x000000000900000000030084) (padLane 32 0), padBlock.serve 0x85 (slotOf 0x000000000900000000000085) (padLane 0 0),
      padBlock.serve 0xB3 (slotOf 0xB3) (padLane 32 0)].map Option.isNone = [true, true, true] := by decide +kernel

/-- Package 1 holds granule 4 of this package alone, and this package a line of it. -/
def twoPackages : State :=
  { State.reset with
    powered := true
    r := { State.reset.r with
      present := 3
      alive := 3 }
    m := { State.reset.m with
      remoteHeld := [(4, 2, true)]
      remoteLines := [(2 ^ 48, 1, 0)] } }

theorem witness_RegisterWrites_loss :
    bit twoPackages.r.alive 1 ∧ twoPackages.r.pkg ≠ 1
    ∧ (match twoPackages.paClass 256 with | .memory off => off == 256 | _ => false) = true
    ∧ ((twoPackages.losePackage 1).poisonedAt 256 64 && (twoPackages.losePackage 1).m.remoteLines.isEmpty && (twoPackages.losePackage 1).r.alive == 1)
    ∧ twoPackages.losePackage 2 = twoPackages := by decide +kernel

/-- A secure range at 0x10000 drops the attributes of a page that is not secure and meets it, as a write of the controller. -/
theorem test_secure_range :
    does (mapped demo) (.registerWrite 0x80 0x8100000000010000 ⟨true, true⟩) (fun t => t.m.attrs.isEmpty && t.m.tlb.isEmpty) := by decide +kernel

/-- A core that issues CTX.SAVE in the cycle in which a host's SYS.CTXCMD arrives; a store to another register. -/
theorem witness_StepRuns_peer :
    (let s : State := { stepping 0xF0 with r := { (stepping 0xF0).r with queue := [(0x68, 0, ⟨false, false⟩)] } }
     (s.ctxPeer 0x68).any (fun p => p.1 == .issue 0) && (s.issueClass 0).1 == 34) = true
    ∧ (stepping 0x000000000300000502030010).ctxPeer 0x68 = none
    ∧ registerEvent 0x68 0 ⟨false, false⟩ ≠ none := by decide +kernel

theorem witness_StepRuns_entries :
    (let s := (stepping 0x000000000300000502030010).updGroup 2 (fun g => { g with line := none })
     (s.group? 2).any (fun g => g.entered.isNone)) = true
    ∧ (match decodeSlot 0x000000000B00000502030010 with | .error _ => true | .ok _ => false) = true
    ∧ (let s := State.reset.withFetchWord 32 0x00700293
       match s.hostFetch 0 with
       | .word s2 w => (match decodeHost w with | .error _ => true | .ok _ => false) && ((s2.rvStep 0 w).any (fun t => (t.hart 0).x 5 == 7))
       | _ => false) = true := by decide +kernel

/-- A slot that is not the higher one of a pair, and a pair whose lower slot returns no lane. -/
theorem witness_noReturn : noReturn demo ∧ Memory.wf State.reset.m.mem = true ∧ (match step (State.reset.withFetchWord 32 0x0050202B) with
    | .next _ => true
    | _ => false) = true := by decide +kernel

end Sys2Proof.Tests
end

section
/-! SUPPORT. Memory as a canonical table: what a write leaves at each byte, and that the bytes decide the memory. -/

namespace Sys2Proof.Machine

theorem Memory.read_writes_other (m : List Host.Cell) (a b : Nat) (d : List Byte) (h : Memory.wf m)
    (hb : b < a ∨ a + d.length ≤ b) : Memory.read (Memory.writes m a d) b = Memory.read m b := by
  induction d generalizing m a with
  | nil => rfl
  | cons x d ih =>
    rw [List.length_cons] at hb
    rw [Memory.writes, ih _ _ (Memory.write_wf m a x h) (by omega), Memory.read_write m a b x h, if_neg (by omega)]

theorem Memory.read_writes_at (m : List Host.Cell) (a i : Nat) (d : List Byte) (h : Memory.wf m) (hi : i < d.length) :
    Memory.read (Memory.writes m a d) (a + i) = d.getD i 0 := by
  induction d generalizing m a i with
  | nil => cases hi
  | cons x d ih =>
    have hx := Memory.write_wf m a x h
    cases i with
    | zero => rw [Memory.writes, Memory.read_writes_other _ _ _ d hx (by omega), Memory.read_write m a _ x h]; simp
    | succ i =>
      rw [Memory.writes, show a + (i + 1) = a + 1 + i by omega, ih _ _ i hx (by simpa using hi), List.getD_cons_succ]

theorem Tab.look_eq_none_of_le {α : Type} (e : Nat × α) (t : Tab α) (lo : Option Nat) (q : Nat)
    (h : Tab.risesFrom lo (e :: t)) (hq : q < e.1) : Tab.look (e :: t) q = none := by
  rw [Tab.risesFrom_cons, Bool.and_eq_true] at h
  simp [Tab.look, show e.1 ≠ q by omega, Tab.look_below t e.1 q h.2 (by omega)]

/-- Rising tables that answer alike are equal: the lower of two unequal first keys would be present in one table only. -/
theorem Tab.eq_of_look_eq {α : Type} (t u : Tab α) (lo : Option Nat) (ht : Tab.risesFrom lo t) (hu : Tab.risesFrom lo u)
    (h : ∀ q, Tab.look t q = Tab.look u q) : t = u := by
  induction t generalizing u lo with
  | nil =>
    cases u with
    | nil => rfl
    | cons e u => exact absurd (h e.1) (by simp [Tab.look])
  | cons d t ih =>
    cases u with
    | nil => exact absurd (h d.1) (by simp [Tab.look])
    | cons e u =>
      rcases Nat.lt_trichotomy d.1 e.1 with hlt | heq | hgt
      · exact absurd (h d.1) (by rw [Tab.look_eq_none_of_le e u lo _ hu hlt]; simp [Tab.look])
      · have hv : d.2 = e.2 := by simpa [Tab.look, heq] using h d.1
        rw [Tab.risesFrom_cons, Bool.and_eq_true] at ht hu
        have htail : t = u := ih u (some d.1) ht.2 (heq ▸ hu.2) fun q => by
          by_cases hq : d.1 = q
          · rw [Tab.look_below t d.1 q ht.2 (by omega), Tab.look_below u e.1 q hu.2 (by omega)]
          · simpa [Tab.look, hq, heq ▸ hq] using h q
        rw [htail, Prod.ext heq hv]
      · exact absurd (h e.1) (by rw [Tab.look_eq_none_of_le d t lo _ ht hgt]; simp [Tab.look])

theorem Tab.look_ne_some_of_all {α : Type} (t : Tab α) (q : Nat) (v : α) (p : α → Bool) (h : t.all (fun e => p e.2))
    (hv : p v = false) : Tab.look t q ≠ some v := by
  induction t with
  | nil => simp [Tab.look]
  | cons e t ih =>
    rw [List.all_cons, Bool.and_eq_true] at h
    unfold Tab.look
    split
    · rintro ⟨⟩
      rw [h.1] at hv; cases hv
    · exact ih h.2

/-- A memory in canonical form holds no zero byte, so a byte that reads zero is absent from it. -/
theorem Memory.look_eq (m : List Host.Cell) (a : Nat) (h : Memory.wf m) :
    Tab.look m a = if Memory.read m a = 0 then none else some (Memory.read m a) := by
  simp only [Memory.wf, Bool.and_eq_true] at h
  have hz := Tab.look_ne_some_of_all m a 0 (· != 0) h.2 rfl
  unfold Memory.read Tab.get
  cases hl : Tab.look m a with
  | none => rfl
  | some b => rw [Option.getD_some, if_neg (show b ≠ 0 from fun hb => hz (hb ▸ hl))]

theorem Memory.eq_of_read_eq (m n : List Host.Cell) (hm : Memory.wf m) (hn : Memory.wf n)
    (h : ∀ a, Memory.read m a = Memory.read n a) : m = n := by
  have hlook : ∀ a, Tab.look m a = Tab.look n a := fun a => by rw [Memory.look_eq m a hm, Memory.look_eq n a hn, h a]
  simp only [Memory.wf, Bool.and_eq_true] at hm hn
  exact Tab.eq_of_look_eq m n none hm.1 hn.1 hlook

theorem wf_ite {c : Prop} [Decidable c] {a b : State} (ha : Memory.wf a.m.mem) (hb : Memory.wf b.m.mem) :
    Memory.wf (if c then a else b).m.mem := by
  split <;> assumption

theorem State.ctrlWrite_wf (s : State) (who pa data) (hm : Memory.wf s.m.mem) :
    Memory.wf (s.ctrlWrite who pa data).m.mem := by
  unfold State.ctrlWrite
  split
  · exact wf_ite hm (Memory.writes_wf _ _ _ hm)
  · exact wf_ite hm hm
  · exact hm
  · exact wf_ite hm hm
  · exact hm

end Sys2Proof.Machine

namespace Sys2Proof.Proofs

open Sys2Proof.Machine

/-- Settles O59, by induction on the bytes written and, for extensionality, on the rising tables. -/
theorem memoryCanonical : Obligations.MemoryCanonical :=
  ⟨fun m a d h => ⟨Memory.writes_wf m a d h, fun i hi => Memory.read_writes_at m a i d h hi,
    fun b hb => Memory.read_writes_other m a b d h hb⟩, Memory.eq_of_read_eq, State.ctrlWrite_wf⟩

end Sys2Proof.Proofs
end

section
/-! SUPPORT. The operations of the machine that leave physical memory as it is, each by the ones it calls. -/

namespace Sys2Proof.Machine

theorem foldl_mem {α : Type} (l : List α) (f : State → α → State) (s : State) (h : ∀ s a, (f s a).m.mem = s.m.mem) :
    (l.foldl f s).m.mem = s.m.mem := by
  induction l generalizing s with
  | nil => rfl
  | cons a l ih => rw [List.foldl_cons, ih, h]

theorem ite_mem (c : Prop) [Decidable c] (a b : State) : (if c then a else b).m.mem = if c then a.m.mem else b.m.mem := by
  split <;> rfl

theorem mem_ite {c : Prop} [Decidable c] {a b : State} {m : List Host.Cell} (ha : a.m.mem = m) (hb : b.m.mem = m) :
    (if c then a else b).m.mem = m := by
  split <;> assumption

/-! ## Agents, contexts and accessors -/

@[simp] theorem State.updThread_mem (s : State) (k g) : (s.updThread k g).m.mem = s.m.mem := rfl

@[simp] theorem State.updGroup_mem (s : State) (k g) : (s.updGroup k g).m.mem = s.m.mem := rfl

@[simp] theorem State.updBlock_mem (s : State) (k g) : (s.updBlock k g).m.mem = s.m.mem := rfl

@[simp] theorem State.updOp_mem (s : State) (k g) : (s.updOp k g).m.mem = s.m.mem := rfl

@[simp] theorem State.updReq_mem (s : State) (k g) : (s.updReq k g).m.mem = s.m.mem := rfl

@[simp] theorem State.updLaunch_mem (s : State) (k g) : (s.updLaunch k g).m.mem = s.m.mem := rfl

@[simp] theorem State.raiseIntr_mem (s : State) (source) : (s.raiseIntr source).m.mem = s.m.mem := rfl

@[simp] theorem State.updCore_mem (s : State) (c g) : (s.updCore c g).m.mem = s.m.mem := rfl

@[simp] theorem State.updHart_mem (s : State) (h g) : (s.updHart h g).m.mem = s.m.mem := rfl

@[simp] theorem State.newId_mem (s : State) : s.newId.2.m.mem = s.m.mem := rfl

@[simp] theorem State.freeBytes_mem (s : State) (l) : (s.freeBytes l).2.m.mem = s.m.mem := by
  fun_induction State.freeBytes <;> grind

@[simp] theorem State.countClass_mem (s : State) (agent cls) : (s.countClass agent cls).m.mem = s.m.mem := by
  unfold State.countClass
  grind

/-! ## Operands -/

@[simp] theorem State.eachLane_mem (s : State) (l x) : (s.eachLane l x).m.mem = s.m.mem := by
  fun_induction State.eachLane <;> grind [State.updThread_mem]

@[simp] theorem State.writeD_mem (s : State) (f w ls val) : (s.writeD f w ls val).m.mem = s.m.mem := by simp [State.writeD]

@[simp] theorem State.writeP_mem (s : State) (f ls val) : (s.writeP f ls val).m.mem = s.m.mem := by simp [State.writeP]

/-! ## Memory -/

@[simp] theorem State.translate_mem (s : State) (secure asid va) : (s.translate secure asid va).1.m.mem = s.m.mem := by
  unfold State.translate
  grind [State.setMem_m]

@[simp] theorem State.requestAttr_mem (s : State) (agent secure asid va) :
    (s.requestAttr agent secure asid va).1.m.mem = s.m.mem := by
  unfold State.requestAttr
  grind [State.translate_mem, State.setMem_m]

@[simp] theorem State.forgetAttr_mem (s : State) (agent asid va) : (s.forgetAttr agent asid va).m.mem = s.m.mem := rfl

@[simp] theorem State.askAttr_mem (s : State) (agent c asid va acc) : (s.askAttr agent c asid va acc).1.m.mem = s.m.mem := by
  unfold State.askAttr
  grind [State.forgetAttr_mem, State.requestAttr_mem, State.setMem_m]

@[simp] theorem State.doom_mem (s : State) (keys) : (s.doom keys).m.mem = s.m.mem := foldl_mem _ _ _ fun _ _ => rfl

@[simp] theorem State.rollHart_mem (s : State) (h cause code) : (s.rollHart h cause code).m.mem = s.m.mem := rfl

@[simp] theorem State.snoopHartsIn_mem (s : State) (who asid va len reads) :
    (s.snoopHartsIn who asid va len reads).m.mem = s.m.mem := foldl_mem _ _ _ fun _ _ => rfl

@[simp] theorem State.snoopHarts_mem (s : State) (asid va len own reads) :
    (s.snoopHarts asid va len own reads).m.mem = s.m.mem := by simp [State.snoopHarts]

@[simp] theorem State.countDemand_mem (s : State) (agent c a) :
    (s.countDemand agent c a).m.mem = s.m.mem := by simp [State.countDemand]

@[simp] theorem State.wakePolls_mem (s : State) (core asid va len) : (s.wakePolls core asid va len).m.mem = s.m.mem := rfl

@[simp] theorem State.dropCopies_mem (s : State) (pick) :
    (s.dropCopies pick).m.mem = s.m.mem := foldl_mem _ _ _ fun _ _ => rfl

@[simp] theorem State.passFills_mem (s : State) (agents asid va len) : (s.passFills agents asid va len).m.mem = s.m.mem := rfl

@[simp] theorem State.cleanCopies_mem (s : State) (asid va len) : (s.cleanCopies asid va len).m.mem = s.m.mem := rfl

@[simp] theorem State.invalidate_mem (s : State) (asid va len) : (s.invalidate asid va len).m.mem = s.m.mem := rfl

@[simp] theorem State.noteWrite_mem (s : State) (slice asid va len own) :
    (s.noteWrite slice asid va len own).m.mem = s.m.mem := by simp [State.noteWrite]

@[simp] theorem State.supplied_mem (s : State) (given n) : (s.supplied given n).2.m.mem = s.m.mem := by
  unfold State.supplied
  split <;> simp

@[simp] theorem State.ctrlRead_mem (s : State) (regs pa n given) : (s.ctrlRead regs pa n given).2.m.mem = s.m.mem := by
  unfold State.ctrlRead
  grind [State.supplied_mem]

@[simp] theorem State.cleanRange_mem (s : State) (pa len) : (s.cleanRange pa len).m.mem = s.m.mem := by
  unfold State.cleanRange
  split <;> simp

@[simp] theorem State.cleanLine_mem (s : State) (a asid va len) : (s.cleanLine a asid va len).m.mem = s.m.mem := by
  unfold State.cleanLine
  split <;> simp

@[simp] theorem State.poisonRange_mem (s : State) (pa len) : (s.poisonRange pa len).m.mem = s.m.mem := by
  unfold State.poisonRange
  split <;> simp

@[simp] theorem State.ringBytes_mem (s : State) (pa n) : (s.ringBytes pa n).2.m.mem = s.m.mem := by simp [State.ringBytes]

@[simp] theorem State.updLine_mem (s : State) (l g) : (s.updLine l g).m.mem = s.m.mem := rfl

@[simp] theorem State.evict_mem (s : State) (l) : (s.evict l).m.mem = s.m.mem := by simp [State.evict]

@[simp] theorem State.touch_mem (s : State) (l) : (s.touch l).m.mem = s.m.mem := by
  unfold State.touch
  grind [State.setMem_m]

@[simp] theorem State.install_mem (s : State) (t asid va bank set pin data) :
    (s.install t asid va bank set pin data).m.mem = s.m.mem := by
  simp only [State.install, State.touch_mem, State.setMem_m]
  split
  · rfl
  · exact foldl_mem _ _ _ State.evict_mem

@[simp] theorem State.sendLink_mem (s : State) (class_ package pa data) :
    (s.sendLink class_ package pa data).m.mem = s.m.mem := rfl

@[simp] theorem State.snoopUnits_mem (s : State) (units keep asid va len drop) :
    (s.snoopUnits units keep asid va len drop).m.mem = s.m.mem := by
  unfold State.snoopUnits
  split <;> simp

@[simp] theorem State.noteOthers_mem (s : State) (l) : (s.noteOthers l).m.mem = s.m.mem := rfl

@[simp] theorem State.dropTlb_mem (s : State) (leaf) : (s.dropTlb leaf).m.mem = s.m.mem := rfl

@[simp] theorem State.resend_mem (s : State) (asid va len) : (s.resend asid va len).m.mem = s.m.mem := rfl

@[simp] theorem State.readAt_mem (s : State) (regs agent a w asid va n given) :
    (s.readAt regs agent a w asid va n given).2.m.mem = s.m.mem := by
  unfold State.readAt
  grind [State.ctrlRead_mem]

/-! ## Accesses -/

@[simp] theorem State.checkAddr_mem (s : State) (g va acc inst) : (s.checkAddr g va acc inst).1.m.mem = s.m.mem := by
  unfold State.checkAddr
  grind [State.askAttr_mem]

@[simp] theorem State.dropInst_mem (s : State) (core asid va) :
    (s.dropInst core asid va).m.mem = s.m.mem := by simp [State.dropInst]

/-! ## Accesses of the units -/

@[simp] theorem State.updWeir_mem (s : State) (e h) : (s.updWeir e h).m.mem = s.m.mem := rfl

@[simp] theorem State.updList_mem (s : State) (n h) : (s.updList n h).m.mem = s.m.mem := rfl

@[simp] theorem State.stilled_mem (s0 : State) (s : State) : (s0.stilled s).m.mem = s.m.mem := foldl_mem _ _ _ fun _ _ => rfl

@[simp] theorem State.weirFault_mem (s : State) (e) : (s.weirFault e).m.mem = s.m.mem := rfl

@[simp] theorem State.weirFree_mem (s : State) (e) : (s.weirFree e).m.mem = s.m.mem := rfl

@[simp] theorem State.weirSettle_mem (s : State) (e) : (s.weirSettle e).m.mem = s.m.mem := by
  unfold State.weirSettle
  grind [State.weirFree_mem]

theorem State.weirFailed_mem (s : State) (e held) :
    ∀ t, s.weirFailed e held = some t → t.m.mem = s.m.mem := by simp [State.weirFailed]

@[simp] theorem State.weirKill_mem (s : State) (launch) : (s.weirKill launch).m.mem = s.m.mem := by
  unfold State.weirKill
  rw [State.stilled_mem]
  exact foldl_mem _ _ _ State.weirFree_mem

@[simp] theorem State.dropChans_mem (s : State) (gang) : (s.dropChans gang).m.mem = s.m.mem := rfl

/-! ## Outstanding instructions -/

@[simp] theorem State.noteLeft_mem (s : State) (gid) : (s.noteLeft gid).m.mem = s.m.mem := rfl

@[simp] theorem State.park_mem (s : State) (gid p) : (s.park gid p).m.mem = s.m.mem := rfl

@[simp] theorem State.unpark_mem (s : State) (gid q) : (s.unpark gid q).m.mem = s.m.mem := rfl

@[simp] theorem State.issueCove_mem (s : State) (gid) : (s.issueCove gid).m.mem = s.m.mem := rfl

@[simp] theorem State.checkCoves_mem (s : State) (blk) : (s.checkCoves blk).m.mem = s.m.mem := by
  unfold State.checkCoves
  split
  · rfl
  · rw [ite_mem, foldl_mem _ _ _ fun _ _ => State.issueCove_mem _ _, ite_self]

@[simp] theorem State.ageCoves_mem (s : State) (past) : (s.ageCoves past).m.mem = s.m.mem := foldl_mem _ _ _ fun _ _ => rfl

theorem State.fileThread_mem (s : State) (core key t later) :
    ∀ r, s.fileThread core key t later = some r → r.1.m.mem = s.m.mem := by
  unfold State.fileThread
  grind [State.updGroup_mem, State.setGroups_m, State.newId_mem]

@[simp] theorem State.postReport_mem (s : State) (type lanes addr blk group write code cause who) :
    (s.postReport type lanes addr blk group write code cause who).1.m.mem = s.m.mem := by
  unfold State.postReport
  grind [State.setReports_m, State.newId_mem]

@[simp] theorem State.postFaults_mem (s : State) (unit blk group write who l x) :
    (s.postFaults unit blk group write who l x).1.m.mem = s.m.mem := by
  fun_induction State.postFaults <;> grind [State.postReport_mem]

@[simp] theorem State.clearTx_mem (s : State) (key) : (s.clearTx key).m.mem = s.m.mem := rfl

@[simp] theorem State.abortNow_mem (s : State) (key cause code deliver) :
    (s.abortNow key cause code deliver).m.mem = s.m.mem := by
  unfold State.abortNow
  split <;> simp

@[simp] theorem State.rollBack_mem (s : State) (key) : (s.rollBack key).m.mem = s.m.mem := rfl

@[simp] theorem State.rollAborts_mem (s : State) (gid) : (s.rollAborts gid).m.mem = s.m.mem := by
  unfold State.rollAborts
  split
  · rfl
  · rw [ite_mem, foldl_mem _ _ _ fun s k => by split <;> simp, ite_self]

@[simp] theorem State.markAbort_mem (s : State) (key cause code) : (s.markAbort key cause code).m.mem = s.m.mem := rfl

@[simp] theorem State.settleWaiting_mem (s : State) (i gen final) : (s.settleWaiting i gen final).m.mem = s.m.mem := rfl

@[simp] theorem State.settleFinal_mem (s : State) (n i) : (s.settleFinal n i).m.mem = s.m.mem := by
  induction n generalizing s i with
  | zero => rfl
  | succ n ih =>
    unfold State.settleFinal
    split
    · rfl
    · rw [ite_mem, foldl_mem _ (fun s (p : Nat × Launch) => s.settleFinal n p.1) _ fun s p => ih s p.1,
        State.settleWaiting_mem, ite_self]

@[simp] theorem State.endLaunchUnits_mem (s : State) (i) : (s.endLaunchUnits i).m.mem = s.m.mem := by
  unfold State.endLaunchUnits
  rw [State.weirKill_mem]

@[simp] theorem State.refreshLaunch_mem (s : State) (i) : (s.refreshLaunch i).m.mem = s.m.mem := by
  unfold State.refreshLaunch
  grind [State.updLaunch_mem, State.endLaunchUnits_mem, State.settleFinal_mem]

@[simp] theorem State.retireBlock_mem (s : State) (blk) : (s.retireBlock blk).m.mem = s.m.mem := by
  unfold State.retireBlock
  grind [State.refreshLaunch_mem, State.dropChans_mem, State.setLocks_m, State.setThreads_m, State.setGroups_m,
    State.updLaunch_mem, State.setBlocks_m]

@[simp] theorem State.reapKilled_mem (s : State) (i) : (s.reapKilled i).m.mem = s.m.mem := by
  unfold State.reapKilled
  split
  · rfl
  · rw [ite_mem, State.refreshLaunch_mem, foldl_mem _ (fun s (p : Nat × Block) => s.retireBlock p.1) _ fun _ _ =>
      State.retireBlock_mem _ _, ite_self]

@[simp] theorem State.killLaunch_mem (s : State) (i) : (s.killLaunch i).m.mem = s.m.mem := by
  unfold State.killLaunch
  simp only [State.reapKilled_mem, State.setReports_m, State.setGroups_m]
  rw [foldl_mem _ _ _ State.clearTx_mem]
  rfl

@[simp] theorem State.fileAll_mem (s : State) (core gid yield l) : (s.fileAll core gid yield l).m.mem = s.m.mem := by
  induction l generalizing s with
  | nil => rfl
  | cons k rest ih =>
    unfold State.fileAll
    split
    · exact ih s
    · dsimp only
      split
      next s1 cove hs =>
        rw [ih]
        have filed := State.fileThread_mem _ _ _ _ _ _ hs
        split <;> simpa using filed
      · simp [ih]

@[simp] theorem State.setCurrent_mem (s : State) (core gid pc members keepLine) :
    (s.setCurrent core gid pc members keepLine).m.mem = s.m.mem := foldl_mem _ _ _ fun _ _ => rfl

@[simp] theorem State.dropScalars_mem (s : State) (gid) : (s.dropScalars gid).m.mem = s.m.mem := rfl

@[simp] theorem State.loseWhole_mem (s : State) (gid) : (s.loseWhole gid).m.mem = s.m.mem := rfl

@[simp] theorem State.goTogether_mem (s : State) (gid g p pc) :
    (s.goTogether gid g p pc).m.mem = s.m.mem := foldl_mem _ _ _ fun _ _ => rfl

@[simp] theorem State.expireHeld_mem (s : State) (gid) : (s.expireHeld gid).m.mem = s.m.mem := by
  unfold State.expireHeld
  grind [State.setCurrent_mem, State.unpark_mem]

@[simp] theorem State.applyPlan_mem (s : State) (core gid g p) : (s.applyPlan core gid g p).m.mem = s.m.mem := by
  unfold State.applyPlan
  have start := foldl_mem p.next (fun s q => s.updThread q.1 (fun t => { t with pc := q.2 })) s fun _ _ => rfl
  grind [State.unpark_mem, State.updGroup_mem, State.dropScalars_mem, State.fileAll_mem, State.loseWhole_mem,
    State.setGroups_m,
    State.setCurrent_mem]

@[simp] theorem State.settleAborts_mem (s : State) (g) :
    (s.settleAborts g).m.mem = s.m.mem := foldl_mem _ _ _ fun _ _ => by grind [State.abortNow_mem]

@[simp] theorem State.tryPlan_mem (s : State) (gid) : (s.tryPlan gid).m.mem = s.m.mem := by
  unfold State.tryPlan
  grind [State.checkCoves_mem, State.rollAborts_mem, State.goTogether_mem, State.settleAborts_mem, State.applyPlan_mem,
    State.park_mem]

@[simp] theorem State.deferPlan_mem (s : State) (gid) : (s.deferPlan gid).m.mem = s.m.mem := by
  unfold State.deferPlan
  grind [State.tryPlan_mem, State.park_mem]

@[simp] theorem State.advance_mem (s : State) (gid g ls) : (s.advance gid g ls).m.mem = s.m.mem := by simp [State.advance]

@[simp] theorem State.fatalTrap_mem (s : State) (g pc tr lanes) : (s.fatalTrap g pc tr lanes).m.mem = s.m.mem := by
  unfold State.fatalTrap
  split <;> simp

@[simp] theorem State.groupFault_mem (s : State) (gid g unit write l) :
    (s.groupFault gid g unit write l).m.mem = s.m.mem := by
  simp only [State.groupFault, State.park_mem, State.rollAborts_mem, State.updGroup_mem]
  rw [foldl_mem _ _ _ fun s q => by split <;> simp, State.postFaults_mem]

@[simp] theorem State.setNext_mem (s : State) (gid g ls pc xfer) :
    (s.setNext gid g ls pc xfer).m.mem = s.m.mem := by simp [State.setNext]

@[simp] theorem State.loseScalars_mem (s : State) (gid now) : (s.loseScalars gid now).m.mem = s.m.mem := by
  unfold State.loseScalars
  split <;> simp

@[simp] theorem State.after_mem (s : State) : s.after.1.m.mem = s.m.mem := rfl

@[simp] theorem State.held_mem (s : State) : s.held.1.m.mem = s.m.mem := rfl

/-! ## Issue -/

@[simp] theorem State.abortHeld_mem (s : State) (key cause code) : (s.abortHeld key cause code).m.mem = s.m.mem := by
  unfold State.abortHeld
  split <;> simp

@[simp] theorem State.oweTraps_mem (s : State) (gid g line kind l) : (s.oweTraps gid g line kind l).m.mem = s.m.mem := by
  unfold State.oweTraps
  rw [State.groupFault_mem]
  exact foldl_mem _ _ _ fun _ _ => rfl

@[simp] theorem State.keepHigher_mem (s : State) (op f ls) : (s.keepHigher op f ls).m.mem = s.m.mem := by
  unfold State.keepHigher
  grind [State.updOp_mem]

/-! ## Threads, groups and blocks -/

@[simp] theorem State.startOp_mem (s : State) (gid g opc f lanes) : (s.startOp gid g opc f lanes).1.m.mem = s.m.mem := by
  unfold State.startOp
  grind [State.updGroup_mem, State.setOps_m, State.newId_mem]

@[simp] theorem State.updLane_mem (s : State) (id lane h) : (s.updLane id lane h).m.mem = s.m.mem := rfl

@[simp] theorem State.checkDraining_mem (s : State) (gid) : (s.checkDraining gid).m.mem = s.m.mem := by
  unfold State.checkDraining
  grind [State.setGroups_m]

@[simp] theorem State.checkWait_mem (s : State) (gid) : (s.checkWait gid).m.mem = s.m.mem := by
  unfold State.checkWait
  grind [State.unpark_mem]

@[simp] theorem State.handedOut_mem (s : State) (id) : (s.handedOut id).m.mem = s.m.mem := rfl

@[simp] theorem State.refile_mem (s : State) (gid key) : (s.refile gid key).m.mem = s.m.mem := by
  unfold State.refile
  split
  · dsimp only
    split
    next r hr =>
      have filed := State.fileThread_mem _ _ _ _ _ _ hr
      split <;> simpa [ite_mem] using filed
    · simp
  · rfl

@[simp] theorem State.tryPlans_mem (s : State) (blk) : (s.tryPlans blk).m.mem = s.m.mem := foldl_mem _ _ _ fun _ _ => by simp

@[simp] theorem State.repark_mem (s : State) (id) : (s.repark id).m.mem = s.m.mem := by
  unfold State.repark
  grind [State.unpark_mem, State.park_mem]

@[simp] theorem State.faultLanes_mem (s : State) (id lanes kind write) :
    (s.faultLanes id lanes kind write).m.mem = s.m.mem := by
  unfold State.faultLanes
  grind [State.postReport_mem, State.repark_mem, State.updOp_mem, State.park_mem]

/-! ## Control flow -/

@[simp] theorem offsetTarget_mem (f) (s : State) (g l) : (offsetTarget f s g l).1.m.mem = s.m.mem := rfl

@[simp] theorem State.completePhase_mem (s : State) (blk n) :
    (s.completePhase blk n).m.mem = s.m.mem := foldl_mem _ _ _ fun _ _ => rfl

@[simp] theorem State.checkBars_mem (s : State) (blk) : (s.checkBars blk).m.mem = s.m.mem := by
  unfold State.checkBars
  exact foldl_mem _ _ _ fun _ _ => by grind [State.completePhase_mem]

@[simp] theorem State.exitThread_mem (s : State) (gid key) : (s.exitThread gid key).m.mem = s.m.mem := by
  unfold State.exitThread
  split <;> simp

@[simp] theorem State.afterExit_mem (s : State) (gid g rest) : (s.afterExit gid g rest).m.mem = s.m.mem := by
  unfold State.afterExit
  grind [State.updGroup_mem, State.checkDraining_mem, State.tryPlan_mem]

@[simp] theorem State.spawnLane_mem (s : State) (core g entry l) : (s.spawnLane core g entry l).1.m.mem = s.m.mem := by
  unfold State.spawnLane
  split
  · rfl
  · split
    · rfl
    · dsimp only
      split
      next r hr => simp [State.fileThread_mem _ _ _ _ _ _ hr]
      · rfl

@[simp] theorem State.spawnAll_mem (s : State) (core g entry l) : (s.spawnAll core g entry l).1.m.mem = s.m.mem := by
  fun_induction State.spawnAll <;> grind [State.spawnLane_mem]

/-! ## Reaching memory -/

@[simp] theorem State.wakeStage_mem (s : State) (blk) : (s.wakeStage blk).m.mem = s.m.mem := foldl_mem _ _ _ fun _ _ => rfl

@[simp] theorem State.faultReq_mem (s : State) (o q k) : (s.faultReq o q k).m.mem = s.m.mem := by
  unfold State.faultReq
  grind [State.faultLanes_mem, State.repark_mem, State.setReqs_m, State.updOp_mem, State.park_mem]

@[simp] theorem State.dropCopy_mem (s : State) (core asid va) :
    (s.dropCopy core asid va).m.mem = s.m.mem := by simp [State.dropCopy]

@[simp] theorem State.localAttrs_mem (s : State) (id) : (s.localAttrs id).m.mem = s.m.mem := by
  unfold State.localAttrs
  split <;> simp

@[simp] theorem State.formReqs_mem (s : State) (id l) : (s.formReqs id l).m.mem = s.m.mem := by
  fun_induction State.formReqs <;> grind [State.countDemand_mem, State.setReqs_m, State.newId_mem, State.updOp_mem]

@[simp] theorem State.faultOrDrop_mem (s : State) (id o lanes k) : (s.faultOrDrop id o lanes k).m.mem = s.m.mem := by
  unfold State.faultOrDrop
  split <;> simp

@[simp] theorem State.faultNonCanon_mem (s : State) (id l) : (s.faultNonCanon id l).m.mem = s.m.mem := by
  fun_induction State.faultNonCanon <;> grind [State.faultOrDrop_mem]

/-! ## Accesses in transactions -/

@[simp] theorem State.updTx_mem (s : State) (key h) : (s.updTx key h).m.mem = s.m.mem := rfl

theorem State.sign_mem (s : State) (slice key asid va write) :
    ∀ t, s.sign slice key asid va write = some t → t.m.mem = s.m.mem := by
  unfold State.sign
  grind

@[simp] theorem State.txWrite_mem (s : State) (key a asid ea data) : (s.txWrite key a asid ea data).1.m.mem = s.m.mem := by
  unfold State.txWrite
  dsimp only
  split
  · rfl
  · split
    · rfl
    · split
      · rfl
      · split
        · rfl
        next h => rw [State.updTx_mem, State.sign_mem _ _ _ _ _ _ _ h]

@[simp] theorem State.awaitLock_mem (s : State) (keys) : (s.awaitLock keys).m.mem = s.m.mem := rfl

/-! ## Copies -/

@[simp] theorem State.faultLeader_mem (s : State) (id l k va write) :
    (s.faultLeader id l k va write).m.mem = s.m.mem := by simp [State.faultLeader]

@[simp] theorem State.writePad_mem (s : State) (blk off b) :
    (s.writePad blk off b).m.mem = s.m.mem := by simp [State.writePad]

@[simp] theorem State.beginDelivery_mem (s : State) (id pos) : (s.beginDelivery id pos).m.mem = s.m.mem := by
  unfold State.beginDelivery
  repeat' split
  all_goals simp

@[simp] theorem State.endDelivery_mem (s : State) (id pos) : (s.endDelivery id pos).m.mem = s.m.mem := by
  unfold State.endDelivery
  grind [State.retireBlock_mem, State.updBlock_mem, State.setLocks_m, State.updOp_mem]

@[simp] theorem State.dropLines_mem (s : State) (asid va len) : (s.dropLines asid va len).m.mem = s.m.mem := rfl

/-! ## Tarns -/

@[simp] theorem State.setTdb_mem (s : State) (t d) : (s.setTdb t d).m.mem = s.m.mem := rfl

@[simp] theorem State.retree_mem (s0 : State) (s : State) : (s0.retree s).m.mem = s.m.mem := rfl

@[simp] theorem State.mergeSigs_mem (s : State) (old new) : (s.mergeSigs old new).m.mem = s.m.mem := rfl

@[simp] theorem State.resendTarn_mem (s : State) (t) : (s.resendTarn t).m.mem = s.m.mem := rfl

@[simp] theorem State.renewNames_mem (s : State) (names) :
    (s.renewNames names).m.mem = s.m.mem := foldl_mem _ _ _ fun _ _ => by simp

@[simp] theorem State.startRetiring_mem (s : State) (share asked) : (s.startRetiring share asked).m.mem = s.m.mem := by
  unfold State.startRetiring
  split <;> simp

@[simp] theorem State.poisonLine_mem (s : State) (asid va size) : (s.poisonLine asid va size).m.mem = s.m.mem := by
  unfold State.poisonLine
  grind [State.translate_mem, State.poisonRange_mem]

@[simp] theorem State.loseMemory_mem (s : State) (pa) : (s.loseMemory pa).m.mem = s.m.mem := by
  unfold State.loseMemory
  rw [foldl_mem _ _ _ fun _ _ => by simp]
  simp

@[simp] theorem State.stopHart_mem (s : State) (h) : (s.stopHart h).m.mem = s.m.mem := rfl

@[simp] theorem State.snoopHart_mem (s : State) (h asid va invalidate) :
    (s.snoopHart h asid va invalidate).m.mem = s.m.mem := by
  unfold State.snoopHart
  grind [State.rollHart_mem]

@[simp] theorem State.refreshStall_mem (s : State) (instance_) : (s.refreshStall instance_).m.mem = s.m.mem := rfl

/-! ## Fences and barriers -/

@[simp] theorem State.arriveLane_mem (s : State) (blk n l) : (s.arriveLane blk n l).m.mem = s.m.mem := rfl

@[simp] theorem State.tryPhase_mem (s : State) (blk n) : (s.tryPhase blk n).m.mem = s.m.mem := by
  unfold State.tryPhase
  grind [State.completePhase_mem]

@[simp] theorem State.settleBars_mem (s : State) (blk) : (s.settleBars blk).m.mem = s.m.mem := by
  unfold State.settleBars
  split
  · rfl
  · rw [ite_mem, foldl_mem _ _ _ fun _ _ => State.unpark_mem _ _ _, State.updBlock_mem, ite_self]

@[simp] theorem State.leaveCommit_mem (s : State) (key) :
    (s.leaveCommit key).m.mem = s.m.mem := foldl_mem _ _ _ fun _ _ => by simp

@[simp] theorem State.decideAbort_mem (s : State) (key c code) : (s.decideAbort key c code).m.mem = s.m.mem := by
  unfold State.decideAbort
  grind [State.refile_mem, State.abortNow_mem, State.updGroup_mem, State.leaveCommit_mem, State.updThread_mem,
    State.unpark_mem, State.markAbort_mem]

@[simp] theorem State.asyncAborts_mem (s : State) (l) :
    (s.asyncAborts l).m.mem = s.m.mem := by simp [State.asyncAborts, foldl_mem]

@[simp] theorem State.asyncAbort_mem (s : State) (key c code) :
    (s.asyncAbort key c code).m.mem = s.m.mem := by simp [State.asyncAbort]

@[simp] theorem State.hartTimeout_mem (s : State) (h) : (s.hartTimeout h).m.mem = s.m.mem := by
  unfold State.hartTimeout
  split
  · rfl
  · rw [ite_mem, State.rollHart_mem, ite_self]

/-! ## Transactions -/

@[simp] theorem State.updTicket_mem (s : State) (n h) : (s.updTicket n h).m.mem = s.m.mem := rfl

@[simp] theorem State.rejectTicket_mem (s : State) (t e) :
    (s.rejectTicket t e).m.mem = s.m.mem := by simp [State.rejectTicket]

/-! ## The matrix unit -/

@[simp] theorem State.setOther_mem (s : State) (off v) : (s.setOther off v).m.mem = s.m.mem := rfl

@[simp] theorem State.post_mem (s : State) (e cls id) : (s.post e cls id).m.mem = s.m.mem := rfl

@[simp] theorem State.setBounds_mem (s : State) (blk lo hi) : (s.setBounds blk lo hi).m.mem = s.m.mem := rfl

@[simp] theorem State.mwin_mem (s : State) (gid g b f t) : (s.mwin gid g b f t).1.m.mem = s.m.mem := by
  unfold State.mwin
  grind [State.setBounds_mem, State.updGroup_mem, State.updBlock_mem]

@[simp] theorem State.grantPass_mem (s : State) (e) : (s.grantPass e).m.mem = s.m.mem := by
  unfold State.grantPass
  grind [State.setOps_m]

@[simp] theorem State.serveAll_mem (s : State) (id res) : (s.serveAll id res).m.mem = s.m.mem := rfl

@[simp] theorem State.passWork_mem (s : State) (e id o b) : (s.passWork e id o b).m.mem = s.m.mem := by
  unfold State.passWork
  grind [State.updBlock_mem, State.serveAll_mem, State.updOp_mem]

@[simp] theorem State.endPass_mem (s : State) (e) : (s.endPass e).m.mem = s.m.mem := by
  unfold State.endPass
  grind [State.passWork_mem]

@[simp] theorem State.dropDelivery_mem (s : State) (id pos) : (s.dropDelivery id pos).m.mem = s.m.mem := rfl

@[simp] theorem State.updResv_mem (s : State) (blk slot h) : (s.updResv blk slot h).m.mem = s.m.mem := rfl

@[simp] theorem State.readSource_mem (s : State) (id o m) : (s.readSource id o m).m.mem = s.m.mem := by
  unfold State.readSource
  split <;> simp

@[simp] theorem State.beginLoad_mem (s : State) (id pos) : (s.beginLoad id pos).m.mem = s.m.mem := by
  unfold State.beginLoad
  dsimp only
  split
  · rfl
  · split
    · split
      · rfl
      · split
        · simp
        · split
          · simp
          · simp only [ite_mem, State.updResv_mem, State.dropDelivery_mem, State.updOp_mem, State.readSource_mem, ite_self]
    · rfl

@[simp] theorem State.endLoad_mem (s : State) (id pos) : (s.endLoad id pos).m.mem = s.m.mem := by
  unfold State.endLoad
  grind [State.retireBlock_mem, State.updResv_mem, State.updOp_mem]

@[simp] theorem State.postEntries_mem (s : State) (e cls l) : (s.postEntries e cls l).m.mem = s.m.mem := by
  fun_induction State.postEntries <;> grind [State.post_mem]

@[simp] theorem State.postRecorded_mem (s : State) :
    s.postRecorded.m.mem = s.m.mem := foldl_mem _ _ _ fun _ _ => by grind [State.postEntries_mem]

@[simp] theorem State.dropInto_mem (s : State) (blks id) : (s.dropInto blks id).m.mem = s.m.mem := by
  unfold State.dropInto
  split
  · rfl
  · split
    · rfl
    · exact foldl_mem _ _ _ fun _ _ => State.dropDelivery_mem _ _ _

@[simp] theorem State.noteReset_mem (s : State) (e wdog) : (s.noteReset e wdog).m.mem = s.m.mem := rfl

/-! ## Flow units -/

@[simp] theorem State.weirPages_mem (s : State) (c l x y) : (s.weirPages c l x y).1.m.mem = s.m.mem := by
  fun_induction State.weirPages <;> grind [State.translate_mem]

@[simp] theorem State.stillServe_mem (s : State) (id o) : (s.stillServe id o).m.mem = s.m.mem := by
  unfold State.stillServe
  grind [State.repark_mem, State.updOp_mem]

@[simp] theorem State.setMessages_mem (s : State) (gang k l) : (s.setMessages gang k l).m.mem = s.m.mem := rfl

@[simp] theorem State.chanServe_mem (s : State) (id o) : (s.chanServe id o).m.mem = s.m.mem := by
  unfold State.chanServe
  grind [State.setMessages_mem, State.repark_mem, State.updOp_mem]

@[simp] theorem State.flowSettle_mem (s : State) : s.flowSettle.m.mem = s.m.mem := by
  unfold State.flowSettle
  refine foldl_mem _ _ _ fun s _ => ?_
  have one (l : List (Nat × Op)) (opc : Nat) (s : State) : (l.foldl (fun s p => if p.2.opc != opc then s else
      match s.op? p.1 with
      | some o => if opc = 0xE8 then s.stillServe p.1 o else s.chanServe p.1 o
      | none => s) s).m.mem = s.m.mem := foldl_mem _ _ _ fun s p => by grind [State.stillServe_mem, State.chanServe_mem]
  exact (one _ _ _).trans ((one _ _ _).trans (one _ _ _))

/-! ## Launches -/

@[simp] theorem State.enterLaunch_mem (s : State) (i r) : (s.enterLaunch i r).1.m.mem = s.m.mem := rfl

@[simp] theorem State.submitRecord_mem (s : State) (d own priv secure) :
    (s.submitRecord d own priv secure).1.m.mem = s.m.mem := by
  unfold State.submitRecord
  grind [State.enterLaunch_mem]

@[simp] theorem State.laneResult_mem (s : State) (id lane v) : (s.laneResult id lane v).m.mem = s.m.mem := rfl

@[simp] theorem State.takeWords_mem (s : State) (id pick) : (s.takeWords id pick).m.mem = s.m.mem := rfl

@[simp] theorem State.settleQueries_mem (s : State) : s.settleQueries.m.mem = s.m.mem := foldl_mem _ _ _ fun _ _ => rfl

/-! ## Instruction lines -/

@[simp] theorem State.meetWait_mem (s : State) (gid l) : (s.meetWait gid l).m.mem = s.m.mem := by
  unfold State.meetWait
  grind [State.updGroup_mem, State.park_mem]

/-! ## Saving and restoring blocks -/

@[simp] theorem State.beginOne_mem (s : State) (blk) : (s.beginOne blk).m.mem = s.m.mem := by
  unfold State.beginOne
  grind [State.updBlock_mem, State.asyncAborts_mem]

@[simp] theorem State.beginSave_mem (s : State) (blk) : (s.beginSave blk).m.mem = s.m.mem := by
  unfold State.beginSave
  split
  · rfl
  · exact foldl_mem _ _ _ fun _ _ => by grind [State.beginOne_mem]

@[simp] theorem State.recordOps_mem (s : State) (blk) : (s.recordOps blk).m.mem = s.m.mem := by
  unfold State.recordOps
  rw [foldl_mem _ _ _ fun _ _ => by split <;> simp]
  exact foldl_mem _ _ _ fun _ _ => by split <;> simp

@[simp] theorem State.endAborts_mem (s : State) (blk) :
    (s.endAborts blk).m.mem = s.m.mem := foldl_mem _ _ _ fun s p => foldl_mem _ _ _ fun s k => by
  grind [State.rollBack_mem, State.abortNow_mem]

@[simp] theorem State.freeze_mem (s : State) (blk) : (s.freeze blk).m.mem = s.m.mem := rfl

@[simp] theorem State.thaw_mem (s : State) (blk) : (s.thaw blk).m.mem = s.m.mem := rfl

@[simp] theorem State.saveCheck_mem (s : State) (asid secure l) : (s.saveCheck asid secure l).1.m.mem = s.m.mem := by
  fun_induction State.saveCheck <;> grind [State.translate_mem]

@[simp] theorem State.writeImage_mem (s : State) (asid va len) :
    (s.writeImage asid va len).m.mem = s.m.mem := by simp [State.writeImage]

@[simp] theorem State.saveBytes_mem (s : State) (launch r blk va len) :
    (s.saveBytes launch r blk va len).1.m.mem = s.m.mem := by
  unfold State.saveBytes
  grind [State.killLaunch_mem, State.postReport_mem, State.writeImage_mem, State.saveCheck_mem]

@[simp] theorem State.saveWeirs_mem (s : State) (launch r blk) : (s.saveWeirs launch r blk).1.m.mem = s.m.mem := by
  unfold State.saveWeirs
  dsimp only
  split
  · rfl
  · split
    · exact (foldl_mem _ _ _ fun _ _ => State.updWeir_mem _ _ _).trans (State.saveBytes_mem _ _ _ _ _ _)
    · exact State.saveBytes_mem _ _ _ _ _ _

@[simp] theorem State.giveRecords_mem (s : State) (l x) : (s.giveRecords l x).m.mem = s.m.mem := by
  fun_induction State.giveRecords with
  | case1 s g gs r rs ih => rw [ih, State.updGroup_mem]
  | case2 => rfl

@[simp] theorem State.placeWeirs_mem (s : State) (die l x) : (s.placeWeirs die l x).m.mem = s.m.mem := by
  fun_induction State.placeWeirs with
  | case1 s g gs r rs ih => rw [ih, State.updWeir_mem]
  | case2 => rfl

@[simp] theorem State.startSlice_mem (s : State) (i) : (s.startSlice i).m.mem = s.m.mem := rfl

@[simp] theorem State.ctxMark_mem (s : State) (t on) : (s.ctxMark t on).m.mem = s.m.mem := by
  unfold State.ctxMark
  grind [State.updLaunch_mem]

@[simp] theorem State.ctxSave_mem (s : State) (t issuer) : (s.ctxSave t issuer).1.m.mem = s.m.mem := by
  unfold State.ctxSave
  split
  · rfl
  · exact (foldl_mem _ _ _ State.beginSave_mem).trans (State.ctxMark_mem _ _ _)

@[simp] theorem State.ctxLoad_mem (s : State) (t) : (s.ctxLoad t).1.m.mem = s.m.mem := by
  unfold State.ctxLoad
  split <;> simp

/-! ## Placement -/

@[simp] theorem State.addGroups_mem (s : State) (blk r l x) : (s.addGroups blk r l x).m.mem = s.m.mem := by
  fun_induction State.addGroups <;> grind [State.setGroups_m, State.newId_mem]

@[simp] theorem State.placeNew_mem (s : State) (core i p) : (s.placeNew core i p).m.mem = s.m.mem := by
  unfold State.placeNew
  grind [State.refreshLaunch_mem, State.placeWeirs_mem, State.startSlice_mem, State.updCore_mem, State.setThreads_m,
    State.updLaunch_mem, State.newId_mem, State.addGroups_mem, State.setBlocks_m]

@[simp] theorem State.newGang_mem (s : State) : s.newGang.2.m.mem = s.m.mem := rfl

@[simp] theorem State.endClaim_mem (s : State) (core i) : (s.endClaim core i).m.mem = s.m.mem := rfl

@[simp] theorem State.updGang_mem (s : State) (i h) : (s.updGang i h).m.mem = s.m.mem := rfl

@[simp] theorem State.assignDie_mem (s : State) (die l) : (s.assignDie die l).m.mem = s.m.mem := by
  fun_induction State.assignDie <;> grind

@[simp] theorem State.without_mem (s : State) (blk) : (s.without blk).m.mem = s.m.mem := rfl

@[simp] theorem State.makeClaims_mem (s : State) (i cs) :
    (s.makeClaims i cs).m.mem = s.m.mem := foldl_mem _ _ _ fun _ _ => by simp

/-! ## Fault records -/

@[simp] theorem State.dropReport_mem (s : State) (id) : (s.dropReport id).m.mem = s.m.mem := rfl

@[simp] theorem State.answerKill_mem (s : State) (seq) : (s.answerKill seq).m.mem = s.m.mem := by
  unfold State.answerKill
  grind [State.killLaunch_mem, State.dropReport_mem]

@[simp] theorem State.faultPeek_mem (s : State) : s.faultPeek.2.m.mem = s.m.mem := by simp [State.faultPeek]

@[simp] theorem State.ctxCommand_mem (s : State) (load t) : (s.ctxCommand load t).m.mem = s.m.mem := by
  unfold State.ctxCommand
  grind [State.ctxSave_mem, State.ctxLoad_mem, State.setSys_m]

/-! ## Collectives -/

@[simp] theorem State.setComm_mem (s : State) (n v) : (s.setComm n v).m.mem = s.m.mem := rfl

@[simp] theorem State.updSlot_mem (s : State) (n h) : (s.updSlot n h).m.mem = s.m.mem := rfl

@[simp] theorem State.tell_mem (s : State) (mask kind slot seq data) : (s.tell mask kind slot seq data).m.mem = s.m.mem := rfl

@[simp] theorem State.tellPart_mem (s : State) (mask result n r b) : (s.tellPart mask result n r b).m.mem = s.m.mem := rfl

@[simp] theorem State.updRound_mem (s : State) (n seq h) : (s.updRound n seq h).m.mem = s.m.mem := rfl

@[simp] theorem State.endRound_mem (s : State) (n seq code suspect) : (s.endRound n seq code suspect).m.mem = s.m.mem := rfl

@[simp] theorem State.addSuspect_mem (s : State) (n mask) : (s.addSuspect n mask).m.mem = s.m.mem := rfl

@[simp] theorem State.roundFault_mem (s : State) (n r) : (s.roundFault n r).m.mem = s.m.mem := rfl

@[simp] theorem State.roundDone_mem (s : State) (n seq) : (s.roundDone n seq).m.mem = s.m.mem := by
  unfold State.roundDone
  grind [State.endRound_mem]

@[simp] theorem State.beginRound_mem (s : State) (n r input) : (s.beginRound n r input).m.mem = s.m.mem := by
  unfold State.beginRound
  have parts := foldl_mem (onesOf 8 r.ring) (fun (s : State) p => s.tellPart (2 ^ p) false n r
    ((input.drop (r.seg (rankIn r.ring p)).1).take (r.seg (rankIn r.ring p)).2)) (s.updRound n r.seq (fun r =>
      { r with sent := true, input := input })) fun _ _ => State.tellPart_mem _ _ _ _ _ _
  grind [State.updRound_mem, State.tellPart_mem, State.roundDone_mem]

@[simp] theorem State.keepMail_mem (s : State) (n m) : (s.keepMail n m).m.mem = s.m.mem := rfl

@[simp] theorem State.collAbort_mem (s : State) (n seq silent fault) : (s.collAbort n seq silent fault).m.mem = s.m.mem := by
  unfold State.collAbort
  grind [State.keepMail_mem, State.addSuspect_mem, State.endRound_mem]

@[simp] theorem State.loseRounds_mem (s : State) (q) : (s.loseRounds q).m.mem = s.m.mem := by
  unfold State.loseRounds
  exact foldl_mem _ _ _ fun _ _ => foldl_mem _ _ _ fun _ _ => by simp

/-! ## Exchanges -/

@[simp] theorem chargeDraws_mem (r) (s : State) : (chargeDraws r s).m.mem = s.m.mem := by
  unfold chargeDraws
  split <;> simp

/-! ## Host harts -/

@[simp] theorem State.updMe_mem (s : State) (h) : (s.updMe h).m.mem = s.m.mem := rfl

@[simp] theorem State.abortHost_mem (s : State) (h c code) : (s.abortHost h c code).m.mem = s.m.mem := rfl

@[simp] theorem State.raise_mem (s : State) (h cause tval) : (s.raise h cause tval).m.mem = s.m.mem := by
  unfold State.raise
  split <;> simp

@[simp] theorem State.hostFail_mem (s : State) (h store e) : (s.hostFail h store e).m.mem = s.m.mem := by
  unfold State.hostFail
  split <;> simp

@[simp] theorem State.hostTxPut_mem (s : State) (h l x) : (s.hostTxPut h l x).m.mem = s.m.mem := by
  fun_induction State.hostTxPut <;> grind [State.updHart_mem]

@[simp] theorem State.dropIrq_mem (s : State) : s.dropIrq.m.mem = s.m.mem := foldl_mem _ _ _ fun _ _ => rfl

/-! ## Device registers -/

@[simp] theorem State.forgetSecure_mem (s : State) : s.forgetSecure.m.mem = s.m.mem := rfl

@[simp] theorem State.writeRegister_mem (s : State) (off value who) : (s.writeRegister off value who).m.mem = s.m.mem := by
  unfold State.writeRegister
  dsimp only
  repeat' apply mem_ite
  any_goals rw [State.setSys_m]
  any_goals exact Eq.refl s.m.mem
  split
  · rw [State.updCore_mem]
  · rw [ite_mem, State.updCore_mem, ite_self]
  · rfl

@[simp] theorem State.startHart_mem (s : State) (h pc) : (s.startHart h pc).m.mem = s.m.mem := by
  unfold State.startHart
  split <;> simp

@[simp] theorem State.dropFrame_mem (s : State) (asid va) : (s.dropFrame asid va).m.mem = s.m.mem := by simp [State.dropFrame]

@[simp] theorem State.dropHolder_mem (s : State) (q) : (s.dropHolder q).m.mem = s.m.mem := foldl_mem _ _ _ fun _ _ => by simp

@[simp] theorem State.dropFills_mem (s : State) (q) : (s.dropFills q).m.mem = s.m.mem := rfl

@[simp] theorem State.losePackage_mem (s : State) (q) : (s.losePackage q).m.mem = s.m.mem := by
  unfold State.losePackage
  split
  · rfl
  · simp only [State.loseRounds_mem, State.dropFills_mem, State.setMem_m]
    rw [foldl_mem _ (fun (s : State) (e : Nat × Nat × Nat) => s.dropFrame e.2.1 e.2.2) _ fun _ _ => State.dropFrame_mem _ _ _]
    simp

@[simp] theorem State.updPort_mem (s : State) (p h) : (s.updPort p h).m.mem = s.m.mem := rfl

/-! ## The node -/

@[simp] theorem State.linkDown_mem (s : State) (p) : (s.linkDown p).m.mem = s.m.mem := by
  unfold State.linkDown
  split <;> simp

@[simp] theorem State.recallQueue_mem (s : State) (pa asid va) :
    (s.recallQueue pa asid va).m.mem = s.m.mem := foldl_mem _ _ _ fun _ _ => rfl

@[simp] theorem State.recallLine_mem (sOld : State) (pa asid va invalidate) :
    (sOld.recallLine pa asid va invalidate).m.mem = sOld.m.mem := by
  unfold State.recallLine
  grind [State.cleanCopies_mem, State.invalidate_mem, State.resend_mem, State.recallQueue_mem, State.setMem_m,
    State.sendLink_mem, State.snoopHarts_mem]

@[simp] theorem State.pcieDone_mem (s : State) (port status data) : (s.pcieDone port status data).m.mem = s.m.mem := rfl

@[simp] theorem State.setEth_mem (s : State) (p tx rx) : (s.setEth p tx rx).m.mem = s.m.mem := rfl

@[simp] theorem State.descriptor_mem (s : State) (pa) : (s.descriptor pa).2.m.mem = s.m.mem := by
  unfold State.descriptor
  split <;> simp

@[simp] theorem State.reply_mem (s : State) (code data) : (s.reply code data).m.mem = s.m.mem := rfl

@[simp] theorem State.setSession_mem (s : State) (x) : (s.setSession x).m.mem = s.m.mem := rfl

@[simp] theorem State.settleFirmware_mem (s : State) : s.settleFirmware.m.mem = s.m.mem := by
  unfold State.settleFirmware
  grind [State.setNode_m]

@[simp] theorem State.setFreq_mem (s : State) (freq draw) :
    (s.setFreq freq draw).m.mem = s.m.mem := by rw [State.setFreq, State.setSys_m]

@[simp] theorem State.inBand_mem (s : State) (event) : (s.inBand event).m.mem = s.m.mem := rfl

/-! ## Predicates -/

@[simp] theorem State.setScalar_mem (s : State) (gid n v) : (s.setScalar gid n v).m.mem = s.m.mem := rfl

/-! ## Base instructions of the harts -/

theorem State.rvSystem_mem (s : State) (h w len) : ∀ t, s.rvSystem h w len = some t → t.m.mem = s.m.mem := by
  unfold State.rvSystem
  grind [State.updHart_mem, State.raise_mem]

/-! ## Turns -/

theorem State.higher_mem (s0 : State) (s : State) : ∀ t, s0.higher s = some t → t.m.mem = s.m.mem := by
  unfold State.higher
  grind [State.setCur_m]

@[simp] theorem State.settleCommand_mem (s : State) : s.settleCommand.m.mem = s.m.mem := by
  unfold State.settleCommand
  split <;> simp

@[simp] theorem State.settleHeld_mem (s : State) : s.settleHeld.m.mem = s.m.mem := foldl_mem _ _ _ fun _ _ => by simp

@[simp] theorem State.settleWaits_mem (s : State) : s.settleWaits.m.mem = s.m.mem := rfl

/-! ## The agenda -/

@[simp] theorem State.tick_mem (s : State) (n) : (s.tick n).m.mem = s.m.mem := by simp [State.tick]

end Sys2Proof.Machine
end

section
/-! SUPPORT. The operations that may write physical memory keep its canonical form, each by the ones it calls. -/

namespace Sys2Proof.Machine

theorem foldl_wf {α : Type} {l : List α} {f : State → α → State} {s : State}
    (hf : ∀ s a, Memory.wf s.m.mem → Memory.wf (f s a).m.mem) (hm : Memory.wf s.m.mem) : Memory.wf (l.foldl f s).m.mem :=
  List.foldlRecOn l f hm fun s h a _ => hf s a h

theorem fst_wf {α : Type} {p : State × α} {s : State} {a : α} (h : p = (s, a)) (hp : Memory.wf p.1.m.mem) :
    Memory.wf s.m.mem := by
  rwa [h] at hp

theorem wf_ite_fst {α : Type} {c : Prop} [Decidable c] {a b : State × α} (ha : Memory.wf a.1.m.mem)
    (hb : Memory.wf b.1.m.mem) : Memory.wf (if c then a else b).1.m.mem := by
  split <;> assumption

theorem foldlFst_wf {α β : Type} {l : List α} {f : State × β → α → State × β} {s : State} {b : β}
    (hf : ∀ (s : State) (b : β) (a : α), Memory.wf s.m.mem → Memory.wf (f (s, b) a).1.m.mem) (hm : Memory.wf s.m.mem) :
    Memory.wf (l.foldl f (s, b)).1.m.mem :=
  List.foldlRecOn (motive := fun r : State × β => Memory.wf r.1.m.mem) l f hm fun r h a _ => hf r.1 r.2 a h

theorem writesEach_wf {l : List Nat} {c : Nat → Prop} [DecidablePred c] {d : Nat → List Byte} {m : List Host.Cell}
    (hm : Memory.wf m) : Memory.wf (l.foldl (fun m o => if c o then Memory.writes m o (d o) else m) m) :=
  List.foldlRecOn (motive := fun m => Memory.wf m = true) l _ hm fun m h o _ => by
    split
    · exact Memory.writes_wf _ _ _ h
    · exact h

/-! ## Memory -/

theorem State.reclaimRecord_wf (s : State) (va frame asid size kind) (hm : Memory.wf s.m.mem) :
    Memory.wf (s.reclaimRecord va frame asid size kind).m.mem := by
  unfold State.reclaimRecord
  grind [State.ringBytes_mem, State.ctrlWrite_wf]

theorem State.doWriteBack_wf (s : State) (w) (hm : Memory.wf s.m.mem) : Memory.wf (s.doWriteBack w).m.mem := by
  unfold State.doWriteBack
  grind [State.translate_mem, State.ctrlWrite_wf, State.reclaimRecord_wf, State.setMem_m]

theorem State.drain_wf (s : State) (asid va len) (hm : Memory.wf s.m.mem) :
    Memory.wf (s.drain asid va len).m.mem :=
  foldl_wf (fun s a h => by grind [State.doWriteBack_wf, State.setMem_m]) hm

theorem State.drainAll_wf (s : State) (hm : Memory.wf s.m.mem) : Memory.wf s.drainAll.m.mem :=
  foldl_wf (fun s a h => by grind [State.doWriteBack_wf, State.setMem_m]) hm

theorem State.addCopy_wf (s : State) (c) (hm : Memory.wf s.m.mem) : Memory.wf (s.addCopy c).m.mem := by
  simp only [State.addCopy, State.setMem_m]
  exact foldl_wf (fun s x h => wf_ite (s.doWriteBack_wf _ h) h) (wf_ite hm (by rwa [State.dropCopies_mem]))

theorem State.evictNow_wf (s : State) (l) (hm : Memory.wf s.m.mem) : Memory.wf (s.evictNow l).m.mem := by
  simp [State.evictNow, hm, State.evict_mem, State.drain_wf]

theorem State.recallHolders_wf (s : State) (pa n write asker given) (hm : Memory.wf s.m.mem) :
    Memory.wf (s.recallHolders pa n write asker given).m.mem := by
  unfold State.recallHolders
  split
  · refine foldl_wf (fun s e h => wf_ite h ?_) hm
    simp only [State.setMem_m]
    split
    · exact foldl_wf (fun _ _ h => h) h
    · refine Memory.writes_wf _ _ _ ?_
      rw [State.supplied_mem]
      exact foldl_wf (fun _ _ h => h) h
  · exact hm

theorem State.snoopPackages_wf (s : State) (units slice asid va len) (hm : Memory.wf s.m.mem) :
    Memory.wf (s.snoopPackages units slice asid va len).m.mem := by
  unfold State.snoopPackages
  split
  · exact hm
  · refine foldl_wf (fun s l h => ?_) hm
    split
    · exact s.recallHolders_wf _ _ _ _ _ h
    · exact h

theorem State.dirRoom_wf (s : State) (slice asid va fresh l) (hm : Memory.wf s.m.mem) :
    Memory.wf (s.dirRoom slice asid va fresh l).m.mem := by
  fun_induction State.dirRoom <;> grind [State.snoopUnits_mem, State.snoopPackages_wf, State.setMem_m]

theorem State.dirNote_wf (s : State) (slice asid va line agent ask) (hm : Memory.wf s.m.mem) :
    Memory.wf (s.dirNote slice asid va line agent ask).m.mem := by
  unfold State.dirNote
  grind [State.snoopUnits_mem, State.dirRoom_wf, State.setMem_m]

theorem State.enterRemote_wf (s : State) (pa asid va) (hm : Memory.wf s.m.mem) :
    Memory.wf (s.enterRemote pa asid va).m.mem := by
  unfold State.enterRemote
  split
  · refine wf_ite hm (wf_ite hm ?_)
    split
    · exact hm
    · simp only [State.setMem_m, State.sendLink_mem]
      exact State.drain_wf _ _ _ _ (foldl_wf (fun s l h => by rwa [State.evict_mem]) hm)
  · exact hm

theorem State.askController_wf (s : State) (pa n asid va write given) (hm : Memory.wf s.m.mem) :
    Memory.wf (s.askController pa n asid va write given).m.mem := by
  unfold State.askController
  grind [State.recallHolders_wf, State.enterRemote_wf, State.sendLink_mem]

theorem State.zeroFrame_wf (s : State) (frame size) (hm : Memory.wf s.m.mem) :
    Memory.wf (s.zeroFrame frame size).m.mem := by
  unfold State.zeroFrame
  split
  · exact Memory.filter_wf _ _ hm
  · exact hm
  · exact hm

theorem State.revive_wf (s : State) (a) (hm : Memory.wf s.m.mem) :
    ∀ t, s.revive a = some t → Memory.wf t.m.mem := by
  intro t ht
  unfold State.revive at ht
  split at ht
  · split at ht
    · cases ht
      exact writesEach_wf (s.zeroFrame_wf _ _ hm)
    · cases ht
  · cases ht

theorem State.shardStage_wf (s : State) (c q need l) (hm : Memory.wf s.m.mem) :
    Memory.wf (s.shardStage c q need l).1.m.mem := by
  fun_induction State.shardStage <;> grind [State.translate_mem, State.revive_wf, State.dropTlb_mem, State.drain_wf]

theorem State.controllerStage_wf (s : State) (q need direct given) (hm : Memory.wf s.m.mem) :
    Memory.wf (s.controllerStage q need direct given).1.m.mem := by
  unfold State.controllerStage
  grind [State.ctrlRead_mem, State.recallHolders_wf, State.askController_wf]

theorem State.fillData_wf (s : State) (q size need) (hm : Memory.wf s.m.mem) :
    Memory.wf (s.fillData q size need).1.m.mem := by
  unfold State.fillData
  grind [State.recallHolders_wf, State.drain_wf, State.supplied_mem]

theorem State.stage_wf (s : State) (agent c q need given) (hm : Memory.wf s.m.mem) :
    Memory.wf (s.stage agent c q need given).1.m.mem := by
  unfold State.stage
  grind [State.touch_mem, State.fillData_wf, State.recallHolders_wf, State.controllerStage_wf, State.dirNote_wf,
    State.shardStage_wf, State.addCopy_wf, State.install_mem, State.snoopHarts_mem]

theorem State.stages_wf (s : State) (agent c need l x) (hm : Memory.wf s.m.mem) :
    Memory.wf (s.stages agent c need l x).1.m.mem := by
  fun_induction State.stages <;> grind [State.stage_wf]

theorem State.keepLine_wf (s : State) (agent inst a w asid va wrote) (hm : Memory.wf s.m.mem) :
    Memory.wf (s.keepLine agent inst a w asid va wrote).m.mem := by
  unfold State.keepLine
  grind [State.addCopy_wf]

theorem State.writeAt_wf (s : State) (who agent a w asid va data own) (hm : Memory.wf s.m.mem) :
    Memory.wf (s.writeAt who agent a w asid va data own).m.mem := by
  unfold State.writeAt
  grind [State.translate_mem, State.noteWrite_mem, State.ctrlWrite_wf, State.reclaimRecord_wf, State.setMem_m,
    State.updLine_mem, State.drain_wf]

/-! ## Accesses -/

theorem State.readPiece_wf (s : State) (g acc va n) (hm : Memory.wf s.m.mem) :
    Memory.wf (s.readPiece g acc va n).1.m.mem := by
  unfold State.readPiece
  grind [State.readAt_mem, State.checkAddr_mem, State.keepLine_wf, State.countDemand_mem, State.stages_wf]

theorem State.readPieces_wf (s : State) (g acc l) (hm : Memory.wf s.m.mem) :
    Memory.wf (s.readPieces g acc l).1.m.mem := by
  fun_induction State.readPieces <;> grind [State.readPiece_wf]

theorem State.load_wf (s : State) (g va n) (hm : Memory.wf s.m.mem) : Memory.wf (s.load g va n).1.m.mem := by
  simp [State.load, hm, State.readPieces_wf]

theorem State.writePiece_wf (s : State) (g va data full) (hm : Memory.wf s.m.mem) :
    Memory.wf (s.writePiece g va data full).1.m.mem := by
  unfold State.writePiece
  grind [State.cleanLine_mem, State.checkAddr_mem, State.keepLine_wf, State.writeAt_wf, State.countDemand_mem,
    State.stages_wf]

theorem State.writePieces_wf (s : State) (g full l x) (hm : Memory.wf s.m.mem) :
    Memory.wf (s.writePieces g full l x).1.m.mem := by
  fun_induction State.writePieces <;> grind [State.writePiece_wf]

theorem State.store_wf (s : State) (g va data) (hm : Memory.wf s.m.mem) :
    Memory.wf (s.store g va data).1.m.mem := by
  simp [State.store, hm, State.writePieces_wf]

theorem State.checkRange_wf (s : State) (g acc l) (hm : Memory.wf s.m.mem) :
    Memory.wf (s.checkRange g acc l).1.m.mem := by
  fun_induction State.checkRange <;> grind [State.checkAddr_mem]

theorem State.fetch_wf (s : State) (core c line) (hm : Memory.wf s.m.mem) :
    Memory.wf (s.fetch core c line).1.m.mem := by
  unfold State.fetch
  grind [State.readAt_mem, State.checkAddr_mem, State.keepLine_wf, State.countDemand_mem, State.stages_wf]

theorem State.checkTarget_wf (s : State) (core c tgt) (hm : Memory.wf s.m.mem) :
    Memory.wf (s.checkTarget core c tgt).1.m.mem := by
  unfold State.checkTarget
  grind [State.dropInst_mem, State.fetch_wf]

/-! ## Accesses of the units -/

theorem State.ownLoad_wf (s : State) (g va n) (hm : Memory.wf s.m.mem) :
    Memory.wf (s.ownLoad g va n).1.m.mem := by
  unfold State.ownLoad
  grind [State.load_wf]

theorem State.ownStore_wf (s : State) (g va b) (hm : Memory.wf s.m.mem) :
    Memory.wf (s.ownStore g va b).1.m.mem := by
  unfold State.ownStore
  grind [State.store_wf]

theorem State.weirHeads_wf (s : State) (w l) (hm : Memory.wf s.m.mem) : Memory.wf (s.weirHeads w l).1.m.mem := by
  fun_induction State.weirHeads <;> grind [State.ownLoad_wf]

theorem State.weirPutFrom_wf (s : State) (w l) (hm : Memory.wf s.m.mem) :
    Memory.wf (s.weirPutFrom w l).1.m.mem := by
  fun_induction State.weirPutFrom <;> grind [State.ownStore_wf]

theorem State.weirPut_wf (s : State) (w l) (hm : Memory.wf s.m.mem) : Memory.wf (s.weirPut w l).1.m.mem := by
  unfold State.weirPut
  grind [State.weirPutFrom_wf]

theorem State.weirDone_wf (s : State) (e seq) (hm : Memory.wf s.m.mem) :
    ∀ t, s.weirDone e seq = some t → Memory.wf t.m.mem := by
  intro t ht
  unfold State.weirDone at ht
  split at ht
  · cases ht; exact hm
  · split at ht
    · cases ht; exact hm
    · grind [State.ownLoad_wf, State.weirFailed_mem, State.weirHeads_wf, State.weirPut_wf, State.weirSettle_mem,
      State.updWeir_mem]

theorem State.weirDones_wf (s : State) (l) (hm : Memory.wf s.m.mem) :
    ∀ t, s.weirDones l = some t → Memory.wf t.m.mem := by
  fun_induction State.weirDones <;> grind [State.weirDone_wf]

theorem State.weirRelease_wf (s : State) (key) (hm : Memory.wf s.m.mem) :
    ∀ t, s.weirRelease key = some t → Memory.wf t.m.mem := by
  intro t ht
  obtain ⟨s1, h1, rfl⟩ := Option.map_eq_some_iff.mp ht
  rw [State.stilled_mem]
  exact s.weirDones_wf _ hm s1 h1

/-! ## Outstanding instructions -/

theorem State.handlerReady_wf (s : State) (blk core) (hm : Memory.wf s.m.mem) :
    Memory.wf (s.handlerReady blk core).1.m.mem := by
  unfold State.handlerReady
  grind [State.checkTarget_wf]

theorem State.finish_wf (s : State) (gid g ls r) (hm : Memory.wf s.m.mem) :
    Memory.wf (s.finish gid g ls r).1.m.mem := by
  unfold State.finish
  extract_lets traps aborts cur s0 h stuck dead s1 s2 np next plan kept
  have h0 : Memory.wf s0.m.mem := wf_ite hm hm
  split
  · simpa [State.after] using h0
  · have hh : Memory.wf h.1.m.mem := by
      unfold h
      split
      · exact h0
      · exact State.handlerReady_wf _ _ _ h0
    split
    · simpa [State.after] using hh
    · exact hh
    · exact hh
    · have h2 : Memory.wf s2.m.mem :=
        foldl_wf (fun s p h => by rwa [State.markAbort_mem]) (foldl_wf (fun s p h => by rwa [State.updThread_mem]) hh)
      split <;> simpa [State.after] using h2

/-! ## Issue -/

theorem State.groupTrap_wf (s : State) (gid g ls c) (hm : Memory.wf s.m.mem) :
    Memory.wf (s.groupTrap gid g ls c).1.m.mem := by
  unfold State.groupTrap
  extract_lets open_ tr r
  split
  · simpa [State.after] using hm
  · have hr : Memory.wf r.1.m.mem :=
      State.finish_wf _ _ _ _ _ (foldl_wf (fun s k h => by rwa [State.abortHeld_mem]) hm)
    split
    · simpa [State.after] using hr
    · exact hr

theorem State.goBack_wf (s : State) (gid g stay) (hm : Memory.wf s.m.mem) :
    Memory.wf (s.goBack gid g stay).m.mem := by
  unfold State.goBack
  grind [State.finish_wf, State.setCur_m]

theorem State.settleHandler_wf (s0 : State) (r : After) (gid g) (hm : Memory.wf s0.m.mem) (hr : Memory.wf r.1.m.mem) :
    Memory.wf (s0.settleHandler r gid g).m.mem := by
  unfold State.settleHandler
  split
  · exact hr
  · rwa [State.groupFault_mem]
  · exact s0.goBack_wf _ _ _ hm

theorem State.takePending_wf (s : State) (gid g ls c) (hm : Memory.wf s.m.mem) :
    Memory.wf (s.takePending gid g ls c).m.mem := by
  unfold State.takePending
  grind [State.updGroup_mem, State.settleHandler_wf, State.park_mem, State.groupTrap_wf]

theorem State.settleSlot_wf (s0 : State) (r : After) (gid g op f) (hm : Memory.wf s0.m.mem) (hr : Memory.wf r.1.m.mem) :
    Memory.wf (s0.settleSlot r gid g op f).m.mem := by
  unfold State.settleSlot
  split
  · have kept : Memory.wf (r.1.keepHigher op f (s0.lanesOf g f)).m.mem := by rwa [State.keepHigher_mem]
    exact wf_ite kept (State.goBack_wf _ _ _ _ kept)
  · exact s0.settleHandler_wf _ _ _ hm hr

/-! ## Threads, groups and blocks -/

theorem State.freeSlot_wf (s : State) (key) (hm : Memory.wf s.m.mem) : Memory.wf (s.freeSlot key).m.mem := by
  unfold State.freeSlot
  grind [State.retireBlock_mem, State.updBlock_mem, State.setThreads_m, State.weirRelease_wf]

theorem State.freeHeld_wf (s : State) (hm : Memory.wf s.m.mem) : Memory.wf s.freeHeld.m.mem :=
  foldl_wf (fun s a h => by grind [State.freeSlot_wf]) hm

theorem State.dropWait_wf (s : State) (id) (hm : Memory.wf s.m.mem) : Memory.wf (s.dropWait id).m.mem :=
  foldl_wf (fun s a h => by grind [State.setThreads_m, State.freeSlot_wf]) hm

theorem State.finishOp_wf (s : State) (id) (hm : Memory.wf s.m.mem) : Memory.wf (s.finishOp id).m.mem := by
  unfold State.finishOp
  split
  · exact hm
  · extract_lets s1 s2 s3 s4 s5 s6 into s6' s7
    have h1 : Memory.wf s1.m.mem := foldl_wf (fun s l h => by rwa [State.updThread_mem]) hm
    have h4 : Memory.wf s4.m.mem := by
      unfold s4
      split <;> simpa [s3, s2] using h1
    have h6 : Memory.wf s6'.m.mem :=
      foldl_wf (fun s b h => wf_ite h (by rwa [State.retireBlock_mem])) (by simpa [s6, s5] using h4)
    have h7 : Memory.wf s7.m.mem := by
      simp only [s7, State.rollAborts_mem, State.checkDraining_mem]
      exact State.dropWait_wf _ _ (by rwa [State.checkWait_mem])
    split
    · rwa [State.reapKilled_mem]
    · exact h7

theorem State.lateTrap_wf (s : State) (key pc tr) (hm : Memory.wf s.m.mem) :
    Memory.wf (s.lateTrap key pc tr).1.m.mem := by
  unfold State.lateTrap
  grind [State.refile_mem, State.updGroup_mem, State.handlerReady_wf, State.updThread_mem, State.markAbort_mem,
    State.fatalTrap_mem]

theorem State.asyncTraps_wf (s : State) (l) (hm : Memory.wf s.m.mem) : Memory.wf (s.asyncTraps l).m.mem := by
  unfold State.asyncTraps
  refine foldl_wf (fun s e h => ?_) ?_
  · split
    · rwa [State.oweTraps_mem]
    · exact h
  · exact foldlFst_wf (fun s _ q h => s.lateTrap_wf _ _ _ h) hm

theorem State.retryTraps_wf (s : State) (gid) (hm : Memory.wf s.m.mem) : Memory.wf (s.retryTraps gid).m.mem := by
  unfold State.retryTraps
  grind [State.asyncTraps_wf, State.deferPlan_mem]

theorem State.trapLanes_wf (s : State) (id lanes tr) (hm : Memory.wf s.m.mem) :
    Memory.wf (s.trapLanes id lanes tr).m.mem := by
  unfold State.trapLanes
  grind [State.asyncTraps_wf, State.updOp_mem]

theorem State.answerOp_wf (s : State) (id lanes action) (hm : Memory.wf s.m.mem) :
    Memory.wf (s.answerOp id lanes action).m.mem := by
  unfold State.answerOp
  split
  · exact hm
  · refine wf_ite (wf_ite (wf_ite ?_ ?_) ?_) ?_
    · rwa [State.faultLanes_mem]
    · rwa [State.updOp_mem]
    · simp only [State.repark_mem, State.updOp_mem]
      exact foldl_wf (fun s l h => by rwa [State.forgetAttr_mem]) hm
    · rw [State.tryPlans_mem]
      have trapped := s.trapLanes_wf
      exact wf_ite (State.finishOp_wf _ _ (by rw [State.handedOut_mem]; exact trapped _ _ _ hm)) (trapped _ _ _ hm)

theorem State.tryAnswers_wf (s : State) (gid) (hm : Memory.wf s.m.mem) : Memory.wf (s.tryAnswers gid).m.mem := by
  unfold State.tryAnswers
  split
  · exact hm
  · refine wf_ite hm ?_
    extract_lets s1 hit delivered inTx keys here aborted retry s2 nextOf s3 hits at_ s4
    refine wf_ite hm ?_
    have h1 : Memory.wf s1.m.mem := by rwa [State.unpark_mem, State.updGroup_mem]
    have h2 : Memory.wf s2.m.mem := foldl_wf (fun s k h => by grind [State.abortNow_mem]) h1
    have h3 : Memory.wf s3.m.mem := by
      unfold s3
      split
      · exact h2
      · exact wf_ite h2 (by rwa [State.updGroup_mem])
    rw [State.deferPlan_mem]
    refine State.retryTraps_wf _ _ (State.asyncTraps_wf _ _ ?_)
    exact foldl_wf (fun s p h => by rwa [State.updThread_mem]) h3

theorem State.answerGroup_wf (s : State) (gid report action) (hm : Memory.wf s.m.mem) :
    Memory.wf (s.answerGroup gid report action).m.mem := by
  simp [State.answerGroup, hm, State.updGroup_mem, State.tryAnswers_wf]

/-! ## Control flow -/

theorem State.checkTargets_wf (s : State) (core c l) (hm : Memory.wf s.m.mem) :
    Memory.wf (s.checkTargets core c l).1.m.mem := by
  fun_induction State.checkTargets <;> grind [State.checkTarget_wf]

theorem State.tableTarget_wf (s : State) (f g l) (hm : Memory.wf s.m.mem) :
    Memory.wf (s.tableTarget f g l).1.m.mem := by
  unfold State.tableTarget
  grind [State.load_wf]

/-! ## Reaching memory -/

theorem State.serveScratch_wf (s : State) (id waiting l) (hm : Memory.wf s.m.mem) :
    Memory.wf (s.serveScratch id waiting l).m.mem := by
  induction l generalizing s waiting with
  | nil => exact hm
  | cons l ls ih =>
    unfold State.serveScratch
    split
    · exact hm
    · refine wf_ite (ih _ _ hm) (wf_ite (ih _ _ hm) ?_)
      split
      · exact hm
      · split
        · exact ih _ _ (by grind [State.wakeStage_mem, State.updLane_mem, State.updBlock_mem])
        · exact wf_ite (ih _ _ (s.trapLanes_wf _ _ _ hm)) (ih _ _ (by rwa [State.updLane_mem]))

theorem State.scratchOp_wf (s : State) (id) (hm : Memory.wf s.m.mem) : Memory.wf (s.scratchOp id).m.mem := by
  unfold State.scratchOp
  grind [State.serveScratch_wf, State.repark_mem]

theorem State.scratchAll_wf (s : State) (hm : Memory.wf s.m.mem) : Memory.wf s.scratchAll.m.mem :=
  foldl_wf (fun s a h => by grind [State.scratchOp_wf, State.tryPlans_mem]) hm

theorem State.performLane_wf (s : State) (id o a wh given l) (hm : Memory.wf s.m.mem) :
    Memory.wf (s.performLane id o a wh given l).m.mem := by
  unfold State.performLane
  grind [State.updLane_mem, State.readAt_mem, State.writeAt_wf]

theorem State.serveMerged_wf (s : State) (a wh given l x) (hm : Memory.wf s.m.mem) :
    Memory.wf (s.serveMerged a wh given l x).m.mem := by
  fun_induction State.serveMerged with
  | case1 => exact hm
  | case2 => exact State.performLane_wf _ _ _ _ _ _ _ hm
  | case3 => exact foldl_wf (fun s c h => s.performLane_wf _ _ _ _ _ _ h) hm
  | case4 => rename_i ih; exact ih (by rw [State.updLane_mem]; exact hm)
  | case5 => rename_i ih; exact ih (State.performLane_wf _ _ _ _ _ _ _ hm)
  | case6 => exact hm

theorem State.servedMerging_wf (s : State) (rid o q wh given) (hm : Memory.wf s.m.mem) :
    Memory.wf (s.servedMerging rid o q wh given).m.mem := by
  unfold State.servedMerging
  refine foldl_wf (fun s p h => by rwa [State.repark_mem]) (State.serveMerged_wf _ _ _ _ _ _ ?_)
  exact foldl_wf (fun s p h => by rwa [State.setReqs_m]) hm

theorem State.servedReq_wf (s : State) (rid o q wh given) (hm : Memory.wf s.m.mem) :
    Memory.wf (s.servedReq rid o q wh given).m.mem := by
  unfold State.servedReq
  refine wf_ite (s.servedMerging_wf _ _ _ _ _ hm) ?_
  extract_lets s1 s2 keep
  have h1 : Memory.wf s1.m.mem := foldl_wf (fun s l h => s.performLane_wf _ _ _ _ _ _ h) hm
  have h2 : Memory.wf s2.m.mem := wf_ite (by rwa [State.cleanLine_mem]) h1
  rw [State.repark_mem]
  exact wf_ite (State.keepLine_wf _ _ _ _ _ _ _ _ h2) h2

theorem State.flushLine_wf (s : State) (core a asid va inv) (hm : Memory.wf s.m.mem) :
    Memory.wf (s.flushLine core a asid va inv).m.mem := by
  unfold State.flushLine
  grind [State.doWriteBack_wf, State.cleanCopies_mem, State.evict_mem, State.setMem_m, State.updLine_mem, State.drain_wf]

theorem State.advanceReq_wf (s : State) (rid given) (hm : Memory.wf s.m.mem) :
    Memory.wf (s.advanceReq rid given).m.mem := by
  unfold State.advanceReq
  split
  · exact hm
  · split
    · exact hm
    · refine wf_ite hm (wf_ite hm (wf_ite ?_ (wf_ite ?_ (wf_ite ?_ (wf_ite hm ?_)))))
      · exact State.servedReq_wf _ _ _ _ _ _ (wf_ite hm (s.flushLine_wf _ _ _ _ _ hm))
      · exact State.servedReq_wf _ _ _ _ _ _ (by rwa [State.dropCopy_mem])
      · exact s.servedReq_wf _ _ _ _ _ hm
      · have staged := fun core c q need => s.stage_wf core c q need given hm
        split
        next h => rw [State.updReq_mem]; exact fst_wf h (staged _ _ _ _)
        next => exact hm
        next h =>
          have h1 := fst_wf h (staged _ _ _ _)
          exact wf_ite (by rwa [State.updReq_mem]) (wf_ite (by rwa [State.updReq_mem]) (State.servedReq_wf _ _ _ _ _ _ h1))
        next h => rw [State.faultReq_mem]; exact fst_wf h (staged _ _ _ _)
        next h =>
          have h1 := fst_wf h (staged _ _ _ _)
          refine wf_ite (State.servedReq_wf _ _ _ _ _ _ h1) ?_
          rw [State.tryPlans_mem, State.repark_mem]
          exact State.trapLanes_wf _ _ _ _ h1

theorem State.localReq_wf (s : State) (rid) (hm : Memory.wf s.m.mem) : Memory.wf (s.localReq rid).m.mem := by
  unfold State.localReq
  grind [State.servedReq_wf, State.advanceReq_wf]

theorem State.localReqs_wf (s : State) (id) (hm : Memory.wf s.m.mem) : Memory.wf (s.localReqs id).m.mem :=
  foldl_wf (fun s a h => by grind [State.localReq_wf]) hm

theorem State.setOut_wf (s : State) (id) (hm : Memory.wf s.m.mem) : Memory.wf (s.setOut id).m.mem := by
  unfold State.setOut
  rw [State.repark_mem]
  exact State.localReqs_wf _ _ (by rwa [State.formReqs_mem, State.localAttrs_mem, State.faultNonCanon_mem])

theorem State.attributeFor_wf (s : State) (id) (hm : Memory.wf s.m.mem) :
    Memory.wf (s.attributeFor id).m.mem := by
  unfold State.attributeFor
  grind [State.askAttr_mem, State.setOut_wf, State.updOp_mem, State.faultOrDrop_mem, State.faultNonCanon_mem]

/-! ## Accesses in transactions -/

theorem State.txFetch_wf (s : State) (core c a asid va) (hm : Memory.wf s.m.mem) :
    Memory.wf (s.txFetch core c a asid va).1.m.mem := by
  unfold State.txFetch
  grind [State.readAt_mem, State.countDemand_mem, State.stages_wf]

theorem State.txRead_wf (s : State) (core key c a asid ea w) (hm : Memory.wf s.m.mem) :
    Memory.wf (s.txRead core key c a asid ea w).1.m.mem := by
  unfold State.txRead
  split
  · exact hm
  · refine wf_ite_fst hm ?_
    split
    next h => exact fst_wf h (s.txFetch_wf _ _ _ _ _ hm)
    next h =>
      have h1 := fst_wf h (s.txFetch_wf _ _ _ _ _ hm)
      grind [State.sign_mem, State.updTx_mem]

theorem State.txAccess_wf (s : State) (op f core key c ea b cc) (hm : Memory.wf s.m.mem) :
    Memory.wf (s.txAccess op f core key c ea b cc).1.m.mem := by
  unfold State.txAccess
  grind [State.txWrite_mem, State.checkAddr_mem, State.txRead_wf]

/-! ## Loads and stores -/

theorem State.startLane_wf (s : State) (op f use_ g core l r) (hm : Memory.wf s.m.mem) :
    Memory.wf (s.startLane op f use_ g core l r).1.m.mem := by
  unfold State.startLane
  grind [State.txAccess_wf]

theorem State.startLanes_wf (s : State) (op f use_ g core l x) (hm : Memory.wf s.m.mem) :
    Memory.wf (s.startLanes op f use_ g core l x).1.m.mem := by
  fun_induction State.startLanes <;> grind [State.startLane_wf]

theorem State.setting_wf (s : State) (op id) (hm : Memory.wf s.m.mem) : Memory.wf (s.setting op id).m.mem := by
  unfold State.setting
  grind [State.scratchOp_wf, State.setOut_wf]

theorem State.pollAgain_wf (s : State) (id lane) (hm : Memory.wf s.m.mem) :
    Memory.wf (s.pollAgain id lane).m.mem := by
  unfold State.pollAgain
  exact State.setOut_wf _ _ (by rwa [State.updLane_mem])

theorem State.atStage_wf (s : State) (st given rid) (hm : Memory.wf s.m.mem) :
    Memory.wf (s.atStage st given rid).m.mem := by
  unfold State.atStage
  grind [State.advanceReq_wf]

/-! ## Copies -/

theorem State.leaderTrap_wf (s : State) (gid g ls l t) (hm : Memory.wf s.m.mem) :
    Memory.wf (s.leaderTrap gid g ls l t).1.m.mem := by
  simp [State.leaderTrap, hm, State.finish_wf]

theorem State.poisonLeader_wf (s : State) (id o l va) (hm : Memory.wf s.m.mem) :
    Memory.wf (s.poisonLeader id o l va).m.mem := by
  simp [State.poisonLeader, hm, State.trapLanes_wf, State.handedOut_mem, State.finishOp_wf, State.tryPlans_mem]

theorem State.copyLoad_wf (s : State) (o ag pad src n) (hm : Memory.wf s.m.mem) :
    Memory.wf (s.copyLoad o ag pad src n).1.m.mem := by
  unfold State.copyLoad
  grind [State.load_wf]

theorem State.copyLine_wf (s : State) (o ag pad m base n) (hm : Memory.wf s.m.mem) :
    Memory.wf (s.copyLine o ag pad m base n).1.m.mem := by
  unfold State.copyLine
  grind [State.copyLoad_wf, State.writePiece_wf]

theorem State.copyPart_wf (s : State) (id code) (hm : Memory.wf s.m.mem) :
    Memory.wf (s.copyPart id code).m.mem := by
  unfold State.copyPart
  split
  · exact hm
  next o _ =>
    split
    next m l _ _ =>
      extract_lets i src dst srcPad dstPad target ag fail done
      have failed (s1 : State) (e : MemErr) (w : Bool) (h : Memory.wf s1.m.mem) : Memory.wf (fail s1 e w).m.mem := by
        cases e with
        | page k a => exact (s1.faultLeader_mem id l k a w).symm ▸ h
        | poisoned a => exact s1.poisonLeader_wf id o l a h
        | held => exact hm
      have finished (s1 : State) (gone : Nat → Bool) (h : Memory.wf s1.m.mem) : Memory.wf (done s1 gone).m.mem := h
      refine wf_ite hm ?_
      have loaded := s.copyLoad_wf o ag srcPad src 16 hm
      split
      next h => exact failed _ _ _ (fst_wf h loaded)
      next s1 b h =>
        have h1 := fst_wf h loaded
        refine wf_ite ?_ ?_
        · cases target with
          | none => exact finished _ _ h1
          | some blk => exact finished _ _ (by rwa [State.writePad_mem])
        · have stored := s1.store_wf ag dst b h1
          split
          next h => exact finished _ _ (fst_wf h stored)
          next h =>
            have h2 := fst_wf h stored
            split
            · exact failed _ (.poisoned _) true h2
            · have copied := fun base n => s.copyLine_wf o ag srcPad m base n hm
              split
              next h => exact failed _ _ _ (fst_wf h (copied _ _))
              next h => exact finished _ _ (fst_wf h (copied _ _))
          next h => exact failed _ _ _ (fst_wf h stored)
    next => exact hm

theorem State.endCopy_wf (s : State) (id) (hm : Memory.wf s.m.mem) : Memory.wf (s.endCopy id).m.mem := by
  unfold State.endCopy
  grind [State.updBlock_mem, State.finishOp_wf, State.updOp_mem]

theorem State.discardPage_wf (s : State) (a) (hm : Memory.wf s.m.mem) : Memory.wf (s.discardPage a).m.mem := by
  unfold State.discardPage
  extract_lets s1 s2 mark src s3
  have h2 : Memory.wf s2.m.mem := by simpa [s2, s1] using hm
  have h3 : Memory.wf s3.m.mem := by
    unfold s3
    split
    · exact Memory.foldl_writes_wf _ _ _ h2
    · exact h2
  exact State.reclaimRecord_wf _ _ _ _ _ _ h3

theorem State.discardPages_wf (s : State) (c lo hi l) (hm : Memory.wf s.m.mem) :
    Memory.wf (s.discardPages c lo hi l).1.m.mem := by
  fun_induction State.discardPages <;> grind [State.discardPage_wf]

theorem State.discardOp_wf (s : State) (id) (hm : Memory.wf s.m.mem) : Memory.wf (s.discardOp id).m.mem := by
  unfold State.discardOp
  grind [State.finishOp_wf, State.updOp_mem, State.faultLeader_mem, State.discardPages_wf]

/-! ## Tarns -/

theorem State.takeShares_wf (s : State) (shares) (hm : Memory.wf s.m.mem) :
    Memory.wf (s.takeShares shares).m.mem :=
  foldl_wf (fun s a h => by grind [State.evictNow_wf]) hm

theorem State.acceptTarn_wf (s : State) (op d) (hm : Memory.wf s.m.mem) :
    Memory.wf (s.acceptTarn op d).m.mem := by
  unfold State.acceptTarn
  grind [State.setTdb_mem, State.takeShares_wf, State.retree_mem, State.mergeSigs_mem]

theorem State.finishWith_wf (s : State) (id res) (hm : Memory.wf s.m.mem) :
    Memory.wf (s.finishWith id res).m.mem := by
  simp [State.finishWith, hm, State.finishOp_wf, State.updOp_mem]

theorem State.tarnResult_wf (s : State) (id code t) (hm : Memory.wf s.m.mem) :
    Memory.wf (s.tarnResult id code t).m.mem := by
  simp [State.tarnResult, hm, State.finishWith_wf]

theorem State.submitTarn_wf (s : State) (id) (hm : Memory.wf s.m.mem) : Memory.wf (s.submitTarn id).m.mem := by
  unfold State.submitTarn
  split
  · exact hm
  next o _ =>
    refine wf_ite hm ?_
    split
    · exact s.finishOp_wf _ hm
    · refine wf_ite hm ?_
      extract_lets c act
      have acted (s : State) (v : TarnVerdict) (t : Nat) (h : Memory.wf s.m.mem) : Memory.wf (act s v t).m.mem := by
        cases v with
        | refused code => exact s.tarnResult_wf _ _ _ h
        | accepted d =>
          have accepted := s.acceptTarn_wf (tarnOpOf o.opc) d h
          exact wf_ite (State.tarnResult_wf _ _ _ _ accepted) accepted
      refine wf_ite (acted _ _ _ hm) (wf_ite hm ?_)
      split
      next h => rw [State.faultLeader_mem]; exact fst_wf h (s.load_wf _ _ _ hm)
      next h => exact State.poisonLeader_wf _ _ _ _ _ (fst_wf h (s.load_wf _ _ _ hm))
      next => exact hm
      next h => exact acted _ _ _ (fst_wf h (s.load_wf _ _ _ hm))

theorem State.dirCut_wf (s : State) (slice asid va line) (hm : Memory.wf s.m.mem) :
    Memory.wf (s.dirCut slice asid va line).m.mem := by
  unfold State.dirCut
  grind [State.dirRoom_wf, State.setMem_m]

theorem State.moveDir_wf (s : State) (l slice) (hm : Memory.wf s.m.mem) :
    Memory.wf (s.moveDir l slice).m.mem := by
  unfold State.moveDir
  grind [State.dirCut_wf, State.dirRoom_wf, State.setMem_m]

theorem State.moveLine_wf (s : State) (l) (hm : Memory.wf s.m.mem) : Memory.wf (s.moveLine l).m.mem := by
  unfold State.moveLine
  grind [State.moveDir_wf, State.evict_mem, State.install_mem, State.setMem_m, State.updLine_mem]

theorem State.tarnDone_wf (s : State) (t) (hm : Memory.wf s.m.mem) : Memory.wf (s.tarnDone t).m.mem :=
  foldl_wf (fun s a h => by grind [State.tarnResult_wf]) hm

theorem State.invalidateName_wf (s : State) (lines r) (hm : Memory.wf s.m.mem) :
    Memory.wf (s.invalidateName lines r).m.mem := by
  unfold State.invalidateName
  extract_lets len d s1 mine s2 drop s3
  have h1 : Memory.wf s1.m.mem :=
    wf_ite hm (State.drain_wf _ _ _ _ (foldl_wf (fun s l h => by rwa [State.evict_mem]) (by rwa [State.doom_mem])))
  have h2 : Memory.wf s2.m.mem := foldl_wf (fun s k h => s.doWriteBack_wf _ h) h1
  rw [State.snoopHarts_mem, State.invalidate_mem, State.dropCopies_mem]
  exact h2

theorem State.retireLine_wf (s : State) (unreadable l) (hm : Memory.wf s.m.mem) :
    Memory.wf (s.retireLine unreadable l).m.mem := by
  unfold State.retireLine
  grind [State.doWriteBack_wf, State.invalidate_mem, State.poisonLine_mem, State.setMem_m, State.drain_wf]

theorem State.loseLine_wf (s : State) (asid va size) (hm : Memory.wf s.m.mem) :
    Memory.wf (s.loseLine asid va size).m.mem := by
  simp only [State.loseLine, State.setMem_m, State.dropCopies_mem, State.snoopHarts_mem, State.invalidate_mem,
    State.poisonLine_mem]
  exact s.drain_wf _ _ _ hm

/-! ## Transactions -/

theorem State.validate_wf (s : State) (core c l) (hm : Memory.wf s.m.mem) :
    Memory.wf (s.validate core c l).1.m.mem := by
  fun_induction State.validate <;> grind [State.txFetch_wf]

theorem State.voteOf_wf (s : State) (slice key) (hm : Memory.wf s.m.mem) :
    Memory.wf (s.voteOf slice key).1.m.mem := by
  unfold State.voteOf
  grind [State.validate_wf]

theorem State.publishGranule_wf (s : State) (core c key b) (hm : Memory.wf s.m.mem) :
    ∀ t, s.publishGranule core c key b = some t → Memory.wf t.m.mem := by
  unfold State.publishGranule
  grind [State.readAt_mem, State.writeAt_wf, State.countDemand_mem, State.stages_wf]

theorem State.publishAll_wf (s : State) (core c key l) (hm : Memory.wf s.m.mem) :
    ∀ t, s.publishAll core c key l = some t → Memory.wf t.m.mem := by
  fun_induction State.publishAll <;> grind [State.publishGranule_wf]

/-! ## The matrix unit -/

theorem State.completeEntry_wf (s : State) (id) (hm : Memory.wf s.m.mem) :
    Memory.wf (s.completeEntry id).m.mem := by
  unfold State.completeEntry
  grind [State.serveAll_mem, State.finishOp_wf]

theorem State.dropEntry_wf (s : State) (id) (hm : Memory.wf s.m.mem) : Memory.wf (s.dropEntry id).m.mem := by
  unfold State.dropEntry
  grind [State.serveAll_mem, State.finishOp_wf]

theorem State.resetEngine_wf (s : State) (e wdog) (hm : Memory.wf s.m.mem) :
    Memory.wf (s.resetEngine e wdog).m.mem := by
  unfold State.resetEngine
  refine wf_ite hm ?_
  extract_lets blks s1 src s2 s3 s3' s4
  have h1 : Memory.wf s1.m.mem := foldl_wf (fun s p h => s.dropEntry_wf _ h) (by rwa [State.noteReset_mem])
  have h3 : Memory.wf s3.m.mem := foldl_wf (fun s p h => by rwa [State.dropInto_mem]) h1
  have h3' : Memory.wf s3'.m.mem := wf_ite (by rwa [State.raiseIntr_mem]) h3
  exact foldl_wf (fun s b h => by rwa [State.updBlock_mem]) h3'

/-! ## Flow units -/

theorem State.weirZero_wf (s : State) (w l) (hm : Memory.wf s.m.mem) : Memory.wf (s.weirZero w l).1.m.mem := by
  fun_induction State.weirZero <;> grind [State.weirPut_wf]

theorem State.weirOpen_wf (s : State) (core b c d) (hm : Memory.wf s.m.mem) :
    ∀ p, s.weirOpen core b c d = some p → Memory.wf p.1.m.mem := by
  intro p hp
  unfold State.weirOpen at hp
  split at hp
  · cases hp; exact hm
  · have pages (s : State) (lo hi) : (s.weirPages c 40000 lo hi).1.m.mem = s.m.mem := s.weirPages_mem _ _ _ _
    split at hp
    next s1 h1 =>
      have hm1 : Memory.wf s1.m.mem := fst_wf h1 (by rwa [pages])
      split at hp
      next s2 h2 =>
        have hm2 : Memory.wf s2.m.mem := fst_wf h2 (by rwa [pages])
        extract_lets die at hp
        split at hp
        · cases hp; exact hm2
        · have placed (f : Flow) (w1 n) (c : Prop) [Decidable c] :
              Memory.wf (if c then (s2.setFlow f).weirZero w1 n else (s2.setFlow f, .ok ())).1.m.mem :=
            wf_ite_fst (State.weirZero_wf _ _ _ hm2) hm2
          dsimp only at hp
          split at hp
          next h => cases hp; exact fst_wf h (placed _ _ _ _)
          next h =>
            obtain ⟨t, ht, rfl⟩ := Option.map_eq_some_iff.mp hp
            rw [State.weirFailed_mem _ _ _ _ ht]
            exact fst_wf h (placed _ _ _ _)
      next s2 k _ h2 => cases hp; exact fst_wf h2 (by rwa [pages])
    next s1 k _ h1 => cases hp; exact fst_wf h1 (by rwa [pages])

theorem State.openOp_wf (s : State) (id o) (hm : Memory.wf s.m.mem) : Memory.wf (s.openOp id o).m.mem := by
  unfold State.openOp
  split
  · refine wf_ite hm (wf_ite (s.finishWith_wf _ _ hm) ?_)
    have loaded := fun ag va => s.load_wf ag va 64 hm
    split
    next h => rw [State.faultLeader_mem]; exact fst_wf h (loaded _ _)
    next h => exact State.poisonLeader_wf _ _ _ _ _ (fst_wf h (loaded _ _))
    next => exact hm
    next h =>
      split
      · exact hm
      next r hr =>
        rw [State.stilled_mem]
        exact State.finishWith_wf _ _ _ (State.weirOpen_wf _ _ _ _ _ (fst_wf h (loaded _ _)) _ hr)
  · exact s.finishOp_wf _ hm

theorem State.finishLanes_wf (s : State) (id res) (hm : Memory.wf s.m.mem) :
    Memory.wf (s.finishLanes id res).m.mem := by
  simp [State.finishLanes, hm, State.finishOp_wf, State.updOp_mem]

theorem State.putTickets_wf (s : State) (w rec_ tails l) (hm : Memory.wf s.m.mem) :
    Memory.wf (s.putTickets w rec_ tails l).1.m.mem := by
  fun_induction State.putTickets <;> grind [State.ownStore_wf]

theorem State.acceptRecord_wf (s : State) (e w rec_) (hm : Memory.wf s.m.mem) :
    Memory.wf (s.acceptRecord e w rec_).1.m.mem := by
  unfold State.acceptRecord
  grind [State.weirHeads_wf, State.updWeir_mem, State.weirPut_wf, State.ownStore_wf, State.putTickets_wf]

theorem State.pushLanes_wf (s : State) (e full l) (hm : Memory.wf s.m.mem) :
    ∀ p, s.pushLanes e full l = some p → Memory.wf p.1.m.mem := by
  induction l generalizing s full with
  | nil => intro p hp; cases hp; exact hm
  | cons l t ih =>
    intro p hp
    unfold State.pushLanes at hp
    extract_lets rec_ go at hp
    have gone (s : State) (full : Bool) (code : Nat) (h : Memory.wf s.m.mem) (p) (hp : go s full code = some p) :
        Memory.wf p.1.m.mem := by
      obtain ⟨r, hr, rfl⟩ := Option.map_eq_some_iff.mp hp
      exact ih s full h r hr
    split at hp
    · exact gone _ _ _ hm _ hp
    · split at hp
      · exact gone _ _ _ hm _ hp
      · split at hp
        · exact gone _ _ _ hm _ hp
        · split at hp
          · exact gone _ _ _ hm _ hp
          · split at hp
            · exact gone _ _ _ hm _ hp
            · have accepted := s.acceptRecord_wf e ‹Weir› rec_ hm
              split at hp
              next h => exact gone _ _ _ (fst_wf h accepted) _ hp
              next => cases hp
              next h => exact gone _ _ _ (by rw [State.weirFault_mem]; exact fst_wf h accepted) _ hp

theorem State.pushOp_wf (s : State) (id o) (hm : Memory.wf s.m.mem) : Memory.wf (s.pushOp id o).m.mem := by
  unfold State.pushOp
  extract_lets all
  have answered (c : Nat) : Memory.wf (all c).m.mem := s.finishWith_wf _ _ hm
  split
  · exact answered _
  · refine wf_ite (answered _) (wf_ite (answered _) ?_)
    split
    · exact hm
    next r hr =>
      rw [State.stilled_mem]
      exact State.finishLanes_wf _ _ _ (s.pushLanes_wf _ _ _ hm r hr)

theorem State.releasable_wf (s : State) (w l) (hm : Memory.wf s.m.mem) :
    Memory.wf (s.releasable w l).1.m.mem := by
  fun_induction State.releasable <;> grind [State.weirHeads_wf, State.ownLoad_wf]

theorem State.endTake_wf (s : State) (id o res) (hm : Memory.wf s.m.mem) :
    Memory.wf (s.endTake id o res).m.mem := by
  unfold State.endTake
  grind [State.updBlock_mem, State.finishLanes_wf]

theorem State.serveTake_wf (s : State) (id o) (hm : Memory.wf s.m.mem) :
    Memory.wf (s.serveTake id o).1.m.mem := by
  unfold State.serveTake
  grind [State.endTake_wf, State.finishLanes_wf, State.weirFault_mem, State.updWeir_mem, State.releasable_wf, State.updOp_mem]

theorem State.takeService_wf (s : State) (l) (hm : Memory.wf s.m.mem) : Memory.wf (s.takeService l).m.mem := by
  fun_induction State.takeService <;> grind [State.serveTake_wf]

theorem State.gather_wf (s : State) (ag blk n l) (hm : Memory.wf s.m.mem) :
    Memory.wf (s.gather ag blk n l).1.m.mem := by
  fun_induction State.gather <;> grind [State.load_wf, State.writePad_mem]

theorem State.scatter_wf (s : State) (ag blk n l) (hm : Memory.wf s.m.mem) :
    Memory.wf (s.scatter ag blk n l).1.m.mem := by
  fun_induction State.scatter <;> grind [State.store_wf]

theorem State.afterMove_wf (s0 : State) (id o l r after) (hm : Memory.wf s0.m.mem) (hr : Memory.wf r.1.m.mem)
    (ha : ∀ s : State, Memory.wf s.m.mem → Memory.wf (after s).m.mem) :
    Memory.wf (s0.afterMove id o l r after).m.mem := by
  unfold State.afterMove
  split
  · exact ha r.1 hr
  · rwa [State.faultLeader_mem]
  · exact r.1.poisonLeader_wf _ _ _ _ hr
  · exact hm

theorem State.doneLanes_wf (s : State) (e w lanes) (hm : Memory.wf s.m.mem) :
    ∀ t, s.doneLanes e w lanes = some t → Memory.wf t.m.mem := by
  unfold State.doneLanes
  grind [State.weirDones_wf]

theorem State.doneOp_wf (s : State) (id o) (hm : Memory.wf s.m.mem) : Memory.wf (s.doneOp id o).m.mem := by
  unfold State.doneOp
  grind [State.doneLanes_wf, State.finishOp_wf, State.stilled_mem]

theorem State.scatterParts_wf (s : State) (w m l) (hm : Memory.wf s.m.mem) :
    Memory.wf (s.scatterParts w m l).1.m.mem := by
  fun_induction State.scatterParts <;> grind [State.ownLoad_wf]

theorem State.keepScatters_wf (s : State) (w l) (hm : Memory.wf s.m.mem) :
    ∀ t, s.keepScatters w l = some t → Memory.wf t.m.mem := by
  fun_induction State.keepScatters <;> grind [State.scatterParts_wf, State.updOp_mem]

theorem State.closeOp_wf (s : State) (id o) (hm : Memory.wf s.m.mem) : Memory.wf (s.closeOp id o).m.mem := by
  unfold State.closeOp
  grind [State.updWeir_mem, State.weirFree_mem, State.weirSettle_mem, State.keepScatters_wf, State.finishWith_wf,
    State.stilled_mem]

theorem State.addItem_wf (s : State) (secure n item) (hm : Memory.wf s.m.mem) :
    ∀ p, s.addItem secure n item = some p → Memory.wf p.1.m.mem := by
  unfold State.addItem
  grind [State.ownStore_wf, State.updList_mem]

theorem State.addItems_wf (s : State) (secure l) (hm : Memory.wf s.m.mem) :
    ∀ p, s.addItems secure l = some p → Memory.wf p.1.m.mem := by
  induction l generalizing s with
  | nil => intro p hp; cases hp; exact hm
  | cons l t ih =>
    intro p hp
    unfold State.addItems at hp
    split at hp
    · cases hp
    next r hr =>
      obtain ⟨u, hu, rfl⟩ := Option.map_eq_some_iff.mp hp
      exact ih _ (s.addItem_wf _ _ _ hm r hr) u hu

theorem State.inletAddOp_wf (s : State) (id o) (hm : Memory.wf s.m.mem) :
    Memory.wf (s.inletAddOp id o).m.mem := by
  unfold State.inletAddOp
  split
  · exact hm
  next r hr =>
    rw [State.stilled_mem]
    exact State.finishLanes_wf _ _ _ (s.addItems_wf _ _ hm r hr)

theorem State.takeItems_wf (s : State) (l x y) (hm : Memory.wf s.m.mem) :
    Memory.wf (s.takeItems l x y).1.m.mem := by
  fun_induction State.takeItems <;> grind [State.ownLoad_wf]

theorem State.inletTakeOp_wf (s : State) (id o) (hm : Memory.wf s.m.mem) :
    Memory.wf (s.inletTakeOp id o).m.mem := by
  unfold State.inletTakeOp
  grind [State.finishLanes_wf, State.finishWith_wf, State.takeItems_wf, State.stilled_mem, State.updList_mem]

theorem State.inletDoneOp_wf (s : State) (id o) (hm : Memory.wf s.m.mem) :
    Memory.wf (s.inletDoneOp id o).m.mem := by
  unfold State.inletDoneOp
  rw [State.stilled_mem]
  exact State.finishOp_wf _ _ (foldl_wf (fun s l h => by rwa [State.updList_mem]) hm)

theorem State.stillOp_wf (s : State) (id o) (hm : Memory.wf s.m.mem) : Memory.wf (s.stillOp id o).m.mem := by
  unfold State.stillOp
  grind [State.setFlow_m, State.finishWith_wf, State.stilled_mem]

theorem State.flowOp_wf (s : State) (id o) (hm : Memory.wf s.m.mem) : Memory.wf (s.flowOp id o).m.mem := by
  unfold State.flowOp
  grind [State.doneOp_wf, State.inletDoneOp_wf, State.inletTakeOp_wf, State.inletAddOp_wf, State.stillOp_wf, State.pushOp_wf,
    State.closeOp_wf, State.openOp_wf]

/-! ## Launches -/

theorem State.submitLane_wf (s : State) (id lane) (hm : Memory.wf s.m.mem) :
    Memory.wf (s.submitLane id lane).m.mem := by
  unfold State.submitLane
  grind [State.trapLanes_wf, State.faultLanes_mem, State.submitRecord_mem, State.load_wf, State.tryPlans_mem,
    State.laneResult_mem]

theorem State.queryOp_wf (s : State) (id o) (hm : Memory.wf s.m.mem) : Memory.wf (s.queryOp id o).m.mem := by
  unfold State.queryOp
  grind [State.takeWords_mem, State.finishOp_wf]

/-! ## Instruction lines -/

theorem State.entryTrap_wf (s : State) (gid g c) (hm : Memory.wf s.m.mem) :
    Memory.wf (s.entryTrap gid g c).m.mem := by
  simp [State.entryTrap, hm, State.settleHandler_wf, State.groupTrap_wf]

theorem State.entryLanes_wf (s : State) (gid g t) (hm : Memory.wf s.m.mem) :
    Memory.wf (s.entryLanes gid g t).m.mem := by
  simp [State.entryLanes, hm, State.finish_wf, State.settleHandler_wf]

theorem State.enterLine_wf (s : State) (gid g l) (hm : Memory.wf s.m.mem) :
    Memory.wf (s.enterLine gid g l).m.mem := by
  unfold State.enterLine
  grind [State.updGroup_mem, State.entryTrap_wf, State.entryLanes_wf, State.meetWait_mem]

theorem State.entryFetch_wf (s : State) (gid g) (again : State) (ok) (hm : Memory.wf s.m.mem) (ha : Memory.wf again.m.mem)
    (hok : ∀ (t : State) (l : BitVec 512), Memory.wf t.m.mem → Memory.wf (ok t l).m.mem) :
    Memory.wf (s.entryFetch gid g again ok).m.mem := by
  unfold State.entryFetch
  have fetched := fun core c at_ => s.fetch_wf core c at_ hm
  dsimp only
  split
  next h => rw [State.groupFault_mem]; exact fst_wf h (fetched _ _ _)
  next h => exact State.entryLanes_wf _ _ _ _ (fst_wf h (fetched _ _ _))
  next => exact ha
  next h => exact hok _ _ (fst_wf h (fetched _ _ _))

theorem State.leaveHandler_wf (s : State) (gid g ls r) (hm : Memory.wf s.m.mem) :
    Memory.wf (s.leaveHandler gid g ls r).1.m.mem := by
  unfold State.leaveHandler
  grind [State.finish_wf, State.after_mem, State.setCur_m, State.advance_mem]

/-! ## Saving and restoring blocks -/

theorem State.dropDirty_wf (s : State) (core asid) (hm : Memory.wf s.m.mem) :
    Memory.wf (s.dropDirty core asid).m.mem :=
  foldl_wf (fun s a h => by grind [State.doWriteBack_wf, State.setMem_m]) hm

theorem State.lateAnswers_wf (s : State) (blk) (hm : Memory.wf s.m.mem) :
    Memory.wf (s.lateAnswers blk).m.mem :=
  foldl_wf (fun s a h => by grind [State.answerOp_wf, State.setReports_m]) hm

theorem State.resume_wf (s : State) (core blk) (hm : Memory.wf s.m.mem) :
    Memory.wf (s.resume core blk).m.mem := by
  unfold State.resume
  split
  · extract_lets e first gs recs buddy win n s1 s2 s3 s4 s5 s6 s7 s8
    have h1 : Memory.wf s1.m.mem := by rwa [State.updBlock_mem, State.newId_mem]
    have h2 : Memory.wf s2.m.mem := by
      unfold s2
      split
      · exact h1
      · exact h1
    have h5 : Memory.wf s5.m.mem := by
      have h4 : Memory.wf s4.m.mem := by rwa [State.setLocks_m, State.giveRecords_mem]
      exact wf_ite (by rwa [State.placeWeirs_mem]) h4
    have h7 : Memory.wf s7.m.mem := State.lateAnswers_wf _ _ (by rwa [State.checkCoves_mem, State.thaw_mem, State.updCore_mem])
    have h8 : Memory.wf s8.m.mem := by
      rw [State.tryPlans_mem]
      exact foldl_wf (fun s g h => s.tryAnswers_wf _ h) h7
    rw [State.refreshLaunch_mem, State.startSlice_mem]
    exact foldl_wf (fun s p h => s.setting_wf _ _ h) h8
  · exact hm

theorem State.resumeAll_wf (s : State) (core l) (hm : Memory.wf s.m.mem) :
    Memory.wf (s.resumeAll core l).m.mem := by
  fun_induction State.resumeAll <;> grind [State.resume_wf]

theorem State.remapCore_wf (s : State) (core) (hm : Memory.wf s.m.mem) : Memory.wf (s.remapCore core).m.mem := by
  unfold State.remapCore
  grind [State.updCore_mem, State.resumeAll_wf]

theorem State.endSave_wf (s : State) (blk) (hm : Memory.wf s.m.mem) : Memory.wf (s.endSave blk).m.mem := by
  unfold State.endSave
  grind [State.freeze_mem, State.killLaunch_mem, State.refreshLaunch_mem, State.updBlock_mem, State.dropDirty_wf,
    State.saveBytes_mem, State.recordOps_mem, State.saveWeirs_mem, State.endAborts_mem, State.remapCore_wf]

theorem State.ctxOp_wf (s : State) (id o) (hm : Memory.wf s.m.mem) : Memory.wf (s.ctxOp id o).m.mem := by
  unfold State.ctxOp
  grind [State.finishWith_wf]

/-! ## Placement -/

theorem State.memberTake_wf (s : State) (core i k saved p) (hm : Memory.wf s.m.mem) :
    Memory.wf (s.memberTake core i k saved p).m.mem := by
  unfold State.memberTake
  grind [State.resume_wf, State.placeNew_mem, State.endClaim_mem]

theorem State.takeAll_wf (s : State) (i saved p l x) (hm : Memory.wf s.m.mem) :
    Memory.wf (s.takeAll i saved p l x).m.mem := by
  fun_induction State.takeAll <;> grind [State.memberTake_wf]

theorem State.withReserved_wf (s : State) (tier) (hm : Memory.wf s.m.mem) :
    Memory.wf (s.withReserved tier).m.mem :=
  foldl_wf (fun s a h => by grind [State.takeAll_wf]) hm

theorem State.reservedView_wf (s : State) (tier) (hm : Memory.wf s.m.mem) :
    Memory.wf (s.reservedView tier).m.mem := by
  unfold State.reservedView
  grind [State.withReserved_wf]

theorem State.placeSome_wf (s : State) (core i l) (hm : Memory.wf s.m.mem) :
    Memory.wf (s.placeSome core i l).m.mem := by
  fun_induction State.placeSome <;> grind [State.newGang_mem, State.placeNew_mem, State.reservedView_wf, State.endClaim_mem]

theorem State.placeGang_wf (s : State) (i size traffic cores) (hm : Memory.wf s.m.mem) :
    Memory.wf (s.placeGang i size traffic cores).m.mem := by
  simp [State.placeGang, hm, State.newGang_mem, State.updLaunch_mem, State.takeAll_wf]

theorem State.gangLook_wf (s : State) (core w) (hm : Memory.wf s.m.mem) :
    Memory.wf (s.gangLook core w).m.mem := by
  unfold State.gangLook
  grind [State.placeGang_wf, State.updGang_mem, State.withReserved_wf]

theorem State.reserveGangs_wf (s : State) (core) (hm : Memory.wf s.m.mem) :
    Memory.wf (s.reserveGangs core).m.mem := foldl_wf (fun s w h => s.gangLook_wf _ _ h) (by rwa [State.assignDie_mem])

theorem State.pull_wf (s0 : State) (core) (hm : Memory.wf s0.m.mem) : Memory.wf (s0.pull core).m.mem := by
  unfold State.pull
  grind [State.reserveGangs_wf, State.resume_wf, State.setLaunches_m, State.updLaunch_mem, State.endClaim_mem,
    State.placeSome_wf]

theorem State.takeAny_wf (s : State) (core i l) (hm : Memory.wf s.m.mem) :
    Memory.wf (s.takeAny core i l).m.mem := by
  unfold State.takeAny
  grind [State.resume_wf, State.placeNew_mem]

theorem State.pressClaims_wf (s : State) (i l) (hm : Memory.wf s.m.mem) :
    Memory.wf (s.pressClaims i l).m.mem :=
  foldl_wf (fun s a h => by grind [State.reservedView_wf, State.beginSave_mem]) hm

theorem State.claim_wf (s : State) (i) (hm : Memory.wf s.m.mem) : Memory.wf (s.claim i).m.mem := by
  unfold State.claim
  grind [State.reservedView_wf, State.takeAny_wf, State.makeClaims_mem, State.pressClaims_wf]

theorem State.expire_wf (s : State) (i) (hm : Memory.wf s.m.mem) : Memory.wf (s.expire i).m.mem := by
  unfold State.expire
  split
  · exact hm
  · split
    · exact hm
    · refine wf_ite hm (wf_ite ?_ (by rwa [State.updLaunch_mem]))
      rw [State.updLaunch_mem]
      exact foldl_wf (fun s b h => by rwa [State.beginSave_mem]) hm

/-! ## Fault records -/

theorem State.answer_wf (s : State) (seq action) (hm : Memory.wf s.m.mem) :
    Memory.wf (s.answer seq action).m.mem := by
  unfold State.answer
  grind [State.answerOp_wf, State.answerGroup_wf, State.setReports_m, State.dropReport_mem]

theorem State.writeRecord_wf (s0 : State) (hm : Memory.wf s0.m.mem) : Memory.wf s0.writeRecord.m.mem := by
  unfold State.writeRecord
  grind [State.setReports_m, State.faultPeek_mem, State.ctrlWrite_wf, State.dropReport_mem, State.raiseIntr_mem]

/-! ## Collectives -/

theorem State.putGranules_wf (s : State) (ag va l x) (hm : Memory.wf s.m.mem) :
    ∀ p, s.putGranules ag va l x = some p → Memory.wf p.1.m.mem := by
  fun_induction State.putGranules <;> grind [State.store_wf]

theorem State.putResult_wf (s : State) (n r off b) (hm : Memory.wf s.m.mem) :
    ∀ p, s.putResult n r off b = some p → Memory.wf p.1.m.mem := by
  intro p hp
  unfold State.putResult at hp
  have put := s.putGranules_wf r.agent (r.addr + off) (b.length / 16) b hm
  split at hp
  · cases hp
  next h => cases hp; exact put _ h
  next h => cases hp; rw [State.roundFault_mem]; exact put _ h

theorem State.collAccept_wf (s : State) (id o) (hm : Memory.wf s.m.mem) :
    Memory.wf (s.collAccept id o).m.mem := by
  unfold State.collAccept
  grind [State.updSlot_mem, State.faultLanes_mem, State.load_wf, State.finishWith_wf, State.finishOp_wf, State.endRound_mem,
    State.roundFault_mem, State.beginRound_mem]

theorem State.takeInput_wf (s : State) (n sender r b) (hm : Memory.wf s.m.mem) :
    ∀ t, s.takeInput n sender r b = some t → Memory.wf t.m.mem := by
  intro t ht
  unfold State.takeInput at ht
  extract_lets r1 sg res at ht
  split at ht
  · cases ht; rwa [State.updRound_mem]
  · have put := s.putResult_wf n r1 sg.1 res hm
    split at ht
    · cases ht
    next h => cases ht; rw [State.roundDone_mem, State.tellPart_mem, State.updRound_mem]; exact put _ h
    next h => cases ht; exact put _ h

theorem State.takeResult_wf (s : State) (n sender r off b) (hm : Memory.wf s.m.mem) :
    ∀ t, s.takeResult n sender r off b = some t → Memory.wf t.m.mem := by
  intro t ht
  unfold State.takeResult at ht
  have put := s.putResult_wf n r off b hm
  split at ht
  · cases ht
  next h => cases ht; rw [State.roundDone_mem, State.updRound_mem]; exact put _ h
  next h => cases ht; exact put _ h

theorem State.takePart_wf (s : State) (n r sender h result b) (hm : Memory.wf s.m.mem) :
    ∀ t, s.takePart n r sender h result b = some t → Memory.wf t.m.mem := by
  unfold State.takePart
  grind [State.takeResult_wf, State.takeInput_wf, State.endRound_mem]

theorem getD_wf {o : Option State} {s : State} (ho : ∀ t, o = some t → Memory.wf t.m.mem) (hm : Memory.wf s.m.mem) :
    Memory.wf (o.getD s).m.mem := by
  cases o with
  | none => exact hm
  | some t => exact ho t rfl

theorem State.collPart_wf (s : State) (n seq sender h result b) (hm : Memory.wf s.m.mem) :
    Memory.wf (s.collPart n seq sender h result b).m.mem := by
  unfold State.collPart
  dsimp only
  split
  · exact wf_ite (by rwa [State.keepMail_mem]) hm
  · exact getD_wf (s.takePart_wf _ _ _ _ _ _ hm) (by rwa [State.keepMail_mem])

theorem State.collWaitOp_wf (s : State) (id o) (hm : Memory.wf s.m.mem) :
    Memory.wf (s.collWaitOp id o).m.mem := by
  unfold State.collWaitOp
  grind [State.trapLanes_wf, State.finishWith_wf, State.finishOp_wf, State.tryPlans_mem]

theorem State.endReform_wf (s : State) (n r) (hm : Memory.wf s.m.mem) : Memory.wf (s.endReform n r).m.mem := by
  unfold State.endReform
  grind [State.updSlot_mem, State.setComm_mem, State.finishWith_wf]

theorem State.stepReform_wf (s : State) (n late l) (hm : Memory.wf s.m.mem) :
    Memory.wf (s.stepReform n late l).m.mem := by
  fun_induction State.stepReform <;> grind [State.updSlot_mem, State.endReform_wf, State.tell_mem]

theorem State.collReformOp_wf (s : State) (id o) (hm : Memory.wf s.m.mem) :
    Memory.wf (s.collReformOp id o).m.mem := by
  unfold State.collReformOp
  grind [State.updSlot_mem, State.finishOp_wf, State.stepReform_wf, State.tell_mem]

theorem State.collSet_wf (s : State) (n sender set) (hm : Memory.wf s.m.mem) :
    Memory.wf (s.collSet n sender set).m.mem := by
  unfold State.collSet
  grind [State.updSlot_mem, State.keepMail_mem, State.stepReform_wf]

theorem State.openMail_wf (s : State) (n l) (hm : Memory.wf s.m.mem) : Memory.wf (s.openMail n l).m.mem := by
  cases l with
  | part seq sender h result b => exact s.collPart_wf _ _ _ _ _ _ hm
  | abort seq silent fault => exact (s.collAbort_mem n seq silent fault).symm ▸ hm
  | set sender set => exact s.collSet_wf _ _ _ hm

theorem State.settleSlotMail_wf (s : State) (n) (hm : Memory.wf s.m.mem) :
    Memory.wf (s.settleSlotMail n).m.mem :=
  foldl_wf (fun s a h => by grind [State.updSlot_mem, State.openMail_wf]) hm

theorem State.settleMail_wf (s : State) (hm : Memory.wf s.m.mem) : Memory.wf s.settleMail.m.mem :=
  foldl_wf (fun s a h => by grind [State.settleSlotMail_wf]) hm

theorem State.collOp_wf (s : State) (id o) (hm : Memory.wf s.m.mem) : Memory.wf (s.collOp id o).m.mem := by
  unfold State.collOp
  grind [State.collReformOp_wf, State.collAccept_wf, State.collWaitOp_wf]

/-! ## Completion -/

theorem State.endOp_wf (s : State) (id o) (hm : Memory.wf s.m.mem) : Memory.wf (s.endOp id o).m.mem := by
  unfold State.endOp
  grind [State.finishOp_wf, State.tryPlans_mem]

theorem State.unitOp_wf (s : State) (id o) (hm : Memory.wf s.m.mem) : Memory.wf (s.unitOp id o).m.mem := by
  unfold State.unitOp
  grind [State.discardOp_wf, State.collOp_wf, State.ctxOp_wf, State.flowOp_wf, State.submitTarn_wf, State.queryOp_wf]

theorem State.complete_wf (s : State) (id) (hm : Memory.wf s.m.mem) : Memory.wf (s.complete id).m.mem := by
  unfold State.complete
  grind [State.unitOp_wf, State.endOp_wf, State.finishOp_wf, State.tryPlans_mem]

/-! ## Host harts -/

theorem State.noteOwned_wf (s : State) (a asid va agent) (hm : Memory.wf s.m.mem) :
    Memory.wf (s.noteOwned a asid va agent).m.mem := by
  unfold State.noteOwned
  grind [State.dirNote_wf]

theorem HostRead.ofTx_ne_ok (va e t b) : HostRead.ofTx va e ≠ .ok t b := by
  cases e <;> exact nofun

theorem State.hostTxPart_wf (s : State) (h va n acc) (hm : Memory.wf s.m.mem) :
    ∀ t b, s.hostTxPart h va n acc = .ok t b → Memory.wf t.m.mem := by
  intro t b ht
  unfold State.hostTxPart at ht
  dsimp only at ht
  split at ht
  · cases ht
  next s1 a h1 =>
    have hm1 : Memory.wf s1.m.mem := fst_wf h1 (by rwa [State.checkAddr_mem])
    split at ht
    next => exact absurd ht (HostRead.ofTx_ne_ok _ _ _ _)
    · split at ht
      · cases ht
      · have fetched := fun id c asid at_ => s1.txFetch_wf id c a asid at_ hm1
        split at ht
        next => exact absurd ht (HostRead.ofTx_ne_ok _ _ _ _)
        next h2 _ => cases ht; exact fst_wf h2 (fetched _ _ _ _)
        next h2 _ =>
          have hm2 := fst_wf h2 (fetched _ _ _ _)
          cases ht
          rw [State.updHart_mem]
          refine wf_ite (State.noteOwned_wf _ _ _ _ _ ?_) ?_
          · rwa [State.invalidate_mem, State.snoopHarts_mem]
          · rwa [State.snoopHarts_mem]

theorem State.hostTxParts_wf (s : State) (h acc l) (hm : Memory.wf s.m.mem) :
    ∀ t b, s.hostTxParts h acc l = .ok t b → Memory.wf t.m.mem := by
  fun_induction State.hostTxParts <;> grind [State.hostTxPart_wf]

theorem State.physRead_wf (s : State) (pa n) (hm : Memory.wf s.m.mem) :
    ∀ t b, s.physRead pa n = .ok t b → Memory.wf t.m.mem := by
  unfold State.physRead
  grind [State.freeBytes_mem, State.ctrlRead_mem]

theorem State.physWrite_wf (s : State) (who pa b) (hm : Memory.wf s.m.mem) :
    ∀ t b', s.physWrite who pa b = .ok t b' → Memory.wf t.m.mem := by
  unfold State.physWrite
  grind [State.ctrlWrite_wf]

theorem State.hostRead_wf (s : State) (h va n acc) (hm : Memory.wf s.m.mem) :
    ∀ t b, s.hostRead h va n acc = .ok t b → Memory.wf t.m.mem := by
  unfold State.hostRead
  grind [State.hostTxParts_wf, State.physRead_wf, State.checkRange_wf, State.readPieces_wf]

theorem State.hostWrite_wf (s : State) (h va b) (hm : Memory.wf s.m.mem) :
    ∀ t b', s.hostWrite h va b = .ok t b' → Memory.wf t.m.mem := by
  unfold State.hostWrite
  grind [State.hostTxParts_wf, State.hostTxPut_mem, State.physWrite_wf, State.checkRange_wf, State.writePieces_wf]

theorem State.hostStop_wf (s : State) (h store r) (hm : Memory.wf s.m.mem) (hr : ∀ t b, r = .ok t b → Memory.wf t.m.mem) :
    Memory.wf (s.hostStop h store r).m.mem := by
  cases r with
  | ok t b => exact hr t b rfl
  | fail e => exact (s.hostFail_mem h store e).symm ▸ hm
  | abort c => exact (s.abortHost_mem h c 0).symm ▸ hm

theorem State.firstHalf_wf (s : State) (h va n acc part) (hm : Memory.wf s.m.mem)
    (hp : ∀ (s : State) (upper : Bool), Memory.wf s.m.mem → ∀ t b, part s upper = .ok t b → Memory.wf t.m.mem) :
    Memory.wf (s.firstHalf h va n acc part).m.mem := by
  unfold State.firstHalf
  split
  · rwa [State.hostFail_mem]
  next h =>
    have h1 := fst_wf h (s.checkRange_wf _ _ _ hm)
    dsimp only
    split
    next h2 => rw [State.updHart_mem]; refine hp _ _ ?_ _ _ h2; exact h1
    next r hr => exact s.hostStop_wf _ _ _ hm (fun t b h2 => absurd h2 (hr t b))

theorem State.hostLoad_wf (s : State) (h va n ok) (hm : Memory.wf s.m.mem)
    (hok : ∀ (t : State) (b : List Byte), Memory.wf t.m.mem → Memory.wf (ok t b).m.mem) :
    Memory.wf (s.hostLoad h va n ok).m.mem := by
  unfold State.hostLoad
  extract_lets p part
  have hpart (s : State) (upper : Bool) (h : Memory.wf s.m.mem) (t b) (ht : part s upper = .ok t b) : Memory.wf t.m.mem := by
    unfold part at ht
    split at ht
    next hp => cases ht; exact fst_wf hp (s.readPieces_wf _ _ _ h)
    next => cases ht
  refine wf_ite ?_ ?_
  · split
    next h1 => exact hok _ _ (s.hostRead_wf _ _ _ _ hm _ _ h1)
    next r hr => exact s.hostStop_wf _ _ _ hm (fun t b h2 => absurd h2 (hr t b))
  · split
    · split
      next h1 => exact hok _ _ (hpart _ _ hm _ _ h1)
      next r hr => exact s.hostStop_wf _ _ _ hm (fun t b h2 => absurd h2 (hr t b))
    · exact s.firstHalf_wf _ _ _ _ _ hm hpart

theorem State.hostStore_wf (s : State) (h va data ok) (hm : Memory.wf s.m.mem)
    (hok : ∀ t : State, Memory.wf t.m.mem → Memory.wf (ok t).m.mem) :
    Memory.wf (s.hostStore h va data ok).m.mem := by
  unfold State.hostStore
  extract_lets p part
  have hpart (s : State) (upper : Bool) (h : Memory.wf s.m.mem) (t b) (ht : part s upper = .ok t b) : Memory.wf t.m.mem := by
    unfold part at ht
    split at ht
    next hp => cases ht; exact fst_wf hp (s.writePieces_wf _ _ _ _ h)
    next => cases ht
  refine wf_ite ?_ ?_
  · split
    next h1 => exact hok _ (s.hostWrite_wf _ _ _ hm _ _ h1)
    next r hr => exact s.hostStop_wf _ _ _ hm (fun t b h2 => absurd h2 (hr t b))
  · split
    · split
      next h1 => exact hok _ (hpart _ _ hm _ _ h1)
      next r hr => exact s.hostStop_wf _ _ _ hm (fun t b h2 => absurd h2 (hr t b))
    · exact s.firstHalf_wf _ _ _ _ _ hm hpart

theorem State.hostAccess_wf (s : State) (h store f3 reg va len) (hm : Memory.wf s.m.mem) :
    Memory.wf (s.hostAccess h store f3 reg va len).m.mem := by
  unfold State.hostAccess
  exact wf_ite (s.hostStore_wf _ _ _ _ hm fun t h => by rwa [State.updHart_mem])
    (s.hostLoad_wf _ _ _ _ hm fun t b h => by rwa [State.updHart_mem])

theorem State.hostParcel_wf (s : State) (h va) (hm : Memory.wf s.m.mem) :
    Memory.wf (s.hostParcel h va).1.m.mem := by
  unfold State.hostParcel
  split
  · split
    next h => exact s.physRead_wf _ _ hm _ _ h
    · exact hm
    · exact hm
  · split
    next h => exact fst_wf h (s.readPieces_wf _ _ _ hm)
    · exact hm

/-! ## The node -/

theorem State.startFirmware_wf (s : State) (boot) (hm : Memory.wf s.m.mem) :
    Memory.wf (s.startFirmware boot).m.mem := by
  unfold State.startFirmware
  refine wf_ite hm ?_
  rw [State.startHart_mem]
  exact Memory.writes_wf _ _ _ hm

theorem State.recallOwn_wf (s : State) (pa exclusive) (hm : Memory.wf s.m.mem) :
    ∀ t, s.recallOwn pa exclusive = some t → Memory.wf t.m.mem := by
  unfold State.recallOwn
  refine List.foldlRecOn (motive := fun a : Option State => ∀ t, a = some t → Memory.wf t.m.mem = true) _ _ ?_ ?_
  · intro t ht
    cases ht
    exact s.drainAll_wf hm
  · intro a ha p _ t ht
    obtain ⟨s1, h1, ht⟩ := Option.bind_eq_some_iff.mp ht
    have hm1 := ha s1 h1
    dsimp only at ht
    split at ht
    · cases ht
    · cases ht
      refine wf_ite (State.doWriteBack_wf _ _ ?_) ?_ <;> exact wf_ite (by rwa [State.noteWrite_mem])
        (by rwa [State.noteOthers_mem, State.cleanCopies_mem, State.snoopHarts_mem])

theorem State.pcieWrite_wf (s : State) (port a data) (hm : Memory.wf s.m.mem) :
    ∀ t, s.pcieWrite port a data = some t → Memory.wf t.m.mem := by
  unfold State.pcieWrite
  grind [State.pcieDone_mem, State.store_wf, State.raiseIntr_mem]

theorem State.pcieReadIn_wf (s : State) (port a len) (hm : Memory.wf s.m.mem) :
    ∀ t, s.pcieReadIn port a len = some t → Memory.wf t.m.mem := by
  unfold State.pcieReadIn
  grind [State.pcieDone_mem, State.load_wf]

theorem State.descriptorDone_wf (s : State) (pa d status prio len) (hm : Memory.wf s.m.mem) :
    Memory.wf (s.descriptorDone pa d status prio len).m.mem := by
  simp [State.descriptorDone, hm, State.ctrlWrite_wf, State.raiseIntr_mem]

theorem State.ethFrameIn_wf (s0 : State) (port prio fcsOk frame) (hm : Memory.wf s0.m.mem) :
    ∀ t, s0.ethFrameIn port prio fcsOk frame = some t → Memory.wf t.m.mem := by
  unfold State.ethFrameIn
  grind [State.setEth_mem, State.store_wf, State.descriptor_mem, State.descriptorDone_wf]

theorem State.takeInbound_wf (s : State) (l) (hm : Memory.wf s.m.mem) :
    ∀ t, s.takeInbound l = some t → Memory.wf t.m.mem := by
  unfold State.takeInbound
  grind [State.pcieReadIn_wf, State.ethFrameIn_wf, State.pcieWrite_wf]

theorem State.arriveInbound_wf (s : State) (m) (hm : Memory.wf s.m.mem) :
    Memory.wf (s.arriveInbound m).m.mem := by
  unfold State.arriveInbound
  exact wf_ite hm (getD_wf (s.takeInbound_wf _ hm) hm)

theorem State.settleInbound_wf (s : State) (hm : Memory.wf s.m.mem) : Memory.wf s.settleInbound.m.mem :=
  foldl_wf (fun s a h => by grind [State.arriveInbound_wf, State.setNode_m]) hm

/-! ## Base instructions of the harts -/

theorem State.rvFloat_wf (s : State) (h w len) (hm : Memory.wf s.m.mem) :
    Memory.wf (s.rvFloat h w len).m.mem := by
  unfold State.rvFloat
  exact wf_ite (s.hostLoad_wf _ _ _ _ hm fun t b h => by rwa [State.updHart_mem])
    (s.hostStore_wf _ _ _ _ hm fun t h => by rwa [State.updHart_mem])

theorem State.rvExec_wf (s : State) (h w len) (hm : Memory.wf s.m.mem) :
    ∀ t, s.rvExec h w len = some t → Memory.wf t.m.mem := by
  intro t ht
  unfold State.rvExec at ht
  extract_lets k rd a b f3 pc go at ht
  have went (k n) : Memory.wf (go k n).m.mem := by rwa [State.updHart_mem]
  split at ht
  · cases ht; exact went _ _
  · cases ht; exact went _ _
  · cases ht; exact went _ _
  · split at ht <;> cases ht; exact went _ _
  · split at ht <;> cases ht; exact went _ _
  · split at ht <;> cases ht; exact s.hostAccess_wf _ _ _ _ _ _ hm
  · split at ht <;> cases ht; exact s.hostAccess_wf _ _ _ _ _ _ hm
  · split at ht <;> cases ht; exact s.rvFloat_wf _ _ _ hm
  · split at ht <;> cases ht; exact s.rvFloat_wf _ _ _ hm
  · split at ht <;> cases ht; exact went _ _
  · split at ht
    · rwa [s.rvSystem_mem _ _ _ _ ht]
    · split at ht
      · cases ht
      · cases ht
        split
        · rwa [State.updHart_mem]
        · rwa [State.raise_mem]
  · obtain ⟨v, -, rfl⟩ := Option.map_eq_some_iff.mp ht
    exact went _ _

theorem State.rvStep_wf (s : State) (h w) (hm : Memory.wf s.m.mem) :
    ∀ t, s.rvStep h w = some t → Memory.wf t.m.mem := by
  intro t ht
  unfold State.rvStep at ht
  split at ht
  · exact s.rvExec_wf _ _ _ hm t ht
  · obtain ⟨e, -, ht⟩ := Option.bind_eq_some_iff.mp ht
    exact s.rvExec_wf _ _ _ hm t ht

theorem State.baseLoads_wf (s : State) (h l) (hm : Memory.wf s.m.mem) : Memory.wf (s.baseLoads h l).1.m.mem := by
  fun_induction State.baseLoads <;> grind [State.hostRead_wf]

theorem State.baseLoads_error_wf (s : State) (h l r) (hm : Memory.wf s.m.mem) (hr : (s.baseLoads h l).2 = .error r) :
    ∀ t b, r = .ok t b → Memory.wf t.m.mem := by
  fun_induction State.baseLoads <;> grind [State.hostRead_wf]

/-- What a fetch of a host leaves: canonical memory, where it gives a state. -/
def HostFetch.keeps : HostFetch → Prop
  | .word t _ => Memory.wf t.m.mem
  | .took t => Memory.wf t.m.mem

/-! ## Host harts -/

theorem State.fetchFail_wf (s : State) (h e) (hm : Memory.wf s.m.mem) : (s.fetchFail h e).keeps := by
  cases e with
  | page k va => exact (congrArg Memory.wf (s.raise_mem h 12 va)).trans hm
  | poisoned va => exact (congrArg Memory.wf (s.raise_mem h 1 va)).trans hm
  | held => exact hm

theorem State.hostFetch_wf (s : State) (h) (hm : Memory.wf s.m.mem) : (s.hostFetch h).keeps := by
  unfold State.hostFetch
  dsimp only
  split
  · exact s.fetchFail_wf _ _ hm
  next h1 =>
    have hm1 := fst_wf h1 (s.hostParcel_wf _ _ hm)
    split
    · exact hm1
    · split
      · exact s.fetchFail_wf _ _ hm
      next h2 => exact fst_wf h2 (State.hostParcel_wf _ _ _ hm1)

/-! ## Base instructions of the harts -/

theorem State.baseStores_wf (s : State) (h l) (hm : Memory.wf s.m.mem) :
    ∀ t b, s.baseStores h l = .ok t b → Memory.wf t.m.mem := by
  fun_induction State.baseStores <;> grind [State.hostWrite_wf]

theorem State.hostBase_wf (s : State) (h exc loads stores e) (hm : Memory.wf s.m.mem) :
    Memory.wf (s.hostBase h exc loads stores e).m.mem := by
  unfold State.hostBase
  refine wf_ite hm ?_
  have fetched := s.hostFetch_wf h hm
  split
  next h1 => rw [h1] at fetched; exact fetched
  next s1 _ h1 =>
    rw [h1] at fetched
    have hm1 : Memory.wf s1.m.mem := fetched
    refine wf_ite hm ?_
    split
    · rwa [State.raise_mem]
    · have loaded := s1.baseLoads_wf h loads hm1
      split
      next r h2 => exact s1.hostStop_wf h false r hm1 (s1.baseLoads_error_wf h loads r hm1 (by rw [h2]))
      next s2 got h2 =>
        split
        next h3 => rw [State.updHart_mem]; exact s2.baseStores_wf _ _ (fst_wf h2 loaded) _ _ h3
        next r hr => exact s1.hostStop_wf h true _ hm1 (fun t b h3 => (hr t b h3).elim)

/-! ## Turns -/

theorem State.settleAnswers_wf (s : State) (hm : Memory.wf s.m.mem) : Memory.wf s.settleAnswers.m.mem :=
  foldl_wf (fun s a h => by grind [State.tryAnswers_wf]) hm

theorem State.settleReqs_wf (s : State) (hm : Memory.wf s.m.mem) : Memory.wf s.settleReqs.m.mem :=
  foldl_wf (fun s a h => by grind [State.localReq_wf]) hm

theorem State.settleCores_wf (s : State) (hm : Memory.wf s.m.mem) : Memory.wf s.settleCores.m.mem :=
  foldl_wf (fun s a h => by grind [State.remapCore_wf]) hm

theorem State.settleTraps_wf (s : State) (hm : Memory.wf s.m.mem) : Memory.wf s.settleTraps.m.mem :=
  foldl_wf (fun s a h => by grind [State.retryTraps_wf]) hm

theorem State.settle_wf (s0 : State) (s : State) (hm : Memory.wf s.m.mem) : Memory.wf (s0.settle s).m.mem := by
  have flowed (t : State) (h : Memory.wf t.m.mem) : Memory.wf t.flowSettle.m.mem := by rwa [State.flowSettle_mem]
  have posted (t : State) (h : Memory.wf t.m.mem) : Memory.wf t.settleFirmware.postRecorded.m.mem := by
    rwa [State.postRecorded_mem, State.settleFirmware_mem]
  have reqs := State.settleReqs_wf _ (State.scratchAll_wf _ (State.settleTraps_wf _ (s.settleAnswers_wf hm)))
  have mailed := State.settleInbound_wf _ (State.settleMail_wf _ (State.freeHeld_wf _ (flowed _ reqs)))
  have h2 (blks : List Nat) (t : State) (h : Memory.wf t.m.mem) :
      Memory.wf (blks.foldl State.checkCoves (blks.foldl State.settleBars t)).m.mem :=
    foldl_wf (fun s b h => by rwa [State.checkCoves_mem]) (foldl_wf (fun s b h => by rwa [State.settleBars_mem]) h)
  unfold State.settle
  rw [State.stilled_mem, State.dropIrq_mem, State.settleWaits_mem, State.settleQueries_mem, State.settleCommand_mem]
  refine State.settleCores_wf _ ?_
  rw [State.settleHeld_mem]
  exact h2 _ _ (posted _ mailed)

end Sys2Proof.Machine
end

section
/-! SUPPORT. The shared shapes of instructions keep the canonical form of memory, and so do the instructions and
events with a shape of their own. -/

namespace Sys2Proof.Machine

/-- Where the machine goes on, its memory is in canonical form. -/
def KeepsMemory (r : Result) : Prop := ∀ t, r = .next t → Memory.wf t.m.mem

theorem keepsMemory_next {s : State} (h : Memory.wf s.m.mem) : KeepsMemory (.next s) := by
  rintro t ⟨⟩
  exact h

theorem keepsMemory_ite {c : Prop} [Decidable c] {a b : Result} (ha : KeepsMemory a) (hb : KeepsMemory b) :
    KeepsMemory (if c then a else b) := by
  split <;> assumption

/-! ## The shared shapes of instructions -/

theorem State.issue_keeps (s : State) (op : Nat) (f : Slot) {body : Nat → Group → List LaneV → After}
    (hm : Memory.wf s.m.mem) (hb : ∀ gid g ls, Memory.wf (body gid g ls).1.m.mem) : KeepsMemory (s.issue op f body) := by
  unfold State.issue
  split
  · exact keepsMemory_next hm
  · dsimp only
    split
    · exact keepsMemory_next (s.takePending_wf _ _ _ _ hm)
    · split
      · exact keepsMemory_next (s.settleHandler_wf _ _ _ hm (s.groupTrap_wf _ _ _ _ hm))
      · exact keepsMemory_next (s.settleSlot_wf _ _ _ _ _ hm (hb _ _ _))

theorem State.lanewise_keeps (s : State) (op : Nat) (f : Slot) (eff) (hm : Memory.wf s.m.mem) :
    KeepsMemory (s.lanewise op f eff) := by
  refine s.issue_keeps _ _ hm fun gid g ls => ?_
  grind [State.after_mem, State.advance_mem, State.eachLane_mem, State.groupTrap_wf]

theorem State.lanewiseD_keeps (s : State) (op : Nat) (f : Slot) (w val) (hm : Memory.wf s.m.mem) :
    KeepsMemory (s.lanewiseD op f w val) := s.lanewise_keeps _ _ _ hm

theorem State.lanewiseP_keeps (s : State) (op : Nat) (f : Slot) (val) (hm : Memory.wf s.m.mem) :
    KeepsMemory (s.lanewiseP op f val) := s.lanewise_keeps _ _ _ hm

theorem State.intOp_keeps (s : State) (op : Nat) (f : Slot) (exact) (hm : Memory.wf s.m.mem) :
    KeepsMemory (s.intOp op f exact) := s.lanewiseD_keeps _ _ _ _ hm

theorem State.bitOp_keeps (s : State) (op : Nat) (f : Slot) (g) (hm : Memory.wf s.m.mem) :
    KeepsMemory (s.bitOp op f g) := s.lanewiseD_keeps _ _ _ _ hm

theorem State.shiftOp_keeps (s : State) (op : Nat) (f : Slot) (g) (hm : Memory.wf s.m.mem) :
    KeepsMemory (s.shiftOp op f g) := s.lanewiseD_keeps _ _ _ _ hm

theorem State.unaryOp_keeps (s : State) (op : Nat) (f : Slot) (n g) (hm : Memory.wf s.m.mem) :
    KeepsMemory (s.unaryOp op f n g) := s.lanewiseD_keeps _ _ _ _ hm

theorem State.floatBits_keeps (s : State) (op : Nat) (f : Slot) (g) (hm : Memory.wf s.m.mem) :
    KeepsMemory (s.floatBits op f g) := s.lanewiseD_keeps _ _ _ _ hm

theorem State.floatOp_keeps (s : State) (op : Nat) (f : Slot) (exact) (hm : Memory.wf s.m.mem) :
    KeepsMemory (s.floatOp op f exact) := s.lanewise_keeps _ _ _ hm

theorem State.predOp_keeps (s : State) (op : Nat) (f : Slot) (g) (hm : Memory.wf s.m.mem) :
    KeepsMemory (s.predOp op f g) := s.lanewiseP_keeps _ _ _ hm

theorem State.acrossLanes_keeps (s : State) (op : Nat) (f : Slot) (eff) (hm : Memory.wf s.m.mem) :
    KeepsMemory (s.acrossLanes op f eff) := by
  refine s.issue_keeps _ _ hm fun gid g ls => ?_
  grind [State.after_mem, State.advance_mem, State.eachLane_mem, State.groupTrap_wf]

theorem State.exchange_keeps (s : State) (op : Nat) (f : Slot) (src) (hm : Memory.wf s.m.mem) :
    KeepsMemory (s.exchange op f src) := s.acrossLanes_keeps _ _ _ hm

theorem State.slowOp_keeps (s : State) (op : Nat) (f : Slot) (w val) (hm : Memory.wf s.m.mem) :
    KeepsMemory (s.slowOp op f w val) := by
  refine s.issue_keeps _ _ hm fun gid g ls => ?_
  grind [State.after_mem, State.advance_mem, State.eachLane_mem, State.groupTrap_wf, State.startOp_mem]

theorem State.slowFloat_keeps (s : State) (op : Nat) (f : Slot) (exact) (hm : Memory.wf s.m.mem) :
    KeepsMemory (s.slowFloat op f exact) := s.slowOp_keeps _ _ _ _ hm

theorem State.slowFunction_keeps (s : State) (op : Nat) (f : Slot) (h) (hm : Memory.wf s.m.mem) :
    KeepsMemory (s.slowFunction op f h) := s.slowFloat_keeps _ _ _ hm

theorem State.scalarOp_keeps (s : State) (op : Nat) (f : Slot) (eff : State → Nat → Group → List LaneV → State)
    (hm : Memory.wf s.m.mem) (he : ∀ gid g ls, Memory.wf (eff s gid g ls).m.mem) : KeepsMemory (s.scalarOp op f eff) := by
  refine s.issue_keeps _ _ hm fun gid g ls => ?_
  grind [State.after_mem, State.advance_mem, State.groupTrap_wf]

theorem State.regroup_keeps (s : State) (op : Nat) (f : Slot) (yield) (hm : Memory.wf s.m.mem) :
    KeepsMemory (s.regroup op f yield) := by
  refine s.issue_keeps _ _ hm fun gid g ls => ?_
  rwa [State.after_mem, State.tryPlan_mem, State.updGroup_mem]

theorem State.groupWide_keeps (s : State) (op : Nat) (f : Slot)
    {body : Nat → Group → List LaneV → LaneV → List LaneV → After}
    (hm : Memory.wf s.m.mem) (hb : ∀ gid g ls l run, Memory.wf (body gid g ls l run).1.m.mem) :
    KeepsMemory (s.groupWide op f body) := by
  refine s.issue_keeps _ _ hm fun gid g ls => ?_
  grind [State.after_mem, State.advance_mem, State.startOp_mem, State.finish_wf]

theorem State.asPrivileged_keeps (s : State) (op : Nat) (f : Slot) {body : State → Result} (hm : Memory.wf s.m.mem)
    (hb : KeepsMemory (body s)) : KeepsMemory (s.asPrivileged op f body) := by
  unfold State.asPrivileged
  split
  · exact keepsMemory_next hm
  · exact keepsMemory_ite hb (s.issue_keeps _ _ hm fun gid g ls => s.groupTrap_wf _ _ _ _ hm)

/-! ## Transfers of control -/

theorem State.targets_wf (s : State) (tgt : State → LaneV → State × Target) (ls) (hm : Memory.wf s.m.mem)
    (ht : ∀ s l, Memory.wf s.m.mem → Memory.wf (tgt s l).1.m.mem) : Memory.wf (s.targets tgt ls).1.m.mem := by
  induction ls generalizing s with
  | nil => exact hm
  | cons l ls ih => exact ih _ (ht s l hm)

theorem State.transfer_keeps (s : State) (op : Nat) (f : Slot) {tgt : State → Group → LaneV → State × Target} (link)
    (hm : Memory.wf s.m.mem) (ht : ∀ s g l, Memory.wf s.m.mem → Memory.wf (tgt s g l).1.m.mem) :
    KeepsMemory (s.transfer op f tgt link) := by
  refine s.issue_keeps _ _ hm fun gid g ls => ?_
  have aimed := fun run => s.targets_wf (fun s l => tgt s g l) run hm (fun s l => ht s g l)
  grind [State.after_mem, State.held_mem, State.groupFault_mem, State.checkTargets_wf, State.eachLane_mem, State.finish_wf]

/-! ## Memory, copies, matrix, flow and collective forms -/

theorem State.memIssue_keeps (s : State) (op : Nat) (f : Slot) (use_) (hm : Memory.wf s.m.mem) :
    KeepsMemory (s.memIssue op f use_) := by
  refine s.issue_keeps _ _ hm fun gid g ls => ?_
  grind [State.after_mem, State.held_mem, State.groupFault_mem, State.awaitLock_mem, State.finish_wf, State.startOp_mem,
    State.startLanes_wf, State.setting_wf, State.park_mem]

theorem State.beginCopy_keeps (s : State) (op f) (hm : Memory.wf s.m.mem) : KeepsMemory (s.beginCopy op f) := by
  refine s.groupWide_keeps _ _ hm fun gid g ls l run => ?_
  grind [State.after_mem, State.held_mem, State.leaderTrap_wf, State.updBlock_mem, State.faultLanes_mem, State.setLocks_m,
    State.startOp_mem, State.updOp_mem, State.advance_mem]

theorem State.tarnIssue_keeps (s : State) (op f) (hm : Memory.wf s.m.mem) : KeepsMemory (s.tarnIssue op f) := by
  refine s.asPrivileged_keeps _ _ hm (s.groupWide_keeps _ _ hm fun gid g ls l run => ?_)
  grind [State.after_mem, State.leaderTrap_wf, State.faultLanes_mem, State.startOp_mem, State.advance_mem]

theorem State.xlateIssue_keeps (s : State) (f) (hm : Memory.wf s.m.mem) : KeepsMemory (s.xlateIssue f) := by
  refine s.asPrivileged_keeps _ _ hm (s.groupWide_keeps _ _ hm fun gid g ls l run => ?_)
  grind [State.after_mem, State.leaderTrap_wf, State.faultLanes_mem, State.startOp_mem, State.updOp_mem, State.advance_mem]

theorem State.matrixIssue_keeps (s : State) (op f) (hm : Memory.wf s.m.mem) : KeepsMemory (s.matrixIssue op f) := by
  refine s.issue_keeps _ _ hm fun gid g ls => ?_
  grind [State.after_mem, State.held_mem, State.post_mem, State.setLocks_m, State.finish_wf, State.eachLane_mem,
    State.startOp_mem, State.updOp_mem, State.advance_mem, State.groupTrap_wf]

theorem State.mwinIssue_keeps (s : State) (f) (hm : Memory.wf s.m.mem) : KeepsMemory (s.mwinIssue f) := by
  refine s.issue_keeps _ _ hm fun gid g ls => ?_
  grind [State.after_mem, State.writeD_mem, State.finish_wf, State.mwin_mem, State.advance_mem, State.groupTrap_wf]

theorem State.flowIssue_keeps (s : State) (op f lane) (hm : Memory.wf s.m.mem) : KeepsMemory (s.flowIssue op f lane) := by
  refine s.groupWide_keeps _ _ hm fun gid g ls l run => ?_
  grind [State.after_mem, State.startOp_mem, State.advance_mem]

theorem State.leaderFlow_keeps (s : State) (op f bw) (hm : Memory.wf s.m.mem) : KeepsMemory (s.leaderFlow op f bw) :=
  s.flowIssue_keeps _ _ _ hm

theorem State.ownFlow_keeps (s : State) (op f bw) (hm : Memory.wf s.m.mem) : KeepsMemory (s.ownFlow op f bw) :=
  s.flowIssue_keeps _ _ _ hm

theorem State.landingIssue_keeps (s : State) (op f) (hm : Memory.wf s.m.mem) : KeepsMemory (s.landingIssue op f) := by
  refine s.groupWide_keeps _ _ hm fun gid g ls l run => ?_
  grind [State.after_mem, State.held_mem, State.leaderTrap_wf, State.updBlock_mem, State.setLocks_m, State.startOp_mem,
    State.updOp_mem, State.advance_mem]

theorem State.chanIssue_keeps (s : State) (op f) (hm : Memory.wf s.m.mem) : KeepsMemory (s.chanIssue op f) := by
  refine s.groupWide_keeps _ _ hm fun gid g ls l run => ?_
  grind [State.after_mem, State.leaderTrap_wf, State.repark_mem, State.startOp_mem, State.advance_mem, State.chanServe_mem]

theorem State.launchQuery_keeps (s : State) (op f) (hm : Memory.wf s.m.mem) : KeepsMemory (s.launchQuery op f) := by
  refine s.issue_keeps _ _ hm fun gid g ls => ?_
  grind [State.after_mem, State.startOp_mem, State.advance_mem]

theorem State.ctxIssue_keeps (s : State) (op f) (hm : Memory.wf s.m.mem) : KeepsMemory (s.ctxIssue op f) := by
  refine s.asPrivileged_keeps _ _ hm (s.groupWide_keeps _ _ hm fun gid g ls l run => ?_)
  grind [State.after_mem, State.ctxSave_mem, State.ctxLoad_mem, State.startOp_mem, State.updOp_mem, State.advance_mem]

theorem State.collStart_keeps (s : State) (op f) (hm : Memory.wf s.m.mem) : KeepsMemory (s.collStart op f) := by
  refine s.groupWide_keeps _ _ hm fun gid g ls l run => ?_
  grind [State.after_mem, State.leaderTrap_wf, State.faultLanes_mem, State.startOp_mem, State.advance_mem]

theorem State.collWaitIssue_keeps (s : State) (f) (hm : Memory.wf s.m.mem) : KeepsMemory (s.collWaitIssue f) := by
  refine s.groupWide_keeps _ _ hm fun gid g ls l run => ?_
  grind [State.after_mem, State.startOp_mem, State.advance_mem]

/-! ## Host forms -/

theorem State.hostAfter_keeps (s : State) (store r ok) (hm : Memory.wf s.m.mem)
    (hok : ∀ t b, r = .ok t b → KeepsMemory (ok t b)) : KeepsMemory (s.hostAfter store r ok) := by
  unfold State.hostAfter
  split
  · exact hok _ _ rfl
  · exact keepsMemory_next (by rwa [State.hostFail_mem])
  · exact keepsMemory_next (by rwa [State.abortHost_mem])

theorem State.notInTx_keeps (s : State) (body) (hm : Memory.wf s.m.mem) (hb : KeepsMemory body) :
    KeepsMemory (s.notInTx body) :=
  keepsMemory_ite (keepsMemory_next (by rwa [State.abortHost_mem])) hb


/-! ## Instructions and events with a shape of their own -/

theorem execImad64_keeps (f : Slot) (s : State) (hm : Memory.wf s.m.mem) : KeepsMemory (execImad64 f s) := by
  unfold execImad64
  exact s.intOp_keeps _ _ _ hm

theorem execSput_keeps (f : Slot) (s : State) (hm : Memory.wf s.m.mem) : KeepsMemory (execSput f s) := by
  refine s.scalarOp_keeps _ _ _ hm fun gid g ls => ?_
  split
  · exact hm
  · rwa [State.setScalar_mem]

theorem execUnassignedOpcode_keeps (op) (s : State) (hm : Memory.wf s.m.mem) : KeepsMemory (execUnassignedOpcode op s) := by
  unfold execUnassignedOpcode
  grind [keepsMemory_next, State.settleHandler_wf, State.takePending_wf, State.groupTrap_wf]

theorem execExit_keeps (f) (s : State) (hm : Memory.wf s.m.mem) : KeepsMemory (execExit f s) := by
  refine s.issue_keeps _ _ hm fun gid g ls => ?_
  extract_lets gone aborts rest s1 s2
  have h1 : Memory.wf s1.m.mem := by
    rw [State.checkBars_mem, State.loseWhole_mem]
    exact foldl_wf (fun s k h => by rwa [State.exitThread_mem]) hm
  have h2 : Memory.wf s2.1.m.mem := wf_ite_fst (by rwa [State.after_mem, State.afterExit_mem]) (s1.finish_wf _ _ _ _ h1)
  refine wf_ite_fst (s.finish_wf _ _ _ _ hm) ?_
  exact foldl_wf (fun s k h => s.freeSlot_wf _ h) h2

theorem execTrap_keeps (f) (s : State) (hm : Memory.wf s.m.mem) : KeepsMemory (execTrap f s) := by
  refine s.issue_keeps _ _ hm fun gid g ls => ?_
  grind [State.finish_wf]

theorem execSpawn_keeps (f) (s : State) (hm : Memory.wf s.m.mem) : KeepsMemory (execSpawn f s) := by
  refine s.issue_keeps _ _ hm fun gid g ls => ?_
  grind [State.after_mem, State.held_mem, State.updGroup_mem, State.groupFault_mem, State.checkTarget_wf, State.finish_wf,
    State.spawnAll_mem, State.park_mem]

theorem execPollBackoffEnd_keeps (s : State) (hm : Memory.wf s.m.mem) : KeepsMemory (execPollBackoffEnd s) := by
  unfold execPollBackoffEnd
  grind [keepsMemory_next, State.pollAgain_wf]

theorem execPollLimitElapsed_keeps (s : State) (hm : Memory.wf s.m.mem) : KeepsMemory (execPollLimitElapsed s) := by
  unfold execPollLimitElapsed
  grind [keepsMemory_next, State.pollAgain_wf]

theorem execCopyGranule_keeps (s : State) (hm : Memory.wf s.m.mem) : KeepsMemory (execCopyGranule s) := by
  unfold execCopyGranule
  grind [keepsMemory_next, State.copyPart_wf]

theorem execDiscard_keeps (f) (s : State) (hm : Memory.wf s.m.mem) : KeepsMemory (execDiscard f s) := by
  refine s.groupWide_keeps _ _ hm fun gid g ls l run => ?_
  grind [State.after_mem, State.leaderTrap_wf, State.faultLanes_mem, State.startOp_mem, State.updOp_mem, State.advance_mem]

theorem execTarnLineMove_keeps (s : State) (hm : Memory.wf s.m.mem) : KeepsMemory (execTarnLineMove s) := by
  unfold execTarnLineMove
  grind [keepsMemory_next, State.moveLine_wf]

theorem execTarnResizeComplete_keeps (s : State) (hm : Memory.wf s.m.mem) : KeepsMemory (execTarnResizeComplete s) := by
  unfold execTarnResizeComplete
  grind [keepsMemory_next, State.setTdb_mem, State.drainAll_wf, State.retree_mem, State.tarnDone_wf]

theorem execTarnDrainComplete_keeps (s : State) (hm : Memory.wf s.m.mem) : KeepsMemory (execTarnDrainComplete s) := by
  have drained (l : List Line) : Memory.wf (l.foldl State.evict s).drainAll.m.mem :=
    State.drainAll_wf _ (foldl_wf (fun s l h => by rwa [State.evict_mem]) hm)
  unfold execTarnDrainComplete
  refine keepsMemory_ite (keepsMemory_next ?_) (keepsMemory_next hm)
  refine State.tarnDone_wf _ _ ?_
  rw [State.retree_mem, State.resendTarn_mem, State.setTdb_mem]
  exact drained _

theorem execXlateInvComplete_keeps (s : State) (hm : Memory.wf s.m.mem) : KeepsMemory (execXlateInvComplete s) := by
  unfold execXlateInvComplete
  split
  · exact keepsMemory_next hm
  · refine keepsMemory_ite (keepsMemory_next hm) ?_
    split
    · dsimp only
      refine keepsMemory_ite (keepsMemory_next hm) (keepsMemory_ite (keepsMemory_next (by rwa [State.faultLeader_mem])) ?_)
      refine keepsMemory_ite (keepsMemory_next hm) (keepsMemory_ite (keepsMemory_next hm) (keepsMemory_next ?_))
      refine State.finishOp_wf _ _ ?_
      rw [State.renewNames_mem]
      exact foldl_wf (fun s r h => s.invalidateName_wf _ _ h) hm
    · exact keepsMemory_next (s.finishOp_wf _ hm)

theorem execShareretWrite_keeps (value) (s : State) (hm : Memory.wf s.m.mem) : KeepsMemory (execShareretWrite value s) := by
  unfold execShareretWrite
  grind [keepsMemory_next, State.startRetiring_mem]

theorem execShareRetirementComplete_keeps (share unreadable) (s : State) (hm : Memory.wf s.m.mem) :
    KeepsMemory (execShareRetirementComplete share unreadable s) := by
  unfold execShareRetirementComplete
  split
  · exact keepsMemory_next hm
  · extract_lets holder s1 _ s2 s3
    have h1 : Memory.wf s1.m.mem := foldl_wf (fun s l h => by exact s.retireLine_wf _ _ h) hm
    have h3 : Memory.wf s3.m.mem := by
      rw [State.raiseIntr_mem]
      exact wf_ite h1 (by rwa [State.setTdb_mem])
    exact keepsMemory_next (wf_ite h3 h3)

theorem execUncorrectableEccError_keeps (s : State) (hm : Memory.wf s.m.mem) :
    KeepsMemory (execUncorrectableEccError s) := by
  unfold execUncorrectableEccError
  grind [keepsMemory_next, State.setMem_m, State.startRetiring_mem]

theorem execAgentDeath_keeps (s : State) (hm : Memory.wf s.m.mem) : KeepsMemory (execAgentDeath s) := by
  have lost (l : List Copy) : Memory.wf (l.foldl (fun s c => s.loseLine c.attr.asid c.va c.size) s).m.mem :=
    foldl_wf (fun s c h => s.loseLine_wf _ _ _ h) hm
  refine keepsMemory_next (wf_ite ?_ (wf_ite ?_ ?_))
  · rw [State.updCore_mem]; exact lost _
  · rw [State.stopHart_mem]; exact lost _
  · exact lost _

theorem execDirectoryMerge_keeps (s : State) (hm : Memory.wf s.m.mem) : KeepsMemory (execDirectoryMerge s) := by
  unfold execDirectoryMerge
  grind [keepsMemory_next, State.setMem_m]

theorem execSnoopReceived_keeps (agent asid va invalidate) (s : State) (hm : Memory.wf s.m.mem) :
    KeepsMemory (execSnoopReceived agent asid va invalidate s) := by
  unfold execSnoopReceived
  grind [keepsMemory_next, State.snoopHart_mem, State.dropCopies_mem, State.setReqs_m]

theorem execWriteBack_keeps (s : State) (hm : Memory.wf s.m.mem) : KeepsMemory (execWriteBack s) := by
  unfold execWriteBack
  grind [keepsMemory_next, State.doWriteBack_wf, State.setMem_m]

theorem execRefreshDue_keeps (controller bank class3) (s : State) (hm : Memory.wf s.m.mem) :
    KeepsMemory (execRefreshDue controller bank class3 s) := by
  unfold execRefreshDue
  grind [keepsMemory_next, State.setMem_m, State.refreshStall_mem]

theorem execRefreshRepay_keeps (s : State) (hm : Memory.wf s.m.mem) : KeepsMemory (execRefreshRepay s) := by
  unfold execRefreshRepay
  grind [keepsMemory_next, State.setMem_m, State.refreshStall_mem]

theorem execFence_keeps (f) (s : State) (hm : Memory.wf s.m.mem) : KeepsMemory (execFence f s) := by
  refine s.issue_keeps _ _ hm fun gid g ls => ?_
  grind [State.finish_wf, State.startOp_mem]

theorem execBarArrive_keeps (f) (s : State) (hm : Memory.wf s.m.mem) : KeepsMemory (execBarArrive f s) := by
  refine s.issue_keeps _ _ hm fun gid g ls => ?_
  have arrived (n : Nat) (l : List LaneV) : Memory.wf (l.foldl (fun s l => s.arriveLane g.block n l) s).m.mem :=
    foldl_wf (fun s l h => by rwa [State.arriveLane_mem]) hm
  exact (congrArg Memory.wf (State.tryPhase_mem _ _ _)).trans (State.finish_wf _ _ _ _ _ (arrived _ _))

theorem execBarWait_keeps (f) (s : State) (hm : Memory.wf s.m.mem) : KeepsMemory (execBarWait f s) := by
  refine s.issue_keeps _ _ hm fun gid g ls => ?_
  grind [State.after_mem, State.finish_wf, State.eachLane_mem, State.park_mem]

theorem execSbarWait_keeps (f) (s : State) (hm : Memory.wf s.m.mem) : KeepsMemory (execSbarWait f s) := by
  refine s.issue_keeps _ _ hm fun gid g ls => ?_
  grind [State.after_mem, State.held_mem, State.finish_wf, State.park_mem]

theorem execTbegin_keeps (f) (s : State) (hm : Memory.wf s.m.mem) : KeepsMemory (execTbegin f s) := by
  refine s.issue_keeps _ _ hm fun gid g ls => ?_
  grind [State.finish_wf, State.eachLane_mem]

theorem execTabort_keeps (f) (s : State) (hm : Memory.wf s.m.mem) : KeepsMemory (execTabort f s) := by
  refine s.issue_keeps _ _ hm fun gid g ls => ?_
  grind [State.finish_wf]

theorem execTxTimeout_keeps (s : State) (hm : Memory.wf s.m.mem) : KeepsMemory (execTxTimeout s) := by
  unfold execTxTimeout
  refine keepsMemory_ite (keepsMemory_next ((congrArg Memory.wf (s.hartTimeout_mem _)).trans hm)) ?_
  split
  · exact keepsMemory_next hm
  · exact keepsMemory_ite (keepsMemory_next (by rwa [State.asyncAbort_mem])) (keepsMemory_next hm)

theorem execCommitLockGrant_keeps (s : State) (hm : Memory.wf s.m.mem) : KeepsMemory (execCommitLockGrant s) := by
  unfold execCommitLockGrant
  grind [keepsMemory_next, State.unpark_mem]

theorem execTcommit_keeps (f) (s : State) (hm : Memory.wf s.m.mem) : KeepsMemory (execTcommit f s) := by
  refine s.issue_keeps _ _ hm fun gid g ls => ?_
  grind [State.repark_mem, State.finish_wf, State.eachLane_mem, State.startOp_mem]

theorem execCommitTicketRequest_keeps (s : State) (hm : Memory.wf s.m.mem) : KeepsMemory (execCommitTicketRequest s) := by
  unfold execCommitTicketRequest
  split
  · exact keepsMemory_next hm
  · exact keepsMemory_ite (keepsMemory_next hm) (keepsMemory_next (foldl_wf (fun s l h => by rwa [State.updTx_mem]) hm))

theorem execSliceVote_keeps (s : State) (hm : Memory.wf s.m.mem) : KeepsMemory (execSliceVote s) := by
  unfold execSliceVote
  grind [keepsMemory_next, State.updTicket_mem, State.rejectTicket_mem, State.voteOf_wf]

theorem execTxPublish_keeps (s : State) (hm : Memory.wf s.m.mem) : KeepsMemory (execTxPublish s) := by
  unfold execTxPublish
  grind [keepsMemory_next, State.publishAll_wf, State.updThread_mem, State.repark_mem, State.clearTx_mem, State.updOp_mem]

theorem execEngineWatchdog_keeps (s : State) (hm : Memory.wf s.m.mem) : KeepsMemory (execEngineWatchdog s) := by
  unfold execEngineWatchdog
  grind [keepsMemory_next, State.resetEngine_wf]

theorem execEngineResetEnd_keeps (s : State) (hm : Memory.wf s.m.mem) : KeepsMemory (execEngineResetEnd s) := by
  unfold execEngineResetEnd
  grind [keepsMemory_next, State.setOther_mem]

theorem execWeirTakeTimeout_keeps (s : State) (hm : Memory.wf s.m.mem) : KeepsMemory (execWeirTakeTimeout s) := by
  unfold execWeirTakeTimeout
  grind [keepsMemory_next, State.takeService_wf, State.stilled_mem]

theorem execWeirGatherComplete_keeps (s : State) (hm : Memory.wf s.m.mem) : KeepsMemory (execWeirGatherComplete s) := by
  unfold execWeirGatherComplete
  grind [keepsMemory_next, State.endTake_wf, State.afterMove_wf, State.gather_wf]

theorem execWeirScatterComplete_keeps (s : State) (hm : Memory.wf s.m.mem) : KeepsMemory (execWeirScatterComplete s) := by
  unfold execWeirScatterComplete
  dsimp only
  have finished (id : Nat) (t : State) (h : Memory.wf t.m.mem) : Memory.wf (t.finishOp id).m.mem := t.finishOp_wf id h
  split
  · exact keepsMemory_next hm
  next o _ =>
    split
    next m l _ _ =>
      refine keepsMemory_ite (keepsMemory_next hm) (keepsMemory_ite (keepsMemory_next ?_) ?_)
      · exact s.afterMove_wf _ _ _ _ _ hm (s.scatter_wf _ _ _ _ hm) (fun t h => finished _ t h)
      · split
        · exact keepsMemory_next (finished _ _ hm)
        next e w _ =>
          refine keepsMemory_ite (keepsMemory_next (finished _ _ hm)) ?_
          have parts := s.scatterParts_wf w m (sortBy (·.lane) o.lanes) hm
          split
          · exact keepsMemory_next hm
          next h => exact keepsMemory_next (finished _ _ (by rw [State.weirFault_mem]; exact fst_wf h parts))
          next h =>
            have h1 := fst_wf h parts
            refine keepsMemory_next ?_
            rw [State.stilled_mem]
            refine s.afterMove_wf _ _ _ _ _ hm (State.scatter_wf _ _ _ _ _ h1) fun t ht => ?_
            split
            next hd => exact finished _ _ (t.doneLanes_wf _ _ _ ht _ hd)
            next => exact hm
    next => exact keepsMemory_next hm

theorem execWeirOwnAccessFault_keeps (s : State) (hm : Memory.wf s.m.mem) : KeepsMemory (execWeirOwnAccessFault s) := by
  unfold execWeirOwnAccessFault
  grind [keepsMemory_next, State.weirFault_mem, State.releasable_wf]

theorem execInletRingFault_keeps (s : State) (hm : Memory.wf s.m.mem) : KeepsMemory (execInletRingFault s) := by
  unfold execInletRingFault
  grind [keepsMemory_next, State.ownLoad_wf, State.updList_mem]

theorem execInletEnable_keeps (value) (s : State) (hm : Memory.wf s.m.mem) : KeepsMemory (execInletEnable value s) := by
  unfold execInletEnable
  grind [keepsMemory_next, State.setFlow_m]

theorem execStillWait_keeps (f) (s : State) (hm : Memory.wf s.m.mem) : KeepsMemory (execStillWait f s) := by
  refine s.groupWide_keeps _ _ hm fun gid g ls l run => ?_
  grind [State.after_mem, State.stillServe_mem, State.repark_mem, State.startOp_mem, State.advance_mem]

theorem execLaunch_keeps (f) (s : State) (hm : Memory.wf s.m.mem) : KeepsMemory (execLaunch f s) := by
  refine s.issue_keeps _ _ hm fun gid g ls => ?_
  grind [State.finish_wf, State.startOp_mem]

theorem execLineEntry_keeps (s : State) (hm : Memory.wf s.m.mem) : KeepsMemory (execLineEntry s) := by
  unfold execLineEntry
  grind [keepsMemory_next, State.enterLine_wf, State.updGroup_mem, State.entryFetch_wf, State.dropInst_mem, State.setCur_m,
    State.meetWait_mem]

theorem execParityRefetch_keeps (s : State) (hm : Memory.wf s.m.mem) : KeepsMemory (execParityRefetch s) := by
  unfold execParityRefetch
  grind [keepsMemory_next, State.enterLine_wf, State.updGroup_mem, State.entryTrap_wf, State.entryFetch_wf, State.setCur_m]

theorem execRegroupFlagWaitEnd_keeps (s : State) (hm : Memory.wf s.m.mem) : KeepsMemory (execRegroupFlagWaitEnd s) := by
  unfold execRegroupFlagWaitEnd
  grind [keepsMemory_next, State.unpark_mem, State.tryPlan_mem]

theorem execCoveAgeTimeout_keeps (s : State) (hm : Memory.wf s.m.mem) : KeepsMemory (execCoveAgeTimeout s) := by
  unfold execCoveAgeTimeout
  grind [keepsMemory_next, State.issueCove_mem]

theorem execYieldReleaseTimeout_keeps (s : State) (hm : Memory.wf s.m.mem) : KeepsMemory (execYieldReleaseTimeout s) := by
  unfold execYieldReleaseTimeout
  grind [keepsMemory_next, State.checkCoves_mem, State.updGroup_mem]

theorem execTrapret_keeps (f) (s : State) (hm : Memory.wf s.m.mem) : KeepsMemory (execTrapret f s) := by
  refine s.issue_keeps _ _ hm fun gid g ls => ?_
  grind [State.leaveHandler_wf, State.eachLane_mem]

theorem execTrapretTo_keeps (f) (s : State) (hm : Memory.wf s.m.mem) : KeepsMemory (execTrapretTo f s) := by
  refine s.issue_keeps _ _ hm fun gid g ls => ?_
  grind [State.after_mem, State.held_mem, State.leaveHandler_wf, State.checkTargets_wf, State.groupFault_mem,
    State.eachLane_mem]

theorem execPrio_keeps (f) (s : State) (hm : Memory.wf s.m.mem) : KeepsMemory (execPrio f s) := by
  refine s.issue_keeps _ _ hm fun gid g ls => ?_
  grind [State.after_mem, State.updBlock_mem, State.eachLane_mem, State.advance_mem]

theorem execLaneSliceFailure_keeps (core slice unreadable) (s : State) (hm : Memory.wf s.m.mem) :
    KeepsMemory (execLaneSliceFailure core slice unreadable s) := by
  unfold execLaneSliceFailure
  refine keepsMemory_ite (keepsMemory_next hm) (keepsMemory_next ?_)
  refine State.remapCore_wf _ _ ?_
  exact foldl_wf (fun s b h => by rwa [State.beginSave_mem]) (by rwa [State.setGroups_m, State.updCore_mem])

theorem execGangFallbackTimeout_keeps (s : State) (hm : Memory.wf s.m.mem) : KeepsMemory (execGangFallbackTimeout s) := by
  unfold execGangFallbackTimeout
  grind [keepsMemory_next, State.placeGang_wf, State.updGang_mem, State.withReserved_wf]

theorem execFaultqWrite_keeps (value) (s : State) (hm : Memory.wf s.m.mem) : KeepsMemory (execFaultqWrite value s) := by
  unfold execFaultqWrite
  grind [keepsMemory_next, State.setSys_m]

theorem execReclaimWrite_keeps (value) (s : State) (hm : Memory.wf s.m.mem) : KeepsMemory (execReclaimWrite value s) := by
  unfold execReclaimWrite
  grind [keepsMemory_next, State.setSys_m]

theorem execCommMembersWrite_keeps (slot value) (s : State) (hm : Memory.wf s.m.mem) :
    KeepsMemory (execCommMembersWrite slot value s) := by
  unfold execCommMembersWrite
  grind [keepsMemory_next, State.updSlot_mem, State.setComm_mem]

theorem execCollTimeout_keeps (s : State) (hm : Memory.wf s.m.mem) : KeepsMemory (execCollTimeout s) := by
  unfold execCollTimeout
  grind [keepsMemory_next, State.addSuspect_mem, State.endRound_mem, State.tell_mem]

theorem execCollReform_keeps (f) (s : State) (hm : Memory.wf s.m.mem) : KeepsMemory (execCollReform f s) := by
  refine s.groupWide_keeps _ _ hm fun gid g ls l run => ?_
  grind [State.after_mem, State.startOp_mem, State.advance_mem]

theorem execReformExchangeTimeout_keeps (s : State) (hm : Memory.wf s.m.mem) :
    KeepsMemory (execReformExchangeTimeout s) := by
  unfold execReformExchangeTimeout
  grind [keepsMemory_next, State.stepReform_wf]

theorem execStoreAck_keeps (s : State) (hm : Memory.wf s.m.mem) : KeepsMemory (execStoreAck s) := by
  unfold execStoreAck
  grind [keepsMemory_next, State.endOp_wf]

theorem execRedux_keeps (f) (s : State) (hm : Memory.wf s.m.mem) : KeepsMemory (execRedux f s) := by
  refine s.issue_keeps _ _ hm fun gid g ls => ?_
  grind [State.after_mem, chargeDraws_mem, State.writeD_mem, State.advance_mem]

theorem execScan_keeps (f) (s : State) (hm : Memory.wf s.m.mem) : KeepsMemory (execScan f s) := by
  refine s.issue_keeps _ _ hm fun gid g ls => ?_
  grind [State.after_mem, chargeDraws_mem, State.eachLane_mem, State.advance_mem]

theorem execHostAtomic_keeps (funct5 aq rl wide rd rs1 rs2) (s : State) (hm : Memory.wf s.m.mem) :
    KeepsMemory (execHostAtomic funct5 aq rl wide rd rs1 rs2 s) := by
  have next (t : State) (k : Hart → Hart) (h : Memory.wf t.m.mem) : KeepsMemory (.next (t.updMe k)) :=
    keepsMemory_next (by rwa [State.updMe_mem])
  unfold execHostAtomic
  refine keepsMemory_ite (keepsMemory_next (by rwa [State.raise_mem])) (keepsMemory_ite ?_ (keepsMemory_ite ?_ ?_))
  · exact s.hostAfter_keeps _ _ _ hm fun t b h => next _ _ (s.hostRead_wf _ _ _ _ hm t b h)
  · exact keepsMemory_ite (s.hostAfter_keeps _ _ _ hm fun t b h => next _ _ (s.hostWrite_wf _ _ _ hm t b h)) (next _ _ hm)
  · refine s.hostAfter_keeps _ _ _ hm fun t b h => ?_
    exact s.hostAfter_keeps _ _ _ hm fun u c hu => next _ _ (t.hostWrite_wf _ _ _ (s.hostRead_wf _ _ _ _ hm t b h) u c hu)

theorem execHostAsidCsrWrite_keeps (funct3 rd rs1) (s : State) (hm : Memory.wf s.m.mem) :
    KeepsMemory (execHostAsidCsrWrite funct3 rd rs1 s) := by
  unfold execHostAsidCsrWrite
  grind [keepsMemory_next, State.raise_mem, State.updMe_mem]

theorem execXlaunch_keeps (rd rs1) (s : State) (hm : Memory.wf s.m.mem) : KeepsMemory (execXlaunch rd rs1 s) := by
  refine s.notInTx_keeps _ hm (keepsMemory_ite (keepsMemory_next (by rwa [State.updMe_mem])) ?_)
  refine s.hostAfter_keeps _ _ _ hm fun t b h => keepsMemory_next ?_
  rw [State.updMe_mem, State.submitRecord_mem]
  exact s.hostRead_wf _ _ _ _ hm t b h

theorem execXlwait_keeps (rd rs1) (s : State) (hm : Memory.wf s.m.mem) : KeepsMemory (execXlwait rd rs1 s) := by
  refine s.notInTx_keeps _ hm ?_
  grind [keepsMemory_next, State.updMe_mem]

theorem execXpoll_keeps (rd rs1 rs2) (s : State) (hm : Memory.wf s.m.mem) : KeepsMemory (execXpoll rd rs1 rs2 s) := by
  refine s.notInTx_keeps _ hm (keepsMemory_ite (keepsMemory_next (by rwa [State.raise_mem])) ?_)
  refine keepsMemory_ite (keepsMemory_next hm) (s.hostAfter_keeps _ _ _ hm fun t b h => ?_)
  have ht := s.hostRead_wf _ _ _ _ hm t b h
  exact keepsMemory_ite (keepsMemory_next (by rwa [State.updMe_mem])) (keepsMemory_next (by rwa [State.updMe_mem]))

theorem execXdiscard_keeps (rs1 rs2) (s : State) (hm : Memory.wf s.m.mem) : KeepsMemory (execXdiscard rs1 rs2 s) := by
  refine s.notInTx_keeps _ hm (keepsMemory_ite (keepsMemory_next (by rwa [State.updMe_mem])) ?_)
  refine keepsMemory_ite (keepsMemory_next (by rwa [State.raise_mem])) ?_
  split
  next h => exact keepsMemory_next (by rw [State.updMe_mem]; exact fst_wf h (s.discardPages_wf _ _ _ _ hm))
  · exact keepsMemory_next (by rwa [State.raise_mem])
  · exact keepsMemory_next hm

theorem execXtxBegin_keeps (rd) (s : State) (hm : Memory.wf s.m.mem) : KeepsMemory (execXtxBegin rd s) := by
  unfold execXtxBegin
  grind [keepsMemory_next, State.updMe_mem, State.abortHost_mem]

theorem execXtxCommit_keeps (rd) (s : State) (hm : Memory.wf s.m.mem) : KeepsMemory (execXtxCommit rd s) := by
  unfold execXtxCommit
  grind [keepsMemory_next, State.updMe_mem]

theorem execXtxAbort_keeps (code) (s : State) (hm : Memory.wf s.m.mem) : KeepsMemory (execXtxAbort code s) := by
  unfold execXtxAbort
  grind [keepsMemory_next, State.updMe_mem, State.abortHost_mem]

theorem execHostTxTicketServed_keeps (s : State) (hm : Memory.wf s.m.mem) : KeepsMemory (execHostTxTicketServed s) := by
  unfold execHostTxTicketServed
  dsimp only
  split
  · exact keepsMemory_next hm
  · split
    · refine keepsMemory_ite (keepsMemory_next hm) ?_
      split
      · exact keepsMemory_next (by rwa [State.abortHost_mem])
      · split
        · exact keepsMemory_next hm
        next h => exact keepsMemory_next (by rw [State.updHart_mem]; exact State.publishAll_wf _ _ _ _ _ (by exact hm) _ h)
    · exact keepsMemory_next hm

theorem execHostTxEvictionAbort_keeps (s : State) (hm : Memory.wf s.m.mem) : KeepsMemory (execHostTxEvictionAbort s) := by
  unfold execHostTxEvictionAbort
  grind [keepsMemory_next, State.abortHost_mem]

theorem execHostInterrupt_keeps (s : State) (hm : Memory.wf s.m.mem) : KeepsMemory (execHostInterrupt s) := by
  unfold execHostInterrupt
  grind [keepsMemory_next, State.updHart_mem, State.abortHost_mem]

theorem execTdbbaseWrite_keeps (value) (s : State) (hm : Memory.wf s.m.mem) : KeepsMemory (execTdbbaseWrite value s) := by
  unfold execTdbbaseWrite
  grind [keepsMemory_next, State.setSys_m, State.setMem_m]

theorem execLinkDownTimeout_keeps (s : State) (hm : Memory.wf s.m.mem) : KeepsMemory (execLinkDownTimeout s) := by
  unfold execLinkDownTimeout
  grind [keepsMemory_next, State.losePackage_mem]

theorem execStackTakeout_keeps (s : State) (hm : Memory.wf s.m.mem) : KeepsMemory (execStackTakeout s) := by
  unfold execStackTakeout
  grind [keepsMemory_next, State.setSys_m, State.setMem_m]

theorem execDieIsolate_keeps (s : State) (hm : Memory.wf s.m.mem) : KeepsMemory (execDieIsolate s) := by
  unfold execDieIsolate
  refine keepsMemory_ite (keepsMemory_next hm) (keepsMemory_ite (keepsMemory_next hm) (keepsMemory_next ?_))
  exact foldl_wf (fun s i h => by rwa [State.updCore_mem])
    (foldl_wf (fun s sh h => wf_ite h (by rwa [State.startRetiring_mem])) (by rwa [State.setSys_m]))

theorem execC3PoliceWindow_keeps (s : State) (hm : Memory.wf s.m.mem) : KeepsMemory (execC3PoliceWindow s) := by
  unfold execC3PoliceWindow
  grind [keepsMemory_next, State.setSys_m]

theorem execPowerGood_keeps (boot) (s : State) (hm : Memory.wf s.m.mem) : KeepsMemory (execPowerGood boot s) := by
  unfold execPowerGood
  exact keepsMemory_ite (keepsMemory_next hm) (keepsMemory_next (State.startFirmware_wf _ _ (by rfl)))

theorem execXankorFlitReceived_keeps (port cls crcOk flit) (s : State) (hm : Memory.wf s.m.mem) :
    KeepsMemory (execXankorFlitReceived port cls crcOk flit s) := by
  unfold execXankorFlitReceived
  grind [keepsMemory_next, State.sendLink_mem, State.updPort_mem, State.setNode_m]

theorem execXankorLinkUp_keeps (s : State) (hm : Memory.wf s.m.mem) : KeepsMemory (execXankorLinkUp s) := by
  unfold execXankorLinkUp
  grind [keepsMemory_next, State.setSys_m, State.raiseIntr_mem, State.updPort_mem]

theorem execXankorLaneFailure_keeps (s : State) (hm : Memory.wf s.m.mem) : KeepsMemory (execXankorLaneFailure s) := by
  unfold execXankorLaneFailure
  grind [keepsMemory_next, State.linkDown_mem, State.raiseIntr_mem, State.updPort_mem]

theorem execRemoteLineRequest_keeps (package pa exclusive) (s : State) (hm : Memory.wf s.m.mem) :
    KeepsMemory (execRemoteLineRequest package pa exclusive s) := by
  unfold execRemoteLineRequest
  grind [keepsMemory_next, State.recallHolders_wf, State.setMem_m, State.sendLink_mem, State.recallOwn_wf]

theorem execRecallReceived_keeps (pa invalidate) (s : State) (hm : Memory.wf s.m.mem) :
    KeepsMemory (execRecallReceived pa invalidate s) := by
  refine keepsMemory_next ?_
  rw [State.sendLink_mem]
  exact foldl_wf (fun s e h => by rwa [State.recallLine_mem]) hm

theorem execEthEnable_keeps (port value) (s : State) (hm : Memory.wf s.m.mem) :
    KeepsMemory (execEthEnable port value s) := by
  unfold execEthEnable
  grind [keepsMemory_next, State.setEth_mem, State.setOther_mem]

theorem execEthTransmit_keeps (s0 : State) (hm : Memory.wf s0.m.mem) : KeepsMemory (execEthTransmit s0) := by
  unfold execEthTransmit
  grind [keepsMemory_next, State.setEth_mem, State.load_wf, State.descriptor_mem, State.descriptorDone_wf]

theorem execPldmSensorRead_keeps (sensor reading) (s : State) (hm : Memory.wf s.m.mem) :
    KeepsMemory (execPldmSensorRead sensor reading s) := by
  unfold execPldmSensorRead
  grind [keepsMemory_next]

theorem execFirmwareActivation_keeps (controller measurement verified) (s : State) (hm : Memory.wf s.m.mem) :
    KeepsMemory (execFirmwareActivation controller measurement verified s) := by
  unfold execFirmwareActivation
  grind [keepsMemory_next, State.settleFirmware_mem, State.setNode_m]

theorem execPowerCapExceeded_keeps (draw hot) (s : State) (hm : Memory.wf s.m.mem) :
    KeepsMemory (execPowerCapExceeded draw hot s) := by
  unfold execPowerCapExceeded
  grind [keepsMemory_next, State.inBand_mem, State.setFreq_mem, State.raiseIntr_mem, State.setNode_m]

theorem execClockRaise_keeps (s : State) (hm : Memory.wf s.m.mem) : KeepsMemory (execClockRaise s) := by
  have raised (t : State) (f d : Nat) (h : Memory.wf t.m.mem) : Memory.wf (t.setFreq f d).m.mem := by rwa [State.setFreq_mem]
  unfold execClockRaise
  split
  · exact keepsMemory_ite (keepsMemory_next (by rw [State.raiseIntr_mem]; exact raised _ _ _ hm)) (keepsMemory_next hm)
  · exact keepsMemory_next hm

theorem execJunctionOvertemp_keeps (s : State) (hm : Memory.wf s.m.mem) : KeepsMemory (execJunctionOvertemp s) := by
  refine keepsMemory_next ?_
  rw [State.inBand_mem, State.raiseIntr_mem, State.setNode_m]
  exact foldl_wf (fun s q h => by rwa [State.sendLink_mem]) hm

end Sys2Proof.Machine
end

section
/-! SUPPORT. Every instruction and event keeps the canonical form. -/

namespace Sys2Proof.Machine

/-- Every instruction and event keeps the canonical form, one arm for each shape. -/
theorem exec_keeps (i : Instr) (s : State) (hm : Memory.wf s.m.mem) : KeepsMemory (exec i s) := by
  unfold exec
  cases i with
  | nop | frnd | cvt | cvts | pack => exact s.lanewise_keeps _ _ _ hm
  | bra | call => exact s.transfer_keeps _ _ _ hm fun s g l h => by rwa [offsetTarget_mem]
  | brx | callx => exact s.transfer_keeps _ _ _ hm fun s g l h => s.tableTarget_wf _ _ _ h
  | ret => exact s.transfer_keeps _ _ _ hm fun _ _ _ h => h
  | exit => exact execExit_keeps _ _ hm
  | trap => exact execTrap_keeps _ _ hm
  | reform | yield => exact s.regroup_keeps _ _ _ hm
  | spawn => exact execSpawn_keeps _ _ hm
  | launch => exact execLaunch_keeps _ _ hm
  | lwait | lstat => exact s.launchQuery_keeps _ _ hm
  | sreg | imulh | not | bfi | isel | lea | mov | movi | fclass | unpack | tstat | trapretGetpc | trapretGetcause
  | trapretGetaddr => exact s.lanewiseD_keeps _ _ _ _ hm
  | iadd | isub | imul | imad | imin | imax | iabs | ineg | iadd64 => exact s.intOp_keeps _ _ _ hm
  | idiv => exact s.slowOp_keeps _ _ _ _ hm
  | and | or | xor => exact s.bitOp_keeps _ _ _ hm
  | shl | shr | sar | rot | bfe => exact s.shiftOp_keeps _ _ _ hm
  | popc | clz | brev => exact s.unaryOp_keeps _ _ _ _ hm
  | icmp | pset | pnot | pmov | fcmp => exact s.lanewiseP_keeps _ _ _ hm
  | imad64 => exact execImad64_keeps _ _ hm
  | pand | por | pxor => exact s.predOp_keeps _ _ _ hm
  | pballot | pany | pall | voteUni | voteMatch => exact s.acrossLanes_keeps _ _ _ hm
  | smovi | salu => exact s.scalarOp_keeps _ _ _ hm fun gid g ls => by rwa [State.setScalar_mem]
  | sget => exact s.scalarOp_keeps _ _ _ hm fun gid g ls => by rwa [State.writeD_mem]
  | sput => exact execSput_keeps _ _ hm
  | scmp => exact s.scalarOp_keeps _ _ _ hm fun gid g ls => by rwa [State.writeP_mem]
  | fadd | fsub | fmul | fma | fscale | fdot2 => exact s.floatOp_keeps _ _ _ hm
  | fmin | fmax | fabs | fneg | fsel => exact s.floatBits_keeps _ _ _ hm
  | frcp | frsq | fsqrt | fdiv => exact s.slowFloat_keeps _ _ _ hm
  | fexp2 | flog2 | fsin | fcos | ftanh => exact s.slowFunction_keeps _ _ _ hm
  | qswap | qbcast | shfl | shflup | shfldn | shflx => exact s.exchange_keeps _ _ _ hm
  | redux => exact execRedux_keeps _ _ hm
  | scan => exact execScan_keeps _ _ hm
  | ld | st | lds | sts | ldfW | ldfC | stfW | stfS | femarkEmpty | femarkFull | prefL1 | prefTarn | atom | cas | red
  | poll | cflushWb | cflushInv | cinv | sbarArrive | sbarTest => exact s.memIssue_keeps _ _ _ hm
  | copy | copym => exact s.beginCopy_keeps _ _ hm
  | discard => exact execDiscard_keeps _ _ hm
  | tarnDef | tarnGrow | tarnShrink | tarnMove | tarnRetire => exact s.tarnIssue_keeps _ _ hm
  | xlateInvAttr | xlateInvLines | xlateInvAttrall | xlateInvLinesall => exact s.xlateIssue_keeps _ hm
  | poisonClear => exact s.asPrivileged_keeps _ _ hm (s.memIssue_keeps _ _ _ hm)
  | fence => exact execFence_keeps _ _ hm
  | barArrive => exact execBarArrive_keeps _ _ hm
  | barWait => exact execBarWait_keeps _ _ hm
  | sbarWait => exact execSbarWait_keeps _ _ hm
  | tbegin => exact execTbegin_keeps _ _ hm
  | tcommit => exact execTcommit_keeps _ _ hm
  | tabort => exact execTabort_keeps _ _ hm
  | mwinAlloc | mwinSub | mwinFree | mwinQuery => exact s.mwinIssue_keeps _ hm
  | obres | obfree | mload | mloadPeer | mma | mmas | mtrans | mperm | mrsum | mzero | mread | mwrite =>
    exact s.matrixIssue_keeps _ _ hm
  | weirOpen => exact s.flowIssue_keeps _ _ _ hm
  | weirPush | weirTake | weirDone | weirCloseEnd | weirCloseKill | inletTake | stillWaitTest | stillWaitHold
  | stillWaitUnhold => exact s.leaderFlow_keeps _ _ _ hm
  | weirTakeG | weirDoneS => exact s.landingIssue_keeps _ _ hm
  | inletAdd | inletDone => exact s.ownFlow_keeps _ _ _ hm
  | stillWait => exact execStillWait_keeps _ _ hm
  | chanSend | chanRecv => exact s.chanIssue_keeps _ _ hm
  | ctxSaveLaunch | ctxSaveAsid | ctxSaveDie | ctxLoadLaunch | ctxLoadAsid | ctxLoadDie => exact s.ctxIssue_keeps _ _ hm
  | trapret => exact execTrapret_keeps _ _ hm
  | trapretTo => exact execTrapretTo_keeps _ _ hm
  | prio => exact execPrio_keeps _ _ hm
  | collAllred | collBcast => exact s.collStart_keeps _ _ hm
  | collWait | collWaitS => exact s.collWaitIssue_keeps _ hm
  | collReform => exact execCollReform_keeps _ _ hm
  | xlaunch => exact execXlaunch_keeps _ _ _ hm
  | xlwait => exact execXlwait_keeps _ _ _ hm
  | xfence => exact s.notInTx_keeps _ hm (keepsMemory_next (by rwa [State.updMe_mem]))
  | xpoll => exact execXpoll_keeps _ _ _ _ hm
  | xdiscard => exact execXdiscard_keeps _ _ _ hm
  | xtxBegin => exact execXtxBegin_keeps _ _ hm
  | xtxCommit => exact execXtxCommit_keeps _ _ hm
  | xtxAbort => exact execXtxAbort_keeps _ _ hm
  | xtxStat | hostFence => exact keepsMemory_next (by rwa [State.updMe_mem])
  | laneSliceFailure => exact execLaneSliceFailure_keeps _ _ _ _ hm
  | memoryControllerAccess | shardWalkComplete | homeSliceRequest | lineFillReturn =>
    exact keepsMemory_next (s.atStage_wf _ _ _ hm)
  | snoopReceived => exact execSnoopReceived_keeps _ _ _ _ _ hm
  | shareretWrite => exact execShareretWrite_keeps _ _ hm
  | shareRetirementComplete => exact execShareRetirementComplete_keeps _ _ _ hm
  | refreshDue => exact execRefreshDue_keeps _ _ _ _ hm
  | inletEnable => exact execInletEnable_keeps _ _ hm
  | faultackReplay | faultackDeliver => exact keepsMemory_next (s.answer_wf _ _ hm)
  | faultackKill => exact keepsMemory_next (by rwa [State.answerKill_mem])
  | faultqWrite => exact execFaultqWrite_keeps _ _ hm
  | reclaimWrite => exact execReclaimWrite_keeps _ _ hm
  | tdbbaseWrite => exact execTdbbaseWrite_keeps _ _ hm
  | hoststartWrite => exact keepsMemory_next (by rwa [State.startHart_mem])
  | ctxcmdSaveLaunch | ctxcmdSaveAsid | ctxcmdSaveDie | ctxcmdLoadLaunch | ctxcmdLoadAsid | ctxcmdLoadDie =>
    exact keepsMemory_next (by rwa [State.ctxCommand_mem])
  | nodeLoseWrite => exact keepsMemory_next (foldl_wf (fun s _ h => by rwa [State.losePackage_mem]) hm)
  | commMembersWrite => exact execCommMembersWrite_keeps _ _ _ hm
  | registerWrite => exact keepsMemory_next (by rwa [State.writeRegister_mem])
  | hostAccess => exact keepsMemory_next (s.hostAccess_wf _ _ _ _ _ _ hm)
  | xankorFlitReceived => exact execXankorFlitReceived_keeps _ _ _ _ _ hm
  | remoteLineRequest => exact execRemoteLineRequest_keeps _ _ _ _ hm
  | recallReceived => exact execRecallReceived_keeps _ _ _ hm
  | collPartReceived => exact keepsMemory_next (s.collPart_wf _ _ _ _ _ _ hm)
  | collAbortReceived => exact keepsMemory_next (by rwa [State.collAbort_mem])
  | reformExchange => exact keepsMemory_next (s.collSet_wf _ _ _ hm)
  | pcieInboundRequest | pcieMsiWrite | ethReceive =>
    exact keepsMemory_ite (keepsMemory_next hm) (keepsMemory_next (s.arriveInbound_wf _ hm))
  | ethEnable => exact execEthEnable_keeps _ _ _ hm
  | pldmSensorRead => exact execPldmSensorRead_keeps _ _ _ hm
  | powerGood => exact execPowerGood_keeps _ _ hm
  | firmwareActivation => exact execFirmwareActivation_keeps _ _ _ _ hm
  | powerCapExceeded => exact execPowerCapExceeded_keeps _ _ _ hm
  | unassignedOpcode => exact execUnassignedOpcode_keeps _ _ hm
  | hostIllegalInstruction => exact keepsMemory_next (by rwa [State.raise_mem])
  | hostAsidCsrWrite => exact execHostAsidCsrWrite_keeps _ _ _ _ hm
  | hostAtomic => exact execHostAtomic_keeps _ _ _ _ _ _ _ _ hm
  | lineEntry => exact execLineEntry_keeps _ hm
  | parityRefetch => exact execParityRefetch_keeps _ hm
  | regroupFlagWaitEnd => exact execRegroupFlagWaitEnd_keeps _ hm
  | coveAgeTimeout => exact execCoveAgeTimeout_keeps _ hm
  | yieldReleaseTimeout => exact execYieldReleaseTimeout_keeps _ hm
  | heldThreadAgeTimeout => exact keepsMemory_next (by rwa [State.expireHeld_mem])
  | variableLatencyComplete => exact keepsMemory_next (by rw [State.stilled_mem]; exact s.complete_wf _ hm)
  | attributeRequest => exact keepsMemory_next (s.attributeFor_wf _ hm)
  | directoryMerge => exact execDirectoryMerge_keeps _ hm
  | storeAck => exact execStoreAck_keeps _ hm
  | writeBack => exact execWriteBack_keeps _ hm
  | xlateInvComplete => exact execXlateInvComplete_keeps _ hm
  | tarnLineMove => exact execTarnLineMove_keeps _ hm
  | tarnResizeComplete => exact execTarnResizeComplete_keeps _ hm
  | tarnDrainComplete => exact execTarnDrainComplete_keeps _ hm
  | uncorrectableEccError => exact execUncorrectableEccError_keeps _ hm
  | memoryUncorrectableError => exact keepsMemory_next (wf_ite (by rwa [State.loseMemory_mem]) hm)
  | agentDeath => exact execAgentDeath_keeps _ hm
  | refreshRepay => exact execRefreshRepay_keeps _ hm
  | eccScrub | laneRecalibration => exact keepsMemory_next hm
  | pollBackoffEnd => exact execPollBackoffEnd_keeps _ hm
  | pollLimitElapsed => exact execPollLimitElapsed_keeps _ hm
  | copyGranule => exact execCopyGranule_keeps _ hm
  | copyEnd => exact keepsMemory_next (s.endCopy_wf _ hm)
  | copymDeliveryBegin => exact keepsMemory_next (by rwa [State.beginDelivery_mem])
  | copymDeliveryEnd => exact keepsMemory_next (by rwa [State.endDelivery_mem])
  | txTimeout => exact execTxTimeout_keeps _ hm
  | commitTicketRequest => exact execCommitTicketRequest_keeps _ hm
  | sliceVote => exact execSliceVote_keeps _ hm
  | txPublish => exact execTxPublish_keeps _ hm
  | commitLockGrant => exact execCommitLockGrant_keeps _ hm
  | hostTxEvictionAbort => exact execHostTxEvictionAbort_keeps _ hm
  | hostTxTicketServed => exact execHostTxTicketServed_keeps _ hm
  | matrixPassGrant => exact keepsMemory_next (by rwa [State.grantPass_mem])
  | matrixPassEnd => exact keepsMemory_next (by rwa [State.endPass_mem])
  | matrixEntryComplete => exact keepsMemory_next (s.completeEntry_wf _ hm)
  | mloadDeliveryBegin => exact keepsMemory_next (by rwa [State.beginLoad_mem])
  | mloadDeliveryEnd => exact keepsMemory_next (by rwa [State.endLoad_mem])
  | engineWatchdog => exact execEngineWatchdog_keeps _ hm
  | engineResetWrite => exact keepsMemory_next (s.resetEngine_wf _ _ hm)
  | engineResetEnd => exact execEngineResetEnd_keeps _ hm
  | weirTakeService => exact keepsMemory_next (by rw [State.stilled_mem]; exact s.takeService_wf _ hm)
  | weirTakeTimeout => exact execWeirTakeTimeout_keeps _ hm
  | weirGatherComplete => exact execWeirGatherComplete_keeps _ hm
  | weirScatterComplete => exact execWeirScatterComplete_keeps _ hm
  | weirOwnAccessFault => exact execWeirOwnAccessFault_keeps _ hm
  | inletRingFault => exact execInletRingFault_keeps _ hm
  | launchSubmission => exact keepsMemory_next (s.submitLane_wf _ _ hm)
  | blockPlacement => exact keepsMemory_ite (keepsMemory_next (s.pull_wf _ hm)) (keepsMemory_next hm)
  | gangReservation => exact keepsMemory_ite (keepsMemory_next (s.reserveGangs_wf _ hm)) (keepsMemory_next hm)
  | gangFallbackTimeout => exact execGangFallbackTimeout_keeps _ hm
  | class3Claim => exact keepsMemory_next (s.claim_wf _ hm)
  | sliceExpiry => exact keepsMemory_next (s.expire_wf _ hm)
  | blockSaveComplete => exact keepsMemory_next (s.endSave_wf _ hm)
  | faultRecordWrite => exact keepsMemory_next (s.writeRecord_wf hm)
  | c3PoliceWindow => exact execC3PoliceWindow_keeps _ hm
  | stackTakeout => exact execStackTakeout_keeps _ hm
  | dieIsolate => exact execDieIsolate_keeps _ hm
  | hostInterrupt => exact execHostInterrupt_keeps _ hm
  | linkDownTimeout => exact execLinkDownTimeout_keeps _ hm
  | peerPowerOffReport => exact keepsMemory_next (by rwa [State.losePackage_mem])
  | collTimeout => exact execCollTimeout_keeps _ hm
  | reformExchangeTimeout => exact execReformExchangeTimeout_keeps _ hm
  | pcieAerError => exact keepsMemory_ite (keepsMemory_next (by rwa [State.raiseIntr_mem])) (keepsMemory_next hm)
  | ethTransmit => exact execEthTransmit_keeps _ hm
  | getVersion | getCapabilities | negotiateAlgorithms | getDigests | getCertificate | challenge | getMeasurements =>
    exact keepsMemory_next (by rwa [State.reply_mem])
  | keyExchange | endSession => exact keepsMemory_next (by rwa [State.reply_mem, State.setSession_mem])
  | finish => exact keepsMemory_next (by rw [State.reply_mem]; exact wf_ite (by rwa [State.setSession_mem]) hm)
  | xankorLaneFailure => exact execXankorLaneFailure_keeps _ hm
  | clockRaise => exact execClockRaise_keeps _ hm
  | junctionOvertemp => exact execJunctionOvertemp_keeps _ hm
  | xankorLinkDown => exact keepsMemory_next (by rwa [State.linkDown_mem])
  | xankorLinkUp => exact execXankorLinkUp_keeps _ hm

end Sys2Proof.Machine
end

section
/-! Every turn and every step keeps the canonical form of memory (R6, R139, R142, R454, R457). -/

namespace Sys2Proof.Machine

/-- The state that a turn leaves or in which it executes. -/
def Turned.state : Turned → State
  | .rest s => s
  | .run _ s => s
  | .both _ _ s => s

theorem State.turnGroup_wf (s : State) (gid : Nat) (g : Group) (hm : Memory.wf s.m.mem) :
    Memory.wf (s.turnGroup gid g).state.m.mem := by
  unfold State.turnGroup
  split
  · split <;> exact hm
  · have noted (t : State) (h : Group → Group) (ht : Memory.wf t.m.mem) :
        Memory.wf ((t.updGroup gid h).noteLeft gid).m.mem := by
      rwa [State.noteLeft_mem, State.updGroup_mem]
    dsimp only
    split
    · split <;> exact noted _ (fun g => { g with since := s.clock }) hm
    · exact noted _ (fun g => { g with since := s.clock }) hm

theorem State.turnCore_wf (s : State) (core : Nat) (hm : Memory.wf s.m.mem) : Memory.wf (s.turnCore core).state.m.mem := by
  unfold State.turnCore
  split
  · exact hm
  · split
    · exact hm
    · exact s.turnGroup_wf _ _ hm

theorem State.turnHart_wf (s : State) (h : Nat) (hm : Memory.wf s.m.mem) : Memory.wf (s.turnHart h).state.m.mem := by
  have fetched := s.hostFetch_wf h hm
  unfold State.turnHart
  split
  · exact hm
  · split
    next h1 => rw [h1] at fetched; exact fetched
    next s1 w h1 =>
      rw [h1] at fetched
      split
      · exact fetched
      · exact getD_wf (s1.rvStep_wf _ _ fetched) hm

theorem State.perform_wf (s : State) (a : Act) (hm : Memory.wf s.m.mem) : Memory.wf (s.perform a).state.m.mem := by
  unfold State.perform
  split
  next core =>
    split
    · exact s.turnCore_wf _ hm
    · exact hm
  next h =>
    split
    · exact s.turnHart_wf _ hm
    · exact hm
  next i sel =>
    split
    · exact hm
    · split <;> exact hm
  next => exact wf_ite (s.hostBase_wf _ _ _ _ _ hm) hm

theorem State.tick_wf (s : State) (n : Nat) (hm : Memory.wf s.m.mem) : Memory.wf (s.tick n).m.mem := by
  rwa [State.tick_mem]

theorem State.turn_wf (s : State) (hm : Memory.wf s.m.mem) : Memory.wf s.turn.state.m.mem := by
  unfold State.turn
  split
  · exact hm
  · split
    · split
      · exact State.perform_wf _ _ hm
      · unfold State.writeTurn
        split <;> exact hm
    · exact State.perform_wf _ _ (s.tick_wf _ hm)
    · have ticked := s.tick_wf 1 hm
      dsimp only
      split
      · exact ticked
      · split
        · exact State.perform_wf _ _ ticked
        · exact ticked

theorem State.higher_wf (s0 s t : State) (hm : Memory.wf s.m.mem) (ht : State.higher s0 s = some t) : Memory.wf t.m.mem := by
  rwa [State.higher_mem _ _ _ ht]

theorem ended_keeps (s0 : State) {r : Result} (h : KeepsMemory r) : KeepsMemory (ended s0 r) := by
  unfold ended
  split
  · exact keepsMemory_next (s0.settle_wf _ (h _ rfl))
  · exact h

theorem step_keeps (s : State) (hm : Memory.wf s.m.mem) : KeepsMemory (step s) := by
  have turned := s.turn_wf hm
  unfold step
  split
  next h => rw [h] at turned; exact ended_keeps s (keepsMemory_next turned)
  next i s1 h => rw [h] at turned; exact ended_keeps s (exec_keeps i s1 turned)
  next lower higher s1 h =>
    rw [h] at turned
    have lowered := exec_keeps lower s1 turned
    split
    next s2 h2 =>
      have hm2 := lowered s2 h2
      split
      · exact ended_keeps s (keepsMemory_next hm2)
      next s3 h3 => exact ended_keeps s (exec_keeps higher s3 (State.higher_wf _ _ _ hm2 h3))
    next => exact lowered

end Sys2Proof.Machine

namespace Sys2Proof.Proofs

open Sys2Proof.Machine

/-- Settles O60: memory after reset is canonical, and each turn, each execution and what the units then do of themselves
keep it so. -/
theorem stepKeepsMemory : Obligations.StepKeepsMemory :=
  ⟨reset_memory_wf, fun s t hm h => step_keeps s hm t h⟩

end Sys2Proof.Proofs
end

section
/-! What a turn runs, and that a step executes it (R33, R146, R150, R159 to R161, R173, R231, R325, R450). -/

namespace Sys2Proof.Machine

/-! ## Turns -/

/-- A slot whose bits decode runs what they decode to, any other an unassigned opcode (R173). -/
theorem slotInstr_eq {w : BitVec 96} {i : Instr}
    (h : decodeSlot w = .ok i ∨ (∃ e, decodeSlot w = .error e) ∧ i = .unassignedOpcode (w.extractLsb' 0 8)) :
    slotInstr w = i := by
  unfold slotInstr
  rcases h with h | ⟨⟨e, h⟩, rfl⟩ <;> rw [h]

/-- The state in which a group's line is entered or one of its slots executes. -/
def State.chosen (s : State) (gid : Nat) : State :=
  { s with
    sel := ⟨gid, 0, 0⟩
    cur := ⟨gid, none, false, none, 0⟩ }

/-- The group has been issued in this cycle. -/
def State.issuing (s : State) (gid : Nat) : State :=
  ((s.chosen gid).updGroup gid (fun g => { g with since := s.clock })).noteLeft gid

theorem State.turnCore_of_arbiter {s : State} {core gid : Nat} {g : Group} (ha : s.arbiter core = some gid)
    (hg : s.group? gid = some g) : s.turnCore core = s.turnGroup gid g := by
  simp only [State.turnCore, ha, hg]

theorem State.turnGroup_unentered (s : State) (gid : Nat) {g : Group} (he : g.entered = none) :
    s.turnGroup gid g = .run (if g.refetch then .parityRefetch else .lineEntry) (s.chosen gid) := by
  simp only [State.turnGroup, he]
  split <;> rfl

theorem State.turnGroup_single (s : State) (gid : Nat) {g : Group} {l : BitVec 512} (he : g.entered = some l)
    (hl : isLower l (slotNo g.pc.toNat) = false) :
    s.turnGroup gid g = .run (slotInstr (lineSlot l (slotNo g.pc.toNat))) (s.issuing gid) := by
  simp only [State.turnGroup, he, hl]
  rfl

theorem State.turnGroup_illegal (s : State) (gid : Nat) {g : Group} {l : BitVec 512} (he : g.entered = some l)
    (hl : isLower l (slotNo g.pc.toNat)) (hp : pairLegal l (slotNo g.pc.toNat) = false) :
    s.turnGroup gid g = .run (.unassignedOpcode 0xFF) (s.issuing gid) := by
  simp only [State.turnGroup, he, hl, hp]
  rfl

theorem State.turnGroup_pair (s : State) (gid : Nat) {g : Group} {l : BitVec 512} (he : g.entered = some l)
    (hl : isLower l (slotNo g.pc.toNat)) (hp : pairLegal l (slotNo g.pc.toNat)) :
    s.turnGroup gid g = .both (slotInstr (lineSlot l (slotNo g.pc.toNat))) (slotInstr (lineSlot l (slotNo g.pc.toNat + 1)))
      ((s.issuing gid).setCur ⟨gid, none, false, some [], 0⟩) := by
  simp only [State.turnGroup, he, hl, hp]
  rfl

/-- A turn of a hart that runs is not a rest. -/
theorem State.turnHart_acts {s : State} {h : Nat} (hh : h < 64) (hr : (s.hart h).running) :
    ¬(!(s.hart h).running || decide (64 ≤ h)) = true := by
  rw [hr, decide_eq_false (Nat.not_le.mpr hh)]
  exact Bool.false_ne_true

theorem State.turnHart_of_fetch {s s1 : State} {h : Nat} {w : BitVec 32} (hh : h < 64) (hr : (s.hart h).running)
    (hf : s.hostFetch h = .word s1 w) {i : Instr} (hd : decodeHost w = .ok i) :
    s.turnHart h = .run i (s1.setCur ⟨0, none, false, none, h⟩) := by
  rw [State.turnHart, if_neg (State.turnHart_acts hh hr), hf]
  simp only [hd]

theorem State.turnHart_of_base {s s1 : State} {h : Nat} {w : BitVec 32} (hh : h < 64) (hr : (s.hart h).running)
    (hf : s.hostFetch h = .word s1 w) {e} (hd : decodeHost w = .error e) :
    s.turnHart h = .rest ((s1.rvStep h w).getD s) := by
  rw [State.turnHart, if_neg (State.turnHart_acts hh hr), hf]
  simp only [hd]

theorem State.perform_event {s : State} {i : Instr} (sel : Sel) (hp : s.powered) (hi : isEvent i) :
    s.perform (.event i sel) = .run i { s with sel := sel } := by
  unfold State.perform
  dsimp only
  split
  · rfl
  · exact if_pos (by rw [hp, hi]; rfl)

/-! ## The turn that is taken -/

theorem bestTurn_rank_le (rank : Act → Nat) (t : Turn) (ts : List Turn) :
    ∀ u ∈ t :: ts, rank (bestTurn rank t ts).1.act ≤ rank u.act := by
  induction ts generalizing t with
  | nil => simp [bestTurn]
  | cons v vs ih =>
    intro u hu
    have best := ih v
    simp only [bestTurn]
    rcases List.mem_cons.mp hu with rfl | hu
    · split <;> dsimp only <;> omega
    · have := best u hu
      split <;> dsimp only <;> omega

theorem State.ctxPeer_of_ne (s : State) {off : Nat} (h : off ≠ 0x68) : s.ctxPeer off = none := if_pos h

/-- What acts before a store to SYS.CTXCMD is the issue of a context operation (R450). -/
theorem State.ctxPeer_issues {s : State} {off : Nat} {act : Act} {rest : List Turn} (h : s.ctxPeer off = some (act, rest)) :
    ∃ core, act = .issue core ∧ (s.issueClass core).1 = 34 := by
  unfold State.ctxPeer at h
  split at h
  · cases h
  · split at h
    · cases h
    · dsimp only at h
      split at h
      next core hb =>
        split at h
        next hc => cases h; exact ⟨core, hb, hc⟩
        next => cases h
      next => cases h

theorem State.turn_write {s : State} {off : Nat} {value : Dword} {who : Writer} {more} (hoff : s.n.off = false)
    (hq : s.r.queue = (off, value, who) :: more) (hc : s.ctxPeer off = none) :
    s.turn = (s.setSys { s.r with queue := more }).writeTurn off value who := by
  simp only [State.turn, hoff, hq, hc]
  rfl

theorem State.writeTurn_of_event {s : State} {off : Nat} {value : Dword} {who : Writer} {i : Instr} {sel : Sel}
    (h : registerEvent off value who = some (i, sel)) : s.writeTurn off value who = .run i { s with sel := sel } := by
  simp only [State.writeTurn, h]

theorem State.turn_peer {s : State} {off : Nat} {value : Dword} {who : Writer} {more} {act : Act} {rest : List Turn}
    (hoff : s.n.off = false) (hq : s.r.queue = (off, value, who) :: more) (hc : s.ctxPeer off = some (act, rest)) :
    s.turn = ({ s with agenda := rest }).perform act := by
  simp only [State.turn, hoff, hq, hc]
  rfl

theorem State.turn_agenda {s : State} {head : Turn} {rest : List Turn} (hoff : s.n.off = false) (hq : s.r.queue = [])
    (ha : s.agenda = head :: rest) : s.turn = s.nextTurn head rest := by
  simp only [State.turn, hoff, hq, ha]
  rfl

/-! ## Steps -/

theorem step_of_run {s s1 : State} {i : Instr} (h : s.turn = .run i s1) : step s = ended s (exec i s1) := by
  simp only [step, h]

theorem step_of_rest {s s1 : State} (h : s.turn = .rest s1) : step s = ended s (.next s1) := by
  simp only [step, h]

theorem step_of_lower {s s1 s2 : State} {lower higher : Instr} (h : s.turn = .both lower higher s1)
    (hl : exec lower s1 = .next s2) (hh : State.higher s1 s2 = none) : step s = ended s (.next s2) := by
  simp only [step, h, hl, hh]

theorem step_of_higher {s s1 s2 s3 : State} {lower higher : Instr} (h : s.turn = .both lower higher s1)
    (hl : exec lower s1 = .next s2) (hh : State.higher s1 s2 = some s3) : step s = ended s (exec higher s3) := by
  simp only [step, h, hl, hh]

end Sys2Proof.Machine

namespace Sys2Proof.Proofs

open Sys2Proof.Machine

/-- Settles O54, by the turn that each case of the queue, the agenda and the arbiter gives. -/
theorem stepRuns : Obligations.StepRuns := by
  intro s i j hoff runs issued
  have issues (s0 : State) (core : Nat) (ht : s.turn = s0.turnCore core) : issued s0 core := by
    intro gid g ha hg at_
    rw [State.turnCore_of_arbiter ha hg] at ht
    refine ⟨fun he => step_of_run (ht.trans (s0.turnGroup_unentered gid he)), ?_⟩
    intro l he k s2
    refine ⟨?_, ?_, ?_⟩
    · intro hl hi
      rw [s0.turnGroup_single gid he hl, slotInstr_eq hi] at ht
      exact step_of_run ht
    · intro hl hp
      exact step_of_run (ht.trans (s0.turnGroup_illegal gid he hl hp))
    · intro hl hp hi hj s3 h3
      rw [s0.turnGroup_pair gid he hl hp, slotInstr_eq hi, slotInstr_eq hj] at ht
      exact ⟨step_of_lower ht h3, fun s4 => step_of_higher ht h3⟩
  refine ⟨?_, ?_⟩
  · intro off value who more hq
    refine ⟨s.ctxPeer_of_ne, ?_, ?_⟩
    · intro hc sel hr
      exact step_of_run ((State.turn_write hoff hq hc).trans (State.writeTurn_of_event hr))
    · intro act rest hc hp
      obtain ⟨core, rfl, hclass⟩ := State.ctxPeer_issues hc
      exact ⟨core, rfl, hclass, issues _ _ ((State.turn_peer hoff hq hc).trans (if_pos hp))⟩
  · intro head rest hq ha s1 hp peers b s0
    have acts {a : Act} (hb : b.1.act = a) : s.turn = s0.perform a := hb ▸ State.turn_agenda hoff hq ha
    refine ⟨bestTurn_rank_le _ _ _, ?_, ?_, ?_⟩
    · intro core hb
      exact issues _ _ ((acts hb).trans (if_pos hp))
    · intro h s2 w hb hh hr hf
      have hart : s.turn = s0.turnHart h := (acts hb).trans (if_pos hp)
      exact ⟨fun hd => step_of_run (hart.trans (State.turnHart_of_fetch hh hr hf hd)),
        fun e hd => step_of_rest (hart.trans (State.turnHart_of_base hh hr hf hd))⟩
    · intro sel hb hi
      exact step_of_run ((acts hb).trans (State.perform_event sel hp hi))

end Sys2Proof.Proofs
end

section
/-! What REDUX and SCAN leave (R79, R80, R303, R304). -/

namespace Sys2Proof.Machine

open Sys2Proof.Laws

/-- An instruction whose effect nothing keeps from happening leaves that effect; of a pair's higher slot, its registers stand (R161). -/
theorem State.issue_after {s t : State} {op f g} {body : Nat → Group → List LaneV → After} (h : issues s op f g)
    (hb : body s.cur.group g (s.lanesOf g f) = t.after) : s.issue op f body = .next (kept s op f g t) := by
  rw [issue_next h, hb, State.after, slot_none]

theorem execRedux_next {s : State} {f g} (h : issues s 0x6F f g) :
    execRedux f s = .next (kept s 0x6F f g
      (((chargeDraws (s.treeOf f (s.lanesOf g f)).2 s).writeD f (wOf f) (running s g f)
        (fun _ => ((s.treeOf f (s.lanesOf g f)).1.getD 6 []).getD 0 0)).advance s.cur.group g (s.lanesOf g f))) :=
  State.issue_after h rfl

theorem execScan_next {s : State} {f g} (h : issues s 0x70 f g) :
    execScan f s = .next (kept s 0x70 f g
      (((chargeDraws (s.treeOf f (s.lanesOf g f)).2 s).eachLane (running s g f) (fun l t =>
        let r := prefixOf (s.drawer t.block t.tid) f (s.treeOf f (s.lanesOf g f)).1 t.draws
          (if f.i32 = 0 then l.lane + 1 else l.lane)
        { t with draws := r.2 }.setVal f.d.toNat (wOf f) r.1)).advance s.cur.group g (s.lanesOf g f))) :=
  State.issue_after h rfl

end Sys2Proof.Machine

namespace Sys2Proof.Proofs

open Sys2Proof.Machine

/-- Settles O6: a slot that issues has its own effect, and neither REDUX nor SCAN has anything that could hold it or trap. -/
theorem reductionResults : Obligations.ReductionResults :=
  fun _ _ _ => ⟨execRedux_next, execScan_next⟩

end Sys2Proof.Proofs
end

section
/-! What the shapes that instructions share leave where their slot issues (R153, R192, R216, R226, R299), and what an update that
changes nothing leaves. -/

namespace Sys2Proof.Machine

open Sys2Proof.Laws Sys2Proof.Claims

/-! ## Updates -/

/-- Only what an update does to the value under its key matters. -/
theorem Tab.upd_congr {α : Type} (t : Tab α) (q : Nat) {h k : α → α} (e : ∀ v, Tab.look t q = some v → h v = k v) :
    Tab.upd t q h = Tab.upd t q k := by
  induction t with
  | nil => rfl
  | cons p t ih =>
    obtain ⟨n, w⟩ := p
    by_cases hn : n = q
    · have hw : h w = k w := e w (by simp [Tab.look, hn])
      simp [Tab.upd, hn, hw]
    · simp only [Tab.upd, if_neg hn, ih (fun v hv => e v (by simpa [Tab.look, hn] using hv))]

theorem Tab.upd_id {α : Type} (t : Tab α) (q : Nat) : Tab.upd t q (fun v => v) = t := by
  induction t with
  | nil => rfl
  | cons p t ih => simp only [Tab.upd, ih, ite_self]

theorem State.updThread_id (s : State) (k : Nat) : s.updThread k (fun t => t) = s := by
  simp only [State.updThread, Tab.upd_id]
  rfl

theorem State.eachLane_id (s : State) (ls : List LaneV) : s.eachLane ls (fun _ t => t) = s := by
  induction ls with
  | nil => rfl
  | cons l ls ih => rw [State.eachLane, State.updThread_id, ih]

/-! ## The shared shapes of fixed-latency instructions, where the slot issues -/

section
variable {s : State} {op : Nat} {f : Slot} {g : Group}

theorem State.intOp_next {exact : Group → Thread → Int} (h : issuesB s op f g) :
    s.intOp op f exact = .next (kept s op f g (wroteD s f g (wOf f) (fun l => intResult f (exact g l.th)))) :=
  lanewiseD_next h

theorem State.bitOp_next {e : Nat → Nat → Nat} (h : issuesB s op f g) :
    s.bitOp op f e = .next (kept s op f g (wroteD s f g (wOf f) (fun l => e (readA f l.th (wOf f)) (readB f g l.th (wOf f))))) :=
  lanewiseD_next h

theorem State.shiftOp_next {e : Nat → Nat → Nat → Nat} (h : issuesB s op f g) :
    s.shiftOp op f e = .next (kept s op f g (wroteD s f g (wOf f) (fun l =>
      e (tyWidth (Rule.ty f)) (readA f l.th (wOf f)) (readB1 f g l.th)))) :=
  lanewiseD_next h

theorem State.unaryOp_next {n : Nat} {e : Nat → Nat → Nat} (h : issuesB s op f g) :
    s.unaryOp op f n e = .next (kept s op f g (wroteD s f g n (fun l => e (tyWidth (Rule.ty f)) (readA f l.th (wOf f))))) :=
  lanewiseD_next h

theorem State.floatBits_next {e : Group → Thread → Nat → Nat} (h : issuesB s op f g) :
    s.floatBits op f e = .next (kept s op f g (wroteD s f g (wOf f) (elements f (fun l => e g l.th)))) :=
  lanewiseD_next h

theorem State.predOp_next {e : Bool → Bool → Bool} (h : issuesB s op f g) :
    s.predOp op f e = .next (kept s op f g (wroteP s f g (fun l =>
      e (l.th.pred f.a.toNat) (l.th.pred f.b.toNat != (Rule.sub f == 1))))) :=
  lanewiseP_next h

theorem State.exchange_next {src : Group → LaneV → Nat} (h : issuesB s op f g) :
    s.exchange op f src = .next (kept s op f g (wroteD s f g (wOf f) (fun l => suppliedBy f (s.lanesOf g f) (src g l)))) :=
  acrossLanes_next h

end

/-! ## Outside transactions -/

section
variable {s : State} {f : Slot} {g : Group}

/-- Nothing executes inside a transaction: the executing lanes that an instruction picks outside one are all of them. -/
theorem running_outsideTx (ho : outsideTx s g f) : (s.lanesOf g f).filter (fun l => l.run && !l.inTx) = running s g f := by
  refine List.filter_congr fun l hl => ?_
  cases hr : l.run with
  | false => rfl
  | true => simp [(outside_lane ho l (List.mem_filter.mpr ⟨hl, hr⟩)).1]

/-- Nor has any of them a transaction to abort. -/
theorem aborting_outsideTx (ho : outsideTx s g f) : (s.lanesOf g f).filter (fun l => l.run && l.inTx) = [] := by
  refine List.filter_eq_nil_iff.mpr fun l hl h => ?_
  obtain ⟨hr, hx⟩ := Bool.and_eq_true_iff.mp h
  rw [(outside_lane ho l (List.mem_filter.mpr ⟨hl, hr⟩)).1] at hx
  cases hx

/-- Where every lane at the PC executes, there is one. -/
theorem allRun_ne_nil (h : allRun s g f) : s.lanesOf g f ≠ [] := by
  simp only [allRun, Bool.and_eq_true, Bool.not_eq_true', List.isEmpty_eq_false_iff] at h
  exact h.1

end

end Sys2Proof.Machine
end

section
/-! Integer arithmetic, predicates, lane exchanges, floating-point forms without rounding, and the scalar pipe (R191, R215 to R229,
R284 to R287, R298 to R302, R343, R448). -/

namespace Sys2Proof.Proofs

open Sys2Proof.Machine Sys2Proof.Laws Sys2Proof.Claims

/-- Settles O1: each row is a lanewise form with a value in D, by the shape that its instruction has. -/
theorem integerResults : Obligations.IntegerResults := by
  intro s f g
  simp only [integerRows, List.forall_mem_cons]
  dsimp only [exec, execImad64]
  exact ⟨State.intOp_next, State.intOp_next, State.intOp_next, lanewiseD_next, State.intOp_next, State.intOp_next,
    State.intOp_next, State.intOp_next, State.intOp_next, State.bitOp_next, State.bitOp_next, State.bitOp_next, lanewiseD_next,
    State.shiftOp_next, State.shiftOp_next, State.shiftOp_next, State.shiftOp_next, State.shiftOp_next, lanewiseD_next,
    State.unaryOp_next, State.unaryOp_next, State.unaryOp_next, lanewiseD_next, State.intOp_next, State.intOp_next,
    lanewiseD_next, lanewiseD_next, lanewiseD_next, List.forall_mem_nil _⟩

/-- Settles O2: the first table is lanewise with a predicate in D; what the others write is formed from every lane. -/
theorem predicateAndExchangeResults : Obligations.PredicateAndExchangeResults := by
  intro s f g
  refine ⟨?_, ?_, ?_⟩
  · simp only [predicateRows, List.forall_mem_cons]
    dsimp only [exec]
    exact ⟨lanewiseP_next, lanewiseP_next, State.predOp_next, State.predOp_next, State.predOp_next, lanewiseP_next,
      lanewiseP_next, lanewiseP_next, List.forall_mem_nil _⟩
  · simp only [exchangeRows, List.forall_mem_cons]
    dsimp only [exec]
    exact ⟨acrossLanes_next, State.exchange_next, State.exchange_next, State.exchange_next, State.exchange_next,
      State.exchange_next, State.exchange_next, acrossLanes_next, List.forall_mem_nil _⟩
  · simp only [voteRows, List.forall_mem_cons]
    dsimp only [exec]
    exact ⟨acrossLanes_next, acrossLanes_next, acrossLanes_next, List.forall_mem_nil _⟩

/-- An element of the register chosen is the element chosen. -/
theorem elemAt_ite {ty : Nat} {c : Prop} [Decidable c] {a b j : Nat} :
    elemAt ty (if c then a else b) j = if c then elemAt ty a j else elemAt ty b j :=
  apply_ite (fun v => elemAt ty v j) c a b

/-- Settles O4: each row is a lanewise form; FSEL chooses a register where the row chooses an element. -/
theorem bitsResults : Obligations.BitsResults := by
  intro s f g
  simp only [bitsRows, List.forall_mem_cons]
  dsimp only [exec]
  refine ⟨State.floatBits_next, State.floatBits_next, State.floatBits_next, State.floatBits_next, fun h => ?_, lanewiseD_next,
    lanewiseD_next, lanewiseD_next, lanewiseD_next, lanewiseD_next, lanewiseD_next, lanewiseD_next, List.forall_mem_nil _⟩
  refine (State.floatBits_next h).trans ?_
  simp only [elemAt_ite]

/-- Settles O5: NOP changes no lane, and a scalar form whose scalars are valid has its own effect. -/
theorem scalarResults : Obligations.ScalarResults := by
  intro s f g
  dsimp only [exec]
  refine ⟨fun h => ?_, issuesScalar_next, issuesScalar_next, fun h l hl => ?_, issuesScalar_next, issuesScalar_next⟩
  · refine (lanewise_next h).trans ?_
    rw [ran, State.eachLane_id]
  · refine (issuesScalar_next h).trans ?_
    simp only [hl]
    rfl

end Sys2Proof.Proofs
end

section
/-! TRAP, REFORM, YIELD and SPAWN (R201 to R206, R439 to R442). -/

namespace Sys2Proof.Machine

open Sys2Proof.Laws

/-! ## TRAP -/

/-- Traps outside transactions without a handler that can be entered are fatal, under the cause of the first (R440). -/
theorem finish_fatal {s s' : State} {gid g ls} {run : List LaneV} {tr : Trap} {hp} (hne : run ≠ [])
    (hnt : ∀ l ∈ run, s.txOpen l.key = false)
    (h : (s.setCur { s.cur with trapped := true }).handlerReady g.block (s.coreOfBlock g.block) = (s', .illegal, hp)) :
    s.finish gid g ls ⟨[], [], run.map (fun l => (l.key, tr)), []⟩ =
      (s'.fatalTrap g g.pc tr (run.map (fun l => l.key % 64)), none) := by
  have outside : (run.map (fun l => (l.key, tr))).filter (fun p => !s.txOpen p.1) = run.map (fun l => (l.key, tr)) :=
    List.filter_eq_self.mpr (List.forall_mem_map.mpr fun l hl => by rw [hnt l hl]; rfl)
  have aborts : (run.map (fun l => (l.key, tr))).filter (fun p => s.txOpen p.1) = [] :=
    List.filter_eq_nil_iff.mpr (List.forall_mem_map.mpr fun l hl => by rw [hnt l hl]; exact Bool.false_ne_true)
  have nonempty : (run.map (fun l => (l.key, tr))).isEmpty = false :=
    List.isEmpty_eq_false_iff.mpr (fun e => hne (List.map_eq_nil_iff.mp e))
  have hcore : (s.setCur { s.cur with trapped := true }).coreOfBlock g.block = s.coreOfBlock g.block := rfl
  have bad : (TargetCheck.illegal != TargetCheck.ok) = true := rfl
  have dead (q : Nat × Trap → Bool) :
      (run.map (fun l => (l.key, tr))).filter (fun p => q p || true) = run.map (fun l => (l.key, tr)) :=
    List.filter_eq_self.mpr fun p _ => Bool.or_true (q p)
  unfold State.finish
  simp only [outside, aborts, nonempty, List.map_nil, List.append_nil, Bool.false_and, Bool.false_eq_true, if_false, hcore, h, bad,
    Bool.not_false, Bool.and_self, dead]
  obtain ⟨l, rest, rfl⟩ := List.exists_cons_of_ne_nil hne
  simp only [List.map_cons, List.map_map]
  rfl

/-- A fatal trap of a resident block posts its record and kills the launch (R440, R441). -/
theorem State.fatalTrap_block {s : State} {g : Group} {pc : Pc} {tr : Trap} {lanes : List Nat} {b : Block}
    (hb : s.block? g.block = some b) :
    s.fatalTrap g pc tr lanes =
      (s.postReport 1 (laneMask lanes) (tr.addr.getD pc.toNat) g.block g.record tr.write tr.code tr.cause.code .nobody).1.killLaunch
        b.launch := by
  simp only [State.fatalTrap, hb]

/-- What TRAP raises in a lane (R201). -/
def userTrap (f : Slot) : Trap := ⟨.userTrap, f.i32.toNat % 65536, none, false⟩

/-- Outside transactions TRAP is a trap of every executing lane. -/
theorem execTrap_next {s : State} {f : Slot} {g : Group} {t : State} (h : issues s 0x07 f g) (ho : outsideTx s g f)
    (ht : s.finish s.cur.group g (s.lanesOf g f) ⟨[], [], (running s g f).map (fun l => (l.key, userTrap f)), []⟩ = (t, none)) :
    execTrap f s = .next (kept s 0x07 f g t) := by
  refine State.issue_after h ?_
  rw [running_outsideTx ho, aborting_outsideTx ho]
  exact ht

/-- A thread that TRAP sends to its handler (R440): what its trap registers hold. -/
theorem takeTrap_userTrap (f : Slot) (hp pc : Pc) (t : Thread) :
    takeTrap hp pc (userTrap f) t =
      { t with
        handler := true
        trapPc := pc
        trapCause := BitVec.ofNat 64 (12 + f.i32.toNat % 65536 * 256)
        trapAddr := 0
        resume := nextPc pc
        pc := hp } := by
  simp only [takeTrap, trapCauseWord, userTrap, Nat.mod_mod]
  rfl

theorem State.handlerReady_none {s : State} {blk core : Nat} {r : Record} (hr : s.record? blk = some r) (hh : r.handler = 0) :
    s.handlerReady blk core = (s, .illegal, 0) := by
  simp only [State.handlerReady, hr, hh, if_true]

/-! ## Regrouping -/

/-- What REFORM and YIELD decide: every executing thread departs for NextPc (R202, R203). -/
def departPlan (s : State) (f : Slot) (g : Group) (y : Option (List Nat × Nat)) : Plan :=
  ⟨g.pc, nextPc g.pc, (s.lanesOf g f).map (fun l => (l.key, nextPc g.pc)), some ((running s g f).map (·.key)), [], y⟩

theorem State.regroup_next {s : State} {op f g} {y : Group → Nat → Option (List Nat × Nat)} (h : issues s op f g) :
    s.regroup op f y = .next (kept s op f g
      ((s.updGroup s.cur.group (fun x => { x with plan := some (departPlan s f g (y g s.cur.group)), scalars := [] })).tryPlan
        s.cur.group)) :=
  State.issue_after h rfl

section
variable {s s1 : State} {f : Slot} {g : Group}

/-- SPAWN waits until the flags of its group are zero (R35, R206). -/
theorem execSpawn_busy (h : issues s 0x0A f g) (ho : outsideTx s g f) (hne : running s g f ≠ [])
    (hc : s.checkTarget (s.coreOfBlock g.block) (s.ctxOf g.block) (branchPc g.pc f.i32) = (s1, .ok))
    (hi : s.groupIdle s.cur.group g = false) :
    execSpawn f s = .next (kept s 0x0A f g (s.park s.cur.group .regroup)) := by
  refine State.issue_after h ?_
  simp only [running_outsideTx ho, List.isEmpty_eq_false_iff.mpr hne, hc, hi]
  rfl

/-- SPAWN gives each executing lane a child, where every lane finds a slot (R206). -/
theorem execSpawn_idle (h : issues s 0x0A f g) (ho : outsideTx s g f) (hne : running s g f ≠ [])
    (hc : s.checkTarget (s.coreOfBlock g.block) (s.ctxOf g.block) (branchPc g.pc f.i32) = (s1, .ok))
    (hi : s.groupIdle s.cur.group g) {t : State × List Nat}
    (ht : (s1.updGroup s.cur.group (fun x => { x with owed := [] })).spawnAll (s.coreOfBlock g.block) g
      (BitVec.ofNat 64 ((branchPc g.pc f.i32).getD 0)) (running s g f) = t) (full : t.2 = []) :
    execSpawn f s = .next (kept s 0x0A f g (t.1.advance s.cur.group g (s.lanesOf g f))) := by
  refine State.issue_after h ?_
  simp only [running_outsideTx ho, aborting_outsideTx ho, List.isEmpty_eq_false_iff.mpr hne, hc, hi, Bool.not_false, Bool.not_true,
    Bool.and_false, Bool.false_eq_true, if_false, ht, full, List.map_nil]
  exact finish_plain

end

end Sys2Proof.Machine

namespace Sys2Proof.Proofs

open Sys2Proof.Machine Sys2Proof.Laws

/-- Settles O10: every executing lane takes USERTRAP, which enters the handler or, without one, is fatal. -/
theorem trapTaken : Obligations.TrapTaken := by
  refine ⟨fun s f g h ho hr => ?_, fun s f g b r h ho hne hb hrec hh => ?_⟩
  · intro marked hand ls enter hok hin
    have enters : takeTrap hand.2.2 g.pc (userTrap f) = enter := funext (takeTrap_userTrap f hand.2.2 g.pc)
    have outside : ∀ l ∈ ls, s.txOpen l.key = false := fun l hl => (outside_lane ho l (run_all hr ▸ hl)).2
    have hfin := finish_traps (gid := s.cur.group) (tr := userTrap f) (allRun_ne_nil hr) outside
      (show marked.handlerReady g.block (s.coreOfBlock g.block) = (hand.1, .ok, hand.2.2) from Prod.ext rfl (Prod.ext hok rfl))
      (by simpa using hin)
    rw [enters] at hfin
    refine execTrap_next h ho ?_
    rw [run_all hr]
    exact hfin
  · intro lanes
    have outside : ∀ l ∈ running s g f, s.txOpen l.key = false := fun l hl => (outside_lane ho l hl).2
    have hfin := finish_fatal (gid := s.cur.group) (ls := s.lanesOf g f) (tr := userTrap f) hne outside
      (State.handlerReady_none (core := s.coreOfBlock g.block) hrec hh)
    have hb' : (s.setCur { s.cur with trapped := true }).block? g.block = some b := hb
    rw [State.fatalTrap_block hb'] at hfin
    exact execTrap_next h ho hfin

/-- Settles O12: REFORM and YIELD by the decision that they make, SPAWN by whether its group is idle. -/
theorem regroupResults : Obligations.RegroupResults := by
  intro s f g gid np next go others regrouped
  dsimp only [exec]
  refine ⟨State.regroup_next, State.regroup_next, ?_, ?_⟩
  · intro h ho hne idle p s1 hp hc full
    rw [← hp] at hc
    exact execSpawn_idle h ho hne hc idle (by rw [hp]; rfl) full
  · intro h ho hne busy p s1 hp hc
    rw [← hp] at hc
    exact execSpawn_busy h ho hne hc busy

end Sys2Proof.Proofs
end

section
/-! LAUNCH, LWAIT and LSTAT, and the submission of a record (R208 to R213). -/

namespace Sys2Proof.Machine

open Sys2Proof.Laws

/-! ## At issue -/

section
variable {s : State} {f : Slot} {g : Group}

/-- Outside transactions LAUNCH sends the record's address of each executing lane (R208). -/
theorem execLaunch_next (h : issues s 0x0B f g) (ho : outsideTx s g f) :
    execLaunch f s = .next (kept s 0x0B f g
      (setOff s 0x0B f g ((running s g f).map (fun l => laneOp l (globalEa f l.th) [] [] .sent)))) := by
  refine State.issue_after h ?_
  simp only [plainLanes, instrAborts, running_outsideTx ho, aborting_outsideTx ho, List.map_nil, List.isEmpty_nil, Bool.not_true,
    Bool.and_false, Bool.false_eq_true, if_false]
  exact finish_plain

/-- LWAIT and LSTAT send the handle of each executing lane (R194, R212). -/
theorem State.launchQuery_next {op : Nat} (h : issues s op f g) :
    s.launchQuery op f = .next (kept s op f g
      (setOff s op f g ((running s g f).map (fun l => laneOp l 0 (l.th.words f.a.toNat 1) [] .sent)))) :=
  State.issue_after h rfl

end

/-! ## LAUNCH: submission of a lane's record -/

theorem State.going_of_live {s : State} {id : Nat} {o : Op} (h : s.live o.block) : s.going id o := by
  simp only [State.going, h, Bool.true_or]

/-- What the read of a lane's record leaves: the lanes of a page that faults recorded, a lane with a poisoned record trapped, the
record submitted, or nothing while the read is held (R209). -/
def State.recordRead (s : State) (o : Op) (l : LaneOp) : State × Except MemErr (List Byte) → State
  | (s1, .error (.page k _)) =>
    s1.faultLanes s.sel.x ((o.lanes.filter (fun x => x.stage == .sent && x.ea % 128 == 0
      && s1.pageOf (s.ctxOf o.block).asid x.ea == s1.pageOf (s.ctxOf o.block).asid l.ea)).map (·.lane)) k false
  | (s1, .error (.poisoned a)) => (s1.trapLanes s.sel.x [l.lane] (fun _ => ⟨.poisoned, 0, some a, false⟩)).tryPlans o.block
  | (_, .error .held) => s
  | (s1, .ok d) =>
    let r := s1.submitRecord (ofBytes d) (s.ctxOf o.block).asid (s.ctxOf o.block).priv (s.ctxOf o.block).secure
    r.1.laneResult s.sel.x l.lane r.2

section
variable {s : State} {o : Op} {l : LaneOp} (hop : s.op? s.sel.x = some o)
  (hmin : minBy (·.lane) (o.lanes.filter (fun l => l.stage == .sent)) = some l)
include hop hmin

/-- A lane's submission waits for earlier accesses of its thread (R211). -/
theorem execLaunchSubmission_blocked (hb : s.submitBlocked s.sel.x o l) : execLaunchSubmission s = .next s := by
  simp only [execLaunchSubmission, State.submitLane, hop, hmin, hb, Bool.or_true, if_true]

variable (hopc : o.opc = 0x0B) (hlane : l.lane = s.sel.y) (hlive : s.live o.block) (hb : s.submitBlocked s.sel.x o l = false)
include hopc hlane hlive hb

/-- A record at an address that is not a multiple of 128 is refused with 4 (R209). -/
theorem execLaunchSubmission_misaligned (ha : l.ea % 128 ≠ 0) :
    execLaunchSubmission s = .next (s.laneResult s.sel.x l.lane 4) := by
  simp [execLaunchSubmission, State.submitLane, hop, hmin, hb, ← hlane, hopc, ha, State.going_of_live hlive]

/-- Any other record is read (R209). -/
theorem execLaunchSubmission_aligned (ha : l.ea % 128 = 0) {r : State × Except MemErr (List Byte)}
    (hr : s.load (s.agentOf o.block l.key) l.ea 128 = r) : execLaunchSubmission s = .next (s.recordRead o l r) := by
  simp only [execLaunchSubmission, State.submitLane, hop, hmin, hb, ← hlane, hopc, ha, State.going_of_live hlive, hr, ne_eq,
    not_true_eq_false, decide_false, Bool.not_true, Bool.or_self, Bool.false_eq_true, if_false]
  rcases r with ⟨s1, (k | a | _) | d⟩ <;> rfl

end

section
variable {s : State} {d own : Nat} {priv secure : Bool}

/-- A record that fails its checks is refused with 2 (R209, R418). -/
theorem State.submitRecord_rejected (h : recordOk d (parseRecord d own) own priv = false) :
    s.submitRecord d own priv secure = (s, 2) := by
  simp only [State.submitRecord, h, Bool.not_false, if_true]

/-- One that asks for a world it may not have, with 3 (R209). -/
theorem State.submitRecord_world (h : recordOk d (parseRecord d own) own priv) (hs : (parseRecord d own).secure)
    (hw : secure = false) : s.submitRecord d own priv secure = (s, 3) := by
  simp [State.submitRecord, h, hs, hw]

/-- Any other takes the lowest free entry, and is refused with 1 where there is none (R209, R210). -/
theorem State.submitRecord_accepted (h : recordOk d (parseRecord d own) own priv)
    (hw : (parseRecord d own).secure = false ∨ secure) :
    s.submitRecord d own priv secure =
      ((lowest 256 s.entryFree).map (fun i => s.enterLaunch i (parseRecord d own))).getD (s, 1) := by
  have world : ((parseRecord d own).secure && !secure) = false := by rcases hw with hw | hw <;> simp [hw]
  simp only [State.submitRecord, h, world, Bool.not_true, Bool.false_eq_true, if_false]
  cases lowest 256 s.entryFree <;> rfl

end

/-! ## LWAIT and LSTAT -/

/-- The word of a lane of LWAIT (R212). -/
theorem State.queryWord_lwait {s : State} {o : Op} {own : Nat} (hopc : o.opc = 0x0C)
    (hown : (s.block? o.block).map (·.launch) = some own) (l : LaneOp) :
    s.queryWord o l =
      let h := (l.b.getD 0 0).toNat
      if s.launchCode h = 0 ∨ s.launchCode h = 7 then some (s.launchCode h) else if h % 256 = own then some 8
      else if 5 ≤ s.launchCode h then some (s.launchCode h) else none := by
  simp only [State.queryWord, hopc, if_true, hown, Option.getD_some, State.waitWord, Bool.or_eq_true, decide_eq_true_eq]

/-- The word of a lane of LSTAT (R212). -/
theorem State.queryWord_lstat {s : State} {o : Op} (hopc : o.opc = 0x0D) (l : LaneOp) :
    s.queryWord o l = some (s.launchCode (l.b.getD 0 0).toNat) := by
  simp only [State.queryWord, hopc]
  rfl

/-- A lane with the word that it gets, or waiting for one. -/
def LaneOp.answered (word : LaneOp → Option Nat) (l : LaneOp) : LaneOp :=
  if l.stage = .done then l
  else match word l with
    | some w => { l with stage := .done, res := [BitVec.ofNat 32 w] }
    | none => { l with stage := .wait }

/-- The lanes of an instruction with their words. -/
def Op.answered (word : LaneOp → Option Nat) (o : Op) : Op := { o with lanes := o.lanes.map (LaneOp.answered word) }

/-- Every lane of a query gets its word, where there is one (R212). -/
theorem State.takeWords_all {s : State} {id : Nat} {o : Op} (h : s.op? id = some o) :
    s.takeWords id (fun _ => true) = s.updOp id (Op.answered (s.queryWord o)) := by
  refine congrArg s.setOps (Tab.upd_congr _ _ fun u hu => ?_)
  obtain rfl : o = u := Option.some.inj (h.symm.trans hu)
  refine congrArg (fun ls => { o with lanes := ls }) (List.map_congr_left fun l _ => ?_)
  by_cases hl : l.stage = .done
  · simp [LaneOp.answered, hl]
  · cases hw : s.queryWord o l <;> simp [LaneOp.answered, hl, hw]

/-- A query completes once every lane has its word (R212). -/
theorem State.queryOp_eq {s : State} {id : Nat} {o : Op} (h : s.op? id = some o) :
    s.queryOp id o =
      if (o.lanes.map (LaneOp.answered (s.queryWord o))).all LaneOp.ended then (s.updOp id (Op.answered (s.queryWord o))).finishOp id
      else s.updOp id (Op.answered (s.queryWord o)) := by
  have found : (s.updOp id (Op.answered (s.queryWord o))).op? id = some (o.answered (s.queryWord o)) := by
    rw [State.updOp_op?, if_pos rfl, h, Option.map_some]
  simp only [State.queryOp, State.takeWords_all h, found, Option.any_some]
  rfl

section
variable {s : State} {o : Op} {word : LaneOp → Option Nat} (h : s.op? s.sel.x = some o) (hr : s.residentOp o) (hl : s.live o.block)
  (hd : laneDone o = false) (hopc : o.opc = 0x0C ∨ o.opc = 0x0D) (hw : s.queryWord o = word)
include h hr hl hd hopc

/-- LWAIT and LSTAT that have still to be answered reach the launch table (R212). -/
theorem execVariableLatencyComplete_query : execVariableLatencyComplete s = .next (s.stilled (s.queryOp s.sel.x o)) := by
  have nofence : o.opc ≠ 0xB0 := by omega
  have unit : s.unitOp s.sel.x o = s.queryOp s.sel.x o := by rcases hopc with e | e <;> simp only [State.unitOp, e]
  simp [execVariableLatencyComplete, State.complete, h, hr, hd, nofence, State.going_of_live hl, unit]

include hw

/-- One that then has a word for every lane completes. -/
theorem execVariableLatencyComplete_words (all : (o.lanes.map (LaneOp.answered word)).all LaneOp.ended) :
    execVariableLatencyComplete s = .next (s.stilled ((s.updOp s.sel.x (Op.answered word)).finishOp s.sel.x)) := by
  rw [execVariableLatencyComplete_query h hr hl hd hopc, State.queryOp_eq h, hw, if_pos all]

/-- Any other goes on waiting. -/
theorem execVariableLatencyComplete_waits (waits : (o.lanes.map (LaneOp.answered word)).all LaneOp.ended = false) :
    execVariableLatencyComplete s = .next (s.stilled (s.updOp s.sel.x (Op.answered word))) := by
  rw [execVariableLatencyComplete_query h hr hl hd hopc, State.queryOp_eq h, hw, if_neg (Bool.eq_false_iff.mp waits)]

end

/-- LSTAT gives every lane its word at once. -/
theorem LaneOp.answered_some_ended (word : LaneOp → Nat) (ls : List LaneOp) :
    (ls.map (LaneOp.answered (fun l => some (word l)))).all LaneOp.ended = true := by
  simp only [List.all_map, List.all_eq_true, Function.comp_apply]
  intro l _
  by_cases h : l.stage = .done <;> simp [LaneOp.answered, LaneOp.ended, h]

end Sys2Proof.Machine

namespace Sys2Proof.Proofs

open Sys2Proof.Machine

/-- Settles O27: a lane's submission by what the read of its record answers, a query by whether every lane then has its word. -/
theorem launchResults : Obligations.LaunchResults := by
  intro s f g sent
  dsimp -zeta only [exec]
  refine ⟨execLaunch_next, State.launchQuery_next, State.launchQuery_next, ?_, ?_⟩
  · intro o l hop hopc hmin hlane hlive c read
    refine ⟨execLaunchSubmission_blocked hop hmin, fun hb =>
      ⟨execLaunchSubmission_misaligned hop hmin hopc hlane hlive hb,
        fun ha s1 k a => execLaunchSubmission_aligned hop hmin hopc hlane hlive hb ha,
        fun ha s1 a => execLaunchSubmission_aligned hop hmin hopc hlane hlive hb ha,
        fun ha s1 => execLaunchSubmission_aligned hop hmin hopc hlane hlive hb ha, fun ha s1 d hr => ?_⟩⟩
    intro r accepted
    have reads := execLaunchSubmission_aligned hop hmin hopc hlane hlive hb ha hr
    simp only [State.recordRead] at reads
    refine ⟨fun hno => ?_, fun hok hs hw => ?_, fun hok hw => ⟨fun full => ?_, fun i hi => ?_⟩⟩
    · rwa [State.submitRecord_rejected hno] at reads
    · rwa [State.submitRecord_world hok hs hw] at reads
    · rwa [State.submitRecord_accepted hok hw, full] at reads
    · rwa [State.submitRecord_accepted hok hw, hi] at reads
  · intro o own hop hown handle code waited given after hr hl hd
    have lwait (hopc : o.opc = 0x0C) : s.queryWord o = waited := funext (State.queryWord_lwait hopc hown)
    have lstat (hopc : o.opc = 0x0D) : s.queryWord o = fun l => some (code l) := funext (State.queryWord_lstat hopc)
    have all := LaneOp.answered_some_ended code o.lanes
    exact ⟨fun hopc => execVariableLatencyComplete_words hop hr hl hd (.inl hopc) (lwait hopc),
      fun hopc => execVariableLatencyComplete_waits hop hr hl hd (.inl hopc) (lwait hopc),
      fun hopc => execVariableLatencyComplete_words (word := fun l => some (code l)) hop hr hl hd (.inr hopc) (lstat hopc) all⟩

end Sys2Proof.Proofs
end

section
/-! Host transactions (R237, R341, R345, R348 to R350). -/

namespace Sys2Proof.Machine

/-- An instruction that has no place in a transaction aborts the one open (R237, R349). -/
theorem State.notInTx_open {s : State} {x : HostTx} {body : Result} (h : s.me.tx = some x) :
    s.notInTx body = .next (s.abortHost s.cur.hart .instr 0) := by
  simp only [State.notInTx, h, Option.isSome_some, if_true]

theorem exec_notAdmitted {s : State} {x : HostTx} {rd rs1 rs2 : BitVec 5} (h : s.me.tx = some x) :
    ∀ i ∈ [Instr.xlaunch rd rs1, .xlwait rd rs1, .xpoll rd rs1 rs2, .xdiscard rs1 rs2],
      exec i s = .next (s.abortHost s.cur.hart .instr 0) := by
  simp only [List.forall_mem_cons]
  dsimp only [exec]
  exact ⟨State.notInTx_open h, State.notInTx_open h, State.notInTx_open h, State.notInTx_open h, List.forall_mem_nil _⟩

/-- A ticket waits while a lower one does (R341). -/
theorem execHostTxTicketServed_behind {s : State} {x : HostTx} {n d : Nat} (hx : (s.hart s.sel.x).tx = some x)
    (hn : x.ticket = some n) (hw : (s.hart s.sel.x).wait = some (.commit d)) (h : ∃ t ∈ s.x.tickets, t.n < n) :
    execHostTxTicketServed s = .next s := by
  have lower : s.x.tickets.any (fun t => decide (t.n < n)) = true := by simpa using h
  simp only [execHostTxTicketServed, hx, hn, hw, lower, if_true]

/-- The line at an address of a name is one that the transaction has marked (R349). -/
def HostTx.marks (x : HostTx) (name addr : Nat) : Bool :=
  (x.readLines ++ x.writtenLines).any (fun l => l.1 == name && l.2.1 ≤ addr && addr < l.2.1 + l.2.2)

theorem HostTx.marks_iff {x : HostTx} {name addr : Nat} :
    x.marks name addr = true ↔ ∃ l ∈ x.readLines ++ x.writtenLines, l.1 = name ∧ l.2.1 ≤ addr ∧ addr < l.2.1 + l.2.2 := by
  simp only [HostTx.marks, List.any_eq_true, Bool.and_eq_true, beq_iff_eq, decide_eq_true_eq, and_assoc]

/-- Only the eviction of a marked line has an effect (R349). -/
theorem execHostTxEvictionAbort_open {s : State} {x : HostTx} (hx : (s.hart s.sel.x).tx = some x) :
    execHostTxEvictionAbort s =
      if x.marks s.sel.z s.sel.y then .next (s.abortHost s.sel.x .capacity 0) else .next s := by
  simp only [execHostTxEvictionAbort, hx, HostTx.marks, List.any_append]

end Sys2Proof.Machine

namespace Sys2Proof.Proofs

open Sys2Proof.Machine

/-- Settles O45, by whether a transaction is open, its depth, and the place of its ticket among those that wait. -/
theorem hostTransactions : Obligations.HostTransactions := by
  intro s rd rs1 rs2 code
  dsimp only [exec]
  refine ⟨fun h => ⟨?_, ?_, ?_⟩, rfl, fun x h => ⟨fun hd => ?_, fun hd => ?_, fun hd => ?_, fun hd ht => ?_, ?_,
      exec_notAdmitted h, fun _ _ => State.notInTx_open h⟩,
    fun x n d hx hn hw => ⟨execHostTxTicketServed_behind hx hn hw, fun hl => ?_⟩, fun x hx => ?_, fun h => ⟨?_, ?_⟩⟩
  · simp only [execXtxBegin, h]
  · simp only [execXtxCommit, h]; rfl
  · simp only [execXtxAbort, h]; rfl
  · simp only [execXtxBegin, h, Nat.not_le.mpr hd, if_false]
  · simp only [execXtxBegin, h, hd, if_true]
  · simp only [execXtxCommit, h, hd, if_true]
  · have outer : ¬ 2 ≤ x.depth := by omega
    simp only [execXtxCommit, h, outer, ht, if_false]
    rfl
  · simp only [execXtxAbort, h]; rfl
  · have lowest : s.x.tickets.any (fun t => decide (t.n < n)) = false := by simpa using hl
    refine ⟨fun e he => ?_, fun he hp => ?_, fun he s2 hp => ?_⟩ <;>
      simp only [execHostTxTicketServed, hx, hn, hw, lowest, he, Bool.false_eq_true, if_false]
    · rw [hp]
    · rw [hp]
  · rw [execHostTxEvictionAbort_open hx, ← HostTx.marks_iff]
    exact ⟨fun h => if_pos h, fun h => if_neg h⟩
  · simp only [execHostTxEvictionAbort, h]
  · simp only [execHostTxTicketServed, h]

end Sys2Proof.Proofs
end

section
/-! The steps of copies and multicast copies (R266 to R270, R312, R314, R323, R325). -/

namespace Sys2Proof.Machine

/-! ## Granules -/

/-- The source is in the scratchpad of the block (R266). -/
def Op.fromPad (o : Op) : Bool := o.opc = 0x8C ∧ (Rule.sub o.f = 1 ∨ Rule.sub o.f = 3)

/-- The destination is in a scratchpad (R266, R269). -/
def Op.toPad (o : Op) : Bool := o.opc = 0x8D ∨ Rule.sub o.f = 0 ∨ Rule.sub o.f = 3

theorem Op.fromPad_eq (o : Op) :
    (decide (o.opc = 0x8C) && (decide (Rule.sub o.f = 1) || decide (Rule.sub o.f = 3))) = o.fromPad := by
  simp only [Op.fromPad, Bool.decide_and, Bool.decide_or]

theorem Op.toPad_eq (o : Op) :
    (decide (o.opc = 0x8D) || decide (Rule.sub o.f = 0) || decide (Rule.sub o.f = 3)) = o.toPad := by
  simp only [Op.toPad, Bool.decide_or, Bool.or_assoc]

section
variable (s : State) (id code : Nat) (o : Op) (m : Move) (l : LaneOp)

/-- The block whose scratchpad a granule goes to, where its destination is one and there still is a receiver (R269). -/
def State.granuleTarget : Option Nat :=
  if o.opc = 0x8D then (s.receiver o (code / 2 ^ 21)).map Prod.fst else some o.block

theorem State.granuleTarget_eq :
    (if o.opc = 0x8D then (s.receiver o (code / 2 ^ 21)).map Prod.fst else some o.block) = s.granuleTarget code o := rfl

/-- A granule is held back by its thread's earlier accesses (R312, R325). -/
def State.granuleBlocked : Bool :=
  s.copyBlocked id o l o.fromPad (o.toPad && s.granuleTarget code o == some o.block) (m.src + 16 * (code % 2 ^ 21))
    (m.dst + 16 * (code % 2 ^ 21))

/-- The granules `gone` are no longer to be moved. -/
def State.granulesMoved (gone : Nat → Bool) : State :=
  s.updOp id (fun o => { o with move := o.move.map (fun m => { m with todo := m.todo.filter (fun c => !gone c) }) })

/-- What an access that fails leaves of the copy: `s1` is the state after the attempt, `s` the one before it (R268). -/
def State.copyFailed (s1 : State) (write : Bool) : MemErr → State
  | .page k a => s1.faultLeader id l k a write
  | .poisoned a => s1.poisonLeader id o l a
  | .held => s

/-- What the write of a line in one access leaves (R142, R267). -/
def State.lineWritten (base n : Nat) : State × Except MemErr Unit → State
  | (s3, .error e) => s.copyFailed id o l s3 true e
  | (s3, .ok _) => s3.granulesMoved id (fun c => decide (base ≤ m.dst + 16 * c) && decide (m.dst + 16 * c < base + n))

/-- What a granule's destination being poisoned leaves: its line is written whole where the copy covers it (R142, R267, R268). -/
def State.poisonMet (s2 : State) (a : Nat) : Option (Nat × Nat) → State
  | none => s2.poisonLeader id o l a
  | some (base, n) => s.lineWritten id o m l base n (s.copyLine o (s.agentOf o.block l.key) o.fromPad m base n)

/-- What the write of a granule to a global destination leaves (R267, R268). -/
def State.granuleStored : State × Except MemErr Unit → State
  | (s2, .ok _) => s2.granulesMoved id (fun c => c == code)
  | (s2, .error (.poisoned a)) => s.poisonMet id o m l s2 a
      (s.wholeLine (s.agentOf o.block l.key) (m.dst + 16 * (code % 2 ^ 21)) m.dst m.len)
  | (s2, .error e) => s.copyFailed id o l s2 true e

/-- What a granule's bytes leave in the scratchpad they go to, if there still is one (R267, R269). -/
def State.granulePut (b : List Byte) : Option Nat → State
  | some blk => (s.writePad blk (m.dst + 16 * (code % 2 ^ 21)) b).granulesMoved id (fun c => c == code)
  | none => s.granulesMoved id (fun c => c == code)

/-- What the read of a granule leaves: it is written to its destination, unless the read failed (R267, R268). -/
def State.granuleRead : State × Except MemErr (List Byte) → State
  | (s1, .error e) => s.copyFailed id o l s1 false e
  | (s1, .ok b) =>
    if o.toPad then s1.granulePut id code m b (s.granuleTarget code o)
    else s.granuleStored id code o m l (s1.store (s.agentOf o.block l.key) (m.dst + 16 * (code % 2 ^ 21)) b)

end

section
variable {s : State} {id code : Nat} {o : Op} {m : Move} {l : LaneOp}

/-- A granule of an instruction that runs moves where nothing holds it back (R267, R269). -/
theorem State.copyPart_eq (hop : s.op? id = some o) (hmove : o.move = some m) (hlead : o.leader = some l) (hlive : s.live o.block)
    (htodo : m.todo.contains code) (hsent : l.stage = .sent) :
    s.copyPart id code =
      if s.granuleBlocked id code o m l then s
      else s.granuleRead id code o m l
        (s.copyLoad o (s.agentOf o.block l.key) o.fromPad (m.src + 16 * (code % 2 ^ 21)) 16) := by
  simp only [State.copyPart, hop, hmove, hlead, htodo, hlive, hsent, Bool.not_true, bne_self_eq_false, Bool.false_or, Op.fromPad_eq,
    Op.toPad_eq, State.granuleTarget_eq]
  refine ite_congr rfl (fun _ => rfl) (fun _ => ?_)
  rcases s.copyLoad _ _ _ _ _ with ⟨s1, e | b⟩
  · cases e <;> rfl
  refine ite_congr rfl (fun _ => ?pad) (fun _ => ?memory)
  case pad => cases s.granuleTarget code o <;> rfl
  case memory =>
    rcases s1.store _ _ _ with ⟨s2, (k | a | _) | _⟩
    case error.poisoned =>
      simp only [State.granuleStored]
      rcases s.wholeLine _ _ _ _ with _ | ⟨base, n⟩
      · rfl
      simp only [State.poisonMet]
      rcases s.copyLine _ _ _ _ _ _ with ⟨s3, e | _⟩
      · cases e <;> rfl
      · rfl
    all_goals rfl

theorem State.granuleRead_toPad {s1 : State} {b : List Byte} {target : Option Nat} (hd : o.toPad) (ht : s.granuleTarget code o = target) :
    s.granuleRead id code o m l (s1, .ok b) = s1.granulePut id code m b target :=
  ht ▸ if_pos hd

theorem State.granuleRead_toMemory {s1 : State} {b : List Byte} {r : State × Except MemErr Unit} (hd : ¬o.toPad)
    (hr : s1.store (s.agentOf o.block l.key) (m.dst + 16 * (code % 2 ^ 21)) b = r) :
    s.granuleRead id code o m l (s1, .ok b) = s.granuleStored id code o m l r :=
  hr ▸ if_neg hd

theorem State.granuleStored_poisoned {s2 : State} {a : Nat} {line : Option (Nat × Nat)}
    (hl : s.wholeLine (s.agentOf o.block l.key) (m.dst + 16 * (code % 2 ^ 21)) m.dst m.len = line) :
    s.granuleStored id code o m l (s2, .error (.poisoned a)) = s.poisonMet id o m l s2 a line :=
  hl ▸ rfl

theorem State.poisonMet_line {s2 : State} {a base n : Nat} {r : State × Except MemErr Unit}
    (hr : s.copyLine o (s.agentOf o.block l.key) o.fromPad m base n = r) :
    s.poisonMet id o m l s2 a (some (base, n)) = s.lineWritten id o m l base n r :=
  hr ▸ rfl

section
variable (hop : s.op? s.sel.x = some o) (hmove : o.move = some m) (hlead : o.leader = some l) (hlive : s.live o.block)
  (htodo : m.todo.contains s.sel.y) (hsent : l.stage = .sent)
include hop hmove hlead hlive htodo hsent

/-- A granule whose access is held back waits (R312, R325). -/
theorem execCopyGranule_blocked (hb : s.granuleBlocked s.sel.x s.sel.y o m l) : execCopyGranule s = .next s := by
  simp only [execCopyGranule, hop, State.copyPart_eq hop hmove hlead hlive htodo hsent, hb, if_true, ite_self]

/-- Any other is read from its source (R267, R269). -/
theorem execCopyGranule_reads (hopc : o.opc = 0x8C ∨ o.opc = 0x8D) (hb : s.granuleBlocked s.sel.x s.sel.y o m l = false)
    {r : State × Except MemErr (List Byte)}
    (hr : s.copyLoad o (s.agentOf o.block l.key) o.fromPad (m.src + 16 * (s.sel.y % 2 ^ 21)) 16 = r) :
    execCopyGranule s = .next (s.granuleRead s.sel.x s.sel.y o m l r) := by
  simp only [execCopyGranule, hop, State.copyPart_eq hop hmove hlead hlive htodo hsent, hb, hr, Bool.false_eq_true, if_false,
    Bool.or_eq_true, decide_eq_true_eq, hopc, if_true]

end

end

/-! ## Ends of copies -/

/-- The destination is in the scratchpad of the copy's block, whose granules become full at its end (R266, R267). -/
def Op.fillsPad (o : Op) : Bool := o.opc = 0x8C ∧ (Rule.sub o.f = 0 ∨ Rule.sub o.f = 3)

theorem Op.fillsPad_eq (o : Op) :
    (decide (o.opc = 0x8C) && (decide (Rule.sub o.f = 0) || decide (Rule.sub o.f = 3))) = o.fillsPad := by
  simp only [Op.fillsPad, Bool.decide_and, Bool.decide_or]

section
variable {s : State} {id : Nat} {o : Op} (hop : s.op? id = some o)
include hop

/-- A copy does not end while something is left to move, nor while its full bits wait for its thread's accesses (R267, R314). -/
theorem State.endCopy_waits (h : o.copied = false ∨ o.fillsPad ∧ s.fullReady id o = false) : s.endCopy id = s := by
  simp only [State.endCopy, hop, Op.fillsPad_eq]
  rcases h with h | ⟨hp, hr⟩
  · exact if_pos (by simp [h])
  · exact if_pos (by simp [hp, hr])

variable {m : Move} (hmove : o.move = some m) (hlive : s.live o.block)
include hmove hlive

/-- What the end of a copy leaves (R267, R269). -/
theorem State.endCopy_copied (hc : o.copied) (hr : o.fillsPad → s.fullReady id o) :
    s.endCopy id = ((if o.fillsPad then s.updBlock o.block (fun b => b.markRange m.dst m.len true) else s).updOp id (fun u =>
      { u with lanes := u.lanes.map (fun l =>
        { l with stage := .done, res := if o.opc = 0x8D then [BitVec.ofNat 32 (maskOf m.dropped)] else [] }) })).finishOp id := by
  simp only [State.endCopy, hop, hmove, hc, hlive, Op.fillsPad_eq]
  exact if_neg (by simpa using hr)

end

/-! ## Deliveries -/

section
variable (s : State) (id pos : Nat) (m : Move)

/-- A position that a multicast copy drops (R269). -/
def State.positionDropped : State :=
  s.updOp id (fun o => { o with move := some { m with
    wait := m.wait.filter (fun p => p != pos)
    dropped := m.dropped ++ [pos] } })

/-- A delivery that has begun: its granules in the receiver are empty, and are still to be moved (R269). -/
def State.deliveryBegun (blk : Nat) : State :=
  (s.updBlock blk (fun b => b.markRange m.dst m.len false)).updOp id (fun o => { o with move := some { m with
    wait := m.wait.filter (fun p => p != pos)
    busy := m.busy ++ [pos]
    todo := m.todo ++ (List.range (m.len / 16)).map (fun i => pos * 2 ^ 21 + i) } })

/-- A delivery begins in a block that is saved, or that its core has a lock for; else it waits (R269, R270). -/
def State.deliverTo (blk : Nat) (b : Block) : State :=
  match b.core with
  | none => s.deliveryBegun id pos m blk
  | some c =>
    if b.saving ∨ s.freeLocks c = 0 then s
    else (s.setLocks (s.v.locks ++ [⟨c, id, true, some blk, 0, m.dst, m.dst + m.len⟩])).deliveryBegun id pos m blk

/-- A delivery that is no longer under way. -/
def State.deliveryOver : State :=
  s.updOp id (fun o => { o with move := some { m with busy := m.busy.filter (fun p => p != pos) } })

/-- A delivery that has ended in its receiver: the granules are full, and the lock is gone (R269). -/
def State.deliveryFilled (blk : Nat) : State :=
  let t := (s.deliveryOver id pos m).updBlock blk (fun b => b.markRange m.dst m.len true)
  t.setLocks (t.v.locks.filter (fun k => !(k.owner == id && k.dst && k.block == some blk)))

end

section
variable {s : State} {id pos : Nat} {o : Op} {m : Move} (hop : s.op? id = some o) (hmove : o.move = some m) (hopc : o.opc = 0x8D)
include hop hmove hopc

section
variable (hlive : s.live o.block) (hwait : m.wait.contains pos)
include hlive hwait

/-- A delivery to a position without a block drops it (R269). -/
theorem State.beginDelivery_nobody (hn : s.receiver o pos = none) : s.beginDelivery id pos = s.positionDropped id pos m := by
  simp only [State.beginDelivery, hop, hmove, hopc, hwait, hlive, hn]
  rfl

/-- So does one to a block that has retired, or that the copy does not fit (R269, R270). -/
theorem State.beginDelivery_eq {blk : Nat} {b : Block} (hb : s.receiver o pos = some (blk, b)) :
    s.beginDelivery id pos =
      if s.retired blk ∨ s.scratchSize blk < m.dst + m.len then s.positionDropped id pos m else s.deliverTo id pos m blk b := by
  have parts : (Move.restart { m with wait := m.wait.filter (fun p => p != pos) } [pos]).todo
      = (List.range (m.len / 16)).map (fun i => pos * 2 ^ 21 + i) := List.flatMap_singleton _ _
  simp only [State.beginDelivery, hop, hmove, hopc, hwait, hlive, hb, parts, State.deliverTo, Bool.or_eq_true, decide_eq_true_eq]
  rfl

end

variable (hbusy : m.busy.contains pos)
include hbusy

/-- A delivery does not end while granules of it are still to be moved, nor before its full bits may be set (R269, R314). -/
theorem State.endDelivery_waits (h : m.todo.any (fun c => c / 2 ^ 21 == pos) ∨ s.fullReady id o = false) :
    s.endDelivery id pos = s := by
  simp only [State.endDelivery, hop, hmove, hopc, hbusy]
  exact if_pos (by simpa using h)

variable (hmoved : m.todo.all (fun c => c / 2 ^ 21 != pos)) (hr : s.fullReady id o)
include hmoved hr

/-- The end of a delivery to a position that has no block any more. -/
theorem State.endDelivery_nobody (hn : s.receiver o pos = none) : s.endDelivery id pos = s.deliveryOver id pos m := by
  have moved : m.todo.any (fun c => c / 2 ^ 21 == pos) = false := by simpa using hmoved
  simp only [State.endDelivery, hop, hmove, hopc, hbusy, moved, hr, hn]
  rfl

/-- The end of a delivery frees a receiver that retired meanwhile (R269, R270). -/
theorem State.endDelivery_eq {blk : Nat} {b : Block} (hb : s.receiver o pos = some (blk, b)) :
    s.endDelivery id pos =
      let t := s.deliveryFilled id pos m blk
      if t.v.threads.any (fun p => p.2.block == blk) then t else t.retireBlock blk := by
  have moved : m.todo.any (fun c => c / 2 ^ 21 == pos) = false := by simpa using hmoved
  simp only [State.endDelivery, hop, hmove, hopc, hbusy, moved, hr, hb]
  rfl

end

end Sys2Proof.Machine

namespace Sys2Proof.Proofs

open Sys2Proof.Machine

/-- Settles O20: a granule by what its read and its write answer, a delivery by its receiver, the end of a copy by whether its full
bits may be set. -/
theorem copySteps : Obligations.CopySteps := by
  intro s o m l id pos hop hmove hlead hlive moving
  dsimp -zeta only [exec]
  refine ⟨?granule, fun hc => congrArg _ (State.endCopy_waits hop (.inl hc)), ?ends, ?begins, ?delivered⟩
  case granule =>
    intro htodo hsent hopc ag src dst srcPad dstPad target blocked read moved failed
    refine ⟨execCopyGranule_blocked hop hmove hlead hlive htodo hsent, fun hb => ?_⟩
    have reads {r} (hr : read = r) := execCopyGranule_reads hop hmove hlead hlive htodo hsent hopc hb hr
    refine ⟨fun s1 e hr => ?_, fun s1 b hr => ?_⟩
    · cases e <;> exact reads hr
    have puts (hd : dstPad) {t} (ht : target = t) := (reads hr).trans (congrArg _ (State.granuleRead_toPad (decide_eq_true hd) ht))
    have stores (hd : ¬dstPad) {r} (hw : s1.store ag dst b = r) :=
      (reads hr).trans (congrArg _ (State.granuleRead_toMemory (mt of_decide_eq_true hd) hw))
    refine ⟨fun hd blk ht => puts hd ht, fun hd ht => puts hd ht, fun hd =>
      ⟨fun s2 hw => stores hd hw, fun s2 k a hw => stores hd hw, fun s2 hw => stores hd hw, fun s2 a hw => ?_⟩⟩
    have poisons {line} (hl : s.wholeLine ag dst m.dst m.len = line) :=
      (stores hd hw).trans (congrArg _ (State.granuleStored_poisoned hl))
    refine ⟨fun hl => poisons hl, fun base n hl => ?_⟩
    have lines {r} (hc : s.copyLine o ag srcPad m base n = r) := (poisons hl).trans (congrArg _ (State.poisonMet_line hc))
    exact ⟨fun s3 e hc => by cases e <;> exact lines hc, fun s3 hc => lines hc⟩
  case ends =>
    intro hc filled result
    refine ⟨fun hp hr => congrArg _ (State.endCopy_waits hop (.inr ⟨decide_eq_true hp, hr⟩)), fun hr => ?_⟩
    have ends := State.endCopy_copied hop hmove hlive hc (fun hp => hr (of_decide_eq_true hp))
    simp only [Op.fillsPad, decide_eq_true_eq] at ends
    exact congrArg _ ends
  case begins =>
    intro hopc hwait begun dropped parts delivering
    refine ⟨fun hn => congrArg _ (State.beginDelivery_nobody hop hmove hopc hlive hwait hn), fun blk b hb => ?_⟩
    have begins := State.beginDelivery_eq hop hmove hopc hlive hwait hb
    refine ⟨fun h => congrArg _ (begins.trans (if_pos h)), fun hnew hfits => ?_⟩
    have delivers : s.beginDelivery id pos = s.deliverTo id pos m blk b := begins.trans (if_neg (by simp [hnew, hfits]))
    simp only [State.deliverTo] at delivers
    refine ⟨fun hc => ?_, fun c hc h => ?_, fun c hc hs hf => ?_⟩ <;> rw [hc] at delivers
    · exact congrArg _ delivers
    · exact congrArg _ (delivers.trans (if_pos h))
    · exact congrArg _ (delivers.trans (if_neg (by simp [hs, hf])))
  case delivered =>
    intro hopc hbusy left
    refine ⟨fun h => congrArg _ (State.endDelivery_waits hop hmove hopc hbusy h), fun hmoved hr =>
      ⟨fun hn => congrArg _ (State.endDelivery_nobody hop hmove hopc hbusy hmoved hr hn), fun blk b hb => ?_⟩⟩
    have ends := State.endDelivery_eq hop hmove hopc hbusy hmoved hr hb
    intro full freed
    refine ⟨fun h => congrArg _ (ends.trans (if_pos h)), fun h => ?_⟩
    have nobody : freed.v.threads.any (fun p => p.2.block == blk) = false := by simpa using h
    exact congrArg _ (ends.trans (if_neg (Bool.eq_false_iff.mp nobody)))

end Sys2Proof.Proofs
end

section
/-! Floating-point arithmetic that rounds, and conversions (R283, R288 to R290, R295 to R297). -/

namespace Sys2Proof.Machine

open Sys2Proof.Laws Sys2Proof.Claims

/-- FArith where the slot issues: each executing lane rounds its exact elements once and goes on from its last draw (R283). -/
theorem State.floatOp_next {s : State} {op : Nat} {f : Slot} {g : Group} {exact : Group → Thread → Nat → Val}
    (h : issuesB s op f g) :
    s.floatOp op f exact = .next (kept s op f g (ran s f g (arith s f (fun l => exact g l.th)))) :=
  lanewise_next h

end Sys2Proof.Machine

namespace Sys2Proof.Proofs

open Sys2Proof.Machine Sys2Proof.Laws Sys2Proof.Claims

/-- Settles O3: the first six rows are FArith with the exact value of each; FRND and the conversions are lanewise with a rounding of
their own. -/
theorem floatResults : Obligations.FloatResults := by
  intro s f g
  simp only [floatRows, List.forall_mem_cons]
  dsimp only [exec]
  exact ⟨State.floatOp_next, State.floatOp_next, State.floatOp_next, State.floatOp_next, State.floatOp_next, State.floatOp_next,
    lanewise_next, lanewise_next, lanewise_next, lanewise_next, List.forall_mem_nil _⟩

end Sys2Proof.Proofs
end

section
/-! Fences, block barriers and stage barriers at issue (R324 to R329, R332). -/

namespace Sys2Proof.Machine

open Sys2Proof.Laws Sys2Proof.Claims

section
variable {s : State} {f : Slot} {g : Group}

theorem plainLanes_outsideTx (ho : outsideTx s g f) : plainLanes (s.lanesOf g f) = running s g f := running_outsideTx ho

theorem instrAborts_outsideTx (ho : outsideTx s g f) : instrAborts (s.lanesOf g f) = [] := by
  rw [instrAborts, aborting_outsideTx ho, List.map_nil]

/-- A FENCE is outstanding in every executing lane (R325). -/
theorem execFence_next (h : issues s 0xB0 f g) (ho : outsideTx s g f) :
    execFence f s = .next (kept s 0xB0 f g (setOff s 0xB0 f g ((running s g f).map (fun l => laneOp l 0 [] [] .sent)))) := by
  refine State.issue_after h ?_
  simp only [plainLanes_outsideTx ho, instrAborts_outsideTx ho, List.isEmpty_nil, Bool.not_true, Bool.and_false, Bool.false_eq_true,
    if_false]
  exact finish_plain

/-- Lanes without a pending arrival arrive, and the phase completes where they are the last (R328). -/
theorem execBarArrive_next (h : issues s 0xB1 f g) (ho : outsideTx s g f)
    (hn : (running s g f).all (fun l => !l.th.barPend.getLsbD (barNo f))) :
    execBarArrive f s = .next (kept s 0xB1 f g
      ((((running s g f).foldl (fun s l => s.arriveLane g.block (barNo f) l) s).advance s.cur.group g (s.lanesOf g f)).tryPhase
        g.block (barNo f))) := by
  have again : (running s g f).filter (fun l => l.th.barPend.getLsbD (barNo f)) = [] := by simpa using hn
  have first : (running s g f).filter (fun l => !l.th.barPend.getLsbD (barNo f)) = running s g f := by simpa using hn
  refine State.issue_after h ?_
  simp only [plainLanes_outsideTx ho, instrAborts_outsideTx ho, again, first, List.map_nil, finish_plain]
  rfl

variable {b : Block} (hb : s.block? g.block = some b)
include hb

/-- Where no lane waits at the barrier, every pending arrival is over (R328, R329). -/
theorem execBarWait_goes (h : issues s 0xB2 f g) (ho : outsideTx s g f)
    (hn : (running s g f).all (fun l => !s.waitsAt b (barNo f) l.th)) :
    execBarWait f s = .next (kept s 0xB2 f g
      ((s.eachLane (running s g f) (fun _ t => { t with barPend := t.barPend &&& ~~~(1#16 <<< barNo f) })).advance s.cur.group g
        (s.lanesOf g f))) := by
  have none_waits : (running s g f).any (fun l => s.waitsAt b (barNo f) l.th) = false := by simpa using hn
  have all_go : (running s g f).filter (fun l => !s.waitsAt b (barNo f) l.th) = running s g f := by simpa using hn
  refine State.issue_after h ?_
  simp only [hb, plainLanes_outsideTx ho, instrAborts_outsideTx ho, none_waits, all_go, Bool.false_eq_true, if_false]
  exact finish_plain

/-- A lane that waits keeps the group at the barrier; the arrivals of the others are over (R328, R329). -/
theorem execBarWait_parks (h : issues s 0xB2 f g) (ho : outsideTx s g f)
    (hw : (running s g f).any (fun l => s.waitsAt b (barNo f) l.th)) :
    execBarWait f s = .next (kept s 0xB2 f g
      ((s.eachLane ((running s g f).filter (fun l => !s.waitsAt b (barNo f) l.th))
        (fun _ t => { t with barPend := t.barPend &&& ~~~(1#16 <<< barNo f) })).park s.cur.group .barrier)) := by
  refine State.issue_after h ?_
  simp only [hb, plainLanes_outsideTx ho, hw, if_true]

/-- Where every executing lane passes its checks, SBAR.WAIT is held while one is behind an access of its granule, and its group waits
while one still finds the phase of its token (R315, R325, R332). -/
theorem execSbarWait_decides (h : issues s 0xB5 f g) (ho : outsideTx s g f) {ea : LaneV → Nat}
    (hea : ∀ l ∈ running s g f, s.checkLane 0xB5 f (s.coreOfBlock g.block) g.block l = .go (ea l)) :
    execSbarWait f s = .next (s.settleSlot
      (if (running s g f).any (fun l => behindStage s l.key (ea l)) then s.held
        else if (running s g f).any (fun l => ofBytes (b.bytes (ea l) 2) == l.th.val f.b.toNat 1 % 65536) then
          (s.park s.cur.group .stage).after
        else (s.advance s.cur.group g (s.lanesOf g f)).after) s.cur.group g 0xB5 f) := by
  have checks : (running s g f).map (fun l => (l, s.checkLane 0xB5 f (s.coreOfBlock g.block) g.block l)) =
      (running s g f).map (fun l => (l, Checked.go (ea l))) :=
    List.map_congr_left fun l hl => by rw [hea l hl]
  have no_traps : (running s g f).filterMap (fun _ => (none : Option (Nat × Trap))) = [] :=
    List.filterMap_eq_nil_iff.mpr fun _ _ => rfl
  refine (issue_next h).trans ?_
  simp only [plainLanes_outsideTx ho, instrAborts_outsideTx ho, checks, List.any_map, List.filterMap_map, Function.comp_def,
    no_traps, hb, finish_plain]
  rfl

end

end Sys2Proof.Machine

namespace Sys2Proof.Proofs

open Sys2Proof.Machine Sys2Proof.Laws Sys2Proof.Claims

/-- Settles O14: outside transactions the executing lanes are all that a fence or barrier acts on; SBAR.WAIT goes by whether a lane is
behind an access of its granule, and then by whether one has the word that it waits on. -/
theorem orderResults : Obligations.OrderResults := by
  intro s f g b hb ho gid ls run n
  refine ⟨fun h => execFence_next h ho, fun h => execBarArrive_next h ho, fun h => execBarWait_goes hb h ho,
    fun h => execBarWait_parks hb h ho, ?_⟩
  intro h ea hea same
  have decides : exec (.sbarWait f) s = .next (s.settleSlot
      (if run.any (fun l => behindStage s l.key (ea l)) then s.held
        else if run.any same then (s.park gid .stage).after else (s.advance gid g ls).after) gid g 0xB5 f) :=
    execSbarWait_decides hb h ho hea
  refine ⟨fun hgo => ?_, fun hfree hsame => ?_, fun hbehind => ?_⟩
  · simp only [List.all_eq_true, Bool.and_eq_true, Bool.not_eq_true'] at hgo
    have free : run.any (fun l => behindStage s l.key (ea l)) = false := by simpa using fun l hl => (hgo l hl).1
    have moved : run.any same = false := by simpa using fun l hl => (hgo l hl).2
    rw [if_neg (Bool.eq_false_iff.mp free), if_neg (Bool.eq_false_iff.mp moved)] at decides
    exact decides
  · have free : run.any (fun l => behindStage s l.key (ea l)) = false := by simpa using hfree
    rw [if_neg (Bool.eq_false_iff.mp free), if_pos hsame] at decides
    exact decides
  · rw [if_pos hbehind] at decides
    exact decides

end Sys2Proof.Proofs
end

section
/-! Transactions: TBEGIN, TCOMMIT and TABORT at issue (R335, R340, R342 to R346). -/

namespace Sys2Proof.Machine

open Sys2Proof.Laws Sys2Proof.Claims

@[simp] theorem State.eachLane_nextId (s : State) (ls : List LaneV) (e : LaneV → Thread → Thread) :
    (s.eachLane ls e).nextId = s.nextId := by
  rw [eachLane_rest]
  rfl

/-- An issue that aborts transactions and decides nothing else (R344). -/
theorem State.finish_aborts {s s1 : State} {g : Group} {ls : List LaneV} {aborts : List (Nat × Abort × Nat)} (hne : aborts ≠ []) :
    s1.finish s.cur.group g ls ⟨[], [], [], aborts⟩ = (gaveUp s s1 g ls aborts).after := by
  have nonempty : aborts.isEmpty = false := List.isEmpty_eq_false_iff.mpr hne
  simp only [State.finish, List.filter_nil, List.map_nil, List.append_nil, List.isEmpty_nil, nonempty, Bool.true_and, Bool.false_and,
    Bool.false_eq_true, if_false, if_true, List.any_nil, List.find?_nil, List.foldl_nil]
  rfl

theorem txDepth_eq_one (t : Thread) : (txDepth t == 1) = t.tx.any (fun x => x.depth == 1) := by
  unfold txDepth
  cases t.tx <;> rfl

section
variable {s : State} {f : Slot} {g : Group}

/-- TBEGIN opens a transaction, or goes one level down, where no lane is at the deepest level (R335). -/
theorem execTbegin_opens (h : issues s 0xB6 f g) (hd : (running s g f).all (fun l => decide (txDepth l.th < 15))) :
    execTbegin f s = .next (kept s 0xB6 f g
      ((s.eachLane (running s g f) (fun l t => beginTx g.pc f.d.toNat s.clock l.th t)).advance s.cur.group g (s.lanesOf g f))) := by
  have opening : (running s g f).filter (fun l => decide (txDepth l.th < 15)) = running s g f := by simpa using hd
  have nesting : (running s g f).filter (fun l => decide (15 ≤ txDepth l.th)) = [] := by simpa using hd
  refine State.issue_after h ?_
  rw [running] at opening nesting
  simp only [opening, nesting]
  exact finish_plain

/-- At the deepest level it aborts with NEST (R335). -/
theorem execTbegin_aborts (h : issues s 0xB6 f g) (hr : running s g f ≠ [])
    (hd : (running s g f).all (fun l => decide (15 ≤ txDepth l.th))) :
    execTbegin f s = .next (kept s 0xB6 f g
      (gaveUp s s g (s.lanesOf g f) ((running s g f).map (fun l => (l.key, .nest, 0))))) := by
  have opening : (running s g f).filter (fun l => decide (txDepth l.th < 15)) = [] := by simpa using hd
  have nesting : (running s g f).filter (fun l => decide (15 ≤ txDepth l.th)) = running s g f := by simpa using hd
  refine State.issue_after h ?_
  rw [running] at opening nesting
  simp only [opening, nesting]
  exact State.finish_aborts (mt List.map_eq_nil_iff.mp hr)

theorem running_inTx : (s.lanesOf g f).filter (fun l => l.run && l.inTx) = (running s g f).filter (·.inTx) := by
  simp only [running, List.filter_filter, Bool.and_comm]

/-- TABORT aborts every executing lane that has a transaction open, and does nothing else (R346). -/
theorem execTabort_aborts (h : issues s 0xB8 f g) (hx : (running s g f).any (·.inTx)) :
    execTabort f s = .next (kept s 0xB8 f g (gaveUp s s g (s.lanesOf g f)
      (((running s g f).filter (·.inTx)).map (fun l => (l.key, .explicit, f.i32.toNat % 256))))) := by
  refine State.issue_after h ?_
  rw [running_inTx]
  exact State.finish_aborts (by simpa using hx)

/-- Outside transactions it has no effect (R346). -/
theorem execTabort_plain (h : issues s 0xB8 f g) (hx : (running s g f).all (fun l => !l.inTx)) :
    execTabort f s = .next (kept s 0xB8 f g (s.advance s.cur.group g (s.lanesOf g f))) := by
  have outside : (running s g f).filter (·.inTx) = [] := by simpa using hx
  refine State.issue_after h ?_
  rw [running_inTx, outside]
  exact finish_plain

/-! ## TCOMMIT -/

/-- The lanes of a TCOMMIT with their transactions, in the order of its loop: those in lock mode first (R340). -/
def commitOrder (run : List LaneV) : List (LaneV × Tx) :=
  let txs := run.filterMap (fun l => l.th.tx.map (fun x => (l, x)))
  txs.filter (·.2.lock) ++ txs.filter (fun p => !p.2.lock)

/-- TCOMMIT at depth 2 or more (R335). -/
def Thread.outward (t : Thread) : Thread := { t with tx := t.tx.map (fun x => { x with depth := x.depth - 1 }) }

/-- What TCOMMIT gives a lane (R335, R340): the status NOTX, 0 one level up, or a wait for its ticket if it survives. -/
def commitLane (survivors : List LaneV) (l : LaneV) : Option LaneOp :=
  if txDepth l.th = 0 then some { laneOp l 0 [] [] .done with res := [BitVec.ofNat 32 (statusWord 0 false false 0 0 14)] }
  else if 2 ≤ txDepth l.th then some { laneOp l 0 [] [] .done with res := [0] }
  else if survivors.any (fun x => x.key == l.key) then some (laneOp l 0 [] [] .sent)
  else none

/-- What TCOMMIT leaves, from `s1`, with the lanes that it holds on to and those that it aborts (R340, R344). -/
def commitEnd (s s1 : State) (f : Slot) (g : Group) (lanes : List LaneOp) (aborts : List (Nat × Abort × Nat)) : State :=
  if aborts = [] then ((s1.startOp s.cur.group g 0xB7 f lanes).1.advance s.cur.group g (s.lanesOf g f)).repark s1.nextId
  else if lanes = [] then gaveUp s s1 g (s.lanesOf g f) aborts
  else (gaveUp s (s1.startOp s.cur.group g 0xB7 f lanes).1 g (s.lanesOf g f) aborts).repark s1.nextId

theorem commitEnd_eq {s1 : State} {lanes : List LaneOp} {aborts : List (Nat × Abort × Nat)} :
    (if lanes.isEmpty && !aborts.isEmpty then s1.finish s.cur.group g (s.lanesOf g f) ⟨[], [], [], aborts⟩
      else
        let n := s1.startOp s.cur.group g 0xB7 f lanes
        let r := n.1.finish s.cur.group g (s.lanesOf g f) ⟨[], [], [], aborts⟩
        (r.1.repark n.2, r.2)) = (commitEnd s s1 f g lanes aborts).after := by
  cases aborts with
  | nil =>
    rw [List.isEmpty_nil, Bool.not_true, Bool.and_false, finish_plain]
    rfl
  | cons a as =>
    dsimp only
    rw [State.finish_aborts (List.cons_ne_nil a as), State.finish_aborts (List.cons_ne_nil a as)]
    cases lanes <;> rfl

/-- TCOMMIT: lanes at depth 2 or more go one level up, the outermost are resolved, and the survivors wait (R335, R340). -/
theorem execTcommit_eq (h : issues s 0xB7 f g) {outer : List LaneV} {s1 : State}
    (ho : (running s g f).filter (fun l => txDepth l.th == 1) = outer)
    (hs : s.eachLane ((running s g f).filter (fun l => 2 ≤ txDepth l.th)) (fun _ => Thread.outward) = s1) :
    execTcommit f s = .next (kept s 0xB7 f g (commitEnd s s1 f g
      ((running s g f).filterMap (commitLane (resolveLanes (commitOrder outer) []).1)) (resolveLanes (commitOrder outer) []).2)) := by
  subst ho hs
  exact State.issue_after h commitEnd_eq

/-- Only what TCOMMIT gives the executing lanes matters. -/
theorem filterMap_lanes_congr {run : List LaneV} {p q : LaneV → Option LaneOp} (h : ∀ l ∈ run, p l = q l) :
    run.filterMap p = run.filterMap q := by
  have same := congrArg (List.filterMap id) (List.map_congr_left h)
  rw [List.filterMap_map, List.filterMap_map] at same
  exact same

theorem filterMap_commitLane_closed {run survivors : List LaneV} (hd : ∀ l ∈ run, txDepth l.th = 0) :
    run.filterMap (commitLane survivors) =
      run.map (fun l => { laneOp l 0 [] [] .done with res := [BitVec.ofNat 32 (statusWord 0 false false 0 0 14)] }) := by
  rw [← List.filterMap_eq_map]
  exact filterMap_lanes_congr fun l hl => if_pos (hd l hl)

theorem filterMap_commitLane_inner {run survivors : List LaneV} (hd : ∀ l ∈ run, 2 ≤ txDepth l.th) :
    run.filterMap (commitLane survivors) = run.map (fun l => { laneOp l 0 [] [] .done with res := [0] }) := by
  rw [← List.filterMap_eq_map]
  refine filterMap_lanes_congr fun l hl => ?_
  have deep := hd l hl
  exact (if_neg (by omega)).trans (if_pos deep)

theorem filterMap_commitLane_outer {run survivors : List LaneV} (hd : ∀ l ∈ run, txDepth l.th = 1) :
    run.filterMap (commitLane survivors) =
      (run.filter (fun l => survivors.any (fun x => x.key == l.key))).map (fun l => laneOp l 0 [] [] .sent) := by
  rw [← List.filterMap_eq_map, List.filterMap_filter]
  refine filterMap_lanes_congr fun l hl => ?_
  have outermost := hd l hl
  exact (if_neg (by omega)).trans (if_neg (by omega))

theorem commitOrder_one {l : LaneV} {x : Tx} (hx : l.th.tx = some x) : commitOrder [l] = [(l, x)] := by
  cases hl : x.lock <;> simp [commitOrder, hx, hl]

/-- Two lanes stand in their own order, unless only the second is in lock mode (R340). -/
theorem commitOrder_two {l l' : LaneV} {x x' : Tx} (hx : l.th.tx = some x) (hx' : l'.th.tx = some x')
    (hl : x.lock = true ∨ x'.lock = false) : commitOrder [l, l'] = [(l, x), (l', x')] := by
  rcases hl with first | second
  · cases second : x'.lock <;> simp [commitOrder, hx, hx', first, second]
  · cases first : x.lock <;> simp [commitOrder, hx, hx', first, second]

/-- A TCOMMIT outside transactions answers NOTX in every executing lane (R335). -/
theorem execTcommit_closed (h : issues s 0xB7 f g) (hd : (running s g f).all (fun l => decide (txDepth l.th = 0))) :
    execTcommit f s = .next (kept s 0xB7 f g ((setOff s 0xB7 f g ((running s g f).map (fun l =>
      { laneOp l 0 [] [] .done with res := [BitVec.ofNat 32 (statusWord 0 false false 0 0 14)] }))).repark s.nextId)) := by
  simp only [List.all_eq_true, decide_eq_true_eq] at hd
  have outer : (running s g f).filter (fun l => txDepth l.th == 1) = [] := by simpa using fun l hl => by simp [hd l hl]
  have inner : (running s g f).filter (fun l => 2 ≤ txDepth l.th) = [] := by simpa using fun l hl => by simp [hd l hl]
  rw [execTcommit_eq h outer (by rw [inner]), filterMap_commitLane_closed hd]
  rfl

/-- At depth 2 or more in every executing lane, it goes one level up in each (R335). -/
theorem execTcommit_inner (h : issues s 0xB7 f g) (hd : (running s g f).all (fun l => decide (2 ≤ txDepth l.th))) :
    execTcommit f s = .next (kept s 0xB7 f g
      ((((s.eachLane (running s g f) (fun _ => Thread.outward)).startOp s.cur.group g 0xB7 f
        ((running s g f).map (fun l => { laneOp l 0 [] [] .done with res := [0] }))).1.advance s.cur.group g (s.lanesOf g f)).repark
          s.nextId)) := by
  simp only [List.all_eq_true, decide_eq_true_eq] at hd
  have outer : (running s g f).filter (fun l => txDepth l.th == 1) = [] := by
    simpa using fun l hl => by have := hd l hl; omega
  have inner : (running s g f).filter (fun l => 2 ≤ txDepth l.th) = running s g f := by simpa using hd
  rw [execTcommit_eq h outer (by rw [inner]), filterMap_commitLane_inner hd,
    show (resolveLanes (commitOrder []) []).2 = [] from rfl, commitEnd, if_pos rfl, State.eachLane_nextId]

/-- At depth 1 in every executing lane, the lanes are resolved among themselves, and those that survive wait (R340). -/
theorem execTcommit_outer (h : issues s 0xB7 f g) {run : List LaneV} (hrun : running s g f = run)
    (hd : run.all (fun l => l.th.tx.any (fun x => x.depth == 1))) {r : List LaneV × List (Nat × Abort × Nat)}
    (hres : resolveLanes (commitOrder run) [] = r) :
    execTcommit f s = .next (kept s 0xB7 f g (commitEnd s s f g
      ((run.filter (fun l => r.1.any (fun x => x.key == l.key))).map (fun l => laneOp l 0 [] [] .sent)) r.2)) := by
  subst hrun hres
  simp only [← txDepth_eq_one, List.all_eq_true, beq_iff_eq] at hd
  have outer : (running s g f).filter (fun l => txDepth l.th == 1) = running s g f := by simpa using hd
  have inner : (running s g f).filter (fun l => 2 ≤ txDepth l.th) = [] := by simpa using fun l hl => by simp [hd l hl]
  rw [execTcommit_eq h outer (by rw [inner]), filterMap_commitLane_outer hd]
  rfl

/-- One lane has nothing before it: it survives unless it is doomed (R339, R340). -/
theorem resolve_one {l : LaneV} {x : Tx} (hx : l.th.tx = some x) :
    resolveLanes (commitOrder [l]) [] = if x.doomed then ([], [(l.key, .conflict, 0)]) else ([l], []) := by
  rw [commitOrder_one hx]
  rfl

/-- Of two lanes, the second aborts where it touches what the first writes (R340). -/
theorem resolve_two {l l' : LaneV} {x x' : Tx} (hx : l.th.tx = some x) (hx' : l'.th.tx = some x')
    (hl : x.lock = true ∨ x'.lock = false) (hlive : x.doomed = false) (hlive' : x'.doomed = false)
    (hw : x.writes.any (fun p => x'.touches p.1 p.2)) :
    resolveLanes (commitOrder [l, l']) [] = ([l], [(l'.key, .lane, 0)]) := by
  rw [commitOrder_two hx hx' hl]
  simp [resolveLanes, hlive, hlive', hw]

end

end Sys2Proof.Machine

namespace Sys2Proof.Proofs

open Sys2Proof.Machine Sys2Proof.Laws Sys2Proof.Claims

/-- Settles O15: TBEGIN and TABORT by the lanes that they abort, TCOMMIT by the depth of its lanes and, at depth 1, by what becomes of
them among themselves. -/
theorem txResults : Obligations.TxResults := by
  intro s f g gid ls run
  refine ⟨execTbegin_opens, execTcommit_closed, execTcommit_inner, fun h l x hr hx hd hlive => ?_, execTabort_plain,
    execTbegin_aborts, fun h l x hr hx hd hdoomed => ?_, fun h l x l' x' hr hkey hx hx' hd hd' hlive hlive' hlock hw => ?_,
    fun h hne hd => ?_, execTabort_aborts⟩
  · refine (execTcommit_outer h hr (by simp [hx, hd]) (resolve_one hx)).trans ?_
    simp [hlive, commitEnd, setOff]
  · refine (execTcommit_outer h hr (by simp [hx, hd]) (resolve_one hx)).trans ?_
    simp [hdoomed, commitEnd, ls]
  · refine (execTcommit_outer h hr (by simp [hx, hd, hx', hd']) (resolve_two hx hx' hlock hlive hlive' hw)).trans ?_
    simp [hkey, commitEnd, ls, gid]
  · intro txs r go haborts
    have commits : exec (.tcommit f) s = .next (kept s 0xB7 f g
        (commitEnd s s f g (go.map (fun l => laneOp l 0 [] [] .sent)) r.2)) := execTcommit_outer h rfl hd rfl
    rw [commitEnd, if_neg haborts] at commits
    refine ⟨fun hgo => ?_, fun hgo => ?_⟩
    · rwa [hgo] at commits
    · rwa [if_neg (mt List.map_eq_nil_iff.mp hgo)] at commits

end Sys2Proof.Proofs
end

section
/-! Commits: tickets, votes, publication, the commit lock and the timeout (R339, R340, R342, R345). -/

namespace Sys2Proof.Machine

/-! ## Tickets -/

/-- The open transaction of a lane of an outstanding instruction. -/
def State.laneTx (s : State) (l : LaneOp) : Option Tx := (s.thread? l.key).bind (·.tx)

/-- The lanes of a TCOMMIT that still want a ticket (R340). -/
def State.wantTickets (s : State) (o : Op) : List LaneOp :=
  o.lanes.filter (fun l => l.stage == .sent && (s.laneTx l).any (fun x => x.ticket.isNone && x.pending.isNone))

/-- A lane takes the next ticket (R340). -/
def State.takeTicket (s : State) (l : LaneOp) : State :=
  let todo := (s.x.sigs.filter (fun p => p.key == l.key)).map (·.slice)
  ({ s with x := { s.x with
    next := (s.x.next + 1) % 2 ^ 64
    tickets := s.x.tickets ++ [⟨s.x.next, false, l.key, todo, [], s.sel.x⟩] } } : State).updTx l.key (fun x =>
      { x with ticket := some s.x.next })

/-- COMMIT_TICKET_REQUEST: the lanes that want a ticket take one each, those in lock mode first (R340). -/
theorem execCommitTicketRequest_eq {s : State} {o : Op} (ho : s.op? s.sel.x = some o) :
    execCommitTicketRequest s =
      if o.opc ≠ 0xB7 || !s.live o.block || (s.wantTickets o).any (fun l => s.laneBlocked s.sel.x o l) then .next s
      else
        .next (((s.wantTickets o).filter (fun l => (s.laneTx l).any (·.lock)) ++
          (s.wantTickets o).filter (fun l => !(s.laneTx l).any (·.lock))).foldl State.takeTicket s) := by
  have any_eq (x : Option Tx) (p : Tx → Bool) : x.any p = match x with | some x => p x | none => false := by cases x <;> rfl
  simp only [execCommitTicketRequest, ho, State.wantTickets, State.laneTx, any_eq]
  rfl

/-! ## Votes -/

/-- What a slice's vote does to a ticket (R340). -/
def State.voted (s : State) (t : Ticket) (slice : Nat) : State × Vote → State
  | (_, .wait) => s
  | (s1, .reject e) => s1.rejectTicket t e
  | (s1, .accept) =>
    s1.updTicket t.n (fun u => { u with todo := u.todo.filter (fun x => x != slice), accepted := u.accepted ++ [slice] })

section
variable {s : State} {t : Ticket} (ht : s.x.tickets.find? (fun t => t.n == s.sel.x) = some t)
include ht

/-- A slice votes on a ticket that wants its vote, unless a lower one touches the slice (R340). -/
theorem execSliceVote_eq (hhost : t.host = false) (htodo : t.todo.contains s.sel.y) :
    execSliceVote s = .next
      (if s.x.tickets.any (fun u => u.n < t.n && s.ticketTouches u s.sel.y) then s
        else s.voted t s.sel.y (s.voteOf s.sel.y t.key)) := by
  simp only [execSliceVote, ht, hhost, htodo, Bool.not_true, Bool.false_or]
  split
  · rfl
  · rcases s.voteOf s.sel.y t.key with ⟨s1, _ | e | _⟩ <;> rfl

/-! ## Publication -/

/-- The lane of a ticket has committed: its transaction is over, and its TCOMMIT has its 0 (R340). -/
def State.committed (s : State) (t : Ticket) : State :=
  (((s.clearTx t.key).updThread t.key (fun th => { th with tx := none, lastAbort := (0, 0) })).updOp t.op (fun o =>
    { o with lanes := o.lanes.map (fun l => if l.key == t.key then { l with stage := .done, res := [0] } else l) })).repark t.op

/-- TX_PUBLISH: with every vote in, the writes of the lane are applied, if none has to wait (R340). -/
theorem execTxPublish_eq (hhost : t.host = false) {th : Thread} (hth : s.thread? t.key = some th) {x : Tx} (hx : th.tx = some x) :
    execTxPublish s = .next
      (if t.todo = [] then
        ((s.publishAll (s.coreOfBlock th.block) (s.ctxOf th.block) t.key x.buf).map (State.committed · t)).getD s
      else s) := by
  simp only [execTxPublish, ht, hhost, hth, hx]
  cases t.todo with
  | nil => cases s.publishAll (s.coreOfBlock th.block) (s.ctxOf th.block) t.key x.buf <;> rfl
  | cons slice rest => rfl

end

/-! ## The commit lock, and the timeout -/

/-- The group of a thread that has the commit lock goes on (R345). -/
def State.wakeHolder (s : State) (k : Nat) : State :=
  ((s.v.groups.find? (fun p => p.2.members.contains k)).map (fun p => s.unpark p.1 (fun p => p == .lock))).getD s

/-- The free lock goes to the first that waits (R345). -/
theorem execCommitLockGrant_free {s : State} {since k : Nat} {rest : List (Nat × Nat)} (hfree : s.x.holder = none)
    (hq : s.x.queue = (since, k) :: rest) :
    execCommitLockGrant s = .next (State.wakeHolder { s with x := { s.x with holder := some k, queue := rest } } k) := by
  simp only [execCommitLockGrant, hfree, hq, State.wakeHolder]
  cases s.v.groups.find? (fun p => p.2.members.contains k) <;> rfl

/-- A lock that is held, or that nobody waits for, is not given away (R345). -/
theorem execCommitLockGrant_idle {s : State} (h : s.x.holder ≠ none ∨ s.x.queue = []) : execCommitLockGrant s = .next s := by
  unfold execCommitLockGrant
  split
  case h_1 hfree hq => simp [hfree, hq] at h
  case h_2 => rfl

/-- TX_TIMEOUT of a thread (R339, R342). -/
theorem execTxTimeout_thread {s : State} {t : Thread} {x : Tx} (hsel : s.sel.y ≠ 1) (ht : s.thread? s.sel.x = some t)
    (hx : t.tx = some x) :
    execTxTimeout s = .next
      (if x.start + 1048576 ≤ s.clock ∧ x.ticket = none ∧ s.live t.block then
        s.asyncAbort s.sel.x (if x.doomed then .conflict else .timeout) 0
      else s) := by
  simp only [execTxTimeout, hsel, if_false, ht, hx, Option.bind_some, Option.map_some, Bool.and_eq_true, decide_eq_true_eq,
    Option.isNone_iff_eq_none, and_assoc, apply_ite Host.Outcome.next]

end Sys2Proof.Machine

namespace Sys2Proof.Proofs

open Sys2Proof.Machine Sys2Proof.Laws Sys2Proof.Claims

/-- Settles O26: each step by what it waits for, a vote and a publication also by what they come to. -/
theorem commitSteps : Obligations.CommitSteps := by
  intro s sys
  refine ⟨?tickets, ?votes, ?publication, ?lock, execCommitLockGrant_idle, ?timeout, fun hhart => if_pos hhart⟩
  case tickets =>
    intro o ho hopc hlive tx want locked ticket
    have requests : exec .commitTicketRequest s =
        if want.any (fun l => s.laneBlocked s.sel.x o l) then .next s
        else .next ((want.filter locked ++ want.filter (fun l => !locked l)).foldl ticket s) := by
      refine (execCommitTicketRequest_eq ho).trans ?_
      simp only [hopc, hlive]
      rfl
    exact ⟨fun hgo => requests.trans (if_neg (by simpa using hgo)), fun hblocked => requests.trans (if_pos hblocked)⟩
  case votes =>
    intro t ht hhost htodo lower
    have turn := execSliceVote_eq ht hhost htodo
    refine ⟨fun hlower => turn.trans (congrArg _ (if_pos hlower)), fun hlowest => ?_⟩
    have votes {r} (hr : s.voteOf s.sel.y t.key = r) : exec .sliceVote s = .next (s.voted t s.sel.y r) :=
      hr ▸ turn.trans (congrArg _ (if_neg (Bool.eq_false_iff.mp hlowest)))
    exact ⟨fun s1 => votes, fun s1 e => votes, fun s1 => votes⟩
  case publication =>
    intro t th x ht hhost hth hx
    have turn := execTxPublish_eq ht hhost hth hx
    refine ⟨fun htodo => turn.trans (congrArg _ (if_neg htodo)), ?_⟩
    intro htodo published
    have publishes {r} (hr : published = r) : exec .txPublish s = .next ((r.map (State.committed · t)).getD s) :=
      hr ▸ turn.trans (congrArg _ (if_pos htodo))
    exact ⟨publishes, fun s1 => publishes⟩
  case lock =>
    intro hfree since k rest hq s1
    have grants {r} (hr : s.v.groups.find? (fun p => p.2.members.contains k) = r) :
        exec .commitLockGrant s = .next ((r.map (fun p => s1.unpark p.1 (fun p => p == .lock))).getD s1) :=
      hr ▸ execCommitLockGrant_free hfree hq
    exact ⟨fun gid g => grants, grants⟩
  case timeout =>
    intro t x hsel ht hx due
    have turn := execTxTimeout_thread hsel ht hx
    exact ⟨fun hdue => turn.trans (congrArg _ (if_pos hdue)), fun hdue => turn.trans (congrArg _ (if_neg hdue))⟩

end Sys2Proof.Proofs
end

section
/-! The forms of MWIN (R359, R361, R362). -/

namespace Sys2Proof.Machine

open Sys2Proof.Laws Sys2Proof.Claims

/-! ## The checks before a matrix instruction's own -/

/-- A converged group whose lanes all execute, outside transactions, passes the checks before the instruction's own (R45, R358). -/
theorem State.matrixFirst_whole {s : State} {f : Slot} {g : Group} (hw : wholeGroup s g f) (next : MatPlan) :
    s.matrixFirst g (s.lanesOf g f) next = next := by
  simp only [wholeGroup, Bool.and_eq_true] at hw
  obtain ⟨⟨hconv, hall⟩, hout⟩ := hw
  have runs : (s.lanesOf g f).all (·.run) := (Bool.and_eq_true_iff.mp hall).2
  obtain ⟨l, hl⟩ := List.exists_mem_of_ne_nil _ (allRun_ne_nil hall)
  have some_runs : (s.lanesOf g f).any (·.run) := List.any_eq_true.mpr ⟨l, hl, List.all_eq_true.mp runs l hl⟩
  have none_inTx : (s.lanesOf g f).any (·.inTx) = false := by
    simpa using fun l hl => (outside_lane hout l (run_all hall ▸ hl)).1
  simp [State.matrixFirst, hconv, runs, some_runs, none_inTx]

/-! ## What MWIN answers, and the state it leaves -/

section
variable {s : State} {gid : Nat} {f : Slot} {g : Group} {b : Block} {t : Thread}

/-- ALLOC of a block that has a window. -/
theorem State.mwin_alloc_window (hf : Rule.sub f = 0) {w : Window} (hw : b.window = some w) : s.mwin gid g b f t = (s, 2) := by
  simp only [State.mwin, hf, hw]

/-- ALLOC beyond the launch's rows, or where the engine has too few free rows together. -/
theorem State.mwin_alloc_noRows (hf : Rule.sub f = 0) (hw : b.window = none)
    (h : ((s.record? g.block).map (·.mrows)).getD 0 < f.i32.toNat ∨ s.freeRows (clusterOf (b.core.getD 0)) f.i32.toNat = none) :
    s.mwin gid g b f t = (s, 1) := by
  simp only [State.mwin, hf, hw]
  split
  · rfl
  · next hrows => rw [h.resolve_left hrows]

/-- ALLOC takes the lowest base of free rows; the block's groups see the whole window. -/
theorem State.mwin_alloc_rows (hf : Rule.sub f = 0) (hw : b.window = none)
    (hrows : f.i32.toNat ≤ ((s.record? g.block).map (·.mrows)).getD 0) {base : Nat}
    (hbase : s.freeRows (clusterOf (b.core.getD 0)) f.i32.toNat = some base) :
    s.mwin gid g b f t = ((s.updBlock g.block (fun u =>
      { u with
        window := some ⟨clusterOf (b.core.getD 0), base, f.i32.toNat⟩
        rows := [] })).setBounds g.block base (base + f.i32.toNat), 0) := by
  simp only [State.mwin, hf, hw, hbase]
  exact if_neg (by omega)

/-- SUB and FREE of a block without a window. -/
theorem State.mwin_noWindow (hf : Rule.sub f = 1 ∨ Rule.sub f = 2) (hw : b.window = none) : s.mwin gid g b f t = (s, 5) := by
  rcases hf with hf | hf <;> simp only [State.mwin, hf, hw]

/-- SUB narrows the group's rows where they lie in the window. -/
theorem State.mwin_sub_window (hf : Rule.sub f = 1) {w : Window} (hw : b.window = some w) :
    s.mwin gid g b f t =
      let o := t.val f.a.toNat 1
      if w.rows < o + f.i32.toNat then (s, 3)
      else (s.updGroup gid (fun u => { u with awbase := w.base + o, awlimit := w.base + o + f.i32.toNat }), 0) := by
  simp only [State.mwin, hf, hw]

/-- FREE gives the window back where the block has neither reservations nor matrix instructions outstanding. -/
theorem State.mwin_free_window (hf : Rule.sub f = 2) {w : Window} (hw : b.window = some w) :
    s.mwin gid g b f t =
      if b.resv ≠ [] ∨ s.v.ops.any (fun p => p.2.block == g.block && isMatrix p.2.opc && !p.2.lanes.isEmpty) then (s, 4)
      else ((s.updBlock g.block (fun u => { u with window := none, rows := [] })).setBounds g.block 0 0, 0) := by
  simp only [State.mwin, hf, hw, Bool.or_eq_true, Bool.not_eq_true', List.isEmpty_eq_false_iff, ne_eq]

/-- QUERY of a block without a window. -/
theorem State.mwin_query_noWindow (hf : Rule.sub f = 3) (hw : b.window = none) : s.mwin gid g b f t = (s, 0) := by
  simp only [State.mwin, hf, hw]

/-- QUERY describes the group's rows and the window. -/
theorem State.mwin_query_window (hf : Rule.sub f = 3) {w : Window} (hw : b.window = some w) :
    s.mwin gid g b f t = (s, (g.awbase - w.base) + (g.awlimit - g.awbase) * 2 ^ 10 + w.rows * 2 ^ 20) := by
  simp only [State.mwin, hf, hw]

end

/-- A form of MWIN that issues writes its status to every lane (R361). -/
theorem State.mwinIssue_next {s : State} {f : Slot} {g : Group} {b : Block} {l : LaneV} {rest : List LaneV} {t : State} {v : Nat}
    (h : issues s 0xC0 f g) (hw : wholeGroup s g f) (hb : s.block? g.block = some b) (hl : s.lanesOf g f = l :: rest)
    (hr : s.mwin s.cur.group g b f l.th = (t, v)) :
    s.mwinIssue f = .next (kept s 0xC0 f g
      ((t.writeD f 1 (s.lanesOf g f) (fun _ => v)).advance s.cur.group g (s.lanesOf g f))) := by
  refine State.issue_after h ?_
  simp only [State.matrixFirst_whole hw, hb]
  simp only [hl, hr]

end Sys2Proof.Machine

namespace Sys2Proof.Proofs

open Sys2Proof.Machine

/-- Settles O28, by the form, whether the block has a window, and whether the rows asked for are there. -/
theorem windowResults : Obligations.WindowResults := by
  intro s f g b l rest h hw hb hl ls rows n e status
  have answers {t v} (hr : s.mwin s.cur.group g b f l.th = (t, v)) : s.mwinIssue f = .next (kept s 0xC0 f g (status t v)) :=
    State.mwinIssue_next h hw hb hl hr
  refine ⟨fun hf hwin => ?_, fun hf hwin hn => answers (State.mwin_alloc_noRows hf hwin hn),
    fun hf hwin hn base hbase => answers (State.mwin_alloc_rows hf hwin hn hbase),
    fun hf hwin => answers (State.mwin_noWindow (.inl hf) hwin), fun hf w hwin => ?_,
    fun hf hwin => answers (State.mwin_noWindow (.inr hf) hwin), fun hf hwin hresv hops => ?_, fun hf hwin hbusy => ?_,
    fun hf hwin => answers (State.mwin_query_noWindow hf hwin), fun hf w hwin => answers (State.mwin_query_window hf hwin)⟩
  · obtain ⟨w, hwin⟩ := Option.isSome_iff_exists.mp hwin
    exact answers (State.mwin_alloc_window hf hwin)
  · have sub := State.mwin_sub_window (s := s) (gid := s.cur.group) (g := g) (t := l.th) hf hwin
    exact ⟨fun hout => answers (sub.trans (if_pos hout)), fun hin => answers (sub.trans (if_neg (by omega)))⟩
  · obtain ⟨w, hwin⟩ := Option.isSome_iff_exists.mp hwin
    exact answers ((State.mwin_free_window hf hwin).trans (if_neg (by simp [hresv, hops])))
  · obtain ⟨w, hwin⟩ := Option.isSome_iff_exists.mp hwin
    exact answers ((State.mwin_free_window hf hwin).trans (if_pos hbusy))

end Sys2Proof.Proofs
end

section
/-! Passes of a matrix engine, and the ends of its entries (R354, R356, R357, R367, R376, R379). -/

namespace Sys2Proof.Machine

/-! ## Grants -/

/-- The entries of an engine that may be granted a pass (R356). -/
def State.candidates (s : State) (e : Nat) : List (Nat × Op) := (s.entriesOf e).filter (fun p => s.eligible p.1 p.2)

/-- No pass is granted while one runs, during a reset, or where no entry may have it (R356, R383). -/
theorem State.grantPass_idle {s : State} {e : Nat}
    (h : (Tab.look s.v.passes e).isSome ∨ s.resetting e ∨ s.candidates e = []) : s.grantPass e = s := by
  rw [← or_assoc] at h
  rw [State.grantPass]
  refine ite_eq_left_iff.mpr fun hfree => ?_
  have none_may : (s.entriesOf e).filter (fun p => s.eligible p.1 p.2) = [] := h.resolve_left (by simpa using hfree)
  simp only [none_may, minBy]

/-- The first of the entries that may have a pass is granted it; the others of them age (R356). -/
theorem State.grantPass_first {s : State} {e id : Nat} {o : Op} (hfree : Tab.look s.v.passes e = none) (hr : s.resetting e = false)
    (hfirst : minBy (fun p => s.passRank p.2) (s.candidates e) = some (id, o)) :
    s.grantPass e =
      let s1 := s.setOps (s.v.ops.map (fun p =>
        if p.1 == id then (p.1, { p.2 with age := 0 })
        else if (s.candidates e).any (fun q => q.1 == p.1) && s.classOf p.2.block != 3 then
          (p.1, { p.2 with age := min 255 (p.2.age + 1) })
        else p))
      { s1 with v := { s1.v with passes := Tab.set s.v.passes e (id, s.clock) } } := by
  rw [State.candidates] at hfirst
  simp only [State.grantPass, hfree, hr, hfirst, Option.isSome_none, Bool.or_self, Bool.false_eq_true, if_false]
  rfl

/-! ## What a pass does -/

/-- The pass of an engine is over. -/
def State.passOver (s : State) (e : Nat) : State := { s with v := { s.v with passes := Tab.del s.v.passes e } }

/-- A pass that ends does the work of its entry. -/
theorem execMatrixPassEnd_eq {s : State} {id since : Nat} {o : Op} {b : Block} (hp : Tab.look s.v.passes s.sel.x = some (id, since))
    (ho : s.op? id = some o) (hb : s.block? o.block = some b) :
    execMatrixPassEnd s = .next ((s.passOver s.sel.x).passWork s.sel.x id o b) := by
  simp only [execMatrixPassEnd, State.endPass, hp, ho, hb, State.passOver]

/-- The last chunk of a pass of a product, not counted (R356, R357). -/
def Op.lastChunk (o : Op) (fmt : Nat) : Nat := min o.chunks (o.chunk + passChunks fmt)

/-- The chunks of one pass are added to the accumulators (R376). -/
def State.addChunks (s : State) (id : Nat) (o : Op) (x : Factors) : State :=
  let last := o.lastChunk x.a.fmt
  (s.updBlock o.block (fun b => ((List.range (last - o.chunk)).map (fun q => o.chunk + q)).foldl (fun b j =>
    b.addChunk o.opc o.f x o.tag j) b)).updOp id (fun o => { o with chunk := last })

section
variable {s : State} {e id : Nat} {o : Op} {b : Block}

/-- OBRES makes the reservation where there is one to make, and answers its status (R367). -/
theorem State.passWork_obres (h : o.opc = 0xC1) {code : Nat} {r : Option Resv}
    (hr : s.reserve e b (((s.record? o.block).map (·.mgran)).getD 0) o = (code, r)) :
    s.passWork e id o b =
      (r.elim s (fun x => s.updBlock o.block (fun u => { u with resv := insertBy (·.slot) x u.resv }))).serveAll id
        (fun _ => [BitVec.ofNat 32 code]) := by
  simp only [State.passWork, h, hr]
  cases r <;> rfl

/-- OBFREE frees its slot (R368). -/
theorem State.passWork_obfree (h : o.opc = 0xC2) :
    s.passWork e id o b =
      (s.updBlock o.block (fun u => { u with resv := u.resv.filter (fun r => r.slot != o.word 0) })).serveAll id (fun _ => []) := by
  simp only [State.passWork, h]

/-- MZERO clears its rows (R378). -/
theorem State.passWork_mzero (h : o.opc = 0xC9) :
    s.passWork e id o b =
      (s.updBlock o.block (fun u => { u with
        rows := u.rows.filter (fun p => p.1 / 128 < o.tag || o.tag + o.f.i32.toNat ≤ p.1 / 128) })).serveAll id (fun _ => []) := by
  simp only [State.passWork, h]

/-- The draws of a thread, if there is one (R73). -/
def State.drawOf (s : State) : Option Thread → BitVec 32 → Nat
  | some t => s.drawer t.block t.tid
  | none => fun _ => 0

/-- MREAD gives each lane its pair of accumulators, as TYPE says (R379). -/
theorem State.passWork_mread (h : o.opc = 0xCA) :
    s.passWork e id o b = s.serveAll id (fun l =>
      readOut o.f (s.drawOf (s.thread? l.key)) (l.c.getD 0 0) (b.acc l.ea (2 * l.lane)) (b.acc l.ea (2 * l.lane + 1))) := by
  simp only [State.passWork, h]
  rfl

/-- A word pair is read as it stands where TYPE is N32 (R379). -/
theorem readOut_n32 {f : Slot} (h : Rule.ty f = 10) (draw : BitVec 32 → Nat) (n : BitVec 32) (w0 w1 : Word) :
    readOut f draw n w0 w1 = [w0, w1] := if_pos h

/-- MWRITE stores each lane's pair in order of lanes (R379). -/
theorem State.passWork_mwrite (h : o.opc = 0xCB) :
    s.passWork e id o b =
      (s.updBlock o.block (fun u => o.lanes.foldl (fun u l =>
        (u.setAcc l.ea (2 * l.lane) (writeIn o.f l.b).1).setAcc l.ea (2 * l.lane + 1) (writeIn o.f l.b).2) u)).serveAll id
          (fun _ => []) := by
  simp only [State.passWork, h]

/-- A product whose reservations are gone is served; another adds its chunks, and is served after the last (R356, R376). -/
theorem State.passWork_product (h : isProduct o.opc) :
    s.passWork e id o b = (b.factors o).elim (s.serveAll id (fun _ => [])) (fun x =>
      if o.chunks ≤ o.lastChunk x.a.fmt then (s.addChunks id o x).serveAll id (fun _ => []) else s.addChunks id o x) := by
  simp only [isProduct, Bool.and_eq_true, decide_eq_true_eq] at h
  unfold State.passWork
  split
  case h_6 => cases b.factors o <;> rfl
  all_goals omega

end

/-! ## Ends of entries -/

section
variable {s : State} {id : Nat} {o : Op} (ho : s.op? id = some o) (hm : isMatrix o.opc) (hp : o.posted.isSome)
include ho hm hp

/-- A posted entry that is no MLOAD with nothing more to deliver completes where it has been served (R354). -/
theorem State.completeEntry_eq (hl : o.loaded = false) : s.completeEntry id = if o.served then s.finishOp id else s := by
  simp only [State.completeEntry, ho, hm, hl, Option.isNone_eq_false_iff.mpr hp, Bool.not_true, Bool.or_self, Bool.false_eq_true,
    if_false]

/-- An MLOAD with nothing more to deliver completes with the mask of what it dropped (R371, R372). -/
theorem State.completeEntry_loaded (hl : o.loaded) {m : Move} (hmove : o.move = some m) :
    s.completeEntry id = (s.serveAll id (fun _ => [BitVec.ofNat 32 (maskOf m.dropped)])).finishOp id := by
  simp only [State.completeEntry, ho, hm, hl, hmove, Option.isNone_eq_false_iff.mpr hp, Bool.not_true, Bool.or_self,
    Bool.false_eq_true, if_false, if_true]

end

theorem Op.loaded_eq_false {o : Op} (h : o.opc ≠ 0xC3) : o.loaded = false := by simp [Op.loaded, h]

theorem Op.loaded_iff {o : Op} {m : Move} (h : o.opc = 0xC3) (hm : o.move = some m) : o.loaded ↔ m.wait = [] ∧ m.busy = [] := by
  simp [Op.loaded, h, hm]

end Sys2Proof.Machine

namespace Sys2Proof.Proofs

open Sys2Proof.Machine

/-- Settles O30: a grant by the entries that may have a pass, a pass by the instruction of its entry, the end of an entry by whether it
is an MLOAD and whether it has been served. -/
theorem matrixPasses : Obligations.MatrixPasses := by
  refine ⟨?grants, ?passes, ?ends⟩
  case grants =>
    intro s id o e l
    exact ⟨fun hfree hr hfirst => congrArg _ (State.grantPass_first hfree hr hfirst), fun h => congrArg _ (State.grantPass_idle h)⟩
  case passes =>
    intro s id since o b e hp ho hb free draw reserved last added
    have does {t} (hw : free.passWork e id o b = t) : exec .matrixPassEnd s = .next t :=
      (execMatrixPassEnd_eq hp ho hb).trans (congrArg _ hw)
    have product (hop : isProduct o.opc) {x} (hx : b.factors o = x) := does (hx ▸ State.passWork_product hop)
    refine ⟨fun hop code hr => does (State.passWork_obres hop hr), fun hop code r hr => does (State.passWork_obres hop hr),
      fun hop => does (State.passWork_obfree hop), fun hop => does (State.passWork_mzero hop), fun hop hty => ?n32,
      fun hop => ?mread, fun hop => does (State.passWork_mwrite hop), fun hop hx => product hop hx,
      fun hop x hx => ?chunks⟩
    case mread =>
      have draw_eq : draw = free.drawOf := funext fun t => by cases t <;> rfl
      rw [draw_eq]
      exact does (State.passWork_mread hop)
    case n32 =>
      simpa only [readOut_n32 hty] using does (State.passWork_mread hop)
    case chunks =>
      have last_eq : last = o.lastChunk x.a.fmt := by simp only [last, hx]; rfl
      have added_eq : added x = free.addChunks id o x := by simp only [added, last_eq]; rfl
      rw [last_eq, added_eq]
      exact ⟨fun hlast => (product hop hx).trans (congrArg _ (if_pos hlast)),
        fun hmore => (product hop hx).trans (congrArg _ (if_neg (by omega)))⟩
  case ends =>
    intro s o ho hm hp
    refine ⟨fun hop hs => ?_, fun hop hs => ?_, fun m hop hmove hw hbusy => ?_, fun m hop hmove hmore hs => ?_⟩
    · exact congrArg _ ((State.completeEntry_eq ho hm hp (Op.loaded_eq_false hop)).trans (if_pos hs))
    · exact congrArg _ ((State.completeEntry_eq ho hm hp (Op.loaded_eq_false hop)).trans (if_neg (Bool.eq_false_iff.mp hs)))
    · exact congrArg _ (State.completeEntry_loaded ho hm hp ((Op.loaded_iff hop hmove).mpr ⟨hw, hbusy⟩) hmove)
    · have unloaded : o.loaded = false := Bool.eq_false_iff.mpr fun h =>
        hmore.elim (· ((Op.loaded_iff hop hmove).mp h).1) (· ((Op.loaded_iff hop hmove).mp h).2)
      exact congrArg _ ((State.completeEntry_eq ho hm hp unloaded).trans (if_neg (Bool.eq_false_iff.mp hs)))

end Sys2Proof.Proofs
end

section
/-! Deliveries of MLOAD, and resets of a matrix engine (R355, R371 to R373, R382, R383). -/

namespace Sys2Proof.Machine

/-! ## Deliveries -/

section
variable (s : State) (id pos : Nat) (o : Op) (m : Move) (l : LaneOp) (blk : Nat)

/-- A delivery has begun: the source is read at the first, and the reservation is EMPTY until the end (R371, R372). -/
def State.loadBegun : State :=
  ((if l.c = [] then s.readSource id o m else s).updOp id (fun o => { o with move := o.move.map (fun m =>
    { m with
      wait := m.wait.filter (fun p => p != pos)
      busy := m.busy ++ [pos] }) })).updResv blk (bits m.dst 24 5) (fun r => { r with full := false })

/-- A delivery is no longer under way. -/
def State.loadOver : State :=
  s.updOp id (fun o => { o with move := o.move.map (fun m => { m with busy := m.busy.filter (fun p => p != pos) }) })

/-- A delivery has ended in its receiver: the bytes are written, and the reservation is FULL (R372, R373). -/
def State.loadFilled : State :=
  (s.loadOver id pos).updResv blk (bits m.dst 24 5) (fun r =>
    { r.put (bits m.dst 0 19) (bytesOf m.len (ofWords l.c)) with full := true })

end

section
variable {s : State} {id pos : Nat} {o : Op} {m : Move} {l : LaneOp} (hop : s.op? id = some o) (hopc : o.opc = 0xC3)
  (hmove : o.move = some m) (hlead : o.leader = some l)
include hop hopc hmove hlead

section
variable (hwait : m.wait.contains pos) (hpost : o.posted.isSome) (hlive : s.live o.block) (hfence : s.fenceMet id o l)
include hwait hpost hlive hfence

/-- A delivery to a position without a block is dropped (R372). -/
theorem State.beginLoad_nobody (hn : s.receiver o pos = none) : s.beginLoad id pos = s.dropDelivery id pos := by
  simp only [State.beginLoad, hop, hmove, hlead, hopc, hwait, hlive, hfence, Option.isNone_eq_false_iff.mpr hpost, hn]
  rfl

variable {blk : Nat} {b : Block} (hb : s.receiver o pos = some (blk, b))
include hb

/-- So is one to a block without a reservation in the slot (R372). -/
theorem State.beginLoad_noSlot (hr : b.resvAt (bits m.dst 24 5) = none) : s.beginLoad id pos = s.dropDelivery id pos := by
  simp only [State.beginLoad, hop, hmove, hlead, hopc, hwait, hlive, hfence, Option.isNone_eq_false_iff.mpr hpost, hb, hr]
  rfl

/-- Another is dropped where its receiver has retired or lacks the room, waits while the receiver is saved or uses the slot, and
begins otherwise (R355, R372). -/
theorem State.beginLoad_eq {r : Resv} (hr : b.resvAt (bits m.dst 24 5) = some r) :
    s.beginLoad id pos =
      if s.retired blk then s.dropDelivery id pos
      else if b.saving || !s.deliverable id o blk (bits m.dst 24 5) b r then s
      else if !b.lands m.dst m.len then s.dropDelivery id pos
      else s.loadBegun id pos o m l blk := by
  simp only [State.beginLoad, hop, hmove, hlead, hopc, hwait, hlive, hfence, Option.isNone_eq_false_iff.mpr hpost, hb, hr,
    List.isEmpty_iff]
  rfl

end

variable (hbusy : m.busy.contains pos)
include hbusy

/-- The end of a delivery to a position that has no block any more. -/
theorem State.endLoad_nobody (hn : s.receiver o pos = none) : s.endLoad id pos = s.loadOver id pos := by
  simp only [State.endLoad, hop, hmove, hlead, hopc, hbusy, hn]
  rfl

/-- The end of a delivery frees a receiver that retired meanwhile (R372). -/
theorem State.endLoad_eq {blk : Nat} {b : Block} (hb : s.receiver o pos = some (blk, b)) :
    s.endLoad id pos =
      let t := s.loadFilled id pos m l blk
      if t.v.threads.any (fun p => p.2.block == blk) then t else t.retireBlock blk := by
  simp only [State.endLoad, hop, hmove, hlead, hopc, hbusy, hb]
  rfl

end

/-! ## Resets -/

/-- A reset under way is not started anew, and there are 128 engines (R382). -/
theorem State.resetEngine_idle {s : State} {e : Nat} (wdog : Bool) (h : s.resetting e ∨ 128 ≤ e) : s.resetEngine e wdog = s :=
  if_pos (by simpa using h)

/-- The watchdog resets the engine of a pass that began 65,536 cycles ago (R382). -/
theorem execEngineWatchdog_pass {s : State} {id since : Nat} (h : Tab.look s.v.passes s.sel.x = some (id, since)) :
    execEngineWatchdog s = .next (if since + 65536 ≤ s.clock then s.resetEngine s.sel.x true else s) := by
  simp only [execEngineWatchdog, h, apply_ite Host.Outcome.next]

/-- Without a pass there is nothing to watch. -/
theorem execEngineWatchdog_noPass {s : State} (h : Tab.look s.v.passes s.sel.x = none) : execEngineWatchdog s = .next s := by
  simp only [execEngineWatchdog, h]

end Sys2Proof.Machine

namespace Sys2Proof.Proofs

open Sys2Proof.Machine

/-- Settles O31: a delivery by its receiver and the slot there, a reset by whether one is under way. -/
theorem engineSteps : Obligations.EngineSteps := by
  refine ⟨?deliveries, ?resets⟩
  case deliveries =>
    intro s o m l id pos slot hop hopc hmove hlead
    refine ⟨fun hwait hpost hlive hfence => ⟨fun hn => ?_, fun blk b hb hr => ?_, fun blk b r hb hr => ?begins⟩,
      fun hbusy => ?ends⟩
    · exact congrArg _ (State.beginLoad_nobody hop hopc hmove hlead hwait hpost hlive hfence hn)
    · exact congrArg _ (State.beginLoad_noSlot hop hopc hmove hlead hwait hpost hlive hfence hb hr)
    case begins =>
      intro read
      have begins := State.beginLoad_eq hop hopc hmove hlead hwait hpost hlive hfence hb hr
      have lives (hret : s.retired blk = false) := begins.trans (if_neg (Bool.eq_false_iff.mp hret))
      have lets (hret : s.retired blk = false) (hs : b.saving = false) (hd : s.deliverable id o blk slot b r) :=
        (lives hret).trans (if_neg (by simp [slot, hs, hd]))
      exact ⟨fun hret => congrArg _ (begins.trans (if_pos hret)),
        fun hret hwaits => congrArg _ ((lives hret).trans (if_pos (by simpa using hwaits))),
        fun hret hs hd hroom => congrArg _ ((lets hret hs hd).trans (if_pos (by simpa using hroom))),
        fun hret hs hd hroom => congrArg _ ((lets hret hs hd).trans (if_neg (by simp [hroom])))⟩
    case ends =>
      intro left
      refine ⟨fun hn => congrArg _ (State.endLoad_nobody hop hopc hmove hlead hbusy hn), fun blk b hb => ?_⟩
      have ends := State.endLoad_eq hop hopc hmove hlead hbusy hb
      intro full
      refine ⟨fun h => congrArg _ (ends.trans (if_pos h)), fun h => ?_⟩
      have nobody : full.v.threads.any (fun p => p.2.block == blk) = false := by simpa using h
      exact congrArg _ (ends.trans (if_neg (Bool.eq_false_iff.mp nobody)))
  case resets =>
    intro s e
    exact ⟨fun _ _ => rfl, fun h => congrArg _ (State.resetEngine_idle false h),
      fun id since hp hlate => (execEngineWatchdog_pass hp).trans (congrArg _ (if_pos hlate)),
      fun id since hp hsoon => (execEngineWatchdog_pass hp).trans (congrArg _ (if_neg (by omega))),
      execEngineWatchdog_noPass, fun h => if_pos h, fun h => if_neg (Bool.eq_false_iff.mp h)⟩

end Sys2Proof.Proofs
end

section
/-! The flow instructions at issue: the Weir's, the Inlet's and Stillwater's (R385, R386, R392 to R398, R401, R406 to R408, R411). -/

namespace Sys2Proof.Machine

open Sys2Proof.Laws

section
variable {s : State} {op : Nat} {f : Slot} {g : Group} {l : LaneV} {rest : List LaneV} (h : issues s op f g) (ho : outsideTx s g f)
  (hr : running s g f = l :: rest)
include h ho hr

/-- An instruction made once for the group that nothing keeps from happening leaves its effect. -/
theorem State.groupWide_after {body : Nat → Group → List LaneV → LaneV → List LaneV → After} {t : State}
    (hb : body s.cur.group g (s.lanesOf g f) l (l :: rest) = t.after) : s.groupWide op f body = .next (kept s op f g t) := by
  rw [groupWide_next h ho hr, hb, State.after, slot_none]

/-- A flow instruction is outstanding with the registers of its executing lanes (R385, R386). -/
theorem State.flowIssue_next {lane : LaneV → LaneV → LaneOp} :
    s.flowIssue op f lane = .next (kept s op f g (setOff s op f g ((l :: rest).map (lane l)))) :=
  State.groupWide_after h ho hr rfl

/-! ## Forms with a landing area (R397, R398) -/

/-- What a form with a landing area leaves: itself outstanding with its transfer, an entry of the range locks for the area, and for
TAKE.G the area empty. -/
def State.landingTaken (s : State) (op : Nat) (f : Slot) (g : Group) (lanes : List LaneOp) (off : Nat) (m : Move) : State :=
  let s1 := (s.startOp s.cur.group g op f lanes).1.updOp s.nextId (fun o => { o with move := some m })
  let s2 := s1.setLocks (s1.v.locks ++ [⟨s.coreOfBlock g.block, s.nextId, op == 0xE2, some g.block, 0, off, off + 256 * m.len⟩])
  (if op = 0xE2 then s2.updBlock g.block (fun b => b.markRange off (256 * m.len) false) else s2).advance s.cur.group g
    (s.lanesOf g f)

/-- A form with a landing area and a stale handle has nothing to check (R389). -/
theorem State.landingIssue_stale (hw : s.weirOf g.block (l.th.val f.a.toNat 1) = none) :
    s.landingIssue op f = .next (kept s op f g (setOff s op f g ((l :: rest).map (flowLane f 0 (l.th.val f.a.toNat 1))))) := by
  refine State.groupWide_after h ho hr ?_
  simp only [hw]
  rfl

variable {e : Nat} {w : Weir} (hw : s.weirOf g.block (l.th.val f.a.toNat 1) = some (e, w))
include hw

/-- An area that fails a check is a trap of the leader lane. -/
theorem State.landingIssue_trap {t : Trap} (hl : s.landing g w (l.th.val f.b.toNat 1) = .error t) :
    s.landingIssue op f = .next (s.settleSlot (s.leaderTrap s.cur.group g (s.lanesOf g f) l t) s.cur.group g op f) := by
  rw [State.landingIssue, groupWide_next h ho hr]
  simp only [hw, hl]

variable {m : Move} (hl : s.landing g w (l.th.val f.b.toNat 1) = .ok m)
include hl

/-- Without a free entry of the range locks the form does not issue. -/
theorem State.landingIssue_full (hfull : s.freeLocks (s.coreOfBlock g.block) = 0) : s.landingIssue op f = .next (stays s g) := by
  rw [State.landingIssue, groupWide_next h ho hr]
  simp only [hw, hl, hfull, if_true]
  rfl

/-- With one, it issues. -/
theorem State.landingIssue_lands (hfree : s.freeLocks (s.coreOfBlock g.block) ≠ 0) :
    s.landingIssue op f = .next (kept s op f g
      (s.landingTaken op f g ((l :: rest).map (flowLane f 0 (l.th.val f.a.toNat 1))) (l.th.val f.b.toNat 1) m)) := by
  refine State.groupWide_after h ho hr ?_
  simp only [hw, hl, hfree, if_false]
  rfl

end

end Sys2Proof.Machine

namespace Sys2Proof.Proofs

open Sys2Proof.Machine

/-- Settles O32: every form is outstanding with the operands of its lanes; those with a landing area go by the handle, the checks of
the area and the free entries of the range locks. -/
theorem flowIssues : Obligations.FlowIssues := by
  intro s f g l rest ho hr run a off core
  have landing : ∀ r ∈ [(Instr.weirTakeG f, 0xE2), (.weirDoneS f, 0xE3)], exec r.1 s = s.landingIssue r.2 f := by
    simp only [List.forall_mem_cons]
    exact ⟨rfl, rfl, List.forall_mem_nil _⟩
  refine ⟨?leads, ?own, fun h => State.flowIssue_next h ho hr,
    fun r hm h hw => (landing r hm).trans (State.landingIssue_stale h ho hr hw),
    fun r hm h e w m hw hl hfull => (landing r hm).trans (State.landingIssue_full h ho hr hw hl hfull),
    fun r hm h e w m hw hl hfree => (landing r hm).trans (State.landingIssue_lands h ho hr hw hl hfree),
    fun r hm h e w t hw hl => (landing r hm).trans (State.landingIssue_trap h ho hr hw hl)⟩
  case leads =>
    have leads {op bw} (h : issues s op f g) :
        s.leaderFlow op f bw = .next (kept s op f g (setOff s op f g (run.map (flowLane f bw a)))) :=
      State.flowIssue_next h ho hr
    simp only [List.forall_mem_cons]
    exact ⟨leads, leads, leads, leads, leads, leads, leads, leads, leads, List.forall_mem_nil _⟩
  case own =>
    simp only [List.forall_mem_cons]
    exact ⟨fun h => State.flowIssue_next h ho hr, fun h => State.flowIssue_next h ho hr, List.forall_mem_nil _⟩

end Sys2Proof.Proofs
end

section
/-! STILL.WAIT and the channels (R411, R413 to R415). -/

namespace Sys2Proof.Machine

open Sys2Proof.Laws

/-! ## Parking on an instruction -/

@[simp] theorem State.advance_op? (s : State) (gid : Nat) (g : Group) (ls : List LaneV) (id : Nat) :
    (s.advance gid g ls).op? id = s.op? id := by
  rw [State.advance, State.updGroup_op?, eachLane_rest]
  rfl

@[simp] theorem State.startOp_snd (s : State) (gid : Nat) (g : Group) (op : Nat) (f : Slot) (lanes : List LaneOp) :
    (s.startOp gid g op f lanes).2 = s.nextId := rfl

theorem State.startOp_advance (s : State) (op : Nat) (f : Slot) (g : Group) (lanes : List LaneOp) :
    (s.startOp s.cur.group g op f lanes).1.advance s.cur.group g (s.lanesOf g f) = setOff s op f g lanes := rfl

/-- An instruction that issues is outstanding under the next number. -/
theorem setOff_op? (s : State) (op : Nat) (f : Slot) (g : Group) (lanes : List LaneOp) :
    ∃ o, (setOff s op f g lanes).op? s.nextId = some o ∧ o.group = s.cur.group ∧ o.opc = op ∧ o.f = f ∧ o.lanes = lanes := by
  rw [setOff, State.advance_op?, State.startOp]
  cases g.flagFor f <;> exact ⟨_, Tab.look_set_same _ _ _, rfl, rfl, rfl, rfl⟩

/-- An instruction that holds its group keeps it in the Backwater (R47). -/
theorem State.repark_holds {s : State} {id : Nat} {o : Op} (h : s.op? id = some o) (hh : o.holds) :
    s.repark id = s.park o.group (.op id) := by
  simp only [State.repark, h, hh, if_true]

/-! ## STILL.WAIT -/

/-- A STILL.WAIT that is not served holds its group (R411). -/
theorem Op.holds_still {o : Op} (hopc : o.opc = 0xE8) (hf : Rule.sub o.f = 0) (hs : o.lanes.any (fun l => l.stage == .sent)) :
    o.holds := by
  simp [Op.holds, hopc, hf, hs]

/-- A STILL.WAIT whose domain is not QUIET is not served (R411). -/
theorem State.stillServe_busy {s : State} {id : Nat} {o : Op} (h : s.domainBusy (o.handle % 256)) : s.stillServe id o = s := by
  simp only [State.stillServe, h, Bool.or_true, Bool.true_or, if_true]

/-- The low bits of a handle are those of the leader's register A (R386). -/
theorem Op.handle_flowLane {o : Op} {f : Slot} {bw a : Nat} {l : LaneV} {rest : List LaneV}
    (h : o.lanes = (l :: rest).map (flowLane f bw a)) : o.handle % 256 = a % 256 := by
  have handle : o.handle = (BitVec.ofNat 32 a).toNat := by simp only [Op.handle, h]; rfl
  rw [handle, BitVec.toNat_ofNat]
  exact Nat.mod_mod_of_dvd a (by decide)

section
variable {s : State} {op : Nat} {f : Slot} {g : Group} {l : LaneV} {rest : List LaneV} (ho : outsideTx s g f)
  (hr : running s g f = l :: rest)
include ho hr

/-- A STILL.WAIT is served at once where it can be (R411). -/
theorem execStillWait_next (h : issues s 0xE8 f g) {still : State}
    (hs : setOff s 0xE8 f g ((l :: rest).map (flowLane f 0 (l.th.val f.a.toNat 1))) = still) {o : Op}
    (hop : still.op? s.nextId = some o) :
    execStillWait f s = .next (kept s 0xE8 f g ((still.stillServe s.nextId o).repark s.nextId)) := by
  refine State.groupWide_after h ho hr ?_
  simp only [State.startOp_advance, State.startOp_snd, hs, hop]

/-- On a domain that is not QUIET it keeps its group in the Backwater (R411). -/
theorem execStillWait_busy (h : issues s 0xE8 f g) (hf : Rule.sub f = 0) {still : State}
    (hs : setOff s 0xE8 f g ((l :: rest).map (flowLane f 0 (l.th.val f.a.toNat 1))) = still)
    (hbusy : still.domainBusy (l.th.val f.a.toNat 1 % 256)) :
    execStillWait f s = .next (kept s 0xE8 f g (still.park s.cur.group (.op s.nextId))) := by
  obtain ⟨o, hop, hgroup, hopc, hslot, hlanes⟩ := hs ▸ setOff_op? s 0xE8 f g _
  have waits : still.stillServe s.nextId o = still := State.stillServe_busy (by rwa [Op.handle_flowLane hlanes])
  have holds : o.holds := Op.holds_still hopc (hslot ▸ hf) (by rw [hlanes]; rfl)
  rw [execStillWait_next ho hr h hs hop, waits, State.repark_holds hop holds, hgroup]

/-! ## Channels at issue -/

/-- A channel with a slot for every executing lane is served at once where it can be (R414). -/
theorem State.chanIssue_served (h : issues s op f g) {n : Nat} (hn : s.chanSlots g.block (chanNo f) = some n)
    (hle : (l :: rest).length ≤ n) {t : State} (ht : setOff s op f g ((l :: rest).map (flowLane f 2 0)) = t) {o : Op}
    (hop : t.op? s.nextId = some o) :
    s.chanIssue op f = .next (kept s op f g ((t.chanServe s.nextId o).repark s.nextId)) := by
  refine State.groupWide_after h ho hr ?_
  simp only [hn, Nat.not_lt.mpr hle, if_false, State.startOp_advance, State.startOp_snd, ht, hop]

/-- An undeclared channel, or one with fewer slots than lanes execute, is a trap of the leader lane (R413, R414). -/
theorem State.chanIssue_refused (h : issues s op f g)
    (hn : s.chanSlots g.block (chanNo f) = none ∨ ∃ n, s.chanSlots g.block (chanNo f) = some n ∧ n < (l :: rest).length) :
    s.chanIssue op f = .next (s.settleSlot
      (s.leaderTrap s.cur.group g (s.lanesOf g f) l ⟨.operand, 0, none, false⟩) s.cur.group g op f) := by
  rw [State.chanIssue, groupWide_next h ho hr]
  rcases hn with hn | ⟨n, hn, hlt⟩
  · simp only [hn]
  · simp only [hn, hlt, if_true]

end

/-! ## Service of a channel -/

section
variable {s : State} {id : Nat} {o : Op} {b : Block} (hb : s.block? o.block = some b) (hwait : o.waitsChan) (hlive : s.live o.block)
  (hfirst : s.chanBehind id o b = false)
include hb hwait hlive hfirst

/-- A SEND that is first in its line is served where there is room and nothing before it in its threads is left to do (R414, R415). -/
theorem State.chanServe_send (hopc : o.opc = 0xE9) :
    s.chanServe id o =
      if (s.chanSlots o.block (chanNo o.f)).getD 0 < (s.messages b.gang (chanNo o.f)).length + (sortBy (·.lane) o.lanes).length
        || !o.lanes.all (fun l => s.fenceMet id o l) then s
      else ((s.setMessages b.gang (chanNo o.f) (s.messages b.gang (chanNo o.f) ++
        (sortBy (·.lane) o.lanes).map (fun l => BitVec.ofNat 64 (ofWords l.b)))).updOp id (fun o =>
          { o with lanes := o.lanes.map (fun l => { l with stage := .done }) })).repark id := by
  simp only [State.chanServe, hb, hwait, hlive, hfirst, hopc, Bool.not_true, Bool.or_self, Bool.false_eq_true, if_false, if_true]

/-- A RECV that is first in its line takes the oldest messages, where there is one for every lane (R414). -/
theorem State.chanServe_recv (hopc : o.opc = 0xEA) :
    s.chanServe id o =
      if (s.messages b.gang (chanNo o.f)).length < (sortBy (·.lane) o.lanes).length then s
      else ((s.setMessages b.gang (chanNo o.f) ((s.messages b.gang (chanNo o.f)).drop (sortBy (·.lane) o.lanes).length)).updOp id (fun u =>
        { u with lanes := u.lanes.map (fun l =>
          { l with stage := .done, res := recvWords (sortBy (·.lane) o.lanes) (s.messages b.gang (chanNo o.f)) l }) })).repark id := by
  have other : ¬ o.opc = 0xE9 := by omega
  simp only [State.chanServe, hb, hwait, hlive, hfirst, other, Bool.not_true, Bool.or_self, Bool.false_eq_true, if_false]

end

end Sys2Proof.Machine

namespace Sys2Proof.Proofs

open Sys2Proof.Machine

/-- Settles O33: a STILL.WAIT by its domain, a channel form at issue by the slots of its channel, and its service by the messages there. -/
theorem channelSteps : Obligations.ChannelSteps := by
  refine ⟨?issue, ?service⟩
  case issue =>
    intro s f g l rest ho hr run a still
    have forms : ∀ r ∈ [(Instr.chanSend f, 0xE9), (.chanRecv f, 0xEA)], exec r.1 s = s.chanIssue r.2 f := by
      simp only [List.forall_mem_cons]
      exact ⟨rfl, rfl, List.forall_mem_nil _⟩
    exact ⟨fun h hf hbusy => execStillWait_busy ho hr h hf rfl hbusy, fun r hm h =>
      ⟨fun n hn hle o hop => (forms r hm).trans (State.chanIssue_served ho hr h hn hle rfl hop),
        fun hn => (forms r hm).trans (State.chanIssue_refused ho hr h hn)⟩⟩
  case service =>
    intro s id o b hb hwait hlive hfirst k held lanes
    have send := State.chanServe_send hb hwait hlive hfirst
    have recv := State.chanServe_recv hb hwait hlive hfirst
    exact ⟨fun hopc hroom hfence => (send hopc).trans (if_neg (by simpa [hfence] using hroom)),
      fun hopc hfull => (send hopc).trans (if_pos (by rw [Bool.or_eq_true]; exact .inl (decide_eq_true hfull))),
      fun hopc hfew => (recv hopc).trans (if_pos hfew),
      fun hopc hall => (recv hopc).trans (if_neg (Nat.not_lt.mpr hall))⟩

end Sys2Proof.Proofs
end

section
/-! Flow instructions at their units: the Weir, the Inlet and Stillwater (R389, R392, R393, R398, R401, R406 to R408, R411, R412). -/

namespace Sys2Proof.Machine

/-! ## The way to the unit -/

/-- A flow instruction that does not wait in the Backwater reaches its unit (R385). -/
theorem execVariableLatencyComplete_flow {s : State} {o : Op} (h : s.op? s.sel.x = some o) (hr : s.residentOp o) (hl : s.live o.block)
    (hne : o.lanes ≠ []) (hopc : 0xE0 ≤ o.opc ∧ o.opc ≤ 0xE8) (hsub : o.opc = 0xE8 → Rule.sub o.f ≠ 0) :
    execVariableLatencyComplete s = .next (s.stilled (s.flowOp s.sel.x o)) := by
  have nofence : o.opc ≠ 0xB0 := by omega
  have whole : laneDone o = false := by
    have nowait : (o.opc == 0xE8 && Rule.sub o.f == 0) = false := by simpa using hsub
    simp only [laneDone, List.contains_eq_mem, List.mem_cons, List.not_mem_nil, or_false, Bool.decide_or, nowait, Bool.or_false,
      Bool.or_eq_false_iff, List.isEmpty_eq_false_iff, ne_eq, hne, not_false_eq_true, decide_eq_false_iff_not, true_and,
      Bool.and_eq_false_imp, decide_eq_true_eq, Nat.not_le]
    omega
  have unit : s.unitOp s.sel.x o = s.flowOp s.sel.x o := by
    unfold State.unitOp
    split
    case h_11 => simp [hopc]
    all_goals omega
  simp [execVariableLatencyComplete, State.complete, h, hr, whole, nofence, State.going_of_live hl, unit]

/-- The forms that count towards a domain (R412). -/
def Op.gated (o : Op) : Prop :=
  o.opc ∈ [0xE0, 0xE1, 0xE4, 0xE5, 0xE6, 0xE7] ∨ (o.opc = 0xE3 ∧ o.move = none) ∨ (o.opc = 0xE8 ∧ 2 ≤ Rule.sub o.f)

theorem Op.gated_range {o : Op} (h : o.gated) : (0xE0 ≤ o.opc ∧ o.opc ≤ 0xE8) ∧ (o.opc = 0xE8 → Rule.sub o.f ≠ 0) := by
  simp only [Op.gated, List.mem_cons, List.not_mem_nil, or_false] at h
  omega

section
variable {s : State} {id : Nat} {o : Op}

/-- They wait for what comes before them in their threads (R412). -/
theorem State.flowOp_waits (hg : o.gated) (hready : s.flowReady id o = false) : s.flowOp id o = s := by
  unfold State.flowOp
  rcases hg with hopc | ⟨hopc, hmove⟩ | ⟨hopc, hsub⟩
  · simp only [List.mem_cons, List.not_mem_nil, or_false] at hopc
    rcases hopc with hopc | hopc | hopc | hopc | hopc | hopc <;> simp [hopc, hready]
  · simp [hopc, hready]
  · simp [hopc, hready, Nat.not_lt.mpr hsub]

theorem State.flowOp_test (hopc : o.opc = 0xE8) (hf : Rule.sub o.f = 1) : s.flowOp id o = s.stillOp id o := by
  simp [State.flowOp, hopc, hf]

/-- The units of the instructions that have nothing to wait for (R385). -/
theorem State.flowOp_ready (hready : s.flowReady id o) :
    (o.opc = 0xE0 → s.flowOp id o = s.openOp id o) ∧ (o.opc = 0xE1 → s.flowOp id o = s.pushOp id o)
    ∧ (o.opc = 0xE3 → o.move = none → s.flowOp id o = s.doneOp id o) ∧ (o.opc = 0xE4 → s.flowOp id o = s.closeOp id o)
    ∧ (o.opc = 0xE5 → s.flowOp id o = s.inletAddOp id o) ∧ (o.opc = 0xE6 → s.flowOp id o = s.inletTakeOp id o)
    ∧ (o.opc = 0xE7 → s.flowOp id o = s.inletDoneOp id o) ∧ (o.opc = 0xE8 → s.flowOp id o = s.stillOp id o) := by
  refine ⟨fun h => ?_, fun h => ?_, fun h hm => ?_, fun h => ?_, fun h => ?_, fun h => ?_, fun h => ?_, fun h => ?_⟩ <;>
    simp [State.flowOp, *]

/-! ## Stillwater (R411) -/

/-- The hold count of a domain is set. -/
def State.setHold (s : State) (d n : Nat) : State := s.setFlow { s.f with domains := Tab.set s.f.domains d (n, (s.domain d).2) }

theorem State.stillOp_test (hf : Rule.sub o.f = 1) :
    s.stillOp id o = s.finishWith id [BitVec.ofNat 32 (s.stillWord (o.handle % 256))] := by
  simp only [State.stillOp, hf]

theorem State.stillOp_hold (hf : Rule.sub o.f = 2) {n : Nat} (hn : (s.domain (o.handle % 256)).1 = n) :
    s.stillOp id o = if n = 65535 then s.finishWith id [0xFFFFFFFF]
      else (s.setHold (o.handle % 256) (n + 1)).finishWith id [BitVec.ofNat 32 (n + 1)] := by
  simp only [State.stillOp, hf, hn, State.setHold]

theorem State.stillOp_unhold (hf : Rule.sub o.f = 3) {n : Nat} (hn : (s.domain (o.handle % 256)).1 = n) :
    s.stillOp id o = if n = 0 then s.finishWith id [0]
      else s.stilled ((s.setHold (o.handle % 256) (n - 1)).finishWith id [BitVec.ofNat 32 (n - 1)]) := by
  simp only [State.stillOp, hf, hn, State.setHold]

end

/-! ## WEIR.OPEN (R390, R392) -/

/-- What the read of a descriptor leads to: a fault or poison of the leader lane, nothing while the read is held, or the context that
it describes, with its handle or the refusal; nothing while a write of the Weir's own is held. -/
def State.descriptorRead (s : State) (id : Nat) (o : Op) (l : LaneOp) (b : Block) : State × Except MemErr (List Byte) → State
  | (s1, .error (.page k a)) => s1.faultLeader id l k a false
  | (s1, .error (.poisoned a)) => s1.poisonLeader id o l a
  | (_, .error .held) => s
  | (s1, .ok d) => (s1.weirOpen (b.core.getD 0) b (s1.ctxOf o.block) (ofBytes d)).elim s
      (fun r => s.stilled (r.1.finishWith id [BitVec.ofNat 32 r.2]))

section
variable {s : State} {id : Nat} {o : Op} {l : LaneOp} {b : Block} (hl : o.leader = some l) (hb : s.block? o.block = some b)
  (hs : l.stage = .sent)
include hl hb hs

theorem State.openOp_misaligned (ha : l.ea % 64 ≠ 0) : s.openOp id o = s.finishWith id [5] := by
  simp [State.openOp, hl, hb, hs, ha]

theorem State.openOp_aligned (ha : l.ea % 64 = 0) {r : State × Except MemErr (List Byte)}
    (hr : s.load (s.agentOf o.block l.key) l.ea 64 = r) : s.openOp id o = s.descriptorRead id o l b r := by
  have sent : (l.stage != .sent) = false := by rw [hs]; rfl
  simp only [State.openOp, hl, hb, sent, ha, hr, Bool.false_eq_true, if_false, ne_eq, not_true_eq_false]
  rcases r with ⟨s1, (k | a | _) | d⟩
  case ok => cases h : s1.weirOpen (b.core.getD 0) b (s1.ctxOf o.block) (ofBytes d) <;> simp only [State.descriptorRead, h, Option.elim]
  all_goals rfl

end

/-! ## WEIR.PUSH, DONE and CLOSE (R389, R393, R398, R401) -/

section
variable {s : State} {id : Nat} {o : Op}

section
variable (hw : s.weirOf o.block o.handle = none)
include hw

/-- What a stale handle answers (R389). -/
theorem State.pushOp_stale : s.pushOp id o = s.finishWith id [4] := by
  simp only [State.pushOp, hw]
  rfl

theorem State.doneOp_stale : s.doneOp id o = s.finishOp id := by
  simp only [State.doneOp, hw]

theorem State.closeOp_stale : s.closeOp id o = s.finishWith id [1] := by
  simp only [State.closeOp, hw]

end

variable {e : Nat} {w : Weir} (hw : s.weirOf o.block o.handle = some (e, w))
include hw

theorem State.pushOp_faulted (hs : w.state = .faulted) : s.pushOp id o = s.finishWith id [5] := by
  simp [State.pushOp, hw, hs]

theorem State.pushOp_closed (hs : w.state = .closed) : s.pushOp id o = s.finishWith id [3] := by
  simp [State.pushOp, hw, hs]

/-- A PUSH to an open context ends with the statuses of its lanes, unless an access of the Weir is held (R393). -/
theorem State.pushOp_open (hs : w.state = .open_) {r : Option (State × List (Nat × List Word))}
    (hr : s.pushLanes e false (sortBy (·.lane) o.lanes) = r) :
    s.pushOp id o = r.elim s (fun p => s.stilled (p.1.finishLanes id p.2)) := by
  simp only [State.pushOp, hw, hs, hr]
  cases r <;> rfl

/-- DONE makes done what its lanes hold, unless an access of the Weir is held (R398). -/
theorem State.doneOp_held {r : Option State} (hr : s.doneLanes e w (sortBy (·.lane) o.lanes) = r) :
    s.doneOp id o = r.elim s (fun t => s.stilled (t.finishOp id)) := by
  simp only [State.doneOp, hw, hr]
  cases r <;> rfl

/-- KILL frees the context once the writes of its scatters are fixed (R401). -/
theorem State.closeOp_kill (hf : Rule.sub o.f = 1) {r : Option State} (hr : s.keepScatters w (s.scattersOf o.block o.handle) = r) :
    s.closeOp id o = r.elim s (fun t => s.stilled ((t.weirFree e).finishWith id [0])) := by
  simp only [State.closeOp, hw, hf, hr, if_true]
  cases r <;> rfl

/-- END closes an open context (R401). -/
theorem State.closeOp_open (hf : Rule.sub o.f ≠ 1) (hs : w.state = .open_) :
    s.closeOp id o = s.stilled (((s.updWeir e (fun w => { w with state := .closed })).weirSettle e).finishWith id [0]) := by
  simp only [State.closeOp, hw, hf, hs, if_false]
  rfl

/-- One that is not open is closed already, or FAULTED (R401). -/
theorem State.closeOp_again (hf : Rule.sub o.f ≠ 1) (hs : w.state ≠ .open_) : s.closeOp id o = s.finishWith id [2] := by
  simp only [State.closeOp, hw, hf, if_false, bne_iff_ne.mpr hs, if_true]

end

/-! ## The Inlet (R406, R407) -/

/-- An INLET.TAKE that gets nothing, with its code. -/
def State.takeRefused (s : State) (id c : Nat) : State := s.finishWith id [0, 0, 0, BitVec.ofNat 32 (256 + c)]

/-- The words of the lane that is given the item at `i`, of `k` taken: the item, that there is one, and how many. -/
def itemWords (k : Nat) (items : List (List Byte)) (i : Nat) : List Word :=
  (match items[i]? with | some b => wordsOf 2 (ofBytes b) ++ [1] | none => [0, 0, 0]) ++ [BitVec.ofNat 32 k]

/-- What the read of the oldest items leads to: nothing while it is held, a FAULTED list, or items in the lanes' hands. -/
def State.itemsRead (s : State) (id n k : Nat) (lanes : List LaneOp) : State × Own (List (List Byte)) → State
  | (_, .error true) => s
  | (s1, .error false) => (s1.updList n (fun l => { l with faulted := true })).takeRefused id 4
  | (s1, .ok items) => s.stilled
      ((s1.updList n (fun l => { l with taken := l.taken + k, count := l.count - k, inHand := l.inHand + k })).finishLanes id
        ((lanes.zip (List.range lanes.length)).map (fun p => (p.1.lane, itemWords k items p.2))))

section
variable {s : State} {id : Nat} {o : Op}

/-- ADD ends with the statuses of its lanes, unless a write of the Inlet is held (R406). -/
theorem State.inletAddOp_eq {r : Option (State × List (Nat × List Word))}
    (hr : s.addItems (s.ctxOf o.block).secure (sortBy (·.lane) o.lanes) = r) :
    s.inletAddOp id o = r.elim s (fun p => s.stilled (p.1.finishLanes id p.2)) := by
  simp only [State.inletAddOp, hr]
  cases r <;> rfl

/-- TAKE of a list that the context may not use (R407). -/
theorem State.inletTakeOp_refused (hc : s.listCode (s.ctxOf o.block).secure (o.handle % 4096) ≠ 0) :
    s.inletTakeOp id o = s.takeRefused id (s.listCode (s.ctxOf o.block).secure (o.handle % 4096)) := by
  simp only [State.inletTakeOp]
  split
  · next h0 => exact absurd h0 hc
  · rfl

/-- TAKE of a list that it may use reads an item for each lane while there is one (R407). -/
theorem State.inletTakeOp_usable (hc : s.listCode (s.ctxOf o.block).secure (o.handle % 4096) = 0) {l : InletList}
    (hl : Tab.look s.f.lists (o.handle % 4096) = some l) {r : State × Own (List (List Byte))}
    (hr : s.takeItems l 0 (min (sortBy (·.lane) o.lanes).length l.count) = r) :
    s.inletTakeOp id o = s.itemsRead id (o.handle % 4096) (min (sortBy (·.lane) o.lanes).length l.count) (sortBy (·.lane) o.lanes) r := by
  simp only [State.inletTakeOp, hl, hc, hr]
  rcases r with ⟨s1, (_ | _) | items⟩ <;> rfl

end

end Sys2Proof.Machine

namespace Sys2Proof.Proofs

open Sys2Proof.Machine

/-- Settles O34: an instruction waits or reaches its unit, and there goes by its handle, the state of what the handle names, and what
the accesses of the unit answer. -/
theorem flowUnits : Obligations.FlowUnits := by
  intro s o id h d v sub lanes put ends gated hop hr hlive hne
  have reaches {t} (hopc : 0xE0 ≤ o.opc ∧ o.opc ≤ 0xE8) (hsub : o.opc = 0xE8 → sub ≠ 0) (ht : s.flowOp id o = t) : ends t :=
    (execVariableLatencyComplete_flow hop hr hlive hne hopc hsub).trans (by rw [ht])
  have still {t} (hopc : o.opc = 0xE8) (hsub : sub ≠ 0) (ht : s.flowOp id o = t) : ends t :=
    reaches (by omega) (fun _ => hsub) ht
  have unit {t} (hopc : 0xE0 ≤ o.opc ∧ o.opc ≤ 0xE7) (ht : s.flowOp id o = t) : ends t := reaches (by omega) (by omega) ht
  refine ⟨fun hg hwaits => ?gated,
    fun hopc hf => still hopc (by omega) ((State.flowOp_test hopc hf).trans (State.stillOp_test hf)), fun hready => ?_⟩
  case gated =>
    obtain ⟨hopc, hsub⟩ := Op.gated_range hg
    exact reaches hopc hsub (State.flowOp_waits hg hwaits)
  obtain ⟨opens, pushes, dones, closes, adds, takes, doneItems, stills⟩ := State.flowOp_ready hready
  have counts {t} (hopc : o.opc = 0xE8) (hsub : sub ≠ 0) (ht : s.stillOp id o = t) : ends t := still hopc hsub ((stills hopc).trans ht)
  refine ⟨?_, ?_, ?_, ?_, ?open_, ?stale, ?named, ?add, ?take, fun hopc => unit (by omega) (doneItems hopc)⟩
  · exact fun hopc hf hn => counts hopc (by omega) ((State.stillOp_hold hf rfl).trans (if_pos hn))
  · exact fun hopc hf hn => counts hopc (by omega) ((State.stillOp_hold hf rfl).trans (if_neg hn))
  · exact fun hopc hf hn => counts hopc (by omega) ((State.stillOp_unhold hf rfl).trans (if_pos hn))
  · exact fun hopc hf hn => counts hopc (by omega) ((State.stillOp_unhold hf rfl).trans (if_neg hn))
  case open_ =>
    intro hopc l b hl hb hs read
    have opened {t} (ht : s.openOp id o = t) : ends t := unit (by omega) ((opens hopc).trans ht)
    have reads (ha : l.ea % 64 = 0) {r} (hr : read = r) : s.openOp id o = s.descriptorRead id o l b r :=
      State.openOp_aligned hl hb hs ha hr
    refine ⟨fun ha => opened (State.openOp_misaligned hl hb hs ha), fun ha s1 k a hr => opened (reads ha hr),
      fun ha s1 a hr => opened (reads ha hr), fun ha s1 hr => opened (reads ha hr), fun ha s1 d hr => ?_⟩
    exact ⟨fun hn => opened ((reads ha hr).trans (congrArg (Option.elim · _ _) hn)),
      fun r hn => opened ((reads ha hr).trans (congrArg (Option.elim · _ _) hn))⟩
  case stale =>
    exact fun hw => ⟨fun hopc => unit (by omega) ((pushes hopc).trans (State.pushOp_stale hw)),
      fun hopc hm => unit (by omega) ((dones hopc hm).trans (State.doneOp_stale hw)),
      fun hopc => unit (by omega) ((closes hopc).trans (State.closeOp_stale hw))⟩
  case named =>
    intro e w hw
    have pushed {t} (hopc : o.opc = 0xE1) (ht : s.pushOp id o = t) : ends t := unit (by omega) ((pushes hopc).trans ht)
    have done {t} (hopc : o.opc = 0xE3) (hm : o.move = none) (ht : s.doneOp id o = t) : ends t :=
      unit (by omega) ((dones hopc hm).trans ht)
    have closed {t} (hopc : o.opc = 0xE4) (ht : s.closeOp id o = t) : ends t := unit (by omega) ((closes hopc).trans ht)
    exact ⟨fun hopc hs => pushed hopc (State.pushOp_faulted hw hs), fun hopc hs => pushed hopc (State.pushOp_closed hw hs),
      fun hopc hs => ⟨fun hn => pushed hopc (State.pushOp_open hw hs hn), fun r hn => pushed hopc (State.pushOp_open hw hs hn)⟩,
      fun hopc hm => ⟨fun hn => done hopc hm (State.doneOp_held hw hn), fun s1 hn => done hopc hm (State.doneOp_held hw hn)⟩,
      fun hopc hf => ⟨fun hn => closed hopc (State.closeOp_kill hw hf hn), fun s1 hn => closed hopc (State.closeOp_kill hw hf hn)⟩,
      fun hopc hf hs => closed hopc (State.closeOp_open hw hf hs), fun hopc hf hs => closed hopc (State.closeOp_again hw hf hs)⟩
  case add =>
    intro hopc added
    exact ⟨fun hn => unit (by omega) ((adds hopc).trans (State.inletAddOp_eq hn)),
      fun r hn => unit (by omega) ((adds hopc).trans (State.inletAddOp_eq hn))⟩
  case take =>
    intro hopc n code refused
    have taken {t} (ht : s.inletTakeOp id o = t) : ends t := unit (by omega) ((takes hopc).trans ht)
    refine ⟨fun hc => taken (State.inletTakeOp_refused hc), fun hc l hl => ?_⟩
    exact ⟨fun s1 hr => taken (State.inletTakeOp_usable hc hl hr), fun s1 hr => taken (State.inletTakeOp_usable hc hl hr),
      fun s1 items hr => taken (State.inletTakeOp_usable hc hl hr)⟩

end Sys2Proof.Proofs
end

section
/-! The steps of the Weir and of the Inlet (R395 to R398, R401, R402, R404, R408). -/

namespace Sys2Proof.Machine

/-! ## Service of TAKEs (R396) -/

/-- A TAKE that cannot complete is passed over. -/
theorem State.takeService_waits {s : State} {p : Nat × Op} {l : List (Nat × Op)} (h : (s.serveTake p.1 p.2).2 = false) :
    s.takeService (p :: l) = s.takeService l := by
  have waits : s.serveTake p.1 p.2 = ((s.serveTake p.1 p.2).1, false) := Prod.ext rfl h
  rw [State.takeService, waits]

/-- The first TAKE that can complete is served. -/
theorem State.takeService_first {s t : State} {i : Nat} {o : Op} {before after : List (Nat × Op)}
    (hn : ∀ p ∈ before, (s.serveTake p.1 p.2).2 = false) (hs : s.serveTake i o = (t, true)) :
    s.takeService (before ++ (i, o) :: after) = t := by
  induction before with
  | nil => simp only [List.nil_append, State.takeService, hs]
  | cons p before ih =>
    obtain ⟨hp, hrest⟩ := List.forall_mem_cons.mp hn
    exact (State.takeService_waits hp).trans (ih hrest)

/-- Where none can, nothing is done. -/
theorem State.takeService_none {s : State} {l : List (Nat × Op)} (hn : ∀ p ∈ l, (s.serveTake p.1 p.2).2 = false) :
    s.takeService l = s := by
  induction l with
  | nil => rfl
  | cons p l ih =>
    obtain ⟨hp, hrest⟩ := List.forall_mem_cons.mp hn
    exact (State.takeService_waits hp).trans (ih hrest)

/-- Where nothing has happened, no domain becomes QUIET. -/
theorem State.stilled_self (s : State) : s.stilled s = s := by
  have none_falls : s.namedDomains.filter (fun d => s.domainBusy d && !s.domainBusy d && (s.domain d).2 == (s.domain d).2) = [] :=
    List.filter_eq_nil_iff.mpr fun d _ => by simp
  rw [State.stilled, none_falls, List.foldl_nil]

/-- A TAKE has waited 4,096 cycles at the Weir. -/
def State.takeDue (s : State) (o : Op) : Prop :=
  o.opc = 0xE2 ∧ o.served = false ∧ o.lanes ≠ [] ∧ s.live o.block ∧ o.takeExpired s.clock

section
variable {s : State} {o : Op} (h : s.op? s.sel.x = some o)
include h

/-- Then the Weir serves a TAKE, in its order. -/
theorem execWeirTakeTimeout_due (hd : s.takeDue o) :
    execWeirTakeTimeout s = .next (s.stilled (s.takeService (s.takesAt (s.takeDie o)))) := by
  obtain ⟨hopc, hserved, hne, hlive, hexp⟩ := hd
  simp [execWeirTakeTimeout, h, hopc, hserved, hne, hlive, hexp]

theorem execWeirTakeTimeout_early (hd : ¬ s.takeDue o) : execWeirTakeTimeout s = .next s := by
  simp only [execWeirTakeTimeout, h]
  exact if_neg (by simpa [State.takeDue, and_assoc] using hd)

end

/-! ## Gathers and scatters (R397, R398) -/

/-- What a gather copies: the bodies of the records that its lanes got. -/
def Op.gathered (o : Op) (m : Move) : List (Nat × Nat) :=
  ((sortBy (·.lane) o.lanes).filter (fun l => l.res.getD 3 0xFFFFFFFF != 0xFFFFFFFF)).flatMap (fun l =>
    moveParts m l.lane (bytesOf 16 (ofWords l.res)))

/-- What the reads of the records in hand lead a scatter to: nothing while one is held, a FAULTED context, or its writes, after which
the constraints are done. -/
def State.scatterRead (s : State) (id : Nat) (o : Op) (m : Move) (l : LaneOp) (e : Nat) (w : Weir) :
    State × Own (List (Nat × Nat)) → State
  | (_, .error true) => s
  | (s1, .error false) => (s1.weirFault e).finishOp id
  | (s1, .ok parts) => s.stilled (s.afterMove id o l (s1.scatter (s1.agentOf o.block l.key) o.block m.len parts)
      (fun t => match t.doneLanes e w (sortBy (·.lane) o.lanes) with | some u => u.finishOp id | none => s))

section
variable {s : State} {o : Op} {m : Move} {l : LaneOp} (h : s.op? s.sel.x = some o) (hlive : s.live o.block) (hmove : o.move = some m)
  (hlead : o.leader = some l) (hsent : l.stage = .sent)
include h hlive hmove hlead hsent

/-- A gather copies unless an order of its thread or of its scope holds it back (R312, R325, R397). -/
theorem execWeirGatherComplete_eq (hopc : o.opc = 0xE2) (hserved : o.served) :
    execWeirGatherComplete s =
      if s.gatherBlocked s.sel.x l m.len (o.gathered m) ∨ s.fullReady s.sel.x o = false then .next s
      else .next (s.afterMove s.sel.x o l (s.gather (s.agentOf o.block l.key) o.block m.len (o.gathered m))
        (fun t => t.endTake s.sel.x o (o.lanes.map (fun l => (l.lane, l.res))))) := by
  simp only [execWeirGatherComplete, h, hmove, hlead, hopc, hserved, hsent, hlive, Bool.or_eq_true, Bool.not_eq_true']
  rfl

variable (hopc : o.opc = 0xE3) (hready : s.flowReady s.sel.x o)
include hopc hready

/-- A scatter whose context was killed makes its writes, and no constraint done (R401). -/
theorem execWeirScatterComplete_killed (hserved : o.served) :
    execWeirScatterComplete s = .next (s.afterMove s.sel.x o l
      (s.scatter (s.agentOf o.block l.key) o.block m.len m.left) (fun t => t.finishOp s.sel.x)) := by
  simp only [execWeirScatterComplete, h, hmove, hlead, hopc, hserved, hsent, hlive, hready]
  rfl

variable (hserved : o.served = false)
include hserved

/-- One with a stale handle has nothing to do (R389). -/
theorem execWeirScatterComplete_stale (hw : s.weirOf o.block o.handle = none) :
    execWeirScatterComplete s = .next (s.finishOp s.sel.x) := by
  simp only [execWeirScatterComplete, h, hmove, hlead, hopc, hserved, hsent, hlive, hready, hw]
  rfl

variable {e : Nat} {w : Weir} (hw : s.weirOf o.block o.handle = some (e, w))
include hw

/-- Nor has one of a FAULTED context (R402). -/
theorem execWeirScatterComplete_faulted (hs : w.state = .faulted) : execWeirScatterComplete s = .next (s.finishOp s.sel.x) := by
  simp only [execWeirScatterComplete, h, hmove, hlead, hopc, hserved, hsent, hlive, hready, hw, hs]
  rfl

/-- Any other reads the records in hand (R398). -/
theorem execWeirScatterComplete_reads (hs : w.state ≠ .faulted) {r : State × Own (List (Nat × Nat))}
    (hr : s.scatterParts w m (sortBy (·.lane) o.lanes) = r) :
    execWeirScatterComplete s = .next (s.scatterRead s.sel.x o m l e w r) := by
  simp only [execWeirScatterComplete, h, hmove, hlead, hopc, hserved, hsent, hlive, hready, hw, beq_false_of_ne hs, hr]
  rcases r with ⟨s1, (_ | _) | parts⟩ <;> rfl

end

/-! ## Accesses of the units that fault (R402, R408) -/

/-- Only an access that faults, and is not held, has an effect. -/
def State.ifFaults {α : Type} (s : State) (fault : State → State) : State × Own α → State
  | (s1, .error false) => fault s1
  | (_, .error true) => s
  | (_, .ok _) => s

section
variable {s : State}

/-- A context in use becomes FAULTED where a read of what is pending faults (R402). -/
theorem execWeirOwnAccessFault_inUse {w : Weir} (h : Tab.look s.f.weirs s.sel.x = some w)
    (hu : (w.state = .open_ ∨ w.state = .closed) ∧ w.place.isSome) {r : State × Own (List (Nat × List Byte))}
    (hr : s.releasable w (w.pending.map (fun p => (p.1, none))) = r) :
    execWeirOwnAccessFault s = .next (s.ifFaults (fun t => t.weirFault s.sel.x) r) := by
  have used : ((w.state == .open_ || w.state == .closed) && w.place.isSome) = true := by simpa using hu
  simp only [execWeirOwnAccessFault, h, used, hr, if_true]
  rcases r with ⟨s1, (_ | _) | l⟩ <;> rfl

theorem execWeirOwnAccessFault_unused {w : Weir} (h : Tab.look s.f.weirs s.sel.x = some w)
    (hu : ¬((w.state = .open_ ∨ w.state = .closed) ∧ w.place.isSome)) : execWeirOwnAccessFault s = .next s := by
  simp only [execWeirOwnAccessFault, h]
  exact if_neg (by simpa using hu)

variable {l : InletList} (h : Tab.look s.f.lists s.sel.x = some l)
include h

/-- A list becomes FAULTED where a read of its oldest item faults (R408). -/
theorem execInletRingFault_usable (hf : l.faulted = false) {r : State × Own (List Byte)}
    (hr : s.ownLoad l.agent (l.itemVa 0) 8 = r) :
    execInletRingFault s = .next (s.ifFaults (fun t => t.updList s.sel.x (fun l => { l with faulted := true })) r) := by
  simp only [execInletRingFault, h, hf, hr]
  rcases r with ⟨s1, (_ | _) | b⟩ <;> rfl

/-- One that is FAULTED already stays so. -/
theorem execInletRingFault_faulted (hf : l.faulted) : execInletRingFault s = .next s := by
  simp only [execInletRingFault, h, hf, if_true]

end

/-! ## SYS.INLETTAB (R404) -/

/-- The fields of SYS.INLETTAB in a word that is written to it. -/
def inletFields (value : Dword) : Nat := bits value.toNat 17 35 * 2 ^ 17 + value.toNat % 2

/-- SYS.INLETTAB with the fields written. -/
def State.inletWritten (s : State) (value : Dword) : State := s.setSys { s.r with inletTab := BitVec.ofNat 64 (inletFields value) }

/-- Every list is idle. -/
def State.listsIdle (s : State) : Bool := s.f.lists.all (fun p => p.2.count == 0 && p.2.inHand == 0)

section
variable {s : State} {value : Dword}

/-- A write that leaves ENABLE set reads the table where ENABLE was clear. -/
theorem execInletEnable_on (hv : bit (inletFields value) 0) :
    execInletEnable value s = .next (if bit s.r.inletTab.toNat 0 then s.inletWritten value
      else (s.inletWritten value).setFlow
        { s.f with lists := (s.inletWritten value).readLists (bits (inletFields value) 17 35 * 2 ^ 17) }) := by
  rw [inletFields] at hv
  simp only [execInletEnable, hv]
  cases bit s.r.inletTab.toNat 0 <;> rfl

/-- A write that leaves ENABLE clear leaves no list, but has no effect where ENABLE was set and a list is not idle. -/
theorem execInletEnable_off (hv : bit (inletFields value) 0 = false) :
    execInletEnable value s = .next (if bit s.r.inletTab.toNat 0 ∧ s.listsIdle = false then s
      else (s.inletWritten value).setFlow { s.f with lists := [] }) := by
  rw [inletFields] at hv
  simp only [execInletEnable, hv, Bool.not_false, Bool.and_true, Bool.and_false, Bool.false_eq_true, if_false,
    Bool.and_eq_true, Bool.not_eq_true', apply_ite Host.Outcome.next]
  rfl

end

end Sys2Proof.Machine

namespace Sys2Proof.Proofs

open Sys2Proof.Machine

/-- Settles O35: a service by the first TAKE that can end, gathers and scatters by what holds them back and what their reads answer, an
access of a unit by whether it faults, and a write of SYS.INLETTAB by ENABLE before and after it. -/
theorem flowSteps : Obligations.FlowSteps := by
  intro s value id moved first noneEnds
  have moves (o l r ends) : s.afterMove id o l r ends = moved o l r ends := by rcases r with ⟨t, _ | _ | _ | _⟩ <;> rfl
  have serves {die i t} (hfirst : first die i t) : s.stilled (s.takeService (s.takesAt die)) = s.stilled t := by
    obtain ⟨before, after, o, hl, hn, hs⟩ := hfirst
    rw [hl, State.takeService_first hn hs]
  have rests {die} (hn : noneEnds die) : s.stilled (s.takeService (s.takesAt die)) = s := by
    rw [State.takeService_none hn, State.stilled_self]
  refine ⟨fun i s1 hfirst => congrArg _ (serves hfirst), fun hn => congrArg _ (rests hn), ?timeout,
    ?gather, ?scatter, ?weir, ?list, ?table⟩
  case timeout =>
    intro o hop due
    exact ⟨fun hd i s1 hfirst => (execWeirTakeTimeout_due hop hd).trans (congrArg _ (serves hfirst)),
      fun hd hn => (execWeirTakeTimeout_due hop hd).trans (congrArg _ (rests hn)), execWeirTakeTimeout_early hop⟩
  case gather =>
    intro o m l hop hopc hserved hlive hmove hlead hsent got parts behind
    have gathers := execWeirGatherComplete_eq hop hlive hmove hlead hsent hopc hserved
    exact ⟨fun hb => gathers.trans (if_pos hb),
      fun hb => (gathers.trans (if_neg hb)).trans (congrArg _ (moves ..))⟩
  case scatter =>
    intro o m l hop hopc hlive hmove hlead hsent hready lanes
    refine ⟨fun hserved => ?killed, fun hserved hw =>
      execWeirScatterComplete_stale hop hlive hmove hlead hsent hopc hready hserved hw, fun hserved e w hw => ⟨fun hs =>
        execWeirScatterComplete_faulted hop hlive hmove hlead hsent hopc hready hserved hw hs, fun hs => ?reads⟩⟩
    case killed =>
      exact (execWeirScatterComplete_killed hop hlive hmove hlead hsent hopc hready hserved).trans (congrArg _ (moves ..))
    case reads =>
      have reads {r} (hr : s.scatterParts w m lanes = r) : exec .weirScatterComplete s = .next (s.scatterRead id o m l e w r) :=
        execWeirScatterComplete_reads hop hlive hmove hlead hsent hopc hready hserved hw hs hr
      exact ⟨fun s1 hr => reads hr, fun s1 hr => reads hr,
        fun s1 parts hr => (reads hr).trans (congrArg _ (congrArg s.stilled (moves ..)))⟩
  case weir =>
    intro w hw inUse read
    exact ⟨fun hu s1 hr => execWeirOwnAccessFault_inUse hw hu hr, fun hu s1 hr => execWeirOwnAccessFault_inUse hw hu hr,
      fun hu s1 r hr => execWeirOwnAccessFault_inUse hw hu hr, execWeirOwnAccessFault_unused hw⟩
  case list =>
    intro l hl read
    exact ⟨fun hf s1 hr => execInletRingFault_usable hl hf hr, fun hf s1 hr => execInletRingFault_usable hl hf hr,
      fun hf s1 b hr => execInletRingFault_usable hl hf hr, execInletRingFault_faulted hl⟩
  case table =>
    intro v was idle s1
    exact ⟨fun hwas hv => (execInletEnable_on hv).trans (congrArg _ (if_neg (Bool.eq_false_iff.mp hwas))),
      fun hwas hv => (execInletEnable_on hv).trans (congrArg _ (if_pos hwas)),
      fun hv hidle => (execInletEnable_off hv).trans (congrArg _ (if_neg fun h => Bool.eq_false_iff.mp h.2 (hidle h.1))),
      fun hwas hv hbusy => (execInletEnable_off hv).trans (congrArg _ (if_pos ⟨hwas, hbusy⟩))⟩

end Sys2Proof.Proofs
end

section
/-! Context operations and PRIO (R446, R447, R449, R456). -/

namespace Sys2Proof.Machine

open Sys2Proof.Laws

/-! ## CTX.SAVE and CTX.LOAD at issue (R446, R447) -/

/-- CTX.SAVE (opcode 0xF0) or CTX.LOAD of a target, for a block: the state after it, its code, and the blocks it saves. -/
def State.ctxForm (s : State) (op : Nat) (t : CtxTarget) (blk : Nat) : State × Nat × List Nat :=
  if op = 0xF0 then s.ctxSave t (some blk) else ((s.ctxLoad t).1, (s.ctxLoad t).2, [])

/-- What a context form leaves once its operation has been carried out: itself outstanding with the outcome code and the blocks whose
saves it awaits, and every lane at NextPc. -/
def State.ctxBegan (s : State) (f : Slot) (g : Group) (r : State × Nat × List Nat) : State :=
  (r.1.updOp s.nextId (fun o => { o with tag := r.2.1, move := some ⟨0, 0, 0, r.2.2, [], [], []⟩ })).advance
    s.cur.group g (s.lanesOf g f)

section
variable {s : State} {op : Nat} {f : Slot} {g : Group} {l : LaneV} {rest : List LaneV}

/-- A context form of a privileged grid carries its operation out at issue. -/
theorem State.ctxIssue_next (h : issuesPriv s op f g) (ho : outsideTx s g f) (hr : running s g f = l :: rest) :
    s.ctxIssue op f = .next (kept s op f g (s.ctxBegan f g
      ((s.startOp s.cur.group g op f (sentLanes (l :: rest) 0)).1.ctxForm op (ctxTarget (Rule.sub f) (readA f l.th 1)) g.block))) := by
  have issued : issues s op f g := (Bool.and_eq_true_iff.mp h).1
  rw [State.ctxIssue, asPriv_next h]
  exact State.groupWide_after issued ho hr rfl

/-- PRIO gives the block the leader's class, capped at CLASS, and every executing lane the class before (R449). -/
theorem execPrio_next (h : issues s 0xF3 f g) (hr : running s g f = l :: rest) {b : Block} (hb : s.block? g.block = some b)
    {r : Record} (hrec : s.record? g.block = some r) :
    execPrio f s = .next (kept s 0xF3 f g
      (((s.updBlock g.block (fun b => { b with cls := min (readA f l.th 1 % 4) r.cls })).eachLane (l :: rest)
        (fun _ t => t.setVal f.d.toNat 1 b.cls)).advance s.cur.group g (s.lanesOf g f))) := by
  refine State.issue_after h ?_
  rw [running] at hr
  simp only [hr, hb, hrec]

end

/-! ## SYS.CTXCMD (R456) -/

/-- An operation of SYS.CTXCMD ends its start with its code in STATUS, and runs until the saves that it began have ended. -/
def State.ctxStarted (r : State × Nat × List Nat) : State := r.1.setSys { r.1.r with ctxStatus := r.2.1, ctxBusy := r.2.2 }

/-- While an operation runs, a write has no effect. -/
theorem State.ctxCommand_busy {s : State} (h : s.ctxRuns) (load : Bool) (t : CtxTarget) : s.ctxCommand load t = s := by
  rw [State.ctxCommand, if_pos h]

/-- While none runs, a write starts one. -/
theorem State.ctxCommand_idle {s : State} (h : s.ctxRuns = false) (load : Bool) (t : CtxTarget) :
    s.ctxCommand load t = State.ctxStarted (if load then ((s.ctxLoad t).1, (s.ctxLoad t).2, []) else s.ctxSave t none) := by
  rw [State.ctxCommand, if_neg (Bool.eq_false_iff.mp h)]
  rfl

end Sys2Proof.Machine

namespace Sys2Proof.Proofs

open Sys2Proof.Machine

/-- Settles O36: a context form carries its operation out at issue, PRIO goes by the leader, and a write of SYS.CTXCMD by whether an
operation runs. -/
theorem contextResults : Obligations.ContextResults := by
  refine ⟨fun s f g l rest hr => ?forms, fun s v => ?commands⟩
  case forms =>
    intro gid ls v start began
    refine ⟨?save, ?load, fun h b r hb hrec => execPrio_next h hr hb hrec⟩
    case save =>
      have save (h : issuesPriv s 0xF0 f g) (ho : outsideTx s g f) := State.ctxIssue_next h ho hr
      simp only [List.forall_mem_cons]
      exact ⟨save, save, save, List.forall_mem_nil _⟩
    case load =>
      have load (h : issuesPriv s 0xF1 f g) (ho : outsideTx s g f) := State.ctxIssue_next h ho hr
      simp only [List.forall_mem_cons]
      exact ⟨load, load, load, List.forall_mem_nil _⟩
  case commands =>
    have writes (load : Bool) (t : CtxTarget) : (s.ctxRuns = false → Host.Outcome.next (s.ctxCommand load t) =
          (.next (State.ctxStarted (if load then ((s.ctxLoad t).1, (s.ctxLoad t).2, []) else s.ctxSave t none)) : Result))
        ∧ (s.ctxRuns → Host.Outcome.next (s.ctxCommand load t) = (.next s : Result)) :=
      ⟨fun h => congrArg _ (State.ctxCommand_idle h load t), fun h => congrArg _ (State.ctxCommand_busy h load t)⟩
    simp only [List.forall_mem_cons]
    exact ⟨⟨writes false _, writes false _, writes false _, List.forall_mem_nil _⟩,
      ⟨writes true _, writes true _, writes true _, List.forall_mem_nil _⟩⟩

end Sys2Proof.Proofs
end

section
/-! The fault ring and the answers to its records (R441 to R445, R477). -/

namespace Sys2Proof.Machine

/-! ## Answers (R444, R445) -/

section
variable {s : State} {seq : Nat}

/-- A SEQ that names no outstanding record. -/
theorem State.answer_none (h : s.reportOf seq = none) (action : Nat) : s.answer seq action = s := by
  simp only [State.answer, h]

theorem State.answerKill_none (h : s.reportOf seq = none) : s.answerKill seq = s := by
  simp only [State.answerKill, h]

variable {r : Report} (h : s.reportOf seq = some r)
include h

/-- An answer acts on an instruction of a resident block. -/
theorem State.answer_live (action : Nat) {id : Nat} {lanes : List Nat} (hw : r.who = .op id lanes)
    (hl : (s.op? id).any (fun o => s.live o.block)) : s.answer seq action = (s.dropReport r.id).answerOp id lanes action := by
  simp only [State.answer, h, hw, hl, if_true]

/-- For one of a block that is saved it is kept. -/
theorem State.answer_kept (action : Nat) {id : Nat} {lanes : List Nat} (hw : r.who = .op id lanes)
    (hl : (s.op? id).any (fun o => s.live o.block) = false) :
    s.answer seq action = s.setReports (s.l.reports.filter (fun x => x.id != r.id) ++ [{ r with answer := some action }]) := by
  simp only [State.answer, h, hw, hl, Bool.false_eq_true, if_false]

/-- It acts on a group that waits. -/
theorem State.answer_group (action : Nat) {gid : Nat} (hw : r.who = .group gid) :
    s.answer seq action = (s.dropReport r.id).answerGroup gid r.id action := by
  simp only [State.answer, h, hw]

/-- KILL ends the record, and kills its launch where that still runs. -/
theorem State.answerKill_eq : s.answerKill seq =
    if (s.launch? (r.handle % 256)).any (fun l => l.gen == r.handle / 256 && !l.state.final)
    then (s.dropReport r.id).killLaunch (r.handle % 256) else s.dropReport r.id := by
  simp only [State.answerKill, h]
  cases s.launch? (r.handle % 256) <;>
    simp only [Option.any_none, Option.any_some, Bool.and_eq_true, beq_iff_eq, decide_eq_true_eq, Bool.false_eq_true,
      if_false]

end

/-! ## Records (R441 to R443) -/

/-- The state once the ring's next slot has been read and the record of a report written there: source 0 is pending, and SEQ and the index
go on. -/
def State.recordPut (s : State) (r : Report) : State :=
  let s0 := s.faultPeek.2
  let slots := 128 * 2 ^ min (bits s.r.faultq.toNat 1 4) 9
  let s1 := (s0.ctrlWrite ⟨false, true⟩ s0.faultSlot (bytesOf 32 (r.bits s0.l.fqSeq))).raiseIntr 0
  { s1 with l := { s1.l with
    fqSeq := if s0.l.fqSeq = 0xFFFFFFFF then 1 else s0.l.fqSeq + 1
    fqIndex := if s0.l.fqIndex + 1 = slots then 0 else s0.l.fqIndex + 1 } }

section
variable {s : State}

/-- Without a report that waits, nothing is written. -/
theorem State.writeRecord_none (h : s.l.reports.find? (fun r => r.seq.isNone) = none) : s.writeRecord = s := by
  simp only [State.writeRecord, h]

/-- With the ring off, nothing is written. -/
theorem State.writeRecord_off (hq : bit s.r.faultq.toNat 0 = false) : s.writeRecord = s := by
  unfold State.writeRecord
  split
  · rfl
  · simp only [hq, Bool.not_false, if_true]

variable {r : Report} (h : s.l.reports.find? (fun r => r.seq.isNone) = some r) (hq : bit s.r.faultq.toNat 0)
include h hq

/-- Of a full ring only the next slot has been read. -/
theorem State.writeRecord_full (hroom : s.faultRoom = false) : s.writeRecord = s.faultPeek.2 := by
  simp only [State.writeRecord, h, hq, hroom, Bool.not_true, Bool.not_false, Bool.false_eq_true, if_false, if_true]

/-- With room, the oldest report's record is written; the report keeps its SEQ where it awaits an answer, and ends where not. -/
theorem State.writeRecord_room (hroom : s.faultRoom) : s.writeRecord =
    if r.type = 0 ∧ r.who ≠ .nobody then (s.recordPut r).setReports ((s.recordPut r).l.reports.map (fun x =>
      if x.id == r.id then { x with seq := some s.faultPeek.2.l.fqSeq } else x))
    else (s.recordPut r).dropReport r.id := by
  simp only [State.writeRecord, h, hq, hroom, Bool.not_true, Bool.false_eq_true, if_false, Bool.and_eq_true, decide_eq_true_eq,
    bne_iff_ne]
  rfl

end

end Sys2Proof.Machine

namespace Sys2Proof.Proofs

open Sys2Proof.Machine

/-- Settles O37: an answer goes by what waits for its record, KILL by whether the record's launch still runs. -/
theorem faultAnswers : Obligations.FaultAnswers := by
  intro s seq
  refine ⟨fun h => ?none_, fun r h => ?answers, fun r h => ?kill⟩
  case none_ =>
    exact ⟨congrArg _ (State.answer_none h 0), congrArg _ (State.answer_none h 1), congrArg _ (State.answerKill_none h)⟩
  case answers =>
    have answers : ∀ a ∈ [(Instr.faultackReplay seq, 0), (.faultackDeliver seq, 1)], exec a.1 s = .next (s.answer seq.toNat a.2) := by
      simp only [List.forall_mem_cons]
      exact ⟨rfl, rfl, List.forall_mem_nil _⟩
    intro a ha
    rw [answers a ha]
    exact ⟨fun id lanes hw hl => congrArg _ (State.answer_live h a.2 hw hl),
      fun id lanes hw hl => congrArg _ (State.answer_kept h a.2 hw hl), fun gid hw => congrArg _ (State.answer_group h a.2 hw)⟩
  case kill =>
    intro runs
    exact ⟨fun hr => congrArg _ ((State.answerKill_eq h).trans (if_pos hr)),
      fun hr => congrArg _ ((State.answerKill_eq h).trans (if_neg (Bool.eq_false_iff.mp hr)))⟩

/-- Settles O38: a record goes by the oldest report, ENABLE and the next slot; a write of the registers takes its fields. -/
theorem faultRing : Obligations.FaultRing := by
  intro s value
  refine ⟨fun r h hq hroom => ?written, fun h => congrArg _ (State.writeRecord_none h),
    fun r h hq hroom => congrArg _ (State.writeRecord_full h hq hroom), fun hq => congrArg _ (State.writeRecord_off hq),
    ⟨_, rfl, rfl, rfl, rfl, rfl⟩, ⟨_, rfl, rfl, rfl, rfl, rfl⟩⟩
  case written =>
    intro s0 seq slots s1 s2
    have room : s.writeRecord = _ := State.writeRecord_room h hq hroom
    exact ⟨fun ended => congrArg _ (room.trans (if_neg fun ⟨ht, hw⟩ => ended.elim (· ht) hw)),
      fun ht hw => congrArg _ (room.trans (if_pos ⟨ht, hw⟩))⟩

end Sys2Proof.Proofs
end

section
/-! Placement, gangs, class-3 claims and slices (R423, R424, R426, R427, R429, R434). -/

namespace Sys2Proof.Machine

/-! ## The pull of a core (R423, R424, R429) -/

/-- The launches that made an offer beside the one that was taken have aged (R429). -/
def State.agedOffers (s : State) (core i : Nat) : State :=
  s.setLaunches (s.l.launches.map (fun p => if p.1 != i && (s.offers core).any (fun q => q.1 == p.1) then (p.1, p.2.older) else p))

section
variable {s t : State} {core : Nat} (hg : s.reserveGangs core = t)
include hg

/-- Without an offer nothing is placed. -/
theorem State.pull_none (hb : minBy (fun p => p.2.2) (t.offers core) = none) : s.pull core = t := by
  simp only [State.pull, hg, hb]

/-- The best offer is of new blocks. -/
theorem State.pull_new {i r : Nat} (hb : minBy (fun p => p.2.2) (t.offers core) = some (i, .new, r)) :
    s.pull core = (t.agedOffers core i).placeSome core i 8 := by
  simp only [State.pull, hg, hb, State.agedOffers]

/-- The best offer is of a saved block. -/
theorem State.pull_saved {i b r : Nat} (hb : minBy (fun p => p.2.2) (t.offers core) = some (i, .saved b, r)) :
    s.pull core = (((t.agedOffers core i).resume core b).updLaunch i (fun l => { l with age := 0 })).endClaim core i := by
  simp only [State.pull, hg, hb, State.agedOffers]

end

/-! ## Gangs (R426) -/

/-- The state as the members of a launch's gang find it: its own reservations are released, those of equal or better rank taken. -/
def State.gangView (s : State) (i tier : Nat) : State :=
  State.withReserved { s with l := { s.l with gangs := s.l.gangs.filter (fun x => x.launch != i) } } tier

section
variable {s : State} {w : GangWait} {l : Launch}

/-- A gang whose fallback is not due waits. -/
theorem execGangFallbackTimeout_early (hdue : s.fallbackDue s.sel.x = false) : execGangFallbackTimeout s = .next s := by
  unfold execGangFallbackTimeout
  split
  · simp only [hdue, Bool.not_false, if_true]
  · rfl

/-- One whose fallback is due is placed where what it still holds is enough, and else keeps that. -/
theorem execGangFallbackTimeout_due (hw : s.l.gangs.find? (fun w => w.launch == s.sel.x) = some w) (hl : s.launch? s.sel.x = some l)
    (hdue : s.fallbackDue s.sel.x) {size : Nat} (hsize : min (l.record.gangf + 1) (l.record.total - l.next) = size) {cores : List Nat}
    (hc : (s.gangView s.sel.x l.tier).holding s.sel.x [] 0 w.cores = cores) :
    execGangFallbackTimeout s = .next (if size ≤ cores.length then s.placeGang s.sel.x size l.record.fclass cores
      else s.updGang s.sel.x (fun w => { w with cores := cores })) := by
  rw [State.gangView] at hc
  simp only [execGangFallbackTimeout, hw, hl, hdue, hsize, hc, Bool.not_true, Bool.false_eq_true, if_false,
    apply_ite Host.Outcome.next]

end

/-! ## Class-3 claims (R427) -/

/-- The state without the reservations of a launch's gang. -/
def State.unreserved (s : State) (i : Nat) : State := { s with l := { s.l with gangs := s.l.gangs.filter (fun w => w.launch != i) } }

/-- A gang reserves the room that a die has for it and claims cores there for its other members; it has waited since it began to. -/
def State.claimDie (s : State) (i : Nat) (c : Nat × List Nat × List (Nat × List Nat)) : State :=
  let since := ((s.l.gangs.find? (fun w => w.launch == i)).map (·.since)).getD s.clock
  State.makeClaims { s.unreserved i with l := { (s.unreserved i).l with
    gangs := (s.unreserved i).l.gangs ++ [⟨i, c.1, c.2.1, since⟩] } } i c.2.2

section
variable {s : State} {i : Nat} {l : Launch} (hl : s.launch? i = some l)
include hl

/-- A launch of a lower class, or one that is not eligible, claims nothing. -/
theorem State.claim_not (h : ¬(l.record.cls = 3 ∧ s.eligibleLaunch l)) : s.claim i = s := by
  have lower : (decide (l.record.cls ≠ 3) || !s.eligibleLaunch l) = true := by
    simpa [imp_iff_not_or] using h
  simp only [State.claim, hl, lower, if_true]

variable (h : l.record.cls = 3 ∧ s.eligibleLaunch l)
include h

/-- One of class 3 without gangs presses the claims that it has, and claims a core for each block that no core can take. -/
theorem State.claim_blocks (hp : l.record.gangp = 0) {u : State} (hu : (s.pressClaims i l).reservedView l.tier = u) :
    s.claim i = (s.pressClaims i l).makeClaims i
      (claimsFor (fun _ s c => s.fitsAny c i l) (fun _ s c => s.takeAny c i l)
        (u.shortOf i l - ((s.pressClaims i l).l.claims.filter (fun p => p.2 == i && !u.fitsAny p.1 i l)).length) 0 (List.range 512) u) := by
  obtain ⟨hcls, helig⟩ := h
  simp [State.claim, hl, hcls, helig, hp, hu]

variable (hp : l.record.gangp ≠ 0)
include hp

/-- A gang that has claims presses them. -/
theorem State.claim_press (hc : s.l.claims.any (fun p => p.2 == i)) : s.claim i = s.pressClaims i l := by
  obtain ⟨hcls, helig⟩ := h
  simp [State.claim, hl, hcls, helig, hp, hc]

variable (hc : s.l.claims.any (fun p => p.2 == i) = false)
include hc

/-- One without claims that is stuck makes its claims on the die where the fewest blocks have to be saved. -/
theorem State.claim_gang : s.claim i = if s.gangWants i l ∧ s.stuck i l then
    (((s.unreserved i).reservedView l.tier).bestDieClaim i l).elim s (s.claimDie i) else s := by
  obtain ⟨hcls, helig⟩ := h
  by_cases hstuck : s.gangWants i l ∧ s.stuck i l
  · simp only [State.claim, hl, hcls, helig, hc, hstuck.1, hstuck.2, if_pos hp]
    cases hd : ((s.unreserved i).reservedView l.tier).bestDieClaim i l <;> rw [State.unreserved] at hd <;> simp only [hd] <;> rfl
  · have rests : (!s.gangWants i l || !s.stuck i l) = true := by
      simpa [imp_iff_not_or] using hstuck
    simp [State.claim, hl, hcls, helig, hp, hc, rests, hstuck]

end

/-! ## Slices (R434) -/

/-- The slice of a launch has run out. -/
def State.sliceDue (s : State) (l : Launch) : Prop := ∃ t, l.slice = some t ∧ t ≤ s.clock ∧ l.state = .running

/-- When the slice that begins now runs out (R434). -/
def State.nextSlice (s : State) (l : Launch) : Option Nat :=
  if s.sliceLen l.record.cls = 0 then none else some (s.clock + s.sliceLen l.record.cls)

section
variable {s : State} {i : Nat} {l : Launch} (hl : s.launch? i = some l)
include hl

theorem State.expire_early (h : ¬s.sliceDue l) : s.expire i = s := by
  simp only [State.expire, hl]
  cases ht : l.slice with
  | none => rfl
  | some t =>
    have early : (decide (s.clock < t) || l.state != .running) = true := by
      have : s.clock < t ∨ l.state ≠ .running := by
        by_contra hn
        exact h ⟨t, ht, by omega, by tauto⟩
      simpa using this
    simp only [early, if_true]

/-- A slice that has run out starts anew; where another launch waits, the blocks of this one are saved. -/
theorem State.expire_due (h : s.sliceDue l) : s.expire i =
    if s.waitsFor i l then
      ((((s.blocksOf i).filter (fun p => p.2.core.isSome)).map Prod.fst).foldl State.beginSave s).updLaunch i
        (fun x => { x with slice := s.nextSlice l, rank := s.clock })
    else s.updLaunch i (fun x => { x with slice := s.nextSlice l }) := by
  obtain ⟨t, ht, hle, hrun⟩ := h
  have due : (decide (s.clock < t) || l.state != .running) = false := by
    simpa [hrun] using hle
  simp only [State.expire, hl, ht, due, Bool.false_eq_true, if_false]
  rfl

end

end Sys2Proof.Machine

namespace Sys2Proof.Proofs

open Sys2Proof.Machine

/-- Settles O40: a pull by the best offer, a fallback by what the gang still holds, a claim by the class, the gang and the claims made
before, and a slice by whether another launch waits. -/
theorem placement : Obligations.Placement := by
  intro s k t aged best
  have pulls (hk : k < 512) : exec .blockPlacement s = .next (s.pull k) := if_pos hk
  refine ⟨fun hk hb => (pulls hk).trans (congrArg _ (State.pull_none rfl hb)),
    fun hk i r hb => (pulls hk).trans (congrArg _ (State.pull_new rfl hb)),
    fun hk i b r hb => (pulls hk).trans (congrArg _ (State.pull_saved rfl hb)),
    fun hk => if_pos hk, fun hk => ⟨if_neg (Nat.not_lt.mpr hk), if_neg (Nat.not_lt.mpr hk)⟩, ?fallback, ?claims, ?slices⟩
  case fallback =>
    intro w l hw hl size others cores
    have due (hdue : s.fallbackDue k) : exec .gangFallbackTimeout s = .next (if size ≤ cores.length
        then s.placeGang k size l.record.fclass cores else s.updGang k (fun w => { w with cores := cores })) :=
      execGangFallbackTimeout_due hw hl hdue rfl rfl
    exact ⟨execGangFallbackTimeout_early, fun hdue hle => (due hdue).trans (congrArg _ (if_pos hle)),
      fun hdue hlt => (due hdue).trans (congrArg _ (if_neg (Nat.not_le.mpr hlt)))⟩
  case claims =>
    intro l hl claims claimed others
    refine ⟨fun h => congrArg _ (State.claim_not hl h), fun h hp => congrArg _ (State.claim_blocks hl h hp rfl),
      fun h hp hc => congrArg _ (State.claim_press hl h hp hc), fun h hp hc => ?gang⟩
    have gang : s.claim k = _ := State.claim_gang hl h hp hc
    refine ⟨fun hs => congrArg _ (gang.trans (if_neg fun ⟨hw, hst⟩ =>
      hs.elim (Bool.eq_false_iff.mp · hw) (Bool.eq_false_iff.mp · hst))), fun hw hst => ?stuck⟩
    case stuck =>
      have stuck := gang.trans (if_pos ⟨hw, hst⟩)
      exact ⟨fun hd => congrArg _ (stuck.trans (congrArg (Option.elim · _ _) hd)),
        fun d room cs hd => congrArg _ (stuck.trans (congrArg (Option.elim · _ _) hd))⟩
  case slices =>
    intro l hl due len next
    have expires (h : due) : s.expire k = _ := State.expire_due hl h
    exact ⟨fun h => congrArg _ (State.expire_early hl h),
      fun h hw => congrArg _ ((expires h).trans (if_neg (Bool.eq_false_iff.mp hw))),
      fun h hw => congrArg _ ((expires h).trans (if_pos hw))⟩

end Sys2Proof.Proofs
end

section
/-! Rounds and reforms of the collective unit (R466, R468 to R470, R472 to R475, R491). -/

namespace Sys2Proof.Machine

/-! ## SYS.COMM (R466, R491) -/

section
variable {s : State} {n : Nat} {value : Dword} (hn : n < 16)
include hn

/-- A slot that nothing uses is made anew. -/
theorem execCommMembersWrite_idle (hb : s.commBusy n = false) : execCommMembersWrite n value s = .next
    ((s.setComm n (commValue 0 (bits value.toNat 32 16) (Nat.land (value.toNat % 256) s.r.alive) 0 value.toNat)).updSlot n
      (fun _ => ⟨1, [], none, [], none⟩)) := by
  simp only [execCommMembersWrite, Nat.not_le.mpr hn, hb, Bool.false_eq_true, if_false]

/-- Of one in use only TIMEOUT is taken. -/
theorem execCommMembersWrite_busy (hb : s.commBusy n) : execCommMembersWrite n value s = .next
    (s.setComm n (commValue (bits (s.comm n) 48 16) (bits value.toNat 32 16) (bits (s.comm n) 16 8) (bits (s.comm n) 8 8) (s.comm n))) := by
  simp only [execCommMembersWrite, Nat.not_le.mpr hn, hb, if_false, if_true]

end

/-- A slot is in use while a round, a reform or a WAIT of it is outstanding. -/
theorem State.commBusy_iff {s : State} {n : Nat} : s.commBusy n ↔ (s.slot n).open_ ≠ [] ∨ (s.reforming n).isSome
    ∨ s.v.ops.any (fun p => p.2.opc == 0xF6 && p.2.lanes.any (fun l => bits (l.b.getD 0 0).toNat 28 4 == n)) := by
  simp only [State.commBusy, Bool.or_eq_true, Bool.not_eq_true', List.isEmpty_eq_false_iff, or_assoc]

/-! ## Parts (R469, R470) -/

theorem State.roundAhead_iff {s : State} {n seq : Nat} :
    s.roundAhead n seq ↔ 1 ≤ seq ∧ seq ≤ 65535 ∧ (seq + 65535 - (s.slot n).next) % 65535 < 16 := by
  simp only [State.roundAhead, Bool.and_eq_true, decide_eq_true_eq, and_assoc]

/-- The round that a message names has the message's number. -/
theorem State.openRound_seq {s : State} {n seq : Nat} {r : Round} (h : s.openRound n seq = some r) : r.seq = seq := by
  have found := List.find?_some h
  simp only [Bool.and_eq_true, beq_iff_eq] at found
  exact found.1

/-- A part of a round that is not open here waits where the round is still to come, and else has no effect. -/
theorem State.collPart_closed {s : State} {n seq sender : Nat} {h : CollHeader} {result : Bool} {b : List Byte}
    (hr : s.openRound n seq = none) : s.collPart n seq sender h result b =
      if s.roundAhead n seq then s.keepMail n (.part seq sender h result b) else s := by
  simp only [State.collPart, hr]

/-- One of a round that is open here is taken; it waits where the write that it makes is held. -/
theorem State.collPart_open {s : State} {n seq sender : Nat} {h : CollHeader} {result : Bool} {b : List Byte} {r : Round}
    (hr : s.openRound n seq = some r) : s.collPart n seq sender h result b =
      (s.takePart n r sender h result b).getD (s.keepMail n (.part seq sender h result b)) := by
  simp only [State.collPart, hr]

/-- A round expects a part of its input or of its result from another member, once. -/
def Round.expects (r : Round) (own sender : Nat) (result : Bool) : Prop :=
  sender ≠ own ∧ bit r.ring sender ∧ r.parts.all (fun p => !(p.1 == sender && p.2.1 == result))

/-- The segment that a part fills: of the result the sender's, of the input the member's own. -/
def Round.partSeg (r : Round) (own sender : Nat) (result : Bool) : Nat × Nat := r.seg (rankIn r.ring (if result then sender else own))

/-- A part fits its round: of a BCAST it is the root's whole buffer, of an ALLRED a segment. -/
def Round.fits (r : Round) (own sender : Nat) (result : Bool) (part : List Byte) : Prop :=
  if r.header.bcast then result = true ∧ sender = r.header.root ∧ own ≠ r.header.root ∧ part.length = r.header.len
  else part.length = (r.partSeg own sender result).2

section
variable {s : State} {n sender : Nat} {r : Round} {result : Bool} {b : List Byte}

theorem State.takePart_unexpected {h : CollHeader} (he : ¬r.expects s.r.pkg sender result) :
    s.takePart n r sender h result b = some s := by
  have unexpected : (decide (sender = s.r.pkg) || !bit r.ring sender
      || r.parts.any (fun p => p.1 == sender && p.2.1 == result)) = true := by
    rw [Round.expects, ← List.not_any_eq_all_not] at he
    grind
  simp only [State.takePart, unexpected, if_true]

variable (he : r.expects s.r.pkg sender result)
include he

/-- A part that is expected ends the round where its header is another. -/
theorem State.takePart_expected {h : CollHeader} : s.takePart n r sender h result b =
    if h != r.header then some (s.endRound n r.seq 2 0)
    else if r.header.bcast then
      (if result && sender = r.header.root && s.r.pkg != r.header.root && b.length = r.header.len
        then s.takeResult n sender r 0 b else some s)
    else
      if b.length ≠ (r.partSeg s.r.pkg sender result).2 then some s
      else if result then s.takeResult n sender r (r.partSeg s.r.pkg sender result).1 b else s.takeInput n sender r b := by
  have expected : (decide (sender = s.r.pkg) || !bit r.ring sender
      || r.parts.any (fun p => p.1 == sender && p.2.1 == result)) = false := by
    rw [Round.expects, ← List.not_any_eq_all_not] at he
    grind
  simp only [State.takePart, expected, Bool.false_eq_true, if_false]
  rfl

theorem State.takePart_mismatch {h : CollHeader} (hh : h ≠ r.header) :
    s.takePart n r sender h result b = some (s.endRound n r.seq 2 0) := by
  rw [State.takePart_expected he, if_pos (bne_iff_ne.mpr hh)]

/-- A part that does not fit has no effect. -/
theorem State.takePart_unfit (hf : ¬r.fits s.r.pkg sender result b) : s.takePart n r sender r.header result b = some s := by
  rw [Round.fits] at hf
  rw [State.takePart_expected he]
  grind

variable (hf : r.fits s.r.pkg sender result b)
include hf

/-- A part of the result that fits is taken, for a BCAST from the start of the buffer. -/
theorem State.takePart_result (hres : result = true) : s.takePart n r sender r.header result b =
    s.takeResult n sender r (if r.header.bcast then 0 else (r.partSeg s.r.pkg sender result).1) b := by
  rw [Round.fits] at hf
  rw [State.takePart_expected he]
  grind

/-- A part of the input that fits is taken; only an ALLRED has one. -/
theorem State.takePart_input (hres : result = false) : s.takePart n r sender r.header result b = s.takeInput n sender r b := by
  rw [Round.fits] at hf
  rw [State.takePart_expected he]
  grind

end

/-- A part of the result is written; with it the round may be done. None where the write is held. -/
theorem State.takeResult_eq {s : State} {n sender : Nat} {r : Round} {off : Nat} {b : List Byte} {put : Option (State × Bool)}
    (hp : s.putResult n r off b = put) : s.takeResult n sender r off b = put.map (fun p =>
      if p.2 then (p.1.updRound n r.seq (fun r => { r with parts := r.parts ++ [(sender, true, [])] })).roundDone n r.seq else p.1) := by
  rw [State.takeResult, hp]
  rcases put with _ | ⟨s1, _ | _⟩ <;> rfl

/-- The round with one input part more. -/
def Round.withInput (r : Round) (sender : Nat) (b : List Byte) : Round := { r with parts := r.parts ++ [(sender, false, b)] }

section
variable {s : State} {n sender : Nat} {r r1 : Round} {b : List Byte} (h1 : r.withInput sender b = r1)
include h1

/-- While parts of the input are missing, a part is kept. -/
theorem State.takeInput_more (hm : r1.got false + 1 ≠ r1.members) :
    s.takeInput n sender r b = some (s.updRound n r.seq (fun _ => r1)) := by
  subst h1
  exact if_pos hm

/-- With the last one the member's own segment is combined, written and sent. None where the write is held. -/
theorem State.takeInput_last (hl : r1.got false + 1 = r1.members) {put : Option (State × Bool)}
    (hp : s.putResult n r1 (r1.seg (rankIn r1.ring s.r.pkg)).1 (r1.result s.r.pkg) = put) :
    s.takeInput n sender r b = put.map (fun p => if p.2 then
      ((p.1.updRound n r.seq (fun _ => r1)).tellPart r1.ring true n r1 (r1.result s.r.pkg)).roundDone n r.seq else p.1) := by
  subst h1
  refine (if_neg (not_not.mpr hl)).trans ?_
  rw [Round.withInput] at hp
  simp only [hp]
  rcases put with _ | ⟨s1, _ | _⟩ <;> rfl

end

/-! ## Aborts and timeouts (R472, R491) -/

/-- The members that an ABORT names join SUSPECT, unless it reports a FAULT. -/
def State.abortNamed (s : State) (n : Nat) (silent : BitVec 8) (fault : Bool) : State := if fault then s else s.addSuspect n silent.toNat

section
variable {s : State} {n seq : Nat}

/-- An ABORT ends an open round. -/
theorem State.collAbort_open {r : Round} (h : s.openRound n seq = some r) (silent : BitVec 8) (fault : Bool) :
    s.collAbort n seq silent fault = (s.abortNamed n silent fault).endRound n r.seq (if fault then 5 else 1)
      ((s.abortNamed n silent fault).commSuspect n) := by
  simp only [State.collAbort, h, State.abortNamed]

/-- For a round that is still to come here it waits; of one that has ended here it names silent members. -/
theorem State.collAbort_closed (h : s.openRound n seq = none) (silent : BitVec 8) (fault : Bool) :
    s.collAbort n seq silent fault =
      if s.roundAhead n seq then (s.abortNamed n silent fault).keepMail n (.abort seq silent fault)
      else if s.endedRound n seq then s.abortNamed n silent fault else s := by
  simp only [State.collAbort, h, State.abortNamed]

end

/-- The members that a member takes for silent at a timeout: those without an input part while one is missing, else those without a
result. -/
def Round.mute (r : Round) (own : Nat) : Nat :=
  let noInput := maskOf ((onesOf 8 r.ring).filter (fun p => p != own && !r.parts.any (fun q => q.1 == p && !q.2.1)))
  if r.header.bcast = false ∧ noInput ≠ 0 then noInput else r.silent own

section
variable {s : State}

theorem execCollTimeout_none (h : s.openRound s.sel.x s.sel.y = none) : execCollTimeout s = .next s := by
  simp only [execCollTimeout, h]

variable {r : Round} (h : s.openRound s.sel.x s.sel.y = some r)
include h

theorem execCollTimeout_early (hd : s.clock < r.due) : execCollTimeout s = .next s := by
  simp only [execCollTimeout, h, hd, if_true]

/-- A round that is due ends with PEERLOST, its silent members named to the others. -/
theorem execCollTimeout_due (hd : r.due ≤ s.clock) {s1 : State} (h1 : s.addSuspect s.sel.x (r.mute s.r.pkg) = s1) :
    execCollTimeout s = .next ((s1.tell r.ring 2 s.sel.x r.seq (bytesOf 2 (r.mute s.r.pkg))).endRound s.sel.x r.seq 1
      (s1.commSuspect s.sel.x)) := by
  subst h1
  simp only [execCollTimeout, h, Nat.not_lt.mpr hd, if_false, Bool.and_eq_true, Bool.not_eq_true', bne_iff_ne]
  rfl

end

/-! ## Reforms (R474, R475) -/

section
variable {s : State} {n sender set : Nat}

/-- A set for a reform that has not begun here waits, where a member of the communicator sends it. -/
theorem State.collSet_idle (h : s.reforming n = none) : s.collSet n sender set =
    if sender ≠ s.r.pkg ∧ bit (s.commAlive n) sender then s.keepMail n (.set sender set) else s := by
  simp only [State.collSet, h, Bool.and_eq_true, bne_iff_ne]

variable {r : Reform} (h : s.reforming n = some r)
include h

theorem State.collSet_unexpected (he : ¬(sender ≠ s.r.pkg ∧ bit r.set sender)) : s.collSet n sender set = s := by
  simp only [State.collSet, h]
  exact if_pos (by grind)

variable (he : sender ≠ s.r.pkg ∧ bit r.set sender)
include he

/-- A second set of a sender waits for the next exchange. -/
theorem State.collSet_again (hf : ¬r.got.all (fun q => q.1 != sender)) :
    s.collSet n sender set = s.keepMail n (.set sender set) := by
  have again : r.got.any (fun q => q.1 == sender) := by simpa using hf
  simp [State.collSet, h, he, again]

/-- Its first is taken, and carries the reform on. -/
theorem State.collSet_fresh (hf : r.got.all (fun q => q.1 != sender)) : s.collSet n sender set =
    (s.updSlot n (fun c => { c with reform := some { r with got := r.got ++ [(sender, set)] } })).stepReform n false 65 := by
  have fresh : r.got.any (fun q => q.1 == sender) = false := by simpa using hf
  simp [State.collSet, h, he, fresh]

end

/-- The members of a reform other than this one whose sets are missing. -/
def Reform.missing (r : Reform) (own : Nat) : List Nat :=
  ((onesOf 8 r.set).filter (fun p => p != own)).filter (fun p => !r.got.any (fun q => q.1 == p))

/-- The set that an exchange comes to: what all agree on, without those whose sets are missing. -/
def Reform.met (r : Reform) (own : Nat) : Nat :=
  let met := (r.got.filter (fun q => ((onesOf 8 r.set).filter (fun p => p != own)).contains q.1)).foldl (fun m q => Nat.land m q.2) r.set
  Nat.xor met (Nat.land met (maskOf (r.missing own)))

/-- A reform ends where all agree, or after 64 exchanges. -/
def Reform.ended (r : Reform) (own : Nat) : Bool := (r.met own = r.set && r.got.all (fun q => q.2 == r.set)) || 64 ≤ r.count + 1

theorem Reform.ended_iff {r : Reform} {own : Nat} :
    r.ended own ↔ (r.met own = r.set ∧ r.got.all (fun q => q.2 == r.set)) ∨ 63 ≤ r.count := by
  simp only [Reform.ended, Bool.or_eq_true, Bool.and_eq_true, decide_eq_true_eq, Nat.reduceLeDiff]

/-- The next exchange of a reform begins with the set that this one comes to. -/
def State.reformAnew (s : State) (n : Nat) (r : Reform) : State :=
  (s.updSlot n (fun c => { c with reform := some { r with
    set := r.met s.r.pkg
    got := []
    count := r.count + 1
    due := s.clock + s.commTimeout n } })).tell (r.met s.r.pkg) 3 n 0 (bytesOf 1 (r.met s.r.pkg))

section
variable {s : State} {n : Nat} {r : Reform} (h : s.reforming n = some r) (late : Bool) (k : Nat)
include h

/-- A reform is carried on where every set of its exchange is in, or it is late. -/
theorem State.stepReform_open : s.stepReform n late (k + 1) =
    if !(r.missing s.r.pkg).isEmpty && !late then s
    else if r.ended s.r.pkg then s.endReform n { r with set := r.met s.r.pkg } else (s.reformAnew n r).stepReform n false k := by
  rw [State.stepReform, h]
  rfl

theorem State.stepReform_waits (hm : r.missing s.r.pkg ≠ []) (hl : late = false) : s.stepReform n late (k + 1) = s := by
  refine (State.stepReform_open h late k).trans (if_pos ?_)
  simpa [hl] using hm

theorem State.stepReform_goes (hgo : r.missing s.r.pkg = [] ∨ late = true) : s.stepReform n late (k + 1) =
    if r.ended s.r.pkg then s.endReform n { r with set := r.met s.r.pkg } else (s.reformAnew n r).stepReform n false k := by
  refine (State.stepReform_open h late k).trans (if_neg ?_)
  simpa [or_iff_not_imp_left] using hgo

end

/-- An exchange that is late goes on without the sets that are missing (R474). -/
theorem execReformExchangeTimeout_eq {s : State} {r : Reform} (h : s.reforming s.sel.x = some r) :
    execReformExchangeTimeout s = .next (if r.due ≤ s.clock then s.stepReform s.sel.x true 65 else s) := by
  simp only [execReformExchangeTimeout, h, apply_ite Host.Outcome.next]

theorem execReformExchangeTimeout_none {s : State} (h : s.reforming s.sel.x = none) : execReformExchangeTimeout s = .next s := by
  simp only [execReformExchangeTimeout, h]

end Sys2Proof.Machine

namespace Sys2Proof.Proofs

open Sys2Proof.Machine

/-- Settles O43: a write of SYS.COMM by whether its slot is in use, a part and an abort by the round that they name, a set and an
exchange by the reform, and what each expects. -/
theorem collectiveSteps : Obligations.CollectiveSteps := by
  intro s slot seq sender header part silent set value own v old waits ahead
  refine ⟨?idle, ?busy, ?closed, ?open_, ?abortOpen, ?abortClosed, fun h => execCollTimeout_none h, ?timeout, ?setIdle, ?setOpen,
    fun n t => rfl, ?late, fun h => execReformExchangeTimeout_none h, ?exchange⟩
  case idle =>
    intro hn ho hr hw
    refine execCommMembersWrite_idle hn (Bool.eq_false_iff.mpr fun hb => ?_)
    rcases State.commBusy_iff.mp hb with h | h | h
    · exact h ho
    · exact absurd h (by simp [hr])
    · exact Bool.eq_false_iff.mp hw h
  case busy => exact fun hn hb => execCommMembersWrite_busy hn (State.commBusy_iff.mpr hb)
  case closed =>
    intro result hr
    have closed : s.collPart slot seq sender header result part = _ := State.collPart_closed hr
    exact ⟨fun ha => congrArg _ (closed.trans (if_neg (ha ∘ State.roundAhead_iff.mp))),
      fun ha => congrArg _ (closed.trans (if_pos (State.roundAhead_iff.mpr ha)))⟩
  case open_ =>
    intro r result hr arrives segment expected fits
    have arriving {h o} (ho : s.takePart slot r sender h result part = o) :
        arrives h (o.getD (s.keepMail slot (.part seq sender h result part))) :=
      congrArg Host.Outcome.next ((State.collPart_open hr).trans (congrArg (Option.getD · _) ho))
    have number : r.seq = seq := State.openRound_seq hr
    refine ⟨fun he => arriving (State.takePart_unexpected he),
      fun he hh => number ▸ arriving (State.takePart_mismatch he hh), fun he hf => arriving (State.takePart_unfit he hf),
      fun he hf hres => ?result, fun he hf hres => ?input⟩
    case result =>
      have written {put} (hp : s.putResult slot r (if r.header.bcast then 0 else segment.1) part = put) :=
        arriving ((State.takePart_result he hf hres).trans (State.takeResult_eq hp))
      exact ⟨fun hp => written hp, fun s1 hp => written hp, fun s1 hp => written hp⟩
    case input =>
      intro r1 put
      have taken := State.takePart_input (n := slot) he hf hres
      have written (hl : r1.got false + 1 = r1.members) {p} (hp : put = p) :=
        arriving (taken.trans (State.takeInput_last rfl hl hp))
      exact ⟨fun hm => arriving (taken.trans (State.takeInput_more rfl hm)), fun hl hp => written hl hp,
        fun hl s1 hp => written hl hp, fun hl s1 hp => written hl hp⟩
  case abortOpen =>
    intro r hr
    exact ⟨congrArg _ (State.collAbort_open hr silent true), congrArg _ (State.collAbort_open hr silent false)⟩
  case abortClosed =>
    intro hr fault
    have closed : s.collAbort slot seq silent fault = _ := State.collAbort_closed hr silent fault
    have past (ha : ¬ahead) := closed.trans (if_neg (ha ∘ State.roundAhead_iff.mp))
    exact ⟨fun ha he => congrArg Host.Outcome.next ((past ha).trans (if_neg (Bool.eq_false_iff.mp he))),
      fun ha he => congrArg Host.Outcome.next ((past ha).trans (if_pos he)),
      fun ha => congrArg Host.Outcome.next (closed.trans (if_pos (State.roundAhead_iff.mpr ha)))⟩
  case timeout =>
    intro r hr noInput mute s1
    exact ⟨fun hd => execCollTimeout_early hr hd, fun hd => execCollTimeout_due hr hd rfl⟩
  case setIdle =>
    intro hr
    have idle : s.collSet slot sender set.toNat = _ := State.collSet_idle hr
    exact ⟨fun h => congrArg _ (idle.trans (if_neg fun ⟨hs, hb⟩ => h.elim hs (Bool.eq_false_iff.mp · hb))),
      fun hs hb => congrArg _ (idle.trans (if_pos ⟨hs, hb⟩))⟩
  case setOpen =>
    intro r hr expected fresh s1
    exact ⟨fun he => congrArg _ (State.collSet_unexpected hr he), fun he hf => congrArg _ (State.collSet_again hr he hf),
      fun he hf => congrArg _ (State.collSet_fresh hr he hf)⟩
  case late =>
    intro r hr
    exact ⟨fun hd => (execReformExchangeTimeout_eq hr).trans (congrArg _ (if_neg (Nat.not_le.mpr hd))),
      fun hd => (execReformExchangeTimeout_eq hr).trans (congrArg _ (if_pos hd))⟩
  case exchange =>
    intro r late k hr others missing met next ended
    have goes (hgo : missing = [] ∨ late = true) : s.stepReform slot late (k + 1) = _ := State.stepReform_goes hr late k hgo
    exact ⟨State.stepReform_waits hr late k, fun hgo he => (goes hgo).trans (if_pos (Reform.ended_iff.mpr he)),
      fun hgo he => (goes hgo).trans (if_neg (he ∘ Reform.ended_iff.mp))⟩

end Sys2Proof.Proofs
end

section
/-! Boot, links and coherence between packages (R457, R461 to R464, R485). -/

namespace Sys2Proof.Machine

/-! ## Masks, rising lists and tables -/

theorem bit_maskOf_foldl (l : List Nat) (m p : Nat) : bit (l.foldl (fun m i => m ||| 2 ^ i) m) p = (bit m p || decide (p ∈ l)) := by
  induction l generalizing m with
  | nil => simp
  | cons a l ih => grind [bit]

/-- A mask has the bits that it was formed from. -/
@[simp] theorem bit_maskOf (l : List Nat) (p : Nat) : bit (maskOf l) p = decide (p ∈ l) := by
  rw [maskOf, bit_maskOf_foldl]
  simp [bit]

@[simp] theorem mem_insertNat {x y : Nat} {l : List Nat} : x ∈ insertNat y l ↔ x = y ∨ x ∈ l := by
  induction l with
  | nil => simp [insertNat]
  | cons z l ih => grind [insertNat]

/-- A table formed from its keys. -/
theorem Tab.get_map_mk {α : Type} {l : List Nat} {f : Nat → α} {p : Nat} {d : α} (h : p ∈ l) :
    Tab.get (l.map (fun k => (k, f k))) p d = f p := by
  induction l with
  | nil => exact absurd h List.not_mem_nil
  | cons a l ih => grind [Tab.get, Tab.look]

/-! ## Boot (R457) -/

/-- Fuses that do not name a core leave it as it was. -/
theorem fuses_other {fuses : List (Nat × List Nat)} {core : Nat} (h : ∀ p ∈ fuses, p.1 ≠ core) (t : Tab CoreSt) (d : CoreSt) :
    Tab.get (fuses.foldl (fun t p => if p.1 < 512 then Tab.set t p.1 (fusedCore p.2) else t) t) core d = Tab.get t core d := by
  induction fuses generalizing t with
  | nil => rfl
  | cons p fuses ih =>
    obtain ⟨hp, hrest⟩ := List.forall_mem_cons.mp h
    rw [List.foldl_cons, ih hrest]
    split
    · rw [Tab.get_set, if_neg hp]
    · rfl

/-- The last entry of the fuses for a core counts. -/
theorem fuses_last {before after : List (Nat × List Nat)} {core : Nat} {slices : List Nat} (hc : core < 512)
    (h : ∀ p ∈ after, p.1 ≠ core) (t : Tab CoreSt) (d : CoreSt) :
    Tab.get ((before ++ (core, slices) :: after).foldl (fun t p => if p.1 < 512 then Tab.set t p.1 (fusedCore p.2) else t) t) core d =
      fusedCore slices := by
  rw [List.foldl_append, List.foldl_cons, fuses_other h, if_pos hc, Tab.get_set, if_pos rfl]

/-- The retired shares are those of the boot record that exist. -/
theorem mem_retired {l acc : List Nat} {sh : Nat} :
    sh ∈ l.foldl (fun l sh => if sh < SYS_SHARES then insertNat sh l else l) acc ↔ sh ∈ acc ∨ (sh ∈ l ∧ sh < SYS_SHARES) := by
  induction l generalizing acc with
  | nil => simp
  | cons a l ih => grind [mem_insertNat]

/-- A port goes to a fitted package where that package is present. -/
theorem bit_fittedPorts {pkg present p : Nat} (hp : p < 7) : bit (fittedPorts pkg present) p = bit present ((pkg + p + 1) % 8) := by
  simp [fittedPorts, hp]

/-- The ports that are up after boot. -/
def bootUp (boot : Boot) : Nat :=
  Nat.land boot.linkUp.toNat (fittedPorts boot.package.toNat (Nat.lor boot.present.toNat (2 ^ boot.package.toNat)))

theorem bit_bootUp {boot : Boot} {p : Nat} (hp : p < 7) : bit (bootUp boot) p =
    (bit boot.linkUp.toNat p && bit (Nat.lor boot.present.toNat (2 ^ boot.package.toNat)) ((boot.package.toNat + p + 1) % 8)) := by
  rw [← bit_fittedPorts hp]
  exact Nat.testBit_and ..

/-- The state after the first three steps of boot: memory is clear, and what fuses, straps and the boot image say is taken. -/
def State.booted (s : State) (boot : Boot) : State :=
  let present := Nat.lor boot.present.toNat (2 ^ boot.package.toNat)
  { s with
    powered := true
    m := { s.m with
      mem := []
      poison := []
      retired := boot.retired.foldl (fun l sh => if sh < SYS_SHARES then insertNat sh l else l) []
      tdbs := []
      shardMap := [] }
    v := { s.v with cores := boot.fuses.foldl (fun t p => if p.1 < 512 then Tab.set t p.1 (fusedCore p.2) else t) s.v.cores }
    r := { s.r with
      pkg := boot.package.toNat
      present := present
      alive := present
      linkUp := bootUp boot }
    n := { s.n with
      ports := (List.range 7).map (fun p => (p, (⟨17, false, if bit (bootUp boot) p then none else some s.clock, 0, false⟩ : Port)))
      measured := [(1, bootMeasure boot 1), (2, Config.sha384 boot.firmware), (3, bootMeasure boot 3), (4, bootMeasure boot 4)]
      fuses := boot.fuses.filter (fun p => p.1 < 512)
      address := boot.address.toNat } }

theorem execPowerGood_boots {s : State} {boot : Boot} (hp : s.powered = false) (ho : s.n.off = false) (hv : boot.ownVerified) :
    execPowerGood boot s = .next ((s.booted boot).startFirmware boot) := by
  simp only [execPowerGood, hp, ho, hv]
  rfl

/-- Boot happens once, with the power on, of a controller whose image is verified. -/
theorem execPowerGood_not {s : State} {boot : Boot} (h : s.powered ∨ s.n.off ∨ boot.ownVerified = false) :
    execPowerGood boot s = .next s :=
  if_pos (by simpa [or_assoc] using h)

/-- A stopped hart starts in machine mode (R455). -/
theorem State.startHart_stopped {s : State} {h pc : Nat} (hh : h < 64) (hr : (s.hart h).running = false) :
    s.startHart h pc = s.updHart h (fun k => { k with running := true, mode := 3, pc := BitVec.ofNat 64 pc, wait := none }) :=
  if_neg (by simpa [hr] using hh)

theorem State.startHart_rest (s : State) (h pc : Nat) : s.startHart h pc = { s with harts := (s.startHart h pc).harts } := by
  unfold State.startHart
  split <;> rfl

section
variable {s : State} {boot : Boot}

/-- Step 4 of boot touches memory, SYS.WORLD and the harts alone. -/
theorem State.startFirmware_rest : s.startFirmware boot = { s with
    m := { s.m with mem := (s.startFirmware boot).m.mem }
    r := { s.r with world := (s.startFirmware boot).r.world }
    harts := (s.startFirmware boot).harts } := by
  unfold State.startFirmware
  split
  · rfl
  · extract_lets s1 s2
    rw [State.startHart_rest]
    rfl

theorem State.startFirmware_powered : (s.startFirmware boot).powered = s.powered := by rw [State.startFirmware_rest]
theorem State.startFirmware_v : (s.startFirmware boot).v = s.v := by rw [State.startFirmware_rest]
theorem State.startFirmware_n : (s.startFirmware boot).n = s.n := by rw [State.startFirmware_rest]
theorem State.startFirmware_m : (s.startFirmware boot).m = { s.m with mem := (s.startFirmware boot).m.mem } := by
  rw [State.startFirmware_rest]
theorem State.startFirmware_r : (s.startFirmware boot).r = { s.r with world := (s.startFirmware boot).r.world } := by
  rw [State.startFirmware_rest]

/-- Without a verified firmware it does nothing. -/
theorem State.startFirmware_not (h : boot.hostVerified = false) : s.startFirmware boot = s :=
  if_pos (by simp [h])

/-- A verified firmware is loaded, SYS.WORLD is taken, and hart 0 starts at it in machine mode. -/
theorem State.startFirmware_verified (h : boot.hostVerified) (hr : (s.hart 0).running = false) :
    s.startFirmware boot = State.updHart
      { s with m := { s.m with mem := Memory.writes s.m.mem 0x10000000000 boot.firmware }, r := { s.r with world := boot.hostSecure } }
      0 (fun k => { k with
        running := true
        mode := 3
        pc := BitVec.ofNat 64 (s.r.pkg * 2 ^ 48 + 0x10000000000)
        wait := none }) :=
  (if_neg (by simp [h])).trans (State.startHart_stopped (by decide) hr)

end

/-- A measurement of boot is the one on record. -/
theorem State.measurement_recorded {s : State} {i : Nat} (h5 : i ≠ 5) (h6 : i ≠ 6) : s.measurement i = Tab.get s.n.measured i 0 := by
  rw [State.measurement, if_neg h5, if_neg h6]

/-! ## Links (R461, R464, R485) -/

@[simp] theorem State.updPort_port_same (s : State) (p : Nat) (f : Port → Port) : (s.updPort p f).port p = f (s.port p) :=
  (Tab.get_set ..).trans (if_pos rfl)

/-- A port that is up goes down. -/
def State.portDown (s : State) (p : Nat) : State :=
  (s.setSys { s.r with linkUp := Nat.xor s.r.linkUp (2 ^ p) }).updPort p (fun x => { x with down := some s.clock })

section
variable {s : State} {p : Nat}

theorem State.linkDown_up (hp : p < 7) (hu : bit s.r.linkUp p) : s.linkDown p = s.portDown p :=
  if_neg (by simpa [hu] using hp)

theorem State.linkDown_not (h : 7 ≤ p ∨ bit s.r.linkUp p = false) : s.linkDown p = s :=
  if_pos (by simpa using h)

end

/-- A flit with a good CRC is delivered, and answers a replay; one with a bad CRC makes the port ask for a replay (R461). -/
theorem execXankorFlitReceived_up {s : State} {port cls : Nat} {flit : List Byte} (hp : port < 7) (hu : bit s.r.linkUp port)
    (hl : flit.length = 256) (ok : Bool) : execXankorFlitReceived port cls ok flit s =
      if ok then .next ((s.setNode { s.n with flits := s.n.flits ++ [(port, cls, flit)] }).updPort port (fun x =>
        { x with
          seq := x.seq + 1
          replay := false }))
      else .next ((s.updPort port (fun x => { x with replay := true })).sendLink 9 (s.peerOf port) (s.port port).seq []) :=
  if_neg (by simpa [hu, hl] using hp)

theorem execXankorFlitReceived_not {s : State} {port cls : Nat} {flit : List Byte}
    (h : 7 ≤ port ∨ bit s.r.linkUp port = false ∨ flit.length ≠ 256) (ok : Bool) :
    execXankorFlitReceived port cls ok flit s = .next s :=
  if_pos (by simpa [or_assoc] using h)

section
variable {s : State}

/-- A port towards a fitted package comes up with 12 lanes or more (R461, R485). -/
theorem execXankorLinkUp_up (hp : s.sel.x < 7) (hd : bit s.r.linkUp s.sel.x = false) (hf : bit s.r.present (s.peerOf s.sel.x))
    (hl : 12 ≤ (s.port s.sel.x).lanes) : execXankorLinkUp s =
      .next (((s.setSys { s.r with linkUp := Nat.lor s.r.linkUp (2 ^ s.sel.x) }).updPort s.sel.x (fun x =>
        { x with down := none })).raiseIntr 3) :=
  if_neg (by simp [hp, hd, hf, hl])

theorem execXankorLinkUp_not (h : 7 ≤ s.sel.x ∨ bit s.r.linkUp s.sel.x ∨ bit s.r.present (s.peerOf s.sel.x) = false
    ∨ (s.port s.sel.x).lanes < 12) : execXankorLinkUp s = .next s :=
  if_pos (by simpa [or_assoc] using h)

/-- A lane is lost, the spare in use, and source 3 set. -/
def State.laneLost (s : State) (p : Nat) : State := (s.updPort p (fun x => { x with lanes := x.lanes - 1, spared := true })).raiseIntr 3

/-- With fewer than 12 lanes left the link goes down (R485). -/
theorem execXankorLaneFailure_loses (hp : s.sel.x < 7) (hl : (s.port s.sel.x).lanes ≠ 0) : execXankorLaneFailure s =
    .next (if (s.port s.sel.x).lanes - 1 < 12 then (s.laneLost s.sel.x).linkDown s.sel.x else s.laneLost s.sel.x) := by
  have lanes : ((s.laneLost s.sel.x).port s.sel.x).lanes = (s.port s.sel.x).lanes - 1 :=
    congrArg Port.lanes (State.updPort_port_same s s.sel.x (fun x => { x with lanes := x.lanes - 1, spared := true }))
  rw [← lanes]
  exact if_neg (by simpa [hl] using hp)

theorem execXankorLaneFailure_not (h : 7 ≤ s.sel.x ∨ (s.port s.sel.x).lanes = 0) : execXankorLaneFailure s = .next s :=
  if_pos (by simpa using h)

end

/-! ## Requests of other packages (R462) -/

/-- The grant of a granule to a package: it is noted as a holder and gets the data. -/
def State.granted (s : State) (package pa off : Nat) (exclusive : Bool) : State :=
  let before := ((s.m.remoteHeld.find? (fun (e : Nat × BitVec 8 × Bool) => e.1 == off / 64)).map (fun e => e.2.1)).getD 0
  let holders := if exclusive then 1#8 <<< package else before ||| (1#8 <<< package)
  let s1 := s.setMem { s.m with
    remoteHeld := s.m.remoteHeld.filter (fun (e : Nat × BitVec 8 × Bool) => e.1 != off / 64) ++ [(off / 64, holders, exclusive)] }
  s1.sendLink 5 package (pa / 64 * 64) (s1.physBytes (off / 64 * 64) 64)

section
variable {s : State} {package pa : Nat} {exclusive : Bool}

/-- A request that is not for memory, not from another package in service, or held, has no effect. -/
theorem execRemoteLineRequest_not (h : (∀ off, s.paClass pa ≠ .memory off) ∨ 8 ≤ package ∨ package = s.r.pkg
    ∨ bit s.r.alive package = false ∨ s.recallOwn pa exclusive = none) : execRemoteLineRequest package pa exclusive s = .next s := by
  unfold execRemoteLineRequest
  split
  case h_2 => rfl
  case h_1 off hm =>
    by_cases hfrom : (decide (package = s.r.pkg) || decide (8 ≤ package) || !bit s.r.alive package) = true
    · exact if_pos hfrom
    · have held : s.recallOwn pa exclusive = none := by
        simp only [Bool.or_eq_true, decide_eq_true_eq, Bool.not_eq_true'] at hfrom
        exact h.elim (absurd hm <| · off) (by tauto)
      simp only [hfrom, held, Bool.false_eq_true, if_false]

/-- One that is granted recalls conflicting holders; poison is answered with class 7. -/
theorem execRemoteLineRequest_served {off : Nat} (hm : s.paClass pa = .memory off) (h8 : package < 8) (hp : package ≠ s.r.pkg)
    (ha : bit s.r.alive package) {s1 : State} (hs : s.recallOwn pa exclusive = some s1) {s2 : State}
    (h2 : s1.recallHolders (pa / 64 * 64) 64 exclusive (some package) [] = s2) :
    execRemoteLineRequest package pa exclusive s = .next (if s2.poisonedAt (off / 64 * 64) 64
      then s2.sendLink 7 package (pa / 64 * 64) [] else s2.granted package pa off exclusive) := by
  have inService : (decide (package = s.r.pkg) || decide (8 ≤ package) || !bit s.r.alive package) = false := by
    simpa [hp, ha] using h8
  simp only [execRemoteLineRequest, hm, inService, hs, h2, Bool.false_eq_true, if_false, State.granted, apply_ite Host.Outcome.next]
  cases s2.m.remoteHeld.find? (fun (e : Nat × BitVec 8 × Bool) => e.1 == off / 64) <;> rfl

end

end Sys2Proof.Machine

namespace Sys2Proof.Proofs

open Sys2Proof.Machine

/-- Settles O47: boot by what each of its steps takes, links by the port and its lanes, a request of another package by what it recalls. -/
theorem nodeSteps : Obligations.NodeSteps := by
  intro s boot port cls pa package flit exclusive p up down
  refine ⟨?boot, execPowerGood_not,
    fun hp hu hl => ⟨execXankorFlitReceived_up hp hu hl true, execXankorFlitReceived_up hp hu hl false⟩,
    execXankorFlitReceived_not, fun hp hu => congrArg _ (State.linkDown_up hp hu),
    fun h => congrArg _ (State.linkDown_not h), fun hp hd hf hl => execXankorLinkUp_up hp hd hf hl, execXankorLinkUp_not, rfl,
    ?lane, execXankorLaneFailure_not, execRemoteLineRequest_not, ?request, rfl⟩
  case lane =>
    intro hp hl s1
    have loses := execXankorLaneFailure_loses hp hl
    have few : (s.port p).lanes < 13 ↔ (s.port p).lanes - 1 < 12 := by omega
    exact ⟨fun h => loses.trans (congrArg _ (if_neg (few.not.mp (Nat.not_lt.mpr h)))),
      fun h hu => loses.trans (congrArg _ ((if_pos (few.mp h)).trans (State.linkDown_up hp hu))),
      fun h hu => loses.trans (congrArg _ ((if_pos (few.mp h)).trans (State.linkDown_not (.inr hu))))⟩
  case request =>
    intro off hm h8 hp ha s1 hs s2
    have served := execRemoteLineRequest_served hm h8 hp ha hs rfl
    exact ⟨fun h => served.trans (congrArg _ (if_pos h)), fun h => served.trans (congrArg _ (if_neg (Bool.eq_false_iff.mp h)))⟩
  case boot =>
    intro hp ho hv hr
    refine ⟨_, execPowerGood_boots hp ho hv, ?_⟩
    set t := (s.booted boot).startFirmware boot with ht
    have hm : t.m = { (s.booted boot).m with mem := t.m.mem } := State.startFirmware_m
    have hsys : t.r = { (s.booted boot).r with world := t.r.world } := State.startFirmware_r
    have hn : t.n = (s.booted boot).n := State.startFirmware_n
    have hcores (core : Nat) : t.coreOf core = (s.booted boot).coreOf core := by
      rw [State.coreOf, ht, State.startFirmware_v]
      rfl
    have stopped : ((s.booted boot).hart 0).running = false := hr
    have measured {i : Nat} (h5 : i ≠ 5) (h6 : i ≠ 6) : t.measurement i = Tab.get (s.booted boot).n.measured i 0 := by
      rw [State.measurement_recorded h5 h6, hn]
    refine ⟨State.startFirmware_powered, congrArg Sys.pkg hsys, congrArg Sys.present hsys,
      (congrArg Sys.alive hsys).trans (congrArg Sys.present hsys).symm, fun p hp => ?ports, fun sh => ?retired,
      congrArg MemSys.poison hm, congrArg MemSys.tdbs hm, congrArg MemSys.shardMap hm, congrArg Node.address hn, ?measured,
      measured (by decide) (by decide), ?fused, fun core h => ?unfused, fun hv => ?verified, fun hv => ?unverified, fun h hh => ?harts⟩
    case ports =>
      have linkUp : t.r.linkUp = bootUp boot := congrArg Sys.linkUp hsys
      have present : t.r.present = Nat.lor boot.present.toNat (2 ^ boot.package.toNat) := congrArg Sys.present hsys
      have port : t.port p = ⟨17, false, if bit t.r.linkUp p then none else some s.clock, 0, false⟩ := by
        rw [linkUp, State.port, hn]
        exact Tab.get_map_mk (List.mem_range.mpr hp)
      rw [port]
      exact ⟨by rw [linkUp, present, bit_bootUp hp], rfl, rfl, rfl⟩
    case retired =>
      rw [hm]
      exact mem_retired.trans (by simp [SYS_SHARES])
    case measured =>
      simp only [List.forall_mem_cons]
      exact ⟨measured (by decide) (by decide), measured (by decide) (by decide), measured (by decide) (by decide),
        List.forall_mem_nil _⟩
    case fused =>
      intro before after core slices hf hc hafter
      rw [hcores, State.coreOf, State.booted, hf]
      exact fuses_last hc hafter ..
    case unfused => exact (hcores core).trans (fuses_other h ..)
    case verified =>
      rw [ht, State.startFirmware_verified hv stopped]
      exact ⟨rfl, rfl, State.updHart_hart ..⟩
    case unverified =>
      rw [ht, State.startFirmware_not hv]
      exact ⟨rfl, rfl, rfl⟩
    case harts =>
      cases hv : boot.hostVerified with
      | false => rw [ht, State.startFirmware_not hv]; rfl
      | true => rw [ht, State.startFirmware_verified hv stopped, State.updHart_hart, if_neg (Ne.symm hh)]; rfl

end Sys2Proof.Proofs
end

section
/-! The PCIe and Ethernet ports (R478 to R481). -/

namespace Sys2Proof.Machine

/-! ## The order of arrival (R480) -/

/-- Traffic waits behind what waits already. -/
def State.inboundWaits (s : State) (m : Inbound) : State := s.setNode { s.n with inbound := s.n.inbound ++ [m] }

section
variable {s : State} {m : Inbound}

/-- Behind other traffic of its port, traffic waits. -/
theorem State.arriveInbound_behind (h : ¬∀ x ∈ s.n.inbound, x.agent ≠ m.agent) : s.arriveInbound m = s.inboundWaits m :=
  if_pos (by simpa using h)

/-- Traffic that is first acts, unless its home holds it. -/
theorem State.arriveInbound_first (h : ∀ x ∈ s.n.inbound, x.agent ≠ m.agent) :
    s.arriveInbound m = (s.takeInbound m).getD (s.inboundWaits m) :=
  if_neg (by simpa using h)

end

/-- What an access of a port comes to by what memory answers: its end, a fault, or nothing while it is held. -/
def accessEnds {α : Type} (done : State → α → State) (fault : State → State) : State × Except MemErr α → Option State
  | (t, .ok b) => some (done t b)
  | (_, .error .held) => none
  | (t, .error _) => some (fault t)

theorem accessEnds_error {α : Type} (done : State → α → State) (fault : State → State) (t u : State) (e : MemErr) :
    (accessEnds done fault (t, .error e)).getD u = if e = .held then u else fault t := by
  cases e <;> rfl

/-! ## PCIe (R479, R480) -/

/-- An inbound access ends with its data and a status of 0, or, where it faults, with a status of 2. -/
def State.pcieEnds {α : Type} (port : Nat) (data : α → List Byte) : State × Except MemErr α → Option State :=
  accessEnds (fun t b => t.pcieDone port 0 (data b)) (fun t => t.pcieDone port 2 [])

section
variable {s : State} {port a : Nat} {data : List Byte}

/-- A write to the addresses of interrupts sets a source. -/
theorem State.pcieWrite_msi (h : a / 4096 = 2 ^ 52 - 1) : s.pcieWrite port a data = some (s.raiseIntr (6 + port)) :=
  if_pos (beq_iff_eq.mpr h)

/-- Any other access above the names is answered with a status of 1. -/
theorem State.pcieWrite_above (h : 2 ^ 57 ≤ a) (hm : a / 4096 ≠ 2 ^ 52 - 1) : s.pcieWrite port a data = some (s.pcieDone port 1 []) :=
  (if_neg (by simpa [isMsi] using hm)).trans (if_pos (by omega))

theorem State.pcieReadIn_above (h : 2 ^ 57 ≤ a) (len : Nat) : s.pcieReadIn port a len = some (s.pcieDone port 1 []) :=
  if_pos (by omega)

/-- One below goes to memory. -/
theorem State.pcieWrite_below (h : a < 2 ^ 57) {r : State × Except MemErr Unit}
    (hr : s.store (inbound (724 + port)) a data = r) : s.pcieWrite port a data = State.pcieEnds port (fun _ => []) r := by
  have nomsi : isMsi a = false := by
    rw [isMsi, beq_eq_false_iff_ne]
    omega
  have name : ¬a / 2 ^ 57 ≠ 0 := by omega
  simp only [State.pcieWrite, nomsi, name, Bool.false_eq_true, if_false, hr]
  rcases r with ⟨t, (_ | _ | _) | _⟩ <;> rfl

theorem State.pcieReadIn_below (h : a < 2 ^ 57) {len : Nat} {r : State × Except MemErr (List Byte)}
    (hr : s.load (inbound (724 + port)) a len = r) : s.pcieReadIn port a len = State.pcieEnds port id r := by
  have name : ¬a / 2 ^ 57 ≠ 0 := by omega
  simp only [State.pcieReadIn, name, if_false, hr]
  rcases r with ⟨t, (_ | _ | _) | _⟩ <;> rfl

end

/-! ## SYS.ETH (R481) -/

/-- A write of SYS.ETH takes BASE and EN; with EN = 1 both rings start anew. -/
theorem execEthEnable_port {s : State} {port : Nat} {value : Dword} (hp : port < 4) : execEthEnable port value s =
    .next (if value.getLsbD 0 then (s.setOther (0x3A0 + 8 * port) (bits value.toNat 12 40 * 4096 + 1)).setEth port 0 0
      else s.setOther (0x3A0 + 8 * port) (bits value.toNat 12 40 * 4096)) := by
  have en : value.toNat % 2 = (value.getLsbD 0).toNat := by
    rw [BitVec.getLsbD, Nat.testBit_zero]
    rcases Nat.mod_two_eq_zero_or_one value.toNat with h | h <;> rw [h] <;> rfl
  have low (b : Bool) : bit (bits value.toNat 12 40 * 4096 + b.toNat) 0 = b := by
    rw [bit, Nat.testBit_zero]
    cases b <;> simp <;> omega
  simp only [execEthEnable, Nat.not_le.mpr hp, if_false, en, low]
  cases value.getLsbD 0 <;>
    simp only [ethOff, Bool.toNat_false, Bool.toNat_true, Nat.add_zero, Bool.false_eq_true, if_false, if_true]

/-! ## Ethernet frames (R481) -/

/-- The next descriptors of a port, for transmission and for reception. -/
def State.ethNext (s : State) (p : Nat) : Nat × Nat := Tab.get s.n.eth p (0, 0)

/-- The address of a port's next transmit descriptor. -/
def State.txSlot (s : State) (p : Nat) : Nat := bits (s.ethReg p) 12 40 * 4096 + 32 * (s.ethNext p).1

/-- The address of a port's next receive descriptor. -/
def State.rxSlot (s : State) (p : Nat) : Nat := bits (s.ethReg p) 12 40 * 4096 + 4096 + 32 * (s.ethNext p).2

/-- The next transmit descriptor, of the values `d`, is done with a status, and the ring of `s` goes on. -/
def State.txDone (s : State) (p d : Nat) (t : State) (status : Nat) : State :=
  (t.descriptorDone (s.txSlot p) d status (bits d 1 3) none).setEth p (((s.ethNext p).1 + 1) % 128) (s.ethNext p).2

/-- The same of the next receive descriptor, for a frame of a priority and a length. -/
def State.rxDone (s : State) (p d prio len : Nat) (t : State) (status : Nat) : State :=
  (t.descriptorDone (s.rxSlot p) d status prio (some len)).setEth p (s.ethNext p).1 (((s.ethNext p).2 + 1) % 128)

section
variable {s s1 : State} {d : Nat}

/-- A port that is not there or not enabled sends nothing. -/
theorem execEthTransmit_off (h : 4 ≤ s.sel.x ∨ bit (s.ethReg s.sel.x) 0 = false) : execEthTransmit s = .next s :=
  if_pos (by simpa using h)

variable (hp : s.sel.x < 4) (hen : bit (s.ethReg s.sel.x) 0)
include hp hen

/-- Nor does one whose next descriptor is not owned. -/
theorem execEthTransmit_none (hd : s.descriptor (s.txSlot s.sel.x) = (none, s1)) : execEthTransmit s = .next s1 := by
  have on : (decide (4 ≤ s.sel.x) || !bit (s.ethReg s.sel.x) 0) = false := by simpa [hen] using hp
  rw [State.txSlot, State.ethNext] at hd
  simp only [execEthTransmit, on, hd, Bool.false_eq_true, if_false]

variable (hd : s.descriptor (s.txSlot s.sel.x) = (some d, s1))
include hd

/-- A frame of an illegal length ends with a status of 2; any other is read from memory and sent, and waits while the read is held. -/
theorem execEthTransmit_owned {r : State × Except MemErr (List Byte)}
    (hr : s1.load (inbound (728 + s.sel.x)) (bits d 192 64) (bits d 128 16) = r) :
    execEthTransmit s = .next (if bits d 128 16 < 60 ∨ 9216 < bits d 128 16 then s.txDone s.sel.x d s1 2
      else (accessEnds (fun t b => s.txDone s.sel.x d { t with out := t.out ++ [⟨.ethFrame, s.sel.x, bits d 1 3, b⟩] } 0)
        (fun t => s.txDone s.sel.x d t 3) r).getD s1) := by
  have on : (decide (4 ≤ s.sel.x) || !bit (s.ethReg s.sel.x) 0) = false := by simpa [hen] using hp
  rw [State.txSlot, State.ethNext] at hd
  simp only [execEthTransmit, on, hd, hr, Bool.false_eq_true, if_false, Bool.or_eq_true, decide_eq_true_eq, apply_ite Host.Outcome.next]
  rcases r with ⟨t, (_ | _ | _) | _⟩ <;> rfl

end

section
variable {s s1 : State} {port prio d : Nat} {ok : Bool} {frame : List Byte}

/-- A frame for a port without EN is dropped. -/
theorem State.ethFrameIn_off (hen : bit (s.ethReg port) 0 = false) : s.ethFrameIn port prio ok frame = some s :=
  if_pos (by simp [hen])

variable (hen : bit (s.ethReg port) 0)
include hen

/-- So is one without an owned descriptor. -/
theorem State.ethFrameIn_none (hd : s.descriptor (s.rxSlot port) = (none, s1)) : s.ethFrameIn port prio ok frame = some s1 := by
  rw [State.rxSlot, State.ethNext] at hd
  simp only [State.ethFrameIn, hen, hd, Bool.not_true, Bool.false_eq_true, if_false]

variable (hd : s.descriptor (s.rxSlot port) = (some d, s1))
include hd

/-- A frame that fails its check, or is too long for its buffer or for Ethernet, ends its descriptor; any other is written. -/
theorem State.ethFrameIn_owned {r : State × Except MemErr Unit} (hr : s1.store (inbound (728 + port)) (bits d 192 64) frame = r) :
    s.ethFrameIn port prio ok frame =
      if ok = false then some (s.rxDone port d prio frame.length s1 1)
      else if min 9216 (bits d 128 16) < frame.length then some (s.rxDone port d prio frame.length s1 2)
      else accessEnds (fun t _ => s.rxDone port d prio frame.length t 0) (fun t => s.rxDone port d prio frame.length t 3) r := by
  rw [State.rxSlot, State.ethNext] at hd
  simp only [State.ethFrameIn, hen, hd, hr, Bool.not_true, Bool.false_eq_true, if_false, Bool.not_eq_true']
  rcases r with ⟨t, (_ | _ | _) | _⟩ <;> rfl

end

end Sys2Proof.Machine

namespace Sys2Proof.Proofs

open Sys2Proof.Machine

/-- Settles O48: traffic by whether other traffic of its port waits, an access by its address and what memory answers, a frame by the
port, its next descriptor and its length. -/
theorem portSteps : Obligations.PortSteps := by
  intro s port len addr value data prio ok a done later clear reads writes frame p en ring idx
  have inRead (hp : port < 2) {t} (h : s.arriveInbound (.pcie port a false len data) = t) : reads t :=
    (if_neg (Nat.not_le.mpr hp)).trans (congrArg _ h)
  have inWrite (hp : port < 2) {t} (h : s.arriveInbound (.pcie port a true len data) = t) : writes data t :=
    ⟨(if_neg (Nat.not_le.mpr hp)).trans (congrArg _ h), fun hd hl => by
      subst hd hl
      exact (if_neg (Nat.not_le.mpr hp)).trans (congrArg _ h)⟩
  have inFrame (hp : port < 4) {t} (h : s.arriveInbound (.eth port prio.toNat ok data) = t) : frame t :=
    (if_neg (Nat.not_le.mpr hp)).trans (congrArg _ h)
  refine ⟨fun hp hb => ⟨inRead hp (State.arriveInbound_behind hb), inWrite hp (State.arriveInbound_behind hb)⟩, ?pcie,
    fun hp => ⟨if_pos hp, ⟨if_pos hp, fun _ _ => if_pos hp⟩, if_pos hp⟩, fun hp => if_pos hp,
    fun hp => if_neg (Nat.not_lt.mpr hp), fun hp hv => (execEthEnable_port hp).trans (congrArg _ (if_pos hv)),
    fun hp hv => (execEthEnable_port hp).trans (congrArg _ (if_neg (Bool.eq_false_iff.mp hv))), fun hp => ⟨if_pos hp, if_pos hp⟩,
    execEthTransmit_off, ?transmit, fun hp hb => inFrame hp (State.arriveInbound_behind hb), ?off, ?receive⟩
  case pcie =>
    intro hp hc
    have read {o t} (ho : s.pcieReadIn port a len = o) (ht : o.getD (later (.pcie port a false len data)) = t) : reads t :=
      inRead hp ((State.arriveInbound_first hc).trans ((congrArg (Option.getD · _) ho).trans ht))
    have write {o t} (ho : s.pcieWrite port a data = o) (ht : o.getD (later (.pcie port a true len data)) = t) : writes data t :=
      inWrite hp ((State.arriveInbound_first hc).trans ((congrArg (Option.getD · _) ho).trans ht))
    exact ⟨fun hm => write (State.pcieWrite_msi hm) rfl, fun ha => read (State.pcieReadIn_above ha len) rfl,
      fun ha hm => write (State.pcieWrite_above ha hm) rfl, fun ha => ⟨fun s1 b hr => read (State.pcieReadIn_below ha hr) rfl,
        fun s1 e hr => read (State.pcieReadIn_below ha hr) (accessEnds_error ..),
        fun s1 u hr => write (State.pcieWrite_below ha hr) rfl,
        fun s1 e hr => write (State.pcieWrite_below ha hr) (accessEnds_error ..)⟩⟩
  case transmit =>
    intro hp hen pa
    refine ⟨fun s1 hd => execEthTransmit_none hp hen hd, ?_⟩
    intro s1 d hd size prio got ends
    have owned {r} (hr : got = r) := execEthTransmit_owned hp hen hd hr
    refine ⟨fun hs => (owned rfl).trans (congrArg _ (if_pos hs)), fun hlo hhi => ?_⟩
    have sent {r} (hr : got = r) := (owned hr).trans (congrArg _ (if_neg (not_or.mpr ⟨Nat.not_lt.mpr hlo, Nat.not_lt.mpr hhi⟩)))
    exact ⟨fun s2 b hr => sent hr, fun s2 e hr => (sent hr).trans (congrArg _ (accessEnds_error ..))⟩
  case off =>
    exact fun hp hc hen => inFrame hp ((State.arriveInbound_first hc).trans (congrArg (Option.getD · _) (State.ethFrameIn_off hen)))
  case receive =>
    intro hp hc hen pa
    have first {o t} (ho : s.ethFrameIn port prio.toNat ok data = o) (ht : o.getD (later (.eth port prio.toNat ok data)) = t) : frame t :=
      inFrame hp ((State.arriveInbound_first hc).trans ((congrArg (Option.getD · _) ho).trans ht))
    refine ⟨fun s1 hd => first (State.ethFrameIn_none hen hd) rfl, ?_⟩
    intro s1 d hd put ends
    have owned {r} (hr : put = r) := State.ethFrameIn_owned (prio := prio.toNat) (ok := ok) hen hd hr
    refine ⟨fun hok => first ((owned rfl).trans (if_pos hok)) rfl,
      fun hok hl => first ((owned rfl).trans ((if_neg (by simp [hok])).trans (if_pos (min_lt_iff.mpr hl)))) rfl, fun hok hlo hhi => ?_⟩
    have written {r} (hr : put = r) := (owned hr).trans ((if_neg (by simp [hok])).trans (if_neg (Nat.not_lt.mpr (le_min hlo hhi))))
    exact ⟨fun s2 u hr => first (written hr) rfl, fun s2 e hr => first (written hr) (accessEnds_error ..)⟩

end Sys2Proof.Proofs
end

section
/-! The controller's replies and firmware, the clock and the power (R457, R482 to R484, R488, R489). -/

namespace Sys2Proof.Machine

/-! ## Firmware (R484) -/

/-- A millisecond has passed since a time, where there is one. -/
def State.waited (s : State) (t : Option Nat) : Bool := t.all (fun t => t + 3000000 ≤ s.clock)

/-- What the machine's waits of a millisecond ask. The bound stays a literal here: to compare it the kernel must not compute. -/
theorem decide_millisecond (t clock : Nat) : decide (t + millisecond ≤ clock) = decide (t + 3000000 ≤ clock) :=
  decide_eq_decide.mpr (by rw [millisecond])

theorem State.firmwareDue_eq (s : State) : s.firmwareDue = s.waited s.n.activated := by
  rw [State.firmwareDue, State.waited]
  cases s.n.activated with
  | none => rfl
  | some t => rw [Option.all_some]; exact decide_millisecond ..

theorem State.fallDue_eq (s : State) : s.fallDue = s.waited s.n.lowered := by
  rw [State.fallDue, State.waited]
  cases s.n.lowered with
  | none => rfl
  | some t => rw [Option.all_some]; exact decide_millisecond ..

/-- The memory controllers are quiet while no request waits at one, the collective unit while no round, reform or message is open. -/
theorem State.quiet_iff {s : State} {part : Nat} : s.quiet part ↔
    (part = 3 → ∀ p ∈ s.v.reqs, p.2.stage ≠ .controller)
    ∧ (part = 4 → ∀ p ∈ s.c, (∀ r ∈ p.2.rounds, r.outcome ≠ none) ∧ p.2.reform = none ∧ p.2.mail = []) := by
  have rounds (c : CollSlot) : c.open_ = [] ↔ ∀ r ∈ c.rounds, r.outcome ≠ none := by
    simp [CollSlot.open_]
  unfold State.quiet
  by_cases h3 : part = 3
  · simp [h3]
  · by_cases h4 : part = 4 <;> simp [h3, h4, rounds, and_assoc]

/-- An image is verified for a part that has firmware, and staged. -/
def State.stageImage (s : State) (part : Nat) (image : BitVec 384) : State := s.setNode { s.n with staged := s.n.staged ++ [(part, image)] }

/-- The oldest staged image is activated where its part is quiet and a millisecond has passed. -/
theorem State.settleFirmware_cons {s : State} {part : Nat} {image : BitVec 384} {rest : List (Nat × BitVec 384)}
    (h : s.n.staged = (part, image) :: rest) : s.settleFirmware = if s.waited s.n.activated ∧ s.quiet part then
      s.setNode { s.n with
        measured := Tab.set s.n.measured part image
        activated := some s.clock
        staged := rest }
    else s := by
  simp only [State.settleFirmware, h, State.firmwareDue_eq, Bool.and_eq_true]

/-- A verified image of a part that has firmware is staged, and the oldest is activated where it may be. -/
theorem execFirmwareActivation_verified {s : State} {part : Nat} {image : BitVec 384} (h : part ∈ [1, 3, 4]) :
    execFirmwareActivation part image true s = .next (s.stageImage part image).settleFirmware :=
  if_pos (by simpa [or_assoc] using h)

theorem execFirmwareActivation_other {s : State} {part : Nat} {image : BitVec 384} (h : part ∉ [1, 3, 4]) :
    execFirmwareActivation part image true s = .next s :=
  if_neg (by simpa [or_assoc] using h)

/-! ## Power and temperature (R488, R489) -/

/-- A fall of FREQ is by 0.1 GHz, down to 1.5 GHz. -/
theorem freq_falls (falls : Bool) (freq : Nat) :
    (if falls && 16 ≤ freq then freq - 1 else freq) = if falls then max (min freq 15) (freq - 1) else freq := by
  cases falls
  · rfl
  · grind

@[simp] theorem State.setFreq_n (s : State) (freq draw : Nat) : (s.setFreq freq draw).n = s.n := by
  rw [State.setFreq, State.setSys_n]

/-- What a millisecond over the cap, or a hot junction, leaves: FREQ lower where it may fall, and source 9. -/
def State.overCap (s : State) (draw : Nat) : State :=
  let freq := bits s.r.powercap.toNat 32 8
  let falls := s.waited s.n.lowered
  ((s.setFreq (if falls && 16 ≤ freq then freq - 1 else freq) draw).setNode { s.n with
    cool := none
    lowered := if falls then some s.clock else s.n.lowered }).raiseIntr 9

section
variable {s : State} {draw : BitVec 16} {hot : Bool}

theorem execPowerCapExceeded_above (h : s.r.powercap.toNat % 65536 < draw.toNat ∨ hot) : execPowerCapExceeded draw hot s =
    .next (if hot then (s.overCap draw.toNat).inBand 0 else s.overCap draw.toNat) := by
  have above : (decide (s.r.powercap.toNat % 65536 < draw.toNat) || hot) = true := by simpa using h
  simp only [execPowerCapExceeded, above, if_true, State.overCap, State.fallDue_eq, freq_falls, State.setFreq_n]

/-- With neither condition FREQ stays, and the 10 ms of R488 run. -/
theorem execPowerCapExceeded_below (h : draw.toNat ≤ s.r.powercap.toNat % 65536) (hh : hot = false) :
    execPowerCapExceeded draw hot s = .next ((s.setFreq (bits s.r.powercap.toNat 32 8) draw.toNat).setNode
      { s.n with cool := some (s.n.cool.getD s.clock) }) := by
  have below : (decide (s.r.powercap.toNat % 65536 < draw.toNat) || hot) = false := by simpa [hh] using h
  simp only [execPowerCapExceeded, below, Bool.false_eq_true, if_false]
  cases s.n.cool <;> rfl

end

/-- FREQ rises by 0.1 GHz, up to 3 GHz, once both conditions have been clear for 10 ms. -/
theorem execClockRaise_cool {s : State} {t : Nat} (hc : s.n.cool = some t) : execClockRaise s =
    if t + 30000000 ≤ s.clock ∧ bits s.r.powercap.toNat 32 8 < 30 then
      .next ((s.setFreq (bits s.r.powercap.toNat 32 8 + 1) (bits s.r.powercap.toNat 16 16)).raiseIntr 9)
    else .next s := by
  have wait : t + 10 * millisecond = t + 30000000 := by rw [millisecond]
  simp only [execClockRaise, hc, Bool.and_eq_true, decide_eq_true_eq, wait]

theorem execClockRaise_hot {s : State} (hc : s.n.cool = none) : execClockRaise s = .next s := by
  simp only [execClockRaise, hc]

theorem execClockRaise_fast {s : State} (hf : 30 ≤ bits s.r.powercap.toNat 32 8) : execClockRaise s = .next s := by
  cases hc : s.n.cool with
  | none => exact execClockRaise_hot hc
  | some t => exact (execClockRaise_cool hc).trans (if_neg fun h => Nat.not_lt.mpr hf h.2)

/-- What the removal of power leaves in the state `t` in which the peers have been told: the package off, source 9 set, and the
controller's interrupt. -/
def State.powerCut (t : State) : State := ((t.setNode { t.n with off := true }).raiseIntr 9).inBand 1

/-- Messages to other packages change nothing but what has gone out. -/
theorem State.sendLinks_out (l : List Nat) (class_ pa : Nat) (data : List Byte) (s : State) :
    ∃ out, l.foldl (fun (s : State) q => s.sendLink class_ q pa data) s = { s with out := out } := by
  induction l generalizing s with
  | nil => exact ⟨_, rfl⟩
  | cons q l ih =>
    obtain ⟨out, h⟩ := ih (s.sendLink class_ q pa data)
    exact ⟨out, h⟩

theorem State.raiseIntr_source (s : State) {k : Nat} (hk : k < 64) : (s.raiseIntr k).r.intr.getLsbD k = true := by
  simp [State.raiseIntr, hk]

/-- Where power is removed, nothing else of the package has changed but what has gone out. -/
theorem execJunctionOvertemp_cut (s : State) : ∃ out, execJunctionOvertemp s = .next (State.powerCut { s with out := out }) := by
  obtain ⟨out, h⟩ := State.sendLinks_out ((onesOf 8 s.r.alive).filter (fun q => q != s.r.pkg)) 8 0 [] s
  exact ⟨out, congrArg (fun t : State => (Host.Outcome.next t.powerCut : Result)) h⟩

end Sys2Proof.Machine

namespace Sys2Proof.Proofs

open Sys2Proof.Machine

/-- Settles O49: a reply with the session that its request leaves, an activation by the oldest image and its part, FREQ by the cap, the
junction and the time that has passed. -/
theorem controllerSteps : Obligations.ControllerSteps := by
  intro s sensor reading controller measurement draw hot said inBand session waited cap freq set staged quiet
  refine ⟨?replies, rfl, rfl, rfl, rfl, fun i => rfl, ⟨_, rfl, rfl, _, rfl⟩, ?activates, rfl, execFirmwareActivation_other,
    execPowerCapExceeded_above, execPowerCapExceeded_below, ?cooling, ?cooled, execClockRaise_hot, execClockRaise_fast, ?overtemp⟩
  case replies =>
    simp only [List.forall_mem_cons]
    exact ⟨rfl, rfl, rfl, rfl, rfl, rfl, List.forall_mem_nil _⟩
  case activates =>
    intro hc part image rest hs
    have settles := (execFirmwareActivation_verified (s := s) (image := measurement) hc).trans
      (congrArg _ (State.settleFirmware_cons (s := s.stageImage controller measurement) hs))
    refine ⟨fun hw hq => settles.trans (congrArg _ (if_pos ⟨hw, State.quiet_iff.mpr hq⟩)),
      fun h => settles.trans (congrArg _ (if_neg ?_))⟩
    exact fun ⟨hw, hq⟩ => h.elim (Bool.eq_false_iff.mp · hw) (· (State.quiet_iff.mp hq))
  case cooling => exact fun t hc hlt => (execClockRaise_cool hc).trans (if_neg fun h => Nat.not_le.mpr hlt h.1)
  case cooled => exact fun t hc hle hf => (execClockRaise_cool hc).trans (if_pos ⟨hle, hf⟩)
  case overtemp =>
    obtain ⟨out, h⟩ := execJunctionOvertemp_cut s
    exact ⟨_, h, rfl, State.raiseIntr_source _ (by decide), rfl, rfl, rfl, List.getLast?_concat ..⟩

end Sys2Proof.Proofs
end

section
/-! The encoding: which row of the table a slot is, and the bits of slots and of host words (R162, R171, R173, R175, R231, R348). -/

namespace Sys2Proof.Machine

/-! ## Rows of the table -/

/-- The SUB of a slot is the one that its row fixes (R171). -/
def subFits (sub : Option Nat) (f : Slot) : Bool := sub.all (fun k => f.sub.toNat == k)

theorem slot_of_subFits {k : Nat} {f : Slot} (h : subFits (some k) f) : f = { f with sub := BitVec.ofNat 3 k } := by
  have hk : f.sub.toNat = k := eq_of_beq h
  rw [← hk, BitVec.ofNat_toNat, BitVec.setWidth_eq]

theorem Instr.wf_slot {i : Instr} {op : Nat} {sub : Option Nat} {f : Slot} (h : i.slot? = some (op, sub, f)) :
    i.wf = (Rule.slotOk op f && subFits sub f) := by
  unfold Instr.wf
  rw [h]
  cases sub <;> rfl

/-- The row that an instruction's opcode and SUB name is its own. -/
theorem pick_slot {i : Instr} {op : Nat} {sub : Option Nat} {f : Slot} (h : i.slot? = some (op, sub, f)) (hs : subFits sub f) :
    pick op f = some i := by
  cases i
  all_goals cases h
  all_goals first
    | rfl
    | rw [slot_of_subFits hs]; rfl

/-- The instruction that an opcode and SUB name has that opcode, and a SUB that the slot has. -/
theorem slot_pick {i : Instr} {op : Nat} {f : Slot} (h : pick op f = some i) : ∃ sub, i.slot? = some (op, sub, f) ∧ subFits sub f := by
  unfold pick at h
  split at h
  all_goals first
    | (cases h; exact ⟨none, rfl, rfl⟩)
    | (split at h <;> first | (cases h; rename_i hs; exact ⟨_, rfl, by simp [subFits, hs]⟩) | cases h)
    | cases h

/-! ## Bits of a slot (R162) -/

theorem ofBool_getLsbD {w : Nat} (x : BitVec w) (k : Nat) : BitVec.ofBool (x.getLsbD k) = x.extractLsb' k 1 := by
  refine BitVec.eq_of_getLsbD_eq fun i hi => ?_
  obtain rfl : i = 0 := by omega
  simp

theorem beq_ofBool_one (b : Bool) : (BitVec.ofBool b == 1#1) = b := by cases b <;> rfl

/-- A slot is its opcode and its fields. -/
theorem slotBits_slotOf (w : BitVec 96) : slotBits (w.extractLsb' 0 8) (slotOf w) = w := by
  simp only [slotBits, slotOf, ofBool_getLsbD, BitVec.extractLsb'_append_extractLsb'_eq_extractLsb']
  exact BitVec.extractLsb'_eq_self

theorem slotBits_op (op : BitVec 8) (f : Slot) : (slotBits op f).extractLsb' 0 8 = op := by
  rw [slotBits, BitVec.extractLsb'_append_eq_right]

theorem slotOf_slotBits (op : BitVec 8) (f : Slot) : slotOf (slotBits op f) = f := by
  have parts (start len : Nat) : (slotBits op f).extractLsb' start len = BitVec.extractLsb' start len
      (f.i32 ++ f.sub ++ f.ty ++ f.m ++ f.c ++ f.b ++ f.a ++ f.d ++ BitVec.ofBool f.gs ++ f.gp ++ op) := rfl
  simp (disch := omega) only [slotOf, BitVec.getLsbD_eq_extractLsb', parts, BitVec.extractLsb'_append_eq_of_le,
    BitVec.extractLsb'_append_eq_of_add_le, -Nat.reduceAdd]
  simp only [Nat.reduceSub, BitVec.extractLsb'_eq_self, beq_ofBool_one]

/-! ## Host words (R231, R348) -/

/-- A host word whose upper 12 bits are one field. -/
def iType (imm : BitVec 12) (rs1 : BitVec 5) (f3 : BitVec 3) (rd : BitVec 5) (op : BitVec 7) : BitVec 32 :=
  imm ++ rs1 ++ f3 ++ rd ++ op

section
variable {w : BitVec 32} {hi : BitVec 7} {imm : BitVec 12} {rs2 rs1 : BitVec 5} {f3 : BitVec 3} {rd : BitVec 5} {op : BitVec 7}

/-- A word with these fields is the word made of them. -/
theorem rType_of_fields (h1 : w.extractLsb' 25 7 = hi) (h2 : rs2Of w = rs2) (h3 : rs1Of w = rs1) (h4 : funct3Of w = f3)
    (h5 : rdOf w = rd) (h6 : w.extractLsb' 0 7 = op) : rType hi rs2 rs1 f3 rd op = w := by
  subst h1 h2 h3 h4 h5 h6
  simp only [rType, rs2Of, rs1Of, funct3Of, rdOf, BitVec.extractLsb'_append_extractLsb'_eq_extractLsb']
  exact BitVec.extractLsb'_eq_self

theorem iType_of_fields (h1 : w.extractLsb' 20 12 = imm) (h3 : rs1Of w = rs1) (h4 : funct3Of w = f3)
    (h5 : rdOf w = rd) (h6 : w.extractLsb' 0 7 = op) : iType imm rs1 f3 rd op = w := by
  subst h1 h3 h4 h5 h6
  simp only [iType, rs1Of, funct3Of, rdOf, BitVec.extractLsb'_append_extractLsb'_eq_extractLsb']
  exact BitVec.extractLsb'_eq_self

theorem rType_extract (start len : Nat) : (rType hi rs2 rs1 f3 rd op).extractLsb' start len =
    BitVec.extractLsb' start len (hi ++ rs2 ++ rs1 ++ f3 ++ rd ++ op) := rfl

theorem iType_extract (start len : Nat) : (iType imm rs1 f3 rd op).extractLsb' start len =
    BitVec.extractLsb' start len (imm ++ rs1 ++ f3 ++ rd ++ op) := rfl

@[simp] theorem rType_op : (rType hi rs2 rs1 f3 rd op).extractLsb' 0 7 = op := by
  rw [rType_extract, BitVec.extractLsb'_append_eq_right]

@[simp] theorem rdOf_rType : rdOf (rType hi rs2 rs1 f3 rd op) = rd := by
  simp (disch := omega) only [rdOf, rType_extract, BitVec.extractLsb'_append_eq_of_le, BitVec.extractLsb'_append_eq_right,
    -Nat.reduceAdd, Nat.sub_self]

@[simp] theorem funct3Of_rType : funct3Of (rType hi rs2 rs1 f3 rd op) = f3 := by
  simp (disch := omega) only [funct3Of, rType_extract, BitVec.extractLsb'_append_eq_of_le, BitVec.extractLsb'_append_eq_right,
    -Nat.reduceAdd, Nat.reduceSub]

@[simp] theorem rs1Of_rType : rs1Of (rType hi rs2 rs1 f3 rd op) = rs1 := by
  simp (disch := omega) only [rs1Of, rType_extract, BitVec.extractLsb'_append_eq_of_le, BitVec.extractLsb'_append_eq_right,
    -Nat.reduceAdd, Nat.reduceSub]

@[simp] theorem rs2Of_rType : rs2Of (rType hi rs2 rs1 f3 rd op) = rs2 := by
  simp (disch := omega) only [rs2Of, rType_extract, BitVec.extractLsb'_append_eq_of_le, BitVec.extractLsb'_append_eq_right,
    -Nat.reduceAdd, Nat.reduceSub]

@[simp] theorem rType_hi : (rType hi rs2 rs1 f3 rd op).extractLsb' 25 7 = hi := by
  simp (disch := omega) only [rType_extract, BitVec.extractLsb'_append_eq_of_le, BitVec.extractLsb'_eq_self,
    -Nat.reduceAdd, Nat.reduceSub]

theorem rType_rs2_part (start len : Nat) (h : start + len ≤ 5) :
    (rType hi rs2 rs1 f3 rd op).extractLsb' (20 + start) len = rs2.extractLsb' start len := by
  simp (disch := omega) only [rType_extract, BitVec.extractLsb'_append_eq_of_le, BitVec.extractLsb'_append_eq_of_add_le,
    -Nat.reduceAdd]
  congr 1
  omega

@[simp] theorem iType_op : (iType imm rs1 f3 rd op).extractLsb' 0 7 = op := by
  rw [iType_extract, BitVec.extractLsb'_append_eq_right]

@[simp] theorem rdOf_iType : rdOf (iType imm rs1 f3 rd op) = rd := by
  simp (disch := omega) only [rdOf, iType_extract, BitVec.extractLsb'_append_eq_of_le, BitVec.extractLsb'_append_eq_right,
    -Nat.reduceAdd, Nat.sub_self]

@[simp] theorem funct3Of_iType : funct3Of (iType imm rs1 f3 rd op) = f3 := by
  simp (disch := omega) only [funct3Of, iType_extract, BitVec.extractLsb'_append_eq_of_le, BitVec.extractLsb'_append_eq_right,
    -Nat.reduceAdd, Nat.reduceSub]

@[simp] theorem rs1Of_iType : rs1Of (iType imm rs1 f3 rd op) = rs1 := by
  simp (disch := omega) only [rs1Of, iType_extract, BitVec.extractLsb'_append_eq_of_le, BitVec.extractLsb'_append_eq_right,
    -Nat.reduceAdd, Nat.reduceSub]

theorem iType_imm_part (start len : Nat) : (iType imm rs1 f3 rd op).extractLsb' (20 + start) len = imm.extractLsb' start len := by
  simp (disch := omega) only [iType_extract, BitVec.extractLsb'_append_eq_of_le, -Nat.reduceAdd]
  congr 1
  omega

@[simp] theorem iType_imm : (iType imm rs1 f3 rd op).extractLsb' 20 12 = imm :=
  (iType_imm_part 0 12).trans BitVec.extractLsb'_eq_self

end

theorem ofNat_of_toNat_eq {n k : Nat} {x : BitVec n} (h : x.toNat = k) : x = BitVec.ofNat n k := by
  rw [← h, BitVec.ofNat_toNat, BitVec.setWidth_eq]

/-! ## What host words decode to (R231, R309, R348, R451) -/

section
variable {w : BitVec 32} {i : Instr}

/-- An instruction whose word is `v` has the word `w` where `v` is that word. -/
theorem encode_host {v : BitVec 32} (h : encode i = some (.host v)) (hv : v = w) : encode i = some (.host w) := by
  rw [h, hv]

/-- What custom-0 decodes to is well-formed, and its word is the one decoded. -/
theorem decodeCustom0_sound (hop : w.extractLsb' 0 7 = 0x0B) (h : decodeCustom0 w = some i) :
    encode i = some (.host w) ∧ i.wf := by
  unfold decodeCustom0 at h
  split at h
  case h_6 => cases h
  all_goals
    rename_i hf
    replace hf := ofNat_of_toNat_eq hf
    simp only [Option.ite_none_right_eq_some, Bool.and_eq_true, decide_eq_true_eq, Option.some.injEq] at h
  · obtain ⟨⟨hhi, hrs2⟩, rfl⟩ := h
    exact ⟨encode_host rfl (rType_of_fields hhi hrs2 rfl hf rfl hop), rfl⟩
  · obtain ⟨⟨hhi, hrs2⟩, rfl⟩ := h
    exact ⟨encode_host rfl (rType_of_fields hhi hrs2 rfl hf rfl hop), rfl⟩
  · obtain ⟨⟨⟨⟨⟨hhi, hrd⟩, hrs1⟩, hord⟩, hscope⟩, rfl⟩ := h
    refine ⟨encode_host rfl (rType_of_fields hhi ?_ hrs1 hf hrd hop), ?_⟩
    · simp only [rs2Of, BitVec.extractLsb'_append_extractLsb'_eq_extractLsb']
    · exact Bool.and_eq_true_iff.mpr ⟨hord, hscope⟩
  · obtain ⟨hhi, rfl⟩ := h
    exact ⟨encode_host rfl (rType_of_fields hhi rfl rfl hf rfl hop), rfl⟩
  · obtain ⟨⟨hhi, hrd⟩, rfl⟩ := h
    exact ⟨encode_host rfl (rType_of_fields hhi rfl rfl hf hrd hop), rfl⟩

/-- The same for custom-1. -/
theorem decodeCustom1_sound (hop : w.extractLsb' 0 7 = 0x2B) (h : decodeCustom1 w = some i) :
    encode i = some (.host w) ∧ i.wf := by
  unfold decodeCustom1 at h
  split at h
  case h_5 => cases h
  all_goals
    rename_i hf
    replace hf := ofNat_of_toNat_eq hf
    simp only [Option.ite_none_right_eq_some, Bool.and_eq_true, decide_eq_true_eq, Option.some.injEq] at h
  · obtain ⟨⟨⟨hhi, hrs2⟩, hrs1⟩, rfl⟩ := h
    exact ⟨encode_host rfl (rType_of_fields hhi hrs2 hrs1 hf rfl hop), rfl⟩
  · obtain ⟨⟨⟨hhi, hrs2⟩, hrs1⟩, rfl⟩ := h
    exact ⟨encode_host rfl (rType_of_fields hhi hrs2 hrs1 hf rfl hop), rfl⟩
  · obtain ⟨⟨⟨hhi, hrd⟩, hrs1⟩, rfl⟩ := h
    refine ⟨encode_host rfl (iType_of_fields ?_ hrs1 hf hrd hop), rfl⟩
    simp only [← hhi, BitVec.extractLsb'_append_extractLsb'_eq_extractLsb']
  · obtain ⟨⟨⟨hhi, hrs2⟩, hrs1⟩, rfl⟩ := h
    exact ⟨encode_host rfl (rType_of_fields hhi hrs2 hrs1 hf rfl hop), rfl⟩

/-- Of the two codes of AMO, LR and SC the upper bits are 01, and the lowest is the width (R309). -/
theorem funct3Of_atomic (h : (funct3Of w).toNat / 2 = 1) : w.extractLsb' 13 2 = 1 := by
  apply BitVec.eq_of_toNat_eq
  simp only [funct3Of, BitVec.extractLsb'_toNat, Nat.shiftRight_eq_div_pow] at h ⊢
  simp only [BitVec.ofNat_eq_ofNat, BitVec.toNat_ofNat]
  omega

/-- What a host word decodes to is well-formed, and its word is the one decoded. -/
theorem decodeHost_sound (h : decodeHost w = .ok i) : encode i = some (.host w) ∧ i.wf := by
  unfold decodeHost at h
  split at h
  case h_8 => cases h
  all_goals
    rename_i hop
    replace hop := ofNat_of_toNat_eq hop
  · cases hd : decodeCustom0 w <;> rw [hd] at h <;> cases h
    · exact ⟨rfl, rfl⟩
    · exact decodeCustom0_sound hop hd
  · cases hd : decodeCustom1 w <;> rw [hd] at h <;> cases h
    · exact ⟨rfl, rfl⟩
    · exact decodeCustom1_sound hop hd
  · split at h <;> cases h
    next hf => exact ⟨encode_host rfl (iType_of_fields rfl rfl rfl rfl hop), decide_eq_true hf⟩
  · split at h <;> cases h
    next hf =>
      refine ⟨encode_host rfl (rType_of_fields ?_ rfl rfl rfl ?_ hop), decide_eq_true hf⟩
      · exact BitVec.extractLsb'_append_eq_left.symm
      · exact BitVec.extractLsb'_append_eq_right.symm
  · split at h <;> cases h
    next hf =>
      simp only [Bool.and_eq_true, decide_eq_true_eq] at hf
      obtain ⟨⟨hf, hrd⟩, hrs1⟩ := hf
      refine ⟨encode_host rfl (iType_of_fields ?_ hrs1 hf hrd hop), rfl⟩
      simp only [BitVec.extractLsb'_append_extractLsb'_eq_extractLsb']
  · split at h <;> cases h
    next hf =>
      simp only [Bool.and_eq_true, decide_eq_true_eq] at hf
      obtain ⟨hf, hamo⟩ := hf
      refine ⟨encode_host rfl ?_, hamo⟩
      simp only [← funct3Of_atomic hf, ← (show w.extractLsb' 0 7 = 0x2F from hop), rs2Of, rs1Of, rdOf, ofBool_getLsbD,
        BitVec.extractLsb'_append_extractLsb'_eq_extractLsb']
      exact BitVec.extractLsb'_eq_self
  · split at h <;> cases h
    next hf =>
      simp only [Bool.and_eq_true, decide_eq_true_eq] at hf
      obtain ⟨himm, hf⟩ := hf
      exact ⟨encode_host rfl (iType_of_fields himm rfl rfl rfl hop), bne_iff_ne.mpr hf⟩

end

/-! ## Host words decode to what they were made of (R231, R309, R348, R451) -/

theorem decodeHost_xfence {ord : BitVec 2} {scope : BitVec 3} (h : ord != 0 && (scope == 4 || scope == 5)) :
    decodeHost (rType 0#7 (ord ++ scope) 0#5 2#3 0#5 0x0B#7) = .ok (.xfence ord scope) := by
  have hord : (rType 0#7 (ord ++ scope) 0#5 2#3 0#5 0x0B#7).extractLsb' 23 2 = ord :=
    (rType_rs2_part 3 2 (by decide)).trans BitVec.extractLsb'_append_eq_left
  have hscope : (rType 0#7 (ord ++ scope) 0#5 2#3 0#5 0x0B#7).extractLsb' 20 3 = scope :=
    (rType_rs2_part 0 3 (by decide)).trans BitVec.extractLsb'_append_eq_right
  have hlegal : ¬ord = 0#2 ∧ (scope = 4#3 ∨ scope = 5#3) := by simpa using h
  simp [decodeHost, decodeCustom0, hord, hscope, hlegal]

theorem decodeHost_xtxAbort (code : BitVec 8) : decodeHost (iType (0#4 ++ code) 0#5 2#3 0#5 0x2B#7) = .ok (.xtxAbort code) := by
  have hi : (iType (0#4 ++ code) 0#5 2#3 0#5 0x2B#7).extractLsb' 28 4 = 0#4 :=
    (iType_imm_part 8 4).trans BitVec.extractLsb'_append_eq_left
  have hcode : (iType (0#4 ++ code) 0#5 2#3 0#5 0x2B#7).extractLsb' 20 8 = code :=
    (iType_imm_part 0 8).trans BitVec.extractLsb'_append_eq_right
  simp [decodeHost, decodeCustom1, hi, hcode]

theorem decodeHost_load {imm : BitVec 12} {rs1 reg : BitVec 5} {f3 : BitVec 3} (h : f3.toNat < 7) :
    decodeHost (iType imm rs1 f3 reg 0x03) = .ok (.hostAccess false f3 reg rs1 imm) := by
  simp [decodeHost, h]

theorem decodeHost_store {imm : BitVec 12} {rs1 reg : BitVec 5} {f3 : BitVec 3} (h : f3.toNat < 4) :
    decodeHost (rType (imm.extractLsb' 5 7) reg rs1 f3 (imm.extractLsb' 0 5) 0x23) = .ok (.hostAccess true f3 reg rs1 imm) := by
  have himm : imm.extractLsb' 5 7 ++ imm.extractLsb' 0 5 = imm :=
    (BitVec.extractLsb'_append_extractLsb'_eq_extractLsb' rfl).trans BitVec.extractLsb'_eq_self
  simp [decodeHost, h, himm]

theorem decodeHost_fence (fm p s : BitVec 4) : decodeHost (iType (fm ++ p ++ s) 0#5 0#3 0#5 0x0F#7) = .ok (.hostFence fm p s) := by
  have h1 : (iType (fm ++ p ++ s) 0#5 0#3 0#5 0x0F#7).extractLsb' 28 4 = fm :=
    (iType_imm_part 8 4).trans ((BitVec.extractLsb'_append_eq_of_le (by decide)).trans BitVec.extractLsb'_append_eq_left)
  have h2 : (iType (fm ++ p ++ s) 0#5 0#3 0#5 0x0F#7).extractLsb' 24 4 = p :=
    (iType_imm_part 4 4).trans ((BitVec.extractLsb'_append_eq_of_le (by decide)).trans BitVec.extractLsb'_append_eq_right)
  have h3 : (iType (fm ++ p ++ s) 0#5 0#3 0#5 0x0F#7).extractLsb' 20 4 = s :=
    (iType_imm_part 0 4).trans BitVec.extractLsb'_append_eq_right
  simp [decodeHost, h1, h2, h3]

theorem decodeHost_csr {rs1 rd : BitVec 5} {f3 : BitVec 3} (h : f3.toNat % 4 ≠ 0) :
    decodeHost (iType 0x5C0 rs1 f3 rd 0x73) = .ok (.hostAsidCsrWrite f3 rd rs1) := by
  simp [decodeHost, h]

/-- The word of AMO, LR or SC (R309). -/
def atomicWord (f5 : BitVec 5) (aq rl wide : Bool) (rd rs1 rs2 : BitVec 5) : BitVec 32 :=
  f5 ++ BitVec.ofBool aq ++ BitVec.ofBool rl ++ rs2 ++ rs1 ++ (1 : BitVec 2) ++ BitVec.ofBool wide ++ rd ++ (0x2F : BitVec 7)

theorem decodeHost_atomic {f5 rd rs1 rs2 : BitVec 5} {aq rl wide : Bool} (h : amoCode f5.toNat rs2.toNat) :
    decodeHost (atomicWord f5 aq rl wide rd rs1 rs2) = .ok (.hostAtomic f5 aq rl wide rd rs1 rs2) := by
  have parts (start len : Nat) : (atomicWord f5 aq rl wide rd rs1 rs2).extractLsb' start len = BitVec.extractLsb' start len
    (f5 ++ BitVec.ofBool aq ++ BitVec.ofBool rl ++ rs2 ++ rs1 ++ (1 : BitVec 2) ++ BitVec.ofBool wide ++ rd ++ (0x2F : BitVec 7)) := rfl
  have hop : (atomicWord f5 aq rl wide rd rs1 rs2).extractLsb' 0 7 = 0x2F := by
    rw [parts, BitVec.extractLsb'_append_eq_right]
  have hf : (atomicWord f5 aq rl wide rd rs1 rs2).extractLsb' 12 3 = (1 : BitVec 2) ++ BitVec.ofBool wide := by
    have cut (x : BitVec 32) : x.extractLsb' 12 3 = x.extractLsb' 13 2 ++ x.extractLsb' 12 1 := by
      simp only [BitVec.extractLsb'_append_extractLsb'_eq_extractLsb']
    simp (disch := omega) only [cut, parts, BitVec.extractLsb'_append_eq_of_le, BitVec.extractLsb'_append_eq_right,
      -Nat.reduceAdd, Nat.reduceSub]
  have hf3 : ((1 : BitVec 2) ++ BitVec.ofBool wide).toNat / 2 = 1 := by cases wide <;> rfl
  simp (disch := omega) only [decodeHost, hop, funct3Of, hf, hf3, BitVec.getLsbD_eq_extractLsb', parts, rdOf, rs1Of, rs2Of, BitVec.extractLsb'_append_eq_of_le,
    BitVec.extractLsb'_append_eq_of_add_le, -Nat.reduceAdd, Nat.reduceSub, BitVec.extractLsb'_eq_self, beq_ofBool_one]
  simp [h]

/-- The word of a well-formed host instruction other than an illegal one decodes to it. -/
theorem decodeHost_encode {i : Instr} {v : BitVec 32} (hwf : i.wf) (hill : ∀ v, i ≠ .hostIllegalInstruction v)
    (h : encode i = some (.host v)) : decodeHost v = .ok i := by
  unfold encode at h
  split at h
  case h_1 => cases h
  case h_2 hslot =>
  split at h
  case h_11 => exact absurd rfl (hill _)
  case h_12 =>
    rename_i store f3 reg rs1 imm
    cases store with
    | false =>
      cases h
      exact decodeHost_load (of_decide_eq_true hwf)
    | true =>
      cases h
      exact decodeHost_store (of_decide_eq_true hwf)
  all_goals cases h
  · simp [decodeHost, decodeCustom0]
  · simp [decodeHost, decodeCustom0]
  · exact decodeHost_xfence hwf
  · simp [decodeHost, decodeCustom0]
  · simp [decodeHost, decodeCustom0]
  · simp [decodeHost, decodeCustom1]
  · simp [decodeHost, decodeCustom1]
  · exact decodeHost_xtxAbort _
  · simp [decodeHost, decodeCustom1]
  · exact decodeHost_fence _ _ _
  · exact decodeHost_atomic hwf
  · exact decodeHost_csr (bne_iff_ne.mp hwf)

/-! ## Slots (R162, R171, R173) -/

/-- Whether an opcode is assigned does not depend on the other fields of its slot (R171). -/
theorem rule_isNone (op : Nat) (f f' : Slot) : (Rule.rule op f).isNone = (Rule.rule op f').isNone := by
  have core : (Rule.core op f).isNone = (Rule.core op f').isNone := by unfold Rule.core; split <;> rfl
  have vector : (Rule.vector op f).isNone = (Rule.vector op f').isNone := by unfold Rule.vector; split <;> rfl
  have memory : (Rule.memory op f).isNone = (Rule.memory op f').isNone := by unfold Rule.memory; split <;> rfl
  have order : (Rule.order op f).isNone = (Rule.order op f').isNone := by unfold Rule.order; split <;> rfl
  have matrix : (Rule.matrix op f).isNone = (Rule.matrix op f').isNone := by unfold Rule.matrix; dsimp only; split <;> rfl
  have flow : (Rule.flow op f).isNone = (Rule.flow op f').isNone := by unfold Rule.flow; split <;> rfl
  have sched : (Rule.sched op f).isNone = (Rule.sched op f').isNone := by unfold Rule.sched; split <;> rfl
  simp only [Rule.rule, apply_ite Option.isNone, core, vector, memory, order, matrix, flow, sched]

/-- A slot that is checked and whose row is found decodes to its row. -/
theorem decodeSlot_ok {w : BitVec 96} {i : Instr} (hok : Rule.slotOk (w.extractLsb' 0 8).toNat (slotOf w))
    (hp : pick (w.extractLsb' 0 8).toNat (slotOf w) = some i) : decodeSlot w = .ok i := by
  have hr : (Rule.rule (w.extractLsb' 0 8).toNat (slotOf w)).isNone = false := by
    cases hrule : Rule.rule (w.extractLsb' 0 8).toNat (slotOf w) with
    | some r => rfl
    | none =>
      rw [Rule.slotOk, hrule, Bool.and_eq_true] at hok
      cases hok.2
  simp only [decodeSlot, hr, hok, hp]
  rfl

/-- What a slot decodes to: an unassigned opcode, or the row that a checked slot names (R173). -/
theorem decodeSlot_cases {w : BitVec 96} {i : Instr} (h : decodeSlot w = .ok i) :
    ((Rule.rule (w.extractLsb' 0 8).toNat (slotOf w)).isNone ∧ i = .unassignedOpcode (w.extractLsb' 0 8))
    ∨ (Rule.slotOk (w.extractLsb' 0 8).toNat (slotOf w) ∧ pick (w.extractLsb' 0 8).toNat (slotOf w) = some i) := by
  unfold decodeSlot at h
  dsimp only at h
  split at h
  · next hr => cases h; exact .inl ⟨hr, rfl⟩
  · split at h
    · cases h
    · next hok =>
      split at h
      · next hp => cases h; exact .inr ⟨by simpa using hok, hp⟩
      · cases h

/-- The opcode of a row is below 256. -/
theorem slot_op_lt {i : Instr} {op : Nat} {sub : Option Nat} {f : Slot} (h : i.slot? = some (op, sub, f)) : op < 256 := by
  cases i
  all_goals cases h
  all_goals decide

theorem encode_slot {i : Instr} {op : Nat} {sub : Option Nat} {f : Slot} (h : i.slot? = some (op, sub, f)) :
    encode i = some (.slot (slotBits (BitVec.ofNat 8 op) f)) := by
  unfold encode
  rw [h]

/-- The slot of a well-formed instruction decodes to it. -/
theorem decodeSlot_encode {i : Instr} {w : BitVec 96} (hwf : i.wf) (h : encode i = some (.slot w)) : decodeSlot w = .ok i := by
  cases hs : i.slot? with
  | some r =>
    obtain ⟨op, sub, f⟩ := r
    rw [encode_slot hs] at h
    cases h
    rw [Instr.wf_slot hs, Bool.and_eq_true] at hwf
    have hop : (BitVec.ofNat 8 op).toNat = op := Nat.mod_eq_of_lt (slot_op_lt hs)
    refine decodeSlot_ok ?_ ?_ <;> rw [slotBits_op, slotOf_slotBits, hop]
    · exact hwf.1
    · exact pick_slot hs hwf.2
  | none =>
    unfold encode at h
    unfold Instr.wf at hwf
    rw [hs] at h hwf
    dsimp only at h hwf
    split at h
    case h_12 => split at h <;> cases h
    all_goals cases h
    next op _ =>
      unfold decodeSlot
      rw [slotBits_op, slotOf_slotBits]
      dsimp only at hwf ⊢
      rw [hwf, if_pos rfl]

end Sys2Proof.Machine

namespace Sys2Proof.Proofs

open Sys2Proof.Machine

/-- Settles O56: a slot goes by the row that its opcode and SUB name, a host word by its fields. -/
theorem decodeEncode : Obligations.DecodeEncode := by
  refine ⟨fun i w hwf hill h => ?_, fun i w hun h => ?_, fun v h => ?_⟩
  · cases w with
    | slot w => exact decodeSlot_encode hwf h
    | host w => exact decodeHost_encode hwf hill h
  · cases w with
    | slot w =>
      rcases decodeSlot_cases h with ⟨_, rfl⟩ | ⟨_, hp⟩
      · exact absurd rfl (hun _)
      · obtain ⟨sub, hs, _⟩ := slot_pick hp
        rw [encode_slot hs, BitVec.ofNat_toNat, BitVec.setWidth_eq, slotBits_slotOf]
    | host w => exact (decodeHost_sound h).1
  · rcases h with ⟨hop, hd⟩ | ⟨hop, hd⟩ <;> simp [decodeWords, decodeHost, hop, hd]

/-- Settles O57: an unassigned opcode is well-formed, a row by the checks that its slot passed, a host word by its fields; a guard
of 96 or more fails those checks. -/
theorem decodeSound : Obligations.DecodeSound := by
  refine ⟨fun i w h => ?_, fun i w hg h => ?_, fun w h => ?_⟩
  · cases w with
    | slot w =>
      rcases decodeSlot_cases h with ⟨hr, rfl⟩ | ⟨hok, hp⟩
      · exact (rule_isNone _ _ _).trans hr
      · obtain ⟨sub, hs, hsub⟩ := slot_pick hp
        rw [Instr.wf_slot hs, hok, hsub, Bool.and_self]
    | host w => exact (decodeHost_sound h).2
  · rcases decodeSlot_cases h with ⟨_, rfl⟩ | ⟨hok, _⟩
    · exact ⟨_, rfl⟩
    · rw [Rule.slotOk, Bool.and_eq_true, decide_eq_true_eq] at hok
      exact absurd hok.1 (Nat.not_lt.mpr hg)
  · unfold decodeSlot
    rw [h]
    rfl

/-- Settles O55: each word by its fields. -/
theorem decodeExamples : Obligations.DecodeExamples := by
  unfold Obligations.DecodeExamples
  decide

end Sys2Proof.Proofs
end

section
/-! The state after reset, as software reads it (R110, R116, R410, R426, R430, R433, R434, R442, R457, R466, R477, R488). -/

namespace Sys2Proof.Machine

/-- A SYS.COMM register gives what was last written there, else its value at reset (R466). -/
theorem State.regRead_comm (s : State) {n : Nat} (h : n < 16) :
    s.regRead (0x200 + 8 * n) = (Tab.get s.r.other (0x200 + 8 * n) commReset).toNat := by
  have h1 : ¬ 0x200 + 8 * n < 0x70 := by omega
  have h2 : ¬ 0x200 + 8 * n < 0xC0 := by omega
  have h3 : ¬ 0x200 + 8 * n < 0x168 := by omega
  have h4 : 0x200 + 8 * n < 0x280 := by omega
  simp [State.regRead, h1, h2, h3, h4]

/-- A SYS.C3POLICE register gives what was counted and the budget of its agent (R430). -/
theorem State.regRead_c3police (s : State) {n : Nat} (h : n < 1024) :
    s.regRead (0x2000 + 8 * n) = s.c3Used n * 2 ^ 32 + Tab.get s.r.c3budget n 0xFFFF := by
  have below (k : Nat) (hk : k ≤ 0x2000) : ¬ 0x2000 + 8 * n < k := by omega
  have h1 : 0x2000 + 8 * n < 0x4000 := by omega
  simp [State.regRead, below, h1]

theorem reset_c3Used (agent : Nat) : State.reset.c3Used agent = 0 := by
  rw [State.c3Used, if_pos (by decide)]
  rfl

/-- Tarn 0 is ACTIVE after reset (R110). -/
theorem tdbState_reset_zero : tdbState (tdbReset 0) = 0 := by
  simp only [tdbReset, if_true, tdbState, tdbField, bits, Nat.shiftRight_eq_div_pow, BitVec.toNat_ofNat]
  omega

/-- A Tarn other than 0 is RETIRED after reset (R110). -/
theorem tdbState_reset {t : Nat} (h0 : 0 < t) (h : t < 1024) : tdbState (tdbReset t) = 3 := by
  simp only [tdbReset, if_neg (Nat.ne_of_gt h0), tdbState, tdbField, bits, Nat.shiftRight_eq_div_pow, BitVec.toNat_ofNat]
  omega

end Sys2Proof.Machine

namespace Sys2Proof.Proofs

open Sys2Proof.Machine

/-- Settles O58: each register by its offset, a Tarn by its number. -/
theorem resetValues : Obligations.ResetValues := by
  unfold Obligations.ResetValues
  intro s
  refine ⟨rfl, rfl, reset_memory_wf, fun _ => rfl, rfl, rfl, rfl, rfl, rfl, rfl, rfl, fun n hn => ?_, fun n hn => ?_, tdbState_reset_zero,
    fun t h0 h => tdbState_reset h0 h, fun _ => rfl, rfl, rfl⟩
  · exact (s.regRead_comm hn).trans rfl
  · rw [s.regRead_c3police hn, reset_c3Used, Nat.zero_mul, Nat.zero_add]
    rfl

end Sys2Proof.Proofs
end

section
/-! Variable-latency arithmetic at issue (R153, R157, R218, R281, R291 to R293). -/

namespace Sys2Proof.Machine

open Sys2Proof.Laws Sys2Proof.Claims

/-- What each executing lane's result and draw counter are, by its thread as it stands (R281). -/
def slowResult (s : State) (val : LaneV → Thread → Nat × BitVec 32) (l : LaneV) : Nat × BitVec 32 :=
  match s.thread? l.key with
  | some t => val l t
  | none => (0, 0)

/-- What variable-latency arithmetic leaves at issue: results of `w` registers outstanding, draws taken, and every lane at NextPc. -/
def slowSet (s : State) (op : Nat) (f : Slot) (g : Group) (w : Nat) (val : LaneV → Thread → Nat × BitVec 32) : State :=
  ((s.startOp s.cur.group g op f ((running s g f).map (fun l =>
      { laneOp l 0 [] [] .done with res := wordsOf w (slowResult s val l).1 }))).1.eachLane (running s g f)
    (fun l t => { t with draws := (slowResult s val l).2 })).advance s.cur.group g (s.lanesOf g f)

theorem State.slowOp_next {s : State} {op w : Nat} {f : Slot} {g : Group} {val : Group → LaneV → Thread → Nat × BitVec 32}
    (h : issuesB s op f g) : s.slowOp op f w val = .next (kept s op f g (slowSet s op f g w (val g))) := by
  rw [issuesB, Bool.and_eq_true, Bool.not_eq_true'] at h
  obtain ⟨hi, hb⟩ := h
  refine State.issue_after hi ?_
  simp only [hb]
  rfl

end Sys2Proof.Machine

namespace Sys2Proof.Proofs

open Sys2Proof.Machine Sys2Proof.Claims

/-- Settles O7: each row is a form whose lanes' results are formed at issue. -/
theorem slowResults : Obligations.SlowResults := by
  intro s f g
  simp only [slowRows, List.forall_mem_cons]
  dsimp only [exec, execIdiv, execFrcp, execFrsq, execFsqrt, execFdiv, execFexp2, execFlog2, execFsin, execFcos, execFtanh,
    State.slowFunction, State.slowFloat]
  exact ⟨fun h => (State.slowOp_next h).trans rfl, fun h => (State.slowOp_next h).trans rfl,
    fun h => (State.slowOp_next h).trans rfl, fun h => (State.slowOp_next h).trans rfl, fun h => (State.slowOp_next h).trans rfl,
    fun h => (State.slowOp_next h).trans rfl, fun h => (State.slowOp_next h).trans rfl, fun h => (State.slowOp_next h).trans rfl,
    fun h => (State.slowOp_next h).trans rfl, fun h => (State.slowOp_next h).trans rfl, List.forall_mem_nil _⟩

end Sys2Proof.Proofs
end

section
/-! The checks of a slot before its own effect (R55, R173, R174, R383). -/

namespace Sys2Proof.Machine

open Sys2Proof.Laws

/-- An instruction issues a slot under an opcode: what it does itself stands behind the checks of R173. -/
def IssuesAs (s : State) (op : Nat) (f : Slot) (r : Result) : Prop := ∃ body, r = s.issue op f body

theorem State.issue_issues (s : State) (op : Nat) (f : Slot) (body) : IssuesAs s op f (s.issue op f body) := ⟨body, rfl⟩

/-! ## The shared shapes of instructions -/

theorem State.lanewise_issues (s : State) (op : Nat) (f : Slot) (eff) : IssuesAs s op f (s.lanewise op f eff) :=
  s.issue_issues _ _ _

theorem State.lanewiseD_issues (s : State) (op : Nat) (f : Slot) (w val) : IssuesAs s op f (s.lanewiseD op f w val) :=
  s.lanewise_issues _ _ _

theorem State.lanewiseP_issues (s : State) (op : Nat) (f : Slot) (val) : IssuesAs s op f (s.lanewiseP op f val) :=
  s.lanewise_issues _ _ _

theorem State.intOp_issues (s : State) (op : Nat) (f : Slot) (exact) : IssuesAs s op f (s.intOp op f exact) :=
  s.lanewiseD_issues _ _ _ _

theorem State.bitOp_issues (s : State) (op : Nat) (f : Slot) (e) : IssuesAs s op f (s.bitOp op f e) :=
  s.lanewiseD_issues _ _ _ _

theorem State.shiftOp_issues (s : State) (op : Nat) (f : Slot) (e) : IssuesAs s op f (s.shiftOp op f e) :=
  s.lanewiseD_issues _ _ _ _

theorem State.unaryOp_issues (s : State) (op : Nat) (f : Slot) (n e) : IssuesAs s op f (s.unaryOp op f n e) :=
  s.lanewiseD_issues _ _ _ _

theorem State.floatBits_issues (s : State) (op : Nat) (f : Slot) (e) : IssuesAs s op f (s.floatBits op f e) :=
  s.lanewiseD_issues _ _ _ _

theorem State.floatOp_issues (s : State) (op : Nat) (f : Slot) (exact) : IssuesAs s op f (s.floatOp op f exact) :=
  s.lanewise_issues _ _ _

theorem State.predOp_issues (s : State) (op : Nat) (f : Slot) (e) : IssuesAs s op f (s.predOp op f e) :=
  s.lanewiseP_issues _ _ _

theorem State.acrossLanes_issues (s : State) (op : Nat) (f : Slot) (eff) : IssuesAs s op f (s.acrossLanes op f eff) :=
  s.issue_issues _ _ _

theorem State.exchange_issues (s : State) (op : Nat) (f : Slot) (src) : IssuesAs s op f (s.exchange op f src) :=
  s.acrossLanes_issues _ _ _

theorem State.slowOp_issues (s : State) (op : Nat) (f : Slot) (w val) : IssuesAs s op f (s.slowOp op f w val) :=
  s.issue_issues _ _ _

theorem State.slowFloat_issues (s : State) (op : Nat) (f : Slot) (exact) : IssuesAs s op f (s.slowFloat op f exact) :=
  s.slowOp_issues _ _ _ _

theorem State.slowFunction_issues (s : State) (op : Nat) (f : Slot) (e) : IssuesAs s op f (s.slowFunction op f e) :=
  s.slowFloat_issues _ _ _

theorem State.scalarOp_issues (s : State) (op : Nat) (f : Slot) (eff) : IssuesAs s op f (s.scalarOp op f eff) :=
  s.issue_issues _ _ _

theorem State.regroup_issues (s : State) (op : Nat) (f : Slot) (y) : IssuesAs s op f (s.regroup op f y) :=
  s.issue_issues _ _ _

theorem State.groupWide_issues (s : State) (op : Nat) (f : Slot) (body) : IssuesAs s op f (s.groupWide op f body) :=
  s.issue_issues _ _ _

theorem State.transfer_issues (s : State) (op : Nat) (f : Slot) (tgt link) : IssuesAs s op f (s.transfer op f tgt link) :=
  s.issue_issues _ _ _

theorem State.memIssue_issues (s : State) (op : Nat) (f : Slot) (use_) : IssuesAs s op f (s.memIssue op f use_) :=
  s.issue_issues _ _ _

theorem State.beginCopy_issues (s : State) (op : Nat) (f : Slot) : IssuesAs s op f (s.beginCopy op f) :=
  s.groupWide_issues _ _ _

theorem State.matrixIssue_issues (s : State) (op : Nat) (f : Slot) : IssuesAs s op f (s.matrixIssue op f) :=
  s.issue_issues _ _ _

theorem State.flowIssue_issues (s : State) (op : Nat) (f : Slot) (lane) : IssuesAs s op f (s.flowIssue op f lane) :=
  s.groupWide_issues _ _ _

theorem State.leaderFlow_issues (s : State) (op : Nat) (f : Slot) (bw) : IssuesAs s op f (s.leaderFlow op f bw) :=
  s.flowIssue_issues _ _ _

theorem State.ownFlow_issues (s : State) (op : Nat) (f : Slot) (bw) : IssuesAs s op f (s.ownFlow op f bw) :=
  s.flowIssue_issues _ _ _

theorem State.landingIssue_issues (s : State) (op : Nat) (f : Slot) : IssuesAs s op f (s.landingIssue op f) :=
  s.groupWide_issues _ _ _

theorem State.chanIssue_issues (s : State) (op : Nat) (f : Slot) : IssuesAs s op f (s.chanIssue op f) :=
  s.groupWide_issues _ _ _

theorem State.launchQuery_issues (s : State) (op : Nat) (f : Slot) : IssuesAs s op f (s.launchQuery op f) :=
  s.issue_issues _ _ _

theorem State.collStart_issues (s : State) (op : Nat) (f : Slot) : IssuesAs s op f (s.collStart op f) :=
  s.groupWide_issues _ _ _

/-- A privileged instruction issues as any other: its own effect where its grid may run it, else PRIVILEGE (R272, R446). -/
theorem State.asPrivileged_issues (s : State) (op : Nat) (f : Slot) {body : State → Result} (hb : IssuesAs s op f (body s)) :
    IssuesAs s op f (s.asPrivileged op f body) := by
  obtain ⟨b, hb⟩ := hb
  unfold State.asPrivileged
  split
  · next h => exact ⟨b, by rw [State.issue, h]⟩
  · split
    · exact ⟨b, hb⟩
    · exact s.issue_issues _ _ _

theorem State.tarnIssue_issues (s : State) (op : Nat) (f : Slot) : IssuesAs s op f (s.tarnIssue op f) := by
  refine s.asPrivileged_issues _ _ ?_
  exact s.groupWide_issues _ _ _

theorem State.xlateIssue_issues (s : State) (f : Slot) : IssuesAs s 0xA5 f (s.xlateIssue f) := by
  refine s.asPrivileged_issues _ _ ?_
  exact s.groupWide_issues _ _ _

theorem State.ctxIssue_issues (s : State) (op : Nat) (f : Slot) : IssuesAs s op f (s.ctxIssue op f) := by
  refine s.asPrivileged_issues _ _ ?_
  exact s.groupWide_issues _ _ _

theorem State.mwinIssue_issues (s : State) (f : Slot) : IssuesAs s 0xC0 f (s.mwinIssue f) := s.issue_issues _ _ _

theorem State.collWaitIssue_issues (s : State) (f : Slot) : IssuesAs s 0xF6 f (s.collWaitIssue f) := s.groupWide_issues _ _ _

/-! ## Every instruction with a slot -/

/-- A vector-core instruction issues its slot under its opcode, by its shape. -/
theorem exec_issues {i : Instr} {op : Nat} {sub : Option Nat} {f : Slot} (s : State) (h : i.slot? = some (op, sub, f)) :
    IssuesAs s op f (exec i s) := by
  cases i
  all_goals cases h
  all_goals dsimp only [exec]
  case nop | frnd | cvt | cvts | pack => exact s.lanewise_issues _ _ _
  case bra | brx | call | callx | ret => exact s.transfer_issues _ _ _ _
  case exit | trap | spawn | launch => exact s.issue_issues _ _ _
  case reform | yield => exact s.regroup_issues _ _ _
  case lwait | lstat => exact s.launchQuery_issues _ _
  case sreg | imulh | not | bfi | isel | lea | mov | movi | fclass | unpack | tstat | trapretGetpc | trapretGetcause |
    trapretGetaddr =>
    exact s.lanewiseD_issues _ _ _ _
  case iadd | isub | imul | imad | imin | imax | iabs | ineg | iadd64 => exact s.intOp_issues _ _ _
  case imad64 =>
    unfold execImad64
    exact s.intOp_issues _ _ _
  case idiv => exact s.slowOp_issues _ _ _ _
  case and | or | xor => exact s.bitOp_issues _ _ _
  case shl | shr | sar | rot | bfe => exact s.shiftOp_issues _ _ _
  case popc | clz | brev => exact s.unaryOp_issues _ _ _ _
  case icmp | pset | pnot | pmov | fcmp => exact s.lanewiseP_issues _ _ _
  case pand | por | pxor => exact s.predOp_issues _ _ _
  case pballot | pany | pall | voteUni | voteMatch => exact s.acrossLanes_issues _ _ _
  case smovi | salu | sget | sput | scmp => exact s.scalarOp_issues _ _ _
  case fadd | fsub | fmul | fma | fscale | fdot2 => exact s.floatOp_issues _ _ _
  case fmin | fmax | fabs | fneg | fsel => exact s.floatBits_issues _ _ _
  case frcp | frsq | fsqrt | fdiv => exact s.slowFloat_issues _ _ _
  case fexp2 | flog2 | fsin | fcos | ftanh => exact s.slowFunction_issues _ _ _
  case qswap | qbcast | shfl | shflup | shfldn | shflx => exact s.exchange_issues _ _ _
  case redux | scan => exact s.issue_issues _ _ _
  case ld | st | lds | sts | ldfW | ldfC | stfW | stfS | femarkEmpty | femarkFull | prefL1 | prefTarn | atom | cas | red |
    poll | cflushWb | cflushInv | cinv | sbarArrive | sbarTest =>
    exact s.memIssue_issues _ _ _
  case copy | copym => exact s.beginCopy_issues _ _
  case discard => exact s.groupWide_issues _ _ _
  case tarnDef | tarnGrow | tarnShrink | tarnMove | tarnRetire => exact s.tarnIssue_issues _ _
  case xlateInvAttr | xlateInvLines | xlateInvAttrall | xlateInvLinesall => exact s.xlateIssue_issues _
  case poisonClear =>
    refine s.asPrivileged_issues _ _ ?_
    exact s.memIssue_issues _ _ _
  case fence | barArrive | barWait | sbarWait | tbegin | tcommit | tabort => exact s.issue_issues _ _ _
  case mwinAlloc | mwinSub | mwinFree | mwinQuery => exact s.mwinIssue_issues _
  case obres | obfree | mload | mloadPeer | mma | mmas | mtrans | mperm | mrsum | mzero | mread | mwrite =>
    exact s.matrixIssue_issues _ _
  case weirOpen => exact s.flowIssue_issues _ _ _
  case weirPush | weirTake | weirDone | weirCloseEnd | weirCloseKill | inletTake | stillWaitTest | stillWaitHold |
    stillWaitUnhold =>
    exact s.leaderFlow_issues _ _ _
  case weirTakeG | weirDoneS => exact s.landingIssue_issues _ _
  case inletAdd | inletDone => exact s.ownFlow_issues _ _ _
  case stillWait => exact s.groupWide_issues _ _ _
  case chanSend | chanRecv => exact s.chanIssue_issues _ _
  case ctxSaveLaunch | ctxSaveAsid | ctxSaveDie | ctxLoadLaunch | ctxLoadAsid | ctxLoadDie => exact s.ctxIssue_issues _ _
  case trapret | trapretTo | prio => exact s.issue_issues _ _ _
  case collAllred | collBcast => exact s.collStart_issues _ _
  case collWait | collWaitS => exact s.collWaitIssue_issues _
  case collReform => exact s.groupWide_issues _ _ _

end Sys2Proof.Machine

namespace Sys2Proof.Proofs

open Sys2Proof.Machine Sys2Proof.Laws

/-- Settles O50: an unassigned opcode has no other effect, and every instruction with a slot stands behind the checks of its issue. -/
theorem slotChecks : Obligations.SlotChecks := by
  intro s g0 hg g
  refine ⟨fun op c hp hc => ?_, fun i op sub f c hi hp hc => ?_, fun i op sub f c hi hp => ?_⟩
  · subst hc
    simp only [exec, execUnassignedOpcode, hg, hp]
  · obtain ⟨body, hb⟩ := exec_issues s hi
    rw [hb, issue_check hg hp hc]
  · obtain ⟨body, hb⟩ := exec_issues s hi
    rw [hb, issue_pending hg hp]

end Sys2Proof.Proofs
end

section
/-! What a lanewise change leaves in each thread, and the frame around it (R22, R27, R156, R191, R192). -/

namespace Sys2Proof.Machine

open Sys2Proof.Laws Sys2Proof.Claims

/-! ## Registers and predicates of a thread -/

theorem Thread.setWords_only (t : Thread) (n : Nat) (ws : List Word) :
    t.setWords n ws = { t with regs := (t.setWords n ws).regs } := by
  induction ws generalizing t n with
  | nil => rfl
  | cons w ws ih =>
    rw [Thread.setWords, ih]
    rfl

theorem Thread.setReg_reg (t : Thread) (n k : Nat) (w : Word) : (t.setReg n w).reg k = if n = k then w else t.reg k :=
  Tab.get_set t.regs n k w 0

theorem Thread.setWords_reg_outside (t : Thread) {n k : Nat} {ws : List Word} (h : k < n ∨ n + ws.length ≤ k) :
    (t.setWords n ws).reg k = t.reg k := by
  induction ws generalizing t n with
  | nil => rfl
  | cons w ws ih =>
    rw [List.length_cons] at h
    rw [Thread.setWords, ih _ (by omega), Thread.setReg_reg, if_neg (by omega)]

theorem Thread.setWords_reg_inside (t : Thread) {n i : Nat} {ws : List Word} (h : i < ws.length) :
    (t.setWords n ws).reg (n + i) = ws.getD i 0 := by
  induction ws generalizing t n i with
  | nil => exact absurd h (Nat.not_lt_zero i)
  | cons w ws ih =>
    rw [Thread.setWords]
    cases i with
    | zero => rw [Thread.setWords_reg_outside _ (by omega), Nat.add_zero, Thread.setReg_reg, if_pos rfl]; rfl
    | succ i => rw [show n + (i + 1) = n + 1 + i by omega, ih _ (Nat.lt_of_succ_lt_succ h)]; rfl

@[simp] theorem wordsOf_length (n v : Nat) : (wordsOf n v).length = n := by
  induction n generalizing v with
  | zero => rfl
  | succ n ih => rw [wordsOf, List.length_cons, ih]

theorem Thread.setVal_only (t : Thread) (n w v : Nat) : t.setVal n w v = { t with regs := (t.setVal n w v).regs } :=
  t.setWords_only n (wordsOf w v)

theorem Thread.setVal_reg_outside (t : Thread) {n w v k : Nat} (h : k < n ∨ n + w ≤ k) : (t.setVal n w v).reg k = t.reg k :=
  t.setWords_reg_outside (by rwa [wordsOf_length])

theorem Thread.setVal_reg_inside (t : Thread) {n w v i : Nat} (h : i < w) :
    (t.setVal n w v).reg (n + i) = (wordsOf w v).getD i 0 :=
  t.setWords_reg_inside (by rwa [wordsOf_length])

theorem Thread.setPred_only (t : Thread) (n : Nat) (b : Bool) : t.setPred n b = { t with preds := (t.setPred n b).preds } := by
  unfold Thread.setPred
  split <;> rfl

theorem Thread.setPred_other (t : Thread) {n k : Nat} (b : Bool) (hk : k < 96) (h : k ≠ n) :
    (t.setPred n b).preds.getLsbD k = t.preds.getLsbD k := by
  have bit : (1#96 <<< n).getLsbD k = false := by
    simp only [BitVec.getLsbD_shiftLeft, BitVec.getLsbD_one]
    rcases Nat.lt_or_gt_of_ne h with h | h
    · simp [h]
    · simp [Nat.sub_ne_zero_of_lt h]
  unfold Thread.setPred
  split
  · rfl
  · cases b
    · simp only [Bool.false_eq_true, if_false, BitVec.getLsbD_and, BitVec.getLsbD_not, bit, hk, decide_true, Bool.not_false,
        Bool.and_true]
    · simp only [if_true, BitVec.getLsbD_or, bit, Bool.or_false]

/-! ## The changes of listed lanes to one thread -/

/-- What the listed lanes make of the thread of key `k`, in their order. -/
def effOn (ls : List LaneV) (e : LaneV → Thread → Thread) (k : Nat) (t : Thread) : Thread :=
  (ls.filter (fun l => l.key == k)).foldl (fun t l => e l t) t

theorem State.eachLane_thread? (s : State) (ls : List LaneV) (e : LaneV → Thread → Thread) (k : Nat) :
    (s.eachLane ls e).thread? k = (s.thread? k).map (effOn ls e k) := by
  induction ls generalizing s with
  | nil => exact Option.map_id'.symm
  | cons l ls ih =>
    rw [State.eachLane, ih, State.updThread_thread?]
    by_cases h : l.key = k
    · rw [if_pos h, Option.map_map]
      congr 1
      funext t
      simp only [effOn, Function.comp, List.filter_cons, h, beq_self_eq_true, if_true, List.foldl_cons]
    · rw [if_neg h]
      congr 1
      funext t
      simp only [effOn, List.filter_cons, beq_eq_false_iff_ne.mpr h, Bool.false_eq_true, if_false]

/-- What every change of a thread of this key keeps, all of them keep. -/
theorem effOn_keeps {ls : List LaneV} {e : LaneV → Thread → Thread} {k : Nat} (R : Thread → Prop)
    (h : ∀ l ∈ ls, l.key = k → ∀ u, R u → R (e l u)) {t : Thread} (ht : R t) : R (effOn ls e k t) := by
  unfold effOn
  induction ls generalizing t with
  | nil => exact ht
  | cons l ls ih =>
    have rest := fun u => ih (t := u) (fun x hx => h x (List.mem_cons_of_mem l hx))
    rw [List.filter_cons]
    split
    · next hk => exact rest _ (h l List.mem_cons_self (beq_iff_eq.mp hk) t ht)
    · exact rest _ ht

theorem effOn_nobody {ls : List LaneV} {e : LaneV → Thread → Thread} {k : Nat} (h : ∀ l ∈ ls, l.key ≠ k) (t : Thread) :
    effOn ls e k t = t :=
  effOn_keeps (· = t) (fun l hl hk => absurd hk (h l hl)) rfl

/-- One lane alone of those listed has its key. -/
theorem effOn_alone {ls : List LaneV} {e : LaneV → Thread → Thread} {l : LaneV} (hn : (ls.map (·.key)).Nodup) (hl : l ∈ ls)
    (t : Thread) : effOn ls e l.key t = e l t := by
  induction ls with
  | nil => exact absurd hl List.not_mem_nil
  | cons x ls ih =>
    obtain ⟨hx, hn⟩ := List.nodup_cons.mp hn
    rcases List.mem_cons.mp hl with rfl | hl
    · have rest := effOn_nobody (e := e) (k := l.key) (fun y hy hk => hx (List.mem_map.mpr ⟨y, hy, hk⟩)) (e l t)
      simpa only [effOn, List.filter_cons, beq_self_eq_true, if_true, List.foldl_cons] using rest
    · have other : (x.key == l.key) = false := beq_eq_false_iff_ne.mpr fun hk => hx (List.mem_map.mpr ⟨l, hl, hk.symm⟩)
      simpa only [effOn, List.filter_cons, other, Bool.false_eq_true, if_false] using ih hn hl

/-- Every lane at the PC moved, once or again. -/
theorem effOn_pc {ls : List LaneV} {l : LaneV} (hl : l ∈ ls) (np : Pc) (t : Thread) :
    effOn ls (fun _ t => { t with pc := np }) l.key t = { t with pc := np } := by
  have here : ls.filter (fun x => x.key == l.key) ≠ [] :=
    List.ne_nil_of_mem (List.mem_filter.mpr ⟨hl, beq_self_eq_true _⟩)
  unfold effOn
  obtain ⟨x, xs, e⟩ := List.exists_cons_of_ne_nil here
  rw [e, List.foldl_cons]
  clear e here
  induction xs with
  | nil => rfl
  | cons y ys ih => exact ih

/-! ## Lanes at the PC -/

theorem State.lanesOf_thread? {s : State} {g : Group} {f : Slot} {l : LaneV} (h : l ∈ s.lanesOf g f) :
    ∃ t, s.thread? l.key = some t := by
  obtain ⟨k, -, hk⟩ := List.mem_filterMap.mp h
  cases ht : s.thread? k with
  | none => simp [ht] at hk
  | some t =>
    simp only [ht] at hk
    split at hk
    · exact absurd hk nofun
    · exact ⟨t, by obtain rfl := Option.some.inj hk; exact ht⟩

/-! ## What a lanewise instruction leaves -/

section
variable {s : State} {op : Nat} {f : Slot} {g : Group} {eff : LaneV → Thread → Thread}

theorem ran_cur : (ran s f g eff).cur = s.cur := by
  rw [ran, State.advance, State.updGroup, State.setGroups_cur, eachLane_rest, State.setThreads_cur, eachLane_rest,
    State.setThreads_cur]

theorem ran_noReturn (h : noReturn s) : noReturn (ran s f g eff) := by rwa [noReturn, ran_cur]

theorem kept_thread? {t : State} (h : noReturn t) (k : Nat) : (kept s op f g t).thread? k = t.thread? k := by
  rw [State.thread?, kept_threads h, State.thread?]

theorem kept_group? {t : State} (h : noReturn t) (k : Nat) : (kept s op f g t).group? k = t.group? k := by
  rw [State.group?, kept_groups h, State.group?]

/-- A thread with a lane at the PC after the effects of its executing lanes, at NextPc. -/
theorem kept_ran_thread? (h : noReturn s) {l : LaneV} (hl : l ∈ s.lanesOf g f) :
    (kept s op f g (ran s f g eff)).thread? l.key =
      (s.thread? l.key).map (fun t => { effOn (running s g f) eff l.key t with pc := nextPc g.pc }) := by
  rw [kept_thread? (ran_noReturn h), ran, State.advance, State.updGroup_thread?, State.eachLane_thread?, State.eachLane_thread?,
    Option.map_map]
  exact congrArg (Option.map · _) (funext fun t => effOn_pc hl _ _)

theorem kept_ran_thread?_other (h : noReturn s) {k : Nat} (hk : ∀ l ∈ s.lanesOf g f, l.key ≠ k) :
    (kept s op f g (ran s f g eff)).thread? k = s.thread? k := by
  rw [kept_thread? (ran_noReturn h), ran, State.advance, State.updGroup_thread?, eachLane_other hk,
    eachLane_other (ls := running s g f) fun l hl => hk l (List.mem_of_mem_filter hl)]

theorem kept_ran_group? (h : noReturn s) (k : Nat) :
    (kept s op f g (ran s f g eff)).group? k =
      if s.cur.group = k then (s.group? k).map (fun x =>
        { x with
          pc := nextPc g.pc
          line := if lineOf (nextPc g.pc).toNat == lineOf g.pc.toNat then x.line else none })
      else s.group? k := by
  rw [kept_group? (ran_noReturn h), ran, State.advance, State.updGroup_group?, eachLane_rest, eachLane_rest]
  rfl

/-- What a higher slot wrote is noted in the lower slot's outstanding instruction, and there in its lanes alone. -/
theorem State.keepHigher_op? (t : State) (ls : List LaneV) {k : Nat} {o : Op} (h : t.op? k = some o) :
    ∃ o', (t.keepHigher op f ls).op? k = some o' ∧ { o' with lanes := o.lanes } = o
      ∧ ((∀ p, t.cur.snap = some p → p.lower ≠ k) → o' = o) := by
  unfold State.keepHigher
  split
  · exact ⟨o, h, rfl, fun _ => rfl⟩
  · next p hp =>
    dsimp only
    split
    · exact ⟨o, h, rfl, fun _ => rfl⟩
    · rw [State.updOp_op?, h]
      split
      · next hk => exact ⟨_, rfl, rfl, fun hn => absurd hk (hn p hp)⟩
      · exact ⟨o, rfl, rfl, fun _ => rfl⟩

theorem kept_eq_keepHigher {t : State} (h : noReturn t) : kept s op f g t = t.keepHigher op f (s.lanesOf g f) := by
  unfold kept
  dsimp only
  split
  · rfl
  · refine goBack_none ?_
    rw [keepHigher_rest]
    exact h

theorem kept_ran_op? (h : noReturn s) {k : Nat} {o : Op} (ho : s.op? k = some o) :
    ∃ o', (kept s op f g (ran s f g eff)).op? k = some o' ∧ { o' with lanes := o.lanes } = o
      ∧ ((∀ p, s.cur.snap = some p → p.lower ≠ k) → o' = o) := by
  have same : (ran s f g eff).op? k = some o := by
    rw [ran, State.advance, State.updGroup_op?, eachLane_rest, eachLane_rest]
    exact ho
  rw [kept_eq_keepHigher (ran_noReturn h), ← ran_cur (eff := eff)]
  exact (ran s f g eff).keepHigher_op? _ same

theorem kept_ran_rest (h : noReturn s) :
    kept s op f g (ran s f g eff) =
      { s with v := { s.v with
        threads := (kept s op f g (ran s f g eff)).v.threads
        groups := (kept s op f g (ran s f g eff)).v.groups
        ops := (kept s op f g (ran s f g eff)).v.ops } } := by
  rw [kept_rest (ran_noReturn h), ran, State.advance, eachLane_rest, eachLane_rest]
  rfl

/-- Every property of a thread's change that each executing lane keeps holds of its thread, whose other parts stay. -/
theorem kept_ran_thread (h : noReturn s) {same : Thread → Thread → Prop} (refl : ∀ t, same t t)
    (next : ∀ l t u, same t u → same t (eff l u)) (pc : ∀ t u p, same t u → same t { u with pc := p })
    (only : ∀ l u, eff l u = { u with regs := (eff l u).regs, preds := (eff l u).preds, draws := (eff l u).draws }) :
    ∀ l ∈ s.lanesOf g f, ∀ th, s.thread? l.key = some th → ∃ th', (kept s op f g (ran s f g eff)).thread? l.key = some th'
      ∧ same th th'
      ∧ th' = { th with pc := nextPc g.pc, regs := th'.regs, preds := th'.preds, draws := th'.draws }
      ∧ ((∀ x ∈ s.lanesOf g f, x.key = l.key → x.run = false) →
          th'.regs = th.regs ∧ th'.preds = th.preds ∧ th'.draws = th.draws) := by
  intro l hl th hth
  refine ⟨_, by rw [kept_ran_thread? h hl, hth]; rfl, pc _ _ _ ?_, ?_, fun idle => ?_⟩
  · exact effOn_keeps (same th) (fun l _ _ u hu => next l th u hu) (refl th)
  · have rest := effOn_keeps (ls := running s g f) (e := eff) (k := l.key)
      (fun u => u = { th with regs := u.regs, preds := u.preds, draws := u.draws })
      (fun l _ _ u hu => by rw [only l u]; dsimp only; rw [hu]) (t := th) rfl
    rw [rest]
  · have none := effOn_nobody (e := eff) (ls := running s g f) (k := l.key)
      (fun x hx hk => by
        obtain ⟨hx, hr⟩ := List.mem_filter.mp hx
        rw [idle x hx hk] at hr
        exact absurd hr Bool.false_ne_true) th
    rw [none]
    exact ⟨rfl, rfl, rfl⟩

end

section
variable {s t : State} {op : Nat} {f : Slot} {g : Group}

/-- The part of the frame that does not speak of the threads at the PC (R22, R156, R192). -/
theorem frame_of_ran {eff : LaneV → Thread → Thread} (h : noReturn s) (ht : t = kept s op f g (ran s f g eff)) :
    (t = { s with v := { s.v with threads := t.v.threads, groups := t.v.groups, ops := t.v.ops } })
    ∧ (∀ k o, (∀ p, s.cur.snap = some p → p.lower ≠ k) → s.op? k = some o → t.op? k = some o)
    ∧ (∀ k o, s.op? k = some o → ∃ o', t.op? k = some o' ∧ { o' with lanes := o.lanes } = o)
    ∧ (∀ k, k ≠ s.cur.group → t.group? k = s.group? k)
    ∧ (∀ g0, s.group? s.cur.group = some g0 → ∃ line, t.group? s.cur.group = some { g0 with pc := nextPc g.pc, line := line })
    ∧ (∀ k, (∀ l ∈ s.lanesOf g f, l.key ≠ k) → t.thread? k = s.thread? k) := by
  subst ht
  refine ⟨kept_ran_rest h, fun k o hk ho => ?_, fun k o ho => ?_, fun k hk => ?_, fun g0 hg => ?_, fun k hk => ?_⟩
  · obtain ⟨o', ho', -, same⟩ := kept_ran_op? (op := op) (f := f) (g := g) (eff := eff) h ho
    rw [ho', same hk]
  · obtain ⟨o', ho', only, -⟩ := kept_ran_op? (op := op) (f := f) (g := g) (eff := eff) h ho
    exact ⟨o', ho', only⟩
  · rw [kept_ran_group? h, if_neg (Ne.symm hk)]
  · exact ⟨_, by rw [kept_ran_group? h, if_pos rfl, hg]; rfl⟩
  · exact kept_ran_thread?_other h hk

/-- A value in D changes the registers of D and nothing else of a thread. -/
theorem thread_of_wroteD {w : Nat} {val : LaneV → Nat} (h : noReturn s) (ht : t = kept s op f g (wroteD s f g w val)) :
    ∀ l ∈ s.lanesOf g f, ∀ th, s.thread? l.key = some th → ∃ th', t.thread? l.key = some th'
      ∧ ((∀ k, (k < f.d.toNat ∨ f.d.toNat + w ≤ k) → th'.reg k = th.reg k) ∧ th'.preds = th.preds ∧ th'.draws = th.draws)
      ∧ th' = { th with pc := nextPc g.pc, regs := th'.regs, preds := th'.preds, draws := th'.draws }
      ∧ ((∀ x ∈ s.lanesOf g f, x.key = l.key → x.run = false) →
          th'.regs = th.regs ∧ th'.preds = th.preds ∧ th'.draws = th.draws) := by
  subst ht
  refine kept_ran_thread h
    (same := fun th th' => (∀ k, (k < f.d.toNat ∨ f.d.toNat + w ≤ k) → th'.reg k = th.reg k) ∧ th'.preds = th.preds
      ∧ th'.draws = th.draws)
    (fun _ => ⟨fun _ _ => rfl, rfl, rfl⟩) (fun l t u hu => ?_) (fun _ _ _ hu => hu) (fun l u => by rw [Thread.setVal_only])
  obtain ⟨hr, hp, hd⟩ := hu
  refine ⟨fun k hk => (u.setVal_reg_outside hk).trans (hr k hk), ?_, ?_⟩
  · rw [Thread.setVal_only]; exact hp
  · rw [Thread.setVal_only]; exact hd

/-- A predicate in D changes that predicate and nothing else of a thread. -/
theorem thread_of_wroteP {val : LaneV → Bool} (h : noReturn s) (ht : t = kept s op f g (wroteP s f g val)) :
    ∀ l ∈ s.lanesOf g f, ∀ th, s.thread? l.key = some th → ∃ th', t.thread? l.key = some th'
      ∧ (th'.regs = th.regs ∧ th'.draws = th.draws ∧ ∀ k < 96, k ≠ f.d.toNat → th'.preds.getLsbD k = th.preds.getLsbD k)
      ∧ th' = { th with pc := nextPc g.pc, regs := th'.regs, preds := th'.preds, draws := th'.draws }
      ∧ ((∀ x ∈ s.lanesOf g f, x.key = l.key → x.run = false) →
          th'.regs = th.regs ∧ th'.preds = th.preds ∧ th'.draws = th.draws) := by
  subst ht
  refine kept_ran_thread h
    (same := fun th th' => th'.regs = th.regs ∧ th'.draws = th.draws
      ∧ ∀ k < 96, k ≠ f.d.toNat → th'.preds.getLsbD k = th.preds.getLsbD k)
    (fun _ => ⟨rfl, rfl, fun _ _ _ => rfl⟩) (fun l t u hu => ?_) (fun _ _ _ hu => hu) (fun l u => by rw [Thread.setPred_only])
  obtain ⟨hr, hd, hp⟩ := hu
  refine ⟨?_, ?_, fun k hk hne => (u.setPred_other _ hk hne).trans (hp k hk hne)⟩
  · rw [Thread.setPred_only]; exact hr
  · rw [Thread.setPred_only]; exact hd

/-- A rounding form draws and writes D of the executing lanes. -/
def roundsD (w : Nat) (f : Slot) (eff : LaneV → Thread → Thread) : Prop :=
  ∀ l u, ∃ n v d, n ≤ w ∧ eff l u = { u with draws := d }.setVal f.d.toNat n v

/-- Such a form changes the registers of D and the draw counter and nothing else of a thread. -/
theorem thread_of_rounds {w : Nat} {eff : LaneV → Thread → Thread} (hw : roundsD w f eff) (h : noReturn s)
    (ht : t = kept s op f g (ran s f g eff)) :
    ∀ l ∈ s.lanesOf g f, ∀ th, s.thread? l.key = some th → ∃ th', t.thread? l.key = some th'
      ∧ ((∀ k, (k < f.d.toNat ∨ f.d.toNat + w ≤ k) → th'.reg k = th.reg k) ∧ th'.preds = th.preds)
      ∧ th' = { th with pc := nextPc g.pc, regs := th'.regs, preds := th'.preds, draws := th'.draws }
      ∧ ((∀ x ∈ s.lanesOf g f, x.key = l.key → x.run = false) →
          th'.regs = th.regs ∧ th'.preds = th.preds ∧ th'.draws = th.draws) := by
  subst ht
  refine kept_ran_thread h
    (same := fun th th' => (∀ k, (k < f.d.toNat ∨ f.d.toNat + w ≤ k) → th'.reg k = th.reg k) ∧ th'.preds = th.preds)
    (fun _ => ⟨fun _ _ => rfl, rfl⟩) (fun l t u hu => ?_) (fun _ _ _ hu => hu) (fun l u => ?_)
  · obtain ⟨n, v, d, hn, e⟩ := hw l u
    obtain ⟨hr, hp⟩ := hu
    rw [e]
    refine ⟨fun k hk => (Thread.setVal_reg_outside _ (by omega)).trans (hr k hk), ?_⟩
    rw [Thread.setVal_only]; exact hp
  · obtain ⟨n, v, d, -, e⟩ := hw l u
    rw [e, Thread.setVal_only]

theorem floatRows_rounds (s : State) (f : Slot) (g : Group) : ∀ r ∈ floatRows s f g, roundsD (max 1 (wOf f)) f r.eff := by
  have full := Nat.le_max_right 1 (wOf f)
  have single := Nat.le_max_left 1 (wOf f)
  have rounds (e : LaneV → Nat → Val) : roundsD (max 1 (wOf f)) f (arith s f e) := fun _ _ => ⟨_, _, _, full, rfl⟩
  simp only [floatRows, List.forall_mem_cons]
  exact ⟨rounds _, rounds _, rounds _, rounds _, rounds _, rounds _, fun _ _ => ⟨_, _, _, full, rfl⟩,
    fun _ _ => ⟨_, _, _, full, rfl⟩, fun _ _ => ⟨_, _, _, single, rfl⟩, fun _ _ => ⟨_, _, _, single, rfl⟩,
    List.forall_mem_nil _⟩

end

end Sys2Proof.Machine

namespace Sys2Proof.Proofs

open Sys2Proof.Machine Sys2Proof.Laws Sys2Proof.Claims

/-- Settles O51: by O1 the state afterwards is known, and where lanes have different threads each lane's effect is applied once. -/
theorem integerLanes : Obligations.IntegerLanes := by
  intro s t f g r hr hi hn ht hnd l hl
  obtain rfl : _ = t := Host.Outcome.next.inj ((integerResults s f g r hr hi).symm.trans ht)
  obtain ⟨th, hth⟩ := State.lanesOf_thread? hl
  refine ⟨_, by rw [wroteD, kept_ran_thread? hn hl, hth]; rfl, rfl, fun run i hin => ?_⟩
  have alone : effOn (running s g f) _ l.key th = th.setVal f.d.toNat r.regs (r.val l) := effOn_alone
    (e := fun l t => t.setVal f.d.toNat r.regs (r.val l)) (hnd.sublist (List.filter_sublist.map LaneV.key)) (List.mem_filter.mpr ⟨hl, run⟩) th
  exact (congrArg (Thread.reg · _) alone).trans (Thread.setVal_reg_inside th hin)

/-- Settles O52: each row leaves what its executing lanes' changes leave, by O1 to O4, and every such change keeps to D, to its
predicate or to the draw counter. -/
theorem lanewiseFrame : Obligations.LanewiseFrame := by
  intro s t f g rest thread outsideD
  refine ⟨fun r hr hi hn ht => ?_, fun r hr hi hn ht => ?_, fun r hr hi hn ht => ?_⟩
  · have left : exec r.instr s = .next (kept s r.op f g (wroteD s f g r.regs r.val)) := by
      rcases List.mem_append.mp hr with hr | hr
      · rcases List.mem_append.mp hr with hr | hr
        · exact integerResults s f g r hr hi
        · exact bitsResults s f g r hr hi
      · exact (predicateAndExchangeResults s f g).2.1 r hr hi
    have eq := Host.Outcome.next.inj (ht.symm.trans left)
    exact ⟨frame_of_ran hn eq, thread_of_wroteD hn eq⟩
  · have left : exec r.instr s = .next (kept s r.op f g (wroteP s f g r.val)) := by
      rcases List.mem_append.mp hr with hr | hr
      · exact (predicateAndExchangeResults s f g).1 r hr hi
      · exact (predicateAndExchangeResults s f g).2.2 r hr hi
    have eq := Host.Outcome.next.inj (ht.symm.trans left)
    exact ⟨frame_of_ran hn eq, thread_of_wroteP hn eq⟩
  · have eq := Host.Outcome.next.inj (ht.symm.trans (floatResults s f g r hr hi))
    exact ⟨frame_of_ran hn eq, thread_of_rounds (floatRows_rounds s f g r hr) hn eq⟩

end Sys2Proof.Proofs
end

section
/-! A host store with translation off, where the hart has an access to end (R451, R493). -/

namespace Sys2Proof.Machine

/-- The hart has made the upper part of a store that touches two granules, and translation is off when its next turn comes. -/
def halfStored : State := State.reset.updHart 0 (fun k => { k with wait := some (.half true []) })

/-- With translation off no store is split, so that the turn makes the whole store, which ends the hart's wait. -/
theorem halfStored_stores :
    halfStored.me.tx = none ∧ halfStored.translating = false ∧ halfStored.poisonedAt 0x100 8 = false
      ∧ (halfStored.hostAccess 0 true 3 0 0x100 4).me.wait = none ∧ halfStored.me.wait = some (.half true []) := by
  decide +kernel

end Sys2Proof.Machine

namespace Sys2Proof.Proofs

open Sys2Proof.Machine

/-- Refutes O53: a host store with translation off also ends the wait of its hart, where one is left of a store that was split. -/
theorem not_storeFrames : ¬ Obligations.StoreFrames := by
  rintro ⟨-, -, -, store⟩
  obtain ⟨outside, off, clean, ended, waits⟩ := halfStored_stores
  obtain ⟨-, -, -, -, -, -, me⟩ := store halfStored _ 3 0 0 0x100 0x100 outside off rfl clean rfl
  exact absurd (ended.symm.trans ((congrArg Hart.wait me).trans waits)) nofun

end Sys2Proof.Proofs
end

section
/-! Transfers that fault, are held, trap or diverge (R152, R195 to R199, R492). -/

namespace Sys2Proof.Machine

open Sys2Proof.Laws Sys2Proof.Claims

/-- The lanes whose read of a table met a page fault (R198). -/
def readFaults (a : List (LaneV × Target)) : List (Nat × Nat × Kind) :=
  a.filterMap (fun p => match p.2 with | .fault k ad => some (p.1.key, ad, k) | _ => none)

/-- Lanes of a divergent transfer resolve into the plan that moves each to its own next PC (R197). -/
theorem State.finish_diverges {s : State} {gid : Nat} {g : Group} {ls : List LaneV} {aims : List (Nat × Pc)} {xfer : List Nat}
    {next : List (Nat × Pc)}
    (hnext : ls.map (fun l => match aims.find? (fun p => p.1 == l.key) with | some p => p | none => (l.key, nextPc g.pc)) = next)
    (hd : next.any (fun p => p.2 != stayingPc (nextPc g.pc) (next.map Prod.snd))) :
    s.finish gid g ls ⟨aims, xfer, [], []⟩ =
      (((s.updGroup gid (fun x => { x with plan := some ⟨g.pc, nextPc g.pc, next, none, xfer, none⟩ })).dropScalars gid).tryPlan gid).after := by
  have aimed : aims.isEmpty = false := by
    by_contra h
    obtain rfl := List.isEmpty_iff.mp (Bool.not_eq_false _ ▸ h)
    have all : ∀ q ∈ next.map Prod.snd, q = nextPc g.pc := by
      subst hnext
      simp
    obtain ⟨p, hp, hne⟩ := List.any_eq_true.mp hd
    have here := List.mem_map_of_mem (f := Prod.snd) hp
    rw [stayingPc_all (List.ne_nil_of_mem here) all, all _ here] at hne
    simp at hne
  have split : next.all (fun p => p.2 == stayingPc (nextPc g.pc) (next.map Prod.snd)) = false := by
    rw [List.any_eq_not_all_not, Bool.not_eq_true'] at hd
    simpa only [bne, Bool.not_not] using hd
  subst hnext
  unfold State.finish
  simp only [List.filter_nil, List.map_nil, List.append_nil, List.isEmpty_nil, Bool.and_self, Bool.true_and, if_true, aimed,
    Bool.false_eq_true, if_false, List.any_nil, List.foldl_nil, List.nil_append]
  rw [if_neg (by rw [← Bool.not_eq_true] at split; exact split)]
  rfl

section
variable {s : State} {op : Nat} {f : Slot} {g : Group} {tgt : State → Group → LaneV → State × Target} {link : Bool}
  {a : State × List (LaneV × Target)} {c : State × List (LaneV × TargetCheck × Nat)}
  (h : issues s op f g) (ha : s.targets (fun s l => tgt s g l) (running s g f) = a)
include h ha

/-- Table reads that meet page faults are recorded, and the transfer has no other effect (R198). -/
theorem State.transfer_readFaults (hf : readFaults a.2 ≠ []) :
    s.transfer op f tgt link =
      .next (kept s op f g (a.1.groupFault s.cur.group g (s.pageOf (s.ctxOf g.block).asid) false (readFaults a.2))) := by
  unfold State.transfer
  subst ha
  refine State.issue_after h ?_
  have some : (readFaults (s.targets (fun s l => tgt s g l) (running s g f)).2).isEmpty = false := by simpa using hf
  exact if_pos (by rw [Bool.not_eq_true']; exact some)

variable (hf : readFaults a.2 = []) (hc : a.1.checkTargets (s.coreOfBlock g.block) (s.ctxOf g.block) a.2 = c)
include hf hc

/-- What a transfer comes to by the checks of its targets. -/
theorem State.transfer_checked :
    s.transfer op f tgt link = .next (s.settleSlot
      (if checksHeld c.2 then s.held
      else if !(faultedChecks c.2).isEmpty then (c.1.groupFault s.cur.group g lineOf false (faultedChecks c.2)).after
      else
        let good := c.2.filter (fun p => p.2.1 == .ok)
        let s1 := if link then c.1.eachLane (good.map Prod.fst) (fun _ t => t.setVal f.d.toNat 2 (nextPc g.pc).toNat) else c.1
        s1.finish s.cur.group g (s.lanesOf g f)
          ⟨good.map (fun p => (p.1.key, BitVec.ofNat 64 p.2.2)), good.map (fun p => p.1.key),
            c.2.filterMap (fun p => (targetTrap p.2.1).map (fun t => (p.1.key, t))), []⟩)
      s.cur.group g op f) := by
  unfold State.transfer
  rw [issue_next h]
  subst ha hc
  refine congrArg (fun r => Host.Outcome.next (s.settleSlot r s.cur.group g op f)) (if_neg ?_)
  rw [Bool.not_eq_true', Bool.not_eq_false, List.isEmpty_iff]
  exact hf

/-- A transfer with a fetch that is held issues again. -/
theorem State.transfer_held (hh : checksHeld c.2) : s.transfer op f tgt link = .next (stays s g) := by
  rw [State.transfer_checked h ha hf hc, if_pos hh, State.held, slot_hold]

/-- Targets whose fetch meets a page fault are recorded, and the transfer has no other effect (R492). -/
theorem State.transfer_fetchFaults (hh : c.2.all (fun x => x.2.1 != .hold)) (hp : faultedChecks c.2 ≠ []) :
    s.transfer op f tgt link = .next (kept s op f g (c.1.groupFault s.cur.group g lineOf false (faultedChecks c.2))) := by
  have unheld : ¬ checksHeld c.2 := by
    rw [checksHeld, Bool.not_eq_true, List.any_eq_false]
    exact fun x hx e => absurd e (by simpa using List.all_eq_true.mp hh x hx)
  have some : (!(faultedChecks c.2).isEmpty) = true := by simpa using hp
  rw [State.transfer_checked h ha hf hc, if_neg unheld, if_pos some, State.after, slot_none]

/-- Where every target may not be entered, each executing lane takes the trap of its own (R152). -/
theorem State.transfer_traps {tr : LaneV → Trap} (ht : ∀ x ∈ c.2, targetTrap x.2.1 = some (tr x.1)) :
    s.transfer op f tgt link = .next (s.settleSlot
      (c.1.finish s.cur.group g (s.lanesOf g f) ⟨[], [], c.2.map (fun x => (x.1.key, tr x.1)), []⟩) s.cur.group g op f) := by
  have unheld : ¬ checksHeld c.2 := by
    simp only [checksHeld, List.any_eq_true, not_exists, not_and, beq_iff_eq]
    intro x hx e
    have := ht x hx
    rw [e] at this
    exact absurd this nofun
  have unfaulted : faultedChecks c.2 = [] := by
    refine List.filterMap_eq_nil_iff.mpr fun x hx => ?_
    have := ht x hx
    split
    · next e => rw [e] at this; exact absurd this nofun
    · rfl
  have none : c.2.filter (fun p => p.2.1 == .ok) = [] := by
    refine List.filter_eq_nil_iff.mpr fun x hx e => ?_
    have := ht x hx
    rw [beq_iff_eq.mp e] at this
    exact absurd this nofun
  have traps : c.2.filterMap (fun p => (targetTrap p.2.1).map (fun t => (p.1.key, t))) = c.2.map (fun x => (x.1.key, tr x.1)) := by
    rw [← List.filterMap_eq_map']
    refine List.filterMap_congr fun x hx => ?_
    rw [ht x hx]
    rfl
  rw [State.transfer_checked h ha hf hc, if_neg unheld, if_neg (by simp [unfaulted])]
  simp only [none, traps, List.map_nil, State.eachLane, ite_self]

/-- Where every target may be entered, the lanes that transfer are linked and the targets resolved. -/
theorem State.transfer_enters (hok : c.2.all (fun x => x.2.1 == .ok)) :
    s.transfer op f tgt link = .next (s.settleSlot
      ((if link then c.1.eachLane (c.2.map Prod.fst) (fun _ t => t.setVal f.d.toNat 2 (nextPc g.pc).toNat) else c.1).finish
        s.cur.group g (s.lanesOf g f)
        ⟨c.2.map (fun p => (p.1.key, BitVec.ofNat 64 p.2.2)), c.2.map (fun p => p.1.key), [], []⟩) s.cur.group g op f) := by
  have ok : ∀ x ∈ c.2, x.2.1 = .ok := fun x hx => beq_iff_eq.mp (List.all_eq_true.mp hok x hx)
  have unfaulted : faultedChecks c.2 = [] := by
    refine List.filterMap_eq_nil_iff.mpr fun x hx => ?_
    rw [ok x hx]
  have traps : c.2.filterMap (fun p => (targetTrap p.2.1).map (fun t => (p.1.key, t))) = [] := by
    refine List.filterMap_eq_nil_iff.mpr fun x hx => ?_
    rw [ok x hx]
    rfl
  have all : c.2.filter (fun p => p.2.1 == .ok) = c.2 := List.filter_eq_self.mpr (List.all_eq_true.mp hok)
  rw [State.transfer_checked h ha hf hc, if_neg (by rw [ok_unheld hok]; exact Bool.false_ne_true), if_neg (by simp [unfaulted])]
  simp only [all, traps]

end

/-- The transfers are one form, by the target of each and its link. -/
theorem transferRows_exec (s : State) (f : Slot) : ∀ r ∈ transferRows f, exec r.instr s = s.transfer r.op f r.target r.link := by
  simp only [transferRows, List.forall_mem_cons]
  exact ⟨rfl, rfl, rfl, rfl, rfl, List.forall_mem_nil _⟩

end Sys2Proof.Machine

namespace Sys2Proof.Proofs

open Sys2Proof.Machine Sys2Proof.Laws Sys2Proof.Claims

/-- Settles O8: by the reads of the tables, then by the checks of the targets, then by whether the next PCs agree. -/
theorem transferResults : Obligations.TransferResults := by
  refine ⟨fun s f g r hr h => ?_, fun s f g r hr h _ => ?_⟩
  · rw [transferRows_exec s f r hr]
    exact ⟨fun p s1 => transfer_all h, transfer_none h⟩
  · rw [transferRows_exec s f r hr]
    intro gid ls np a faults c aims next linked plan
    refine ⟨fun hf => (State.transfer_readFaults h rfl hf).trans rfl, fun hf hh => State.transfer_held h rfl hf rfl hh,
      fun hf hh hp => State.transfer_fetchFaults h rfl hf rfl hh hp, fun hf tr ht => ?_, fun hf hok hd => ?_⟩
    · refine State.transfer_traps h rfl hf rfl fun x hx => ?_
      rcases ht x hx with ⟨e, et⟩ | ⟨ad, e, et⟩ <;> rw [e, et] <;> rfl
    · rw [State.transfer_enters h rfl hf rfl hok, State.finish_diverges rfl hd]
      rfl

end Sys2Proof.Proofs
end

section
/-! EXIT outside transactions (R35, R39, R48, R200). -/

namespace Sys2Proof.Proofs

open Sys2Proof.Machine Sys2Proof.Laws

/-- Settles O9: outside transactions no executing lane aborts, so that each of them exits. -/
theorem exitResults : Obligations.ExitResults := by
  intro s f g h ho gid gone rest s1 s2
  dsimp only [exec, execExit]
  refine ⟨fun none => State.issue_after h ?_, fun some => State.issue_after h ?_⟩
  · simp only [running_outsideTx ho, aborting_outsideTx ho, List.map_nil]
    rw [if_pos (List.isEmpty_iff.mpr none), finish_plain, State.after]
  · have left : gone.isEmpty = false := List.isEmpty_eq_false_iff.mpr some
    simp only [running_outsideTx ho, aborting_outsideTx ho, List.map_nil, finish_plain]
    have ends : (if rest.isEmpty then (s1.afterExit gid g rest).after else (s1.advance gid g rest, Option.none)) = s2.after := by
      simp only [s2, State.after]
      split <;> rfl
    refine (if_neg (by rw [left]; exact Bool.false_ne_true)).trans ?_
    exact congrArg (fun r : After =>
      ((gone.filter (fun k => (r.1.thread? k).any (fun t => t.waits.isEmpty))).foldl State.freeSlot r.1, r.2)) ends

end Sys2Proof.Proofs
end

section
/-! What accesses leave of the turn that makes them: the slot that executes and the object selected (R101, R152). -/

namespace Sys2Proof.Machine

/-- The slot that executes, what the turn selects, and the registers that the turn's commands write, SYS.COMM among them: a store to a
register waits in its queue. -/
def State.atTurn (s : State) : Cur × Sel × Tab Dword := (s.cur, s.sel, s.r.other)

theorem foldl_atTurn {α : Type} {l : List α} {f : State → α → State} {s : State} (h : ∀ s a, (f s a).atTurn = s.atTurn) :
    (l.foldl f s).atTurn = s.atTurn :=
  List.foldlRecOn (motive := fun t : State => t.atTurn = s.atTurn) l f rfl fun t ht a _ => (h t a).trans ht

theorem State.setMem_atTurn (s : State) (m : MemSys) : (s.setMem m).atTurn = s.atTurn := rfl

theorem State.updThread_atTurn (s : State) (k g) : (s.updThread k g).atTurn = s.atTurn := rfl

theorem State.updReq_atTurn (s : State) (k g) : (s.updReq k g).atTurn = s.atTurn := rfl

theorem State.forgetAttr_atTurn (s : State) (agent asid va) : (s.forgetAttr agent asid va).atTurn = s.atTurn := rfl

theorem State.rollHart_atTurn (s : State) (h cause code) : (s.rollHart h cause code).atTurn = s.atTurn := rfl

theorem State.wakePolls_atTurn (s : State) (core asid va len) : (s.wakePolls core asid va len).atTurn = s.atTurn := rfl

theorem State.passFills_atTurn (s : State) (agents asid va len) : (s.passFills agents asid va len).atTurn = s.atTurn := rfl

theorem State.cleanCopies_atTurn (s : State) (asid va len) : (s.cleanCopies asid va len).atTurn = s.atTurn := rfl

theorem State.invalidate_atTurn (s : State) (asid va len) : (s.invalidate asid va len).atTurn = s.atTurn := rfl

theorem State.updLine_atTurn (s : State) (l g) : (s.updLine l g).atTurn = s.atTurn := rfl

theorem State.sendLink_atTurn (s : State) (class_ package pa data) : (s.sendLink class_ package pa data).atTurn = s.atTurn := rfl

theorem State.dropTlb_atTurn (s : State) (leaf) : (s.dropTlb leaf).atTurn = s.atTurn := rfl

theorem State.freeBytes_atTurn (s : State) (l) : (s.freeBytes l).2.atTurn = s.atTurn := by
  fun_induction State.freeBytes <;> grind [State.atTurn]

theorem State.countClass_atTurn (s : State) (agent cls) : (s.countClass agent cls).atTurn = s.atTurn := by
  unfold State.countClass
  grind [State.atTurn]

theorem State.countDemand_atTurn (s : State) (agent c a) : (s.countDemand agent c a).atTurn = s.atTurn := s.countClass_atTurn _ _

theorem State.translate_atTurn (s : State) (secure asid va) : (s.translate secure asid va).1.atTurn = s.atTurn := by
  unfold State.translate
  grind [State.setMem_atTurn]

theorem State.requestAttr_atTurn (s : State) (agent secure asid va) : (s.requestAttr agent secure asid va).1.atTurn = s.atTurn := by
  unfold State.requestAttr
  grind [State.translate_atTurn, State.setMem_atTurn]

theorem State.askAttr_atTurn (s : State) (agent c asid va acc) : (s.askAttr agent c asid va acc).1.atTurn = s.atTurn := by
  unfold State.askAttr
  grind [State.forgetAttr_atTurn, State.requestAttr_atTurn, State.setMem_atTurn]

theorem State.snoopHartsIn_atTurn (s : State) (who asid va len reads) : (s.snoopHartsIn who asid va len reads).atTurn = s.atTurn := foldl_atTurn fun _ _ => rfl

theorem State.snoopHarts_atTurn (s : State) (asid va len own reads) : (s.snoopHarts asid va len own reads).atTurn = s.atTurn := s.snoopHartsIn_atTurn _ _ _ _ _

theorem State.dropCopies_atTurn (s : State) (pick) : (s.dropCopies pick).atTurn = s.atTurn := foldl_atTurn fun _ _ => rfl

theorem State.supplied_atTurn (s : State) (given n) : (s.supplied given n).2.atTurn = s.atTurn := by
  unfold State.supplied
  grind [State.freeBytes_atTurn]

theorem State.ctrlRead_atTurn (s : State) (regs pa n given) : (s.ctrlRead regs pa n given).2.atTurn = s.atTurn := by
  unfold State.ctrlRead
  have := s.supplied_atTurn given n
  grind [State.atTurn]

theorem State.ctrlWrite_atTurn (s : State) (who pa data) : (s.ctrlWrite who pa data).atTurn = s.atTurn := by
  unfold State.ctrlWrite
  grind [State.setMem_atTurn, State.atTurn]

theorem State.ringBytes_atTurn (s : State) (pa n) : (s.ringBytes pa n).2.atTurn = s.atTurn := s.ctrlRead_atTurn _ _ _ _

theorem State.reclaimRecord_atTurn (s : State) (va frame asid size kind) : (s.reclaimRecord va frame asid size kind).atTurn = s.atTurn := by
  unfold State.reclaimRecord
  grind [State.ringBytes_atTurn, State.ctrlWrite_atTurn, State.atTurn]

theorem State.doWriteBack_atTurn (s : State) (w) : (s.doWriteBack w).atTurn = s.atTurn := by
  unfold State.doWriteBack
  grind [State.translate_atTurn, State.ctrlWrite_atTurn, State.reclaimRecord_atTurn, State.setMem_atTurn]

theorem State.drain_atTurn (s : State) (asid va len) : (s.drain asid va len).atTurn = s.atTurn := foldl_atTurn State.doWriteBack_atTurn

theorem State.addCopy_atTurn (s : State) (c) : (s.addCopy c).atTurn = s.atTurn := by
  unfold State.addCopy
  refine (State.setMem_atTurn _ _).trans ((foldl_atTurn fun s x => ?_).trans ?_)
  · split
    · exact s.doWriteBack_atTurn _
    · rfl
  · split
    · rfl
    · exact s.dropCopies_atTurn _

theorem State.evict_atTurn (s : State) (l) : (s.evict l).atTurn = s.atTurn := by
  simp only [State.evict, State.setMem_atTurn, State.snoopHarts_atTurn, State.invalidate_atTurn]

theorem State.touch_atTurn (s : State) (l) : (s.touch l).atTurn = s.atTurn := by
  unfold State.touch
  grind [State.setMem_atTurn]

theorem State.install_atTurn (s : State) (t asid va bank set pin data) : (s.install t asid va bank set pin data).atTurn = s.atTurn := by
  unfold State.install
  simp only [State.touch_atTurn, State.setMem_atTurn]
  split
  · rfl
  · exact foldl_atTurn State.evict_atTurn

theorem State.recallHolders_atTurn (s : State) (pa n write asker given) : (s.recallHolders pa n write asker given).atTurn = s.atTurn := by
  unfold State.recallHolders
  split
  · refine foldl_atTurn fun s e => ?_
    dsimp only
    split
    · rfl
    · rw [State.setMem_atTurn]
      split
      · exact foldl_atTurn fun _ _ => rfl
      · rw [State.setMem_atTurn, State.supplied_atTurn]
        exact foldl_atTurn fun _ _ => rfl
  · rfl

theorem State.snoopUnits_atTurn (s : State) (units keep asid va len drop) : (s.snoopUnits units keep asid va len drop).atTurn = s.atTurn := by
  unfold State.snoopUnits
  grind [State.snoopHartsIn_atTurn, State.passFills_atTurn, State.dropCopies_atTurn, State.setMem_atTurn]

theorem State.snoopPackages_atTurn (s : State) (units slice asid va len) : (s.snoopPackages units slice asid va len).atTurn = s.atTurn := by
  unfold State.snoopPackages
  split
  · rfl
  · refine foldl_atTurn fun s l => ?_
    split
    · exact s.recallHolders_atTurn _ _ _ _ _
    · rfl

theorem State.dirRoom_atTurn (s : State) (slice asid va fresh n) : (s.dirRoom slice asid va fresh n).atTurn = s.atTurn := by
  fun_induction State.dirRoom <;> grind [State.snoopUnits_atTurn, State.snoopPackages_atTurn, State.setMem_atTurn]

theorem State.dirNote_atTurn (s : State) (slice asid va line agent ask) : (s.dirNote slice asid va line agent ask).atTurn = s.atTurn := by
  unfold State.dirNote
  grind [State.snoopUnits_atTurn, State.dirRoom_atTurn, State.setMem_atTurn]

theorem State.enterRemote_atTurn (s : State) (pa asid va) : (s.enterRemote pa asid va).atTurn = s.atTurn := by
  unfold State.enterRemote
  split
  · dsimp only
    split
    · rfl
    · split
      · rfl
      · split
        · rfl
        · rw [State.setMem_atTurn, State.sendLink_atTurn, State.drain_atTurn]
          exact foldl_atTurn State.evict_atTurn
  · rfl

theorem State.askController_atTurn (s : State) (pa n asid va write given) : (s.askController pa n asid va write given).atTurn = s.atTurn := by
  unfold State.askController
  grind [State.recallHolders_atTurn, State.enterRemote_atTurn, State.sendLink_atTurn]

theorem State.zeroFrame_atTurn (s : State) (frame size) : (s.zeroFrame frame size).atTurn = s.atTurn := by
  unfold State.zeroFrame
  grind [State.setMem_atTurn, State.atTurn]

theorem State.revive_atTurn (s : State) (a) : ∀ t, s.revive a = some t → t.atTurn = s.atTurn := by
  unfold State.revive
  grind [State.zeroFrame_atTurn, State.setMem_atTurn]

theorem State.shardStage_atTurn (s : State) (c q need l) : (s.shardStage c q need l).1.atTurn = s.atTurn := by
  fun_induction State.shardStage <;> grind [State.translate_atTurn, State.revive_atTurn, State.dropTlb_atTurn, State.drain_atTurn]

theorem State.controllerStage_atTurn (s : State) (q need direct given) : (s.controllerStage q need direct given).1.atTurn = s.atTurn := by
  unfold State.controllerStage
  grind [State.ctrlRead_atTurn, State.recallHolders_atTurn, State.askController_atTurn]

theorem State.fillData_atTurn (s : State) (q size need) : (s.fillData q size need).1.atTurn = s.atTurn := by
  unfold State.fillData
  grind [State.recallHolders_atTurn, State.drain_atTurn, State.supplied_atTurn]

theorem State.stage_atTurn (s : State) (agent c q need given) : (s.stage agent c q need given).1.atTurn = s.atTurn := by
  unfold State.stage
  grind [State.touch_atTurn, State.fillData_atTurn, State.recallHolders_atTurn, State.controllerStage_atTurn, State.dirNote_atTurn, State.shardStage_atTurn, State.addCopy_atTurn, State.install_atTurn, State.snoopHarts_atTurn]

theorem State.stages_atTurn (s : State) (agent c need l x) : (s.stages agent c need l x).1.atTurn = s.atTurn := by
  fun_induction State.stages <;> grind [State.stage_atTurn]

theorem State.readAt_atTurn (s : State) (regs agent a w asid va n given) : (s.readAt regs agent a w asid va n given).2.atTurn = s.atTurn := by
  unfold State.readAt
  grind [State.ctrlRead_atTurn]

theorem State.keepLine_atTurn (s : State) (agent inst a w asid va wrote) : (s.keepLine agent inst a w asid va wrote).atTurn = s.atTurn := by
  unfold State.keepLine
  grind [State.addCopy_atTurn]

theorem State.checkAddr_atTurn (s : State) (g va acc inst) : (s.checkAddr g va acc inst).1.atTurn = s.atTurn := by
  unfold State.checkAddr
  grind [State.askAttr_atTurn]

theorem State.dropInst_atTurn (s : State) (core asid va) : (s.dropInst core asid va).atTurn = s.atTurn := s.dropCopies_atTurn _

theorem State.fetch_atTurn (s : State) (core c line) : (s.fetch core c line).1.atTurn = s.atTurn := by
  unfold State.fetch
  grind [State.readAt_atTurn, State.checkAddr_atTurn, State.keepLine_atTurn, State.countDemand_atTurn, State.stages_atTurn]

theorem State.checkTarget_atTurn (s : State) (core c tgt) : (s.checkTarget core c tgt).1.atTurn = s.atTurn := by
  unfold State.checkTarget
  grind [State.dropInst_atTurn, State.fetch_atTurn]

theorem State.checkTargets_atTurn (s : State) (core c l) : (s.checkTargets core c l).1.atTurn = s.atTurn := by
  fun_induction State.checkTargets <;> grind [State.checkTarget_atTurn]

end Sys2Proof.Machine
end

section
/-! TRAPRET outside transactions (R161, R448). -/

namespace Sys2Proof.Machine

open Sys2Proof.Laws

theorem State.eachLane_atTurn (s : State) (ls : List LaneV) (e : LaneV → Thread → Thread) : (s.eachLane ls e).atTurn = s.atTurn := by
  rw [eachLane_rest]
  rfl

/-- The current slot is the lower one of a pair. -/
def State.inLower (s : State) : Bool := s.cur.pair.isSome && s.cur.snap.isNone

theorem State.inLower_congr {s t : State} (h : s.atTurn = t.atTurn) : s.inLower = t.inLower := by
  rw [State.inLower, show s.cur = t.cur from congrArg Prod.fst h]
  rfl

theorem State.leaveHandler_upper {s : State} {gid : Nat} {g : Group} {ls : List LaneV} {r : Fin} (h : s.inLower = false) :
    s.leaveHandler gid g ls r = s.finish gid g ls r := by
  rw [State.inLower] at h
  simp only [State.leaveHandler, h, Bool.false_and, Bool.false_eq_true, if_false]

theorem State.leaveHandler_lower {s : State} {gid : Nat} {g : Group} {ls : List LaneV} {next : List (Nat × Pc)} {xfer : List Nat}
    (h : s.inLower) :
    s.leaveHandler gid g ls ⟨next, xfer, [], []⟩ =
      ((s.setCur { s.cur with pair := some (next.map (fun p => (p.1, p.2, xfer.contains p.1))) }).advance gid g ls).after := by
  rw [State.inLower] at h
  simp only [State.leaveHandler, h, List.isEmpty_nil, Bool.and_true, if_true]

/-- Each of the listed lanes is one of them. -/
theorem map_contains_key (ls : List LaneV) (goal : LaneV → Pc) :
    (ls.map (fun l => (l.key, goal l))).map (fun p => (p.1, p.2, (ls.map (·.key)).contains p.1)) =
      ls.map (fun l => (l.key, goal l, true)) := by
  rw [List.map_map]
  refine List.map_congr_left fun l hl => ?_
  have here : (ls.map (·.key)).contains l.key = true := List.contains_iff_mem.mpr (List.mem_map_of_mem hl)
  simp only [Function.comp, here]

section
variable {s : State} {f : Slot} {g : Group}

theorem returning_all (ho : outsideTx s g f) (ha : allRun s g f) (hh : (s.lanesOf g f).all (fun l => l.th.handler)) :
    returning (s.lanesOf g f) = s.lanesOf g f := by
  refine List.filter_eq_self.mpr fun l hl => ?_
  have run : l ∈ running s g f := by rwa [run_all ha]
  have executes : l.run = true := (List.mem_filter.mp run).2
  simp only [executes, (outside_lane ho l run).1, List.all_eq_true.mp hh l hl, Bool.not_false, Bool.and_self]

/-- TRAPRET of every lane at the PC. -/
theorem execTrapret_all (h : issues s 0xF2 f g) (ho : outsideTx s g f) (ha : allRun s g f)
    (hh : (s.lanesOf g f).all (fun l => l.th.handler)) {t : State}
    (ht : (s.eachLane (s.lanesOf g f) (fun _ t => { t with handler := false, pc := t.resume })).leaveHandler s.cur.group g
      (s.lanesOf g f) ⟨(s.lanesOf g f).map (fun l => (l.key, l.th.resume)), [], [], []⟩ = t.after) :
    execTrapret f s = .next (kept s 0xF2 f g t) := by
  refine State.issue_after h ?_
  simp only [returning_all ho ha hh, instrAborts_outsideTx ho]
  exact ht

/-- TRAPRET.TO of every lane at the PC, where each has one target that may be entered. -/
theorem execTrapretTo_all (h : issues s 0xF2 f g) (ho : outsideTx s g f) (ha : allRun s g f)
    (hh : (s.lanesOf g f).all (fun l => l.th.handler)) {p : Nat} (hp : (s.lanesOf g f).all (fun l => readA f l.th 2 == p))
    {c : State × List (LaneV × TargetCheck × Nat)}
    (hc : s.checkTargets (s.coreOfBlock g.block) (s.ctxOf g.block) ((s.lanesOf g f).map (fun l => (l, Target.pc (some p)))) = c)
    (hok : c.2.all (fun x => x.2.1 == .ok)) {t : State}
    (ht : (c.1.eachLane (s.lanesOf g f) (fun _ t => { t with handler := false, pc := t.resume })).leaveHandler s.cur.group g
      (s.lanesOf g f) ⟨(s.lanesOf g f).map (fun l => (l.key, BitVec.ofNat 64 p)), (s.lanesOf g f).map (·.key), [], []⟩ = t.after) :
    execTrapretTo f s = .next (kept s 0xF2 f g t) := by
  have targets : (s.lanesOf g f).map (fun l => (l, Target.pc (some (readA f l.th 2)))) =
      (s.lanesOf g f).map (fun l => (l, Target.pc (some p))) :=
    List.map_congr_left fun l hl => by rw [beq_iff_eq.mp (List.all_eq_true.mp hp l hl)]
  have same : ((s.lanesOf g f).map (fun l => (l, Target.pc (some p)))).all (fun x => x.2 == .pc (some p)) := by
    simp
  obtain ⟨lanes, pcs⟩ := checks_fst (core := s.coreOfBlock g.block) (c := s.ctxOf g.block) (s := s) same
  rw [hc] at lanes pcs
  rw [List.map_map, show Prod.fst ∘ (fun l : LaneV => (l, Target.pc (some p))) = id from rfl, List.map_id] at lanes
  obtain ⟨unfaulted, good, traps, next⟩ := okchecks hok pcs
  have keys : c.2.map (fun p => p.1.key) = (s.lanesOf g f).map (·.key) := by
    rw [← lanes, List.map_map]
    rfl
  refine State.issue_after h ?_
  simp only [returning_all ho ha hh, instrAborts_outsideTx ho, targets, hc, unfaulted, good, traps, next, lanes, keys]
  refine (if_neg (by rw [ok_unheld hok]; exact Bool.false_ne_true)).trans ((if_neg ?_).trans ht)
  simp

end

end Sys2Proof.Machine

namespace Sys2Proof.Proofs

open Sys2Proof.Machine Sys2Proof.Laws

/-- Settles O11: every lane returns, at once outside the lower slot of a pair and there after the higher slot. -/
theorem trapReturns : Obligations.TrapReturns := by
  intro s f g h ho ha hh ls left back later lower
  have ne := allRun_ne_nil ha
  have cur (s1 : State) (e : s1.atTurn = s.atTurn) : (left s1).cur = s.cur :=
    congrArg Prod.fst ((s1.eachLane_atTurn _ _).trans e)
  have inLower (s1 : State) (e : s1.atTurn = s.atTurn) : (left s1).inLower = lower :=
    State.inLower_congr ((s1.eachLane_atTurn _ _).trans e)
  dsimp -zeta only [exec]
  refine ⟨fun hl p hp => execTrapret_all h ho ha hh ?_, fun hl => execTrapret_all h ho ha hh ?_, ?_⟩
  · have goals : ls.map (fun l => (l.key, l.th.resume)) = ls.map (fun l => (l.key, p)) :=
      List.map_congr_left fun l hl => by rw [beq_iff_eq.mp (List.all_eq_true.mp hp l hl)]
    rw [State.leaveHandler_upper ((inLower s rfl).trans hl)]
    rw [goals]
    exact finish_uniform ne (by simpa using ne) find_key
  · rw [State.leaveHandler_lower ((inLower s rfl).trans hl), List.map_map, cur s rfl]
    rfl
  · intro p hp c q hok
    have e : c.1.atTurn = s.atTurn := s.checkTargets_atTurn _ _ _
    refine ⟨fun hl => execTrapretTo_all h ho ha hh hp rfl hok ?_, fun hl => execTrapretTo_all h ho ha hh hp rfl hok ?_⟩
    · rw [State.leaveHandler_upper ((inLower c.1 e).trans hl)]
      exact finish_uniform ne (by simpa using ne) find_key
    · rw [State.leaveHandler_lower ((inLower c.1 e).trans hl), map_contains_key, cur c.1 e]

end Sys2Proof.Proofs
end

section
/-! Memory accesses by each lane at issue: those that set out and those that trap (R153, R157, R158, R241, R248 to R262, R276, R332). -/

namespace Sys2Proof.Machine

open Sys2Proof.Laws Sys2Proof.Claims

section
variable {s : State} {op : Nat} {f : Slot} {g : Group} {use_ : TxUse} {core : Nat}

/-- A lane without a transaction whose address passes its checks sets out. -/
theorem State.startLane_go {l : LaneV} {ea : Nat} (r : Started) (ht : l.inTx = false) (hc : s.checkLane op f core g.block l = .go ea) :
    s.startLane op f use_ g core l r =
      (s, { r with lanes := r.lanes ++ [accessLane op f l ea (if opScratch op then .ready else .attr)] }) := by
  simp only [State.startLane, ht, hc, Bool.false_and, Bool.false_eq_true, if_false]

/-- A lane without a transaction whose address fails its checks traps, except in a prefetch. -/
theorem State.startLane_trap {l : LaneV} {t : Trap} (r : Started) (ht : l.inTx = false) (hop : op ≠ 0x87)
    (hc : s.checkLane op f core g.block l = .trap t) :
    s.startLane op f use_ g core l r = (s, { r with traps := r.traps ++ [(l.key, t)] }) := by
  simp only [State.startLane, ht, hc, Bool.false_and, Bool.false_eq_true, if_false, if_neg hop]

theorem State.startLanes_go {ls : List LaneV} {ea : LaneV → Nat} (r : Started) (ht : ∀ l ∈ ls, l.inTx = false)
    (hc : ∀ l ∈ ls, s.checkLane op f core g.block l = .go (ea l)) :
    s.startLanes op f use_ g core ls r =
      (s, { r with lanes := r.lanes ++ ls.map (fun l => accessLane op f l (ea l) (if opScratch op then .ready else .attr)) }) := by
  induction ls generalizing r with
  | nil => rw [State.startLanes, List.map_nil, List.append_nil]
  | cons l ls ih =>
    obtain ⟨tl, ht⟩ := List.forall_mem_cons.mp ht
    obtain ⟨cl, hc⟩ := List.forall_mem_cons.mp hc
    rw [State.startLanes, State.startLane_go r tl cl, ih _ ht hc, List.map_cons, List.append_assoc, List.singleton_append]

theorem State.startLanes_trap {ls : List LaneV} {tr : LaneV → Trap} (r : Started) (ht : ∀ l ∈ ls, l.inTx = false) (hop : op ≠ 0x87)
    (hc : ∀ l ∈ ls, s.checkLane op f core g.block l = .trap (tr l)) :
    s.startLanes op f use_ g core ls r = (s, { r with traps := r.traps ++ ls.map (fun l => (l.key, tr l)) }) := by
  induction ls generalizing r with
  | nil => rw [State.startLanes, List.map_nil, List.append_nil]
  | cons l ls ih =>
    obtain ⟨tl, ht⟩ := List.forall_mem_cons.mp ht
    obtain ⟨cl, hc⟩ := List.forall_mem_cons.mp hc
    rw [State.startLanes, State.startLane_trap r tl hop cl, ih _ ht hc, List.map_cons, List.append_assoc, List.singleton_append]

/-- Outside transactions no lane asks for the commit lock. -/
theorem State.needLock_outsideTx (ho : outsideTx s g f) : s.needLock (running s g f) = [] := by
  refine List.map_eq_nil_iff.mpr (List.filter_eq_nil_iff.mpr fun l hl => ?_)
  have closed : (s.thread? l.key).bind (·.tx) = none := by
    have := (outside_lane ho l hl).2
    rw [State.txOpen] at this
    cases hth : s.thread? l.key with
    | none => rfl
    | some t =>
      simp only [hth, Option.any_some] at this
      exact Option.isSome_eq_false_iff.mp this |> Option.isNone_iff_eq_none.mp
  rw [closed]
  exact Bool.false_ne_true

/-- Outside transactions no access is held for one. -/
theorem State.txHeld_outsideTx (ho : outsideTx s g f) : s.txHeld op f g.block (running s g f) = false := by
  refine List.any_eq_false.mpr fun l hl => ?_
  rw [(outside_lane ho l hl).1, Bool.false_and]
  exact Bool.false_ne_true

/-- What a memory instruction outside transactions leaves, by what its lanes come to. -/
def State.memLeft (s : State) (op : Nat) (f : Slot) (g : Group) (r : State × Started) : After :=
  if r.2.held then s.held else
  let out := !r.2.lanes.isEmpty || (r.2.traps.isEmpty && r.2.aborts.isEmpty && r.2.faults.isEmpty)
  let n := if out then r.1.startOp s.cur.group g op f r.2.lanes else (r.1, 0)
  let s1 := if r.2.faults.isEmpty then n.1 else n.1.groupFault s.cur.group g (s.pageOf (s.ctxOf g.block).asid) (recordWrite op) r.2.faults
  let fa := r.2.faults.map (fun p => (p.1, Abort.fault, p.2.2.code))
  let s2 := s1.finish s.cur.group g (s.lanesOf g f) ⟨[], [], r.2.traps, r.2.aborts ++ fa⟩
  (if out then s2.1.setting op n.2 else s2.1, s2.2)

theorem State.memIssue_outsideTx (h : issues s op f g) (ho : outsideTx s g f) {r : State × Started}
    (hr : s.startLanes op f use_ g (s.coreOfBlock g.block) (running s g f) ⟨[], [], [], [], false⟩ = r) :
    s.memIssue op f use_ = .next (s.settleSlot (s.memLeft op f g r) s.cur.group g op f) := by
  have lock : s.needLock ((s.lanesOf g f).filter (·.run)) = [] := s.needLock_outsideTx ho
  have held : s.txHeld op f g.block ((s.lanesOf g f).filter (·.run)) = false := s.txHeld_outsideTx ho
  unfold State.memIssue
  rw [issue_next h]
  simp only [lock, held, ite_self, List.isEmpty_nil, Bool.not_true, Bool.and_false, Bool.false_eq_true, if_false]
  subst hr
  rfl

/-- Every executing lane's address passes: the accesses set out. -/
theorem State.memIssue_go (h : issues s op f g) (ho : outsideTx s g f) {ea : LaneV → Nat}
    (hc : ∀ l ∈ running s g f, s.checkLane op f (s.coreOfBlock g.block) g.block l = .go (ea l)) :
    s.memIssue op f use_ = .next (kept s op f g ((setOff s op f g ((running s g f).map (fun l =>
      accessLane op f l (ea l) (if opScratch op then .ready else .attr)))).setting op s.nextId)) := by
  rw [State.memIssue_outsideTx h ho (State.startLanes_go _ (fun l hl => (outside_lane ho l hl).1) hc)]
  have out : ∀ ls : List LaneOp, (!ls.isEmpty || true) = true := fun _ => Bool.or_true _
  simp only [State.memLeft, Bool.false_eq_true, if_false, List.nil_append, List.isEmpty_nil, Bool.and_self, out, if_true,
    List.map_nil, finish_plain, State.startOp_snd]
  rfl

/-- Every executing lane's address fails: the lanes trap, and nothing is outstanding (R158). -/
theorem State.memIssue_trap (h : issues s op f g) (ho : outsideTx s g f) (hne : running s g f ≠ []) (hop : op ≠ 0x87)
    {tr : LaneV → Trap} (hc : ∀ l ∈ running s g f, s.checkLane op f (s.coreOfBlock g.block) g.block l = .trap (tr l)) :
    s.memIssue op f use_ = .next (s.settleSlot (s.finish s.cur.group g (s.lanesOf g f)
      ⟨[], [], (running s g f).map (fun l => (l.key, tr l)), []⟩) s.cur.group g op f) := by
  rw [State.memIssue_outsideTx h ho (State.startLanes_trap _ (fun l hl => (outside_lane ho l hl).1) hop hc)]
  have traps : ((running s g f).map (fun l => (l.key, tr l))).isEmpty = false := by simpa using hne
  simp only [State.memLeft, Bool.false_eq_true, if_false, List.nil_append, List.isEmpty_nil, traps, Bool.not_true, Bool.false_and,
    Bool.or_self, if_true, List.map_nil]

end

/-- Every instruction of the table is a memory instruction of its lanes. -/
theorem accessRows_exec (f : Slot) : ∀ r ∈ accessRows f, ∃ use_, ∀ s, exec r.1 s = s.memIssue r.2 f use_ := by
  simp only [accessRows, List.forall_mem_cons]
  exact ⟨⟨_, fun _ => rfl⟩, ⟨_, fun _ => rfl⟩, ⟨_, fun _ => rfl⟩, ⟨_, fun _ => rfl⟩, ⟨_, fun _ => rfl⟩, ⟨_, fun _ => rfl⟩,
    ⟨_, fun _ => rfl⟩, ⟨_, fun _ => rfl⟩, ⟨_, fun _ => rfl⟩, ⟨_, fun _ => rfl⟩, ⟨_, fun _ => rfl⟩, ⟨_, fun _ => rfl⟩,
    ⟨_, fun _ => rfl⟩, ⟨_, fun _ => rfl⟩, ⟨_, fun _ => rfl⟩, ⟨_, fun _ => rfl⟩, ⟨_, fun _ => rfl⟩, ⟨_, fun _ => rfl⟩,
    ⟨_, fun _ => rfl⟩, ⟨_, fun _ => rfl⟩, ⟨_, fun _ => rfl⟩, List.forall_mem_nil _⟩

end Sys2Proof.Machine

namespace Sys2Proof.Proofs

open Sys2Proof.Machine Sys2Proof.Laws Sys2Proof.Claims

/-- Settles O13: what each lane's checks find is found in the state before the issue, since none of them changes it. -/
theorem accessIssues : Obligations.AccessIssues := by
  refine ⟨fun s f g ea => ⟨fun r hr h ho hc => ?_, fun h ho hc => ?_⟩, fun s f g tr r hr hop h ho hne hc => ?_⟩
  · obtain ⟨use_, he⟩ := accessRows_exec f r hr
    rw [he]
    exact State.memIssue_go h ho hc
  · have issued : issues s 0xA6 f g := by
      simp only [issuesPriv, Bool.and_eq_true] at h
      exact h.1
    dsimp only [exec, execPoisonClear]
    rw [asPriv_next h]
    exact State.memIssue_go issued ho hc
  · obtain ⟨use_, he⟩ := accessRows_exec f r hr
    rw [he]
    exact State.memIssue_trap h ho hne hop hc

end Sys2Proof.Proofs
end

section
/-! Instructions made once for the group that find no lane, or a transaction open; COPY and COPYM at issue (R158, R240, R247, R264, R266,
R267, R269). -/

namespace Sys2Proof.Machine

open Sys2Proof.Laws

section
variable {s : State} {op : Nat} {f : Slot} {g : Group} {body : Nat → Group → List LaneV → LaneV → List LaneV → After}

/-- An instruction made once that finds no executing lane is outstanding with nothing to do (R158). -/
theorem State.groupWide_nobody (h : issues s op f g) (hr : running s g f = []) :
    s.groupWide op f body = .next (kept s op f g (setOff s op f g [])) := by
  have run : (s.lanesOf g f).filter (fun l => l.run) = [] := hr
  refine State.issue_after h ?_
  simp only [run]
  rfl

/-- Executing lanes with a transaction open abort it with INSTR, and the instruction does nothing (R247). -/
theorem State.groupWide_aborts (h : issues s op f g) (hx : (running s g f).any (·.inTx)) :
    s.groupWide op f body = .next (s.settleSlot (s.finish s.cur.group g (s.lanesOf g f)
      ⟨[], [], [], ((running s g f).filter (·.inTx)).map (fun l => (l.key, .instr, 0))⟩) s.cur.group g op f) := by
  unfold State.groupWide
  rw [issue_next h]
  cases hr : running s g f with
  | nil => rw [hr] at hx; exact absurd hx Bool.false_ne_true
  | cons l rest =>
    have run : (s.lanesOf g f).filter (fun l => l.run) = l :: rest := hr
    rw [hr] at hx
    simp only [run, hx, if_true]

/-- An instruction made once that is held issues again. -/
theorem State.groupWide_held {l : LaneV} {rest : List LaneV} (h : issues s op f g) (ho : outsideTx s g f)
    (hr : running s g f = l :: rest) (hb : body s.cur.group g (s.lanesOf g f) l (l :: rest) = s.held) :
    s.groupWide op f body = .next (stays s g) := by
  rw [groupWide_next h ho hr, hb, State.held, slot_hold]

/-- The leader lane's trap is what an instruction made once comes to. -/
theorem State.groupWide_leaderTrap {l : LaneV} {rest : List LaneV} {t : Trap} (h : issues s op f g) (ho : outsideTx s g f)
    (hr : running s g f = l :: rest)
    (hb : body s.cur.group g (s.lanesOf g f) l (l :: rest) = s.leaderTrap s.cur.group g (s.lanesOf g f) l t) :
    s.groupWide op f body = .next (s.settleSlot (s.finish s.cur.group g (s.lanesOf g f) ⟨[], [], [(l.key, t)], []⟩)
      s.cur.group g op f) := by
  rw [groupWide_next h ho hr, hb, State.leaderTrap]

end

end Sys2Proof.Machine

namespace Sys2Proof.Proofs

open Sys2Proof.Machine Sys2Proof.Laws

/-- Settles O16: by what the checks of R266 find; and the forms made once, by whether a lane executes and has a transaction open. -/
theorem copyIssues : Obligations.CopyIssues := by
  refine ⟨fun s f g l rest r hr h ho hrun => ?_, fun s f g r hr h => ?_⟩
  · have form : exec r.1 s = s.beginCopy r.2 f ∧ (r.2 = 0x8C ∨ r.2 = 0x8D) := by
      rcases List.mem_cons.mp hr with rfl | hr
      · exact ⟨rfl, .inl rfl⟩
      · rw [List.mem_singleton.mp hr]
        exact ⟨rfl, .inr rfl⟩
    obtain ⟨he, hop⟩ := form
    obtain ⟨i, op⟩ := r
    dsimp only at h he hop
    intro core ls o check lanes begun moving locked size members
    dsimp -zeta only
    rw [he, State.beginCopy]
    refine ⟨fun src dst len hc hf => ?_, fun src dst len h8 hc hf => ?_, fun src dst len h8 hc hf => ?_, fun hc => ?_,
      fun ea w hc => ?_, fun t hc => ?_⟩
    · refine State.groupWide_held h ho hrun ?_
      dsimp only
      rw [show s.copyCheck .. = _ from hc]
      exact if_pos hf
    · subst h8
      refine State.groupWide_after h ho hrun ?_
      dsimp only
      rw [show s.copyCheck .. = _ from hc]
      refine (if_neg (Nat.not_lt.mpr hf)).trans ?_
      have both : locked (locked (begun src) false o.1 len) true o.2.1 len =
          (begun src).setLocks ((begun src).v.locks ++ ([(begun src).endLock core g.block s.nextId false o.1 len]
            ++ [(begun src).endLock core g.block s.nextId true o.2.1 len])) :=
        congrArg (begun src).setLocks (List.append_assoc _ _ _)
      rw [both]
      simp only [if_true, decide_true, Bool.true_and]
      rfl
    · subst h8
      refine State.groupWide_after h ho hrun ?_
      dsimp only
      rw [show s.copyCheck .. = _ from hc]
      refine (if_neg (Nat.not_lt.mpr hf)).trans ?_
      rfl
    · refine State.groupWide_after h ho hrun ?_
      dsimp only
      rw [show s.copyCheck .. = _ from hc]
      rfl
    · refine State.groupWide_after h ho hrun ?_
      dsimp only
      rw [show s.copyCheck .. = _ from hc]
      rfl
    · refine State.groupWide_leaderTrap h ho hrun ?_
      dsimp only
      rw [show s.copyCheck .. = _ from hc]
  · have form : ∃ body, exec r.1 s = s.groupWide r.2 f body := by
      rcases List.mem_cons.mp hr with rfl | hr
      · dsimp only [exec, execCopy, State.beginCopy]
        exact ⟨_, rfl⟩
      · rcases List.mem_cons.mp hr with rfl | hr
        · dsimp only [exec, execCopym, State.beginCopy]
          exact ⟨_, rfl⟩
        · rw [List.mem_singleton.mp hr]
          dsimp only [exec, execDiscard]
          exact ⟨_, rfl⟩
    obtain ⟨body, hb⟩ := form
    rw [hb]
    exact ⟨State.groupWide_nobody h, State.groupWide_aborts h⟩

end Sys2Proof.Proofs
end

section
/-! A trap raised for the group whose handler's line cannot be fetched (R174, R272, R492). -/

namespace Sys2Proof.Machine

/-- One thread, at PC 64. -/
def aloneGroup : Group := { emptyGroup 1 0 .ready [2048] 64 (0, 0) 0 with whole := true }

/-- A grid of that thread, launched without privilege, whose handler lies where nothing is translated. -/
def handlerUnmapped : State :=
  { State.reset with
    powered := true
    v := { State.reset.v with
      threads := newThreads 1 { soloRecord with ntid := 1 } [0]
      groups := [(2, aloneGroup)]
      blocks := [(1, soloBlock)] }
    l := { State.reset.l with launches := [(0, { soloLaunch with record := { soloRecord with priv := false, handler := 129 } })] }
    cur := ⟨2, none, false, none, 0⟩
    nextId := 3 }

/-- The thread owes a trap that awaits the fetch of its handler (R492). -/
def State.owesTrap (s : State) : Bool := (s.thread? 2048).any (fun t => t.owedTrap.isSome)

/-- The same after an instruction that goes on. -/
def owesTrapAfter : Result → Bool
  | .next t => t.owesTrap
  | _ => false

theorem handlerUnmapped_issues : issues handlerUnmapped 0xA4 (slotOf 0xA4) aloneGroup := by decide +kernel

/-- TARN.RETIRE makes the thread owe PRIVILEGE, so that the answer to the fetch's record enters the handler. -/
theorem handlerUnmapped_owes : owesTrapAfter (exec (.tarnRetire (slotOf 0xA4)) handlerUnmapped) := by decide +kernel

/-- Were nothing of the trap kept, the thread would not owe it. -/
theorem handlerUnmapped_settled :
    (handlerUnmapped.settleSlot (handlerUnmapped.finish handlerUnmapped.cur.group aloneGroup
      (handlerUnmapped.lanesOf aloneGroup (slotOf 0xA4)) ⟨[], [], (handlerUnmapped.lanesOf aloneGroup (slotOf 0xA4)).map (fun l =>
        (l.key, ⟨.privilege, 0, none, false⟩)), []⟩) handlerUnmapped.cur.group aloneGroup 0xA4 (slotOf 0xA4)).owesTrap = false := by
  decide +kernel

end Sys2Proof.Machine

namespace Sys2Proof.Proofs

open Sys2Proof.Machine

/-- Refutes O17: where the fetch of the handler's line meets a page fault, the threads owe PRIVILEGE until its record is answered
(R492), which the statement takes for a trap that leaves nothing behind. -/
theorem not_deviceRequests : ¬ Obligations.DeviceRequests := by
  rintro ⟨-, traps⟩
  have left := traps handlerUnmapped (slotOf 0xA4) aloneGroup (.tarnRetire (slotOf 0xA4), 0xA4) (by simp) handlerUnmapped_issues
    (by decide) (by decide)
  have owes := handlerUnmapped_owes
  rw [left] at owes
  exact absurd (owes.symm.trans handlerUnmapped_settled) nofun

end Sys2Proof.Proofs
end

section
/-! Matrix instructions at issue: entries posted, waits and traps (R45, R352 to R355, R360, R367 to R379). -/

namespace Sys2Proof.Machine

open Sys2Proof.Laws

/-- The instructions that post an entry, with their opcodes. -/
def matrixRows (f : Slot) : List (Instr × Nat) :=
  [ (.obres f, 0xC1), (.obfree f, 0xC2), (.mload f, 0xC3), (.mloadPeer f, 0xC3), (.mma f, 0xC4), (.mmas f, 0xC5),
    (.mtrans f, 0xC6), (.mperm f, 0xC7), (.mrsum f, 0xC8), (.mzero f, 0xC9), (.mread f, 0xCA), (.mwrite f, 0xCB) ]

theorem matrixRows_exec (s : State) (f : Slot) : ∀ r ∈ matrixRows f, exec r.1 s = s.matrixIssue r.2 f := by
  simp only [matrixRows, List.forall_mem_cons]
  exact ⟨rfl, rfl, rfl, rfl, rfl, rfl, rfl, rfl, rfl, rfl, rfl, rfl, List.forall_mem_nil _⟩

/-- The forms of MWIN. -/
def mwinRows (f : Slot) : List (Instr × Nat) :=
  [(.mwinAlloc f, 0xC0), (.mwinSub f, 0xC0), (.mwinFree f, 0xC0), (.mwinQuery f, 0xC0)]

theorem mwinRows_exec (s : State) (f : Slot) : ∀ r ∈ mwinRows f, r.2 = 0xC0 ∧ exec r.1 s = s.mwinIssue f := by
  simp only [mwinRows, List.forall_mem_cons]
  exact ⟨⟨trivial, rfl⟩, ⟨trivial, rfl⟩, ⟨trivial, rfl⟩, ⟨trivial, rfl⟩, List.forall_mem_nil _⟩

section
variable {s : State} {op : Nat} {f : Slot} {g : Group} (h : issues s op f g)
include h

theorem State.matrixIssue_trap {c : Cause} (hp : s.matrixPlan g (s.lanesOf g f) op f = .trap c) :
    s.matrixIssue op f = .next (s.settleSlot (s.groupTrap s.cur.group g (s.lanesOf g f) c) s.cur.group g op f) := by
  unfold State.matrixIssue
  rw [issue_next h]
  simp only [hp]

theorem State.matrixIssue_wait (hp : s.matrixPlan g (s.lanesOf g f) op f = .wait) : s.matrixIssue op f = .next (stays s g) := by
  unfold State.matrixIssue
  rw [issue_next h]
  simp only [hp]
  rfl

theorem State.matrixIssue_go {tag : Nat} {lanes : List LaneOp} {move : Option Move} {lock : Option RangeLock}
    (hp : s.matrixPlan g (s.lanesOf g f) op f = .go tag lanes move lock) :
    s.matrixIssue op f = .next (kept s op f g (posted s op f g tag lanes move lock)) := by
  refine State.issue_after h ?_
  simp only [hp]
  cases lock <;> rfl

end

/-- A group that is not converged, or of whose lanes some but not all execute, is not issued further (R45). -/
theorem State.matrixFirst_convergence {s : State} {g : Group} {ls : List LaneV}
    (h : s.converged g = false ∨ (ls.any (·.run) ∧ ¬ ls.all (·.run))) (next : MatPlan) :
    s.matrixFirst g ls next = .trap .convergence := by
  refine if_pos ?_
  rcases h with h | ⟨some, all⟩
  · rw [h]
    rfl
  · rw [some, Bool.eq_false_iff.mpr all]
    exact Bool.or_true _

theorem State.mwinIssue_convergence {s : State} {f : Slot} {g : Group} (h : issues s 0xC0 f g)
    (hc : s.converged g = false ∨ ((s.lanesOf g f).any (·.run) ∧ ¬ (s.lanesOf g f).all (·.run))) :
    s.mwinIssue f = .next (s.settleSlot (s.groupTrap s.cur.group g (s.lanesOf g f) .convergence) s.cur.group g 0xC0 f) := by
  unfold State.mwinIssue
  rw [issue_next h]
  simp only [State.matrixFirst_convergence hc]

section
variable {s : State} {op : Nat} {f : Slot} {g : Group} {b : Block} {l : LaneV} {rest : List LaneV} (hw : wholeGroup s g f)
  (hb : s.block? g.block = some b) (hl : s.lanesOf g f = l :: rest)
include hw hb hl

theorem State.matrixPlan_trap {c : Cause} (h : s.matrixBody g (s.lanesOf g f) b (b.core.getD 0) op f l.th = .trap c) :
    s.matrixPlan g (s.lanesOf g f) op f = .trap c := by
  unfold State.matrixPlan
  rw [State.matrixFirst_whole hw, hb]
  rw [hl] at h ⊢
  simp only [h]

theorem State.matrixPlan_go {tag : Nat} {lanes : List LaneOp} {move : Option Move} {lock : Option RangeLock}
    (hr : s.matrixRoom (clusterOf (b.core.getD 0)) b.cls)
    (h : s.matrixBody g (s.lanesOf g f) b (b.core.getD 0) op f l.th = .go tag lanes move lock) :
    s.matrixPlan g (s.lanesOf g f) op f = .go tag lanes move lock := by
  unfold State.matrixPlan
  rw [State.matrixFirst_whole hw, hb]
  rw [hl] at h ⊢
  simp only [h, hr, if_true]

end

/-! ## What an instruction of each opcode comes to -/

section
variable {s : State} {op : Nat} {f : Slot} {g : Group} {ls : List LaneV} {b : Block} {core : Nat} {t : Thread}

theorem State.matrixBody_noWindow (hop : op ≤ 0xC8) (hw : b.window = none) :
    s.matrixBody g ls b core op f t = .trap .window := by
  simp [State.matrixBody, hop, hw]

theorem State.matrixBody_obres (hw : b.window.isSome) :
    s.matrixBody g ls b core 0xC1 f t =
      .go 0 (ls.map (fun l => laneOp l 0 (t.words f.a.toNat 2 ++ t.words f.b.toNat 2 ++ t.words f.c.toNat 1) [] .sent)) none none := by
  simp [State.matrixBody, Option.isNone_eq_false_iff.mpr hw]

theorem State.matrixBody_obfree (hw : b.window.isSome) :
    s.matrixBody g ls b core 0xC2 f t = .go 0 (ls.map (fun l => laneOp l 0 (t.words f.a.toNat 1) [] .sent)) none none := by
  simp [State.matrixBody, Option.isNone_eq_false_iff.mpr hw]

theorem State.matrixBody_mload (hw : b.window.isSome) :
    s.matrixBody g ls b core 0xC3 f t = s.mloadPlan g ls b core f t := by
  simp [State.matrixBody, Option.isNone_eq_false_iff.mpr hw]

theorem State.matrixBody_product (hw : b.window.isSome) (lo : 0xC4 ≤ op) (hi : op ≤ 0xC8) :
    s.matrixBody g ls b core op f t =
      if !b.productOk op f (t.val f.a.toNat 1) (t.val f.b.toNat 1) then .trap .operand
      else if !g.rowsFit (t.val f.d.toNat 1) (mOf f) then .trap .window
      else .go (g.awbase + t.val f.d.toNat 1 - (b.window.map (·.base)).getD 0)
        (ls.map (fun l => laneOp l 0 (t.words f.a.toNat 1 ++ t.words f.b.toNat 1) [] .sent)) none none := by
  have h1 : op ≠ 0xC1 := by omega
  have h2 : op ≠ 0xC2 := by omega
  have h3 : op ≠ 0xC3 := by omega
  simp only [State.matrixBody, Option.isNone_eq_false_iff.mpr hw, Bool.and_false, Bool.false_eq_true, if_false, if_neg h1, if_neg h2,
    if_neg h3, if_pos hi]

theorem State.matrixBody_mzero :
    s.matrixBody g ls b core 0xC9 f t =
      if g.rowsFit (t.val f.d.toNat 1) f.i32.toNat then
        .go (g.awbase + t.val f.d.toNat 1 - (b.window.map (·.base)).getD 0) (ls.map (fun l => laneOp l 0 [] [] .sent)) none none
      else .trap .window := by
  simp [State.matrixBody]

theorem State.matrixBody_rows (lo : 0xCA ≤ op) :
    s.matrixBody g ls b core op f t =
      if !ls.all (fun l => g.rowsFit (l.th.val f.a.toNat 1) 1) then .trap .window
      else .go 0 (ls.map (fun l => laneOp l (g.awbase + l.th.val f.a.toNat 1 - (b.window.map (·.base)).getD 0)
        (if op = 0xCB then l.th.words f.b.toNat (Rule.regs (Rule.ty f)) else []) [l.th.draws] .sent)) none none := by
  have h1 : op ≠ 0xC1 := by omega
  have h2 : op ≠ 0xC2 := by omega
  have h3 : op ≠ 0xC3 := by omega
  have h8 : ¬ op ≤ 0xC8 := by omega
  have h9 : op ≠ 0xC9 := by omega
  simp only [State.matrixBody, decide_eq_false h8, Bool.false_and, Bool.false_eq_true, if_false, if_neg h1, if_neg h2, if_neg h3,
    if_neg h8, if_neg h9]

theorem State.mloadPlan_reserved (h : bits (t.val f.b.toNat 1) 19 5 ≠ 0 ∨ bits (t.val f.b.toNat 1) 29 3 ≠ 0) :
    s.mloadPlan g ls b core f t = .trap .operand := by
  refine if_pos ?_
  simpa using h

end

/-- The opcodes of the products. -/
theorem products_op {f : Slot} {r : Instr × Nat}
    (h : r ∈ [(Instr.mma f, 0xC4), (.mmas f, 0xC5), (.mtrans f, 0xC6), (.mperm f, 0xC7), (.mrsum f, 0xC8)]) :
    r ∈ matrixRows f ∧ 0xC4 ≤ r.2 ∧ r.2 ≤ 0xC8 := by
  revert r
  simp [matrixRows]

end Sys2Proof.Machine

namespace Sys2Proof.Proofs

open Sys2Proof.Machine Sys2Proof.Laws

/-- Settles O29: by what the plan of the instruction is, which its own checks decide where those of R45 pass. -/
theorem matrixIssues : Obligations.MatrixIssues := by
  refine ⟨fun s f g b l rest hw hb hl room => ?_, fun s f g r hr h hp => ?_, fun s f g b l rest hw hb hl => ?_, fun s f g r hr h hc => ?_⟩
  · intro ls base c all w row
    refine ⟨fun h win => ?_, fun h win => ?_, fun i hi h win tag lanes move lock hp => ?_, fun r hr h win ok fits => ?_,
      fun h fits => ?_, fun h fits => ?_, fun h fits => ?_⟩
    · exact State.matrixIssue_go h (State.matrixPlan_go hw hb hl room (State.matrixBody_obres win))
    · exact State.matrixIssue_go h (State.matrixPlan_go hw hb hl room (State.matrixBody_obfree win))
    · have mem : (i, 0xC3) ∈ matrixRows f := by
        revert i
        simp [matrixRows]
      rw [matrixRows_exec s f (i, 0xC3) mem]
      exact State.matrixIssue_go h (State.matrixPlan_go hw hb hl room ((State.matrixBody_mload win).trans hp))
    · obtain ⟨mem, lo, hi⟩ := products_op hr
      rw [matrixRows_exec s f r mem]
      refine State.matrixIssue_go h (State.matrixPlan_go hw hb hl room ?_)
      rw [State.matrixBody_product win lo hi, ok, Group.rowsFit, decide_eq_true fits]
      rfl
    · refine State.matrixIssue_go h (State.matrixPlan_go hw hb hl room ?_)
      rw [State.matrixBody_mzero, Group.rowsFit, decide_eq_true fits]
      rfl
    · refine State.matrixIssue_go h (State.matrixPlan_go hw hb hl room ?_)
      rw [State.matrixBody_rows (by decide)]
      exact if_neg (by rw [show (s.lanesOf g f).all (fun l => g.rowsFit (l.th.val f.a.toNat 1) 1) = true from fits]; exact Bool.false_ne_true)
    · refine State.matrixIssue_go h (State.matrixPlan_go hw hb hl room ?_)
      rw [State.matrixBody_rows (by decide)]
      exact if_neg (by rw [show (s.lanesOf g f).all (fun l => g.rowsFit (l.th.val f.a.toNat 1) 1) = true from fits]; exact Bool.false_ne_true)
  · rw [matrixRows_exec s f r hr]
    exact State.matrixIssue_wait h hp
  · intro traps d products loads
    have trapped (r : Instr × Nat) (mem : r ∈ matrixRows f) (h : issues s r.2 f g) (c : Cause)
        (hbody : s.matrixBody g (s.lanesOf g f) b (b.core.getD 0) r.2 f l.th = .trap c) : traps r c := by
      dsimp -zeta only [traps]
      rw [matrixRows_exec s f r mem]
      exact State.matrixIssue_trap h (State.matrixPlan_trap hw hb hl hbody)
    have load (r : Instr × Nat) (hr : r ∈ loads) : r ∈ matrixRows f ∧ r.2 = 0xC3 := by
      revert r
      simp [loads, matrixRows]
    refine ⟨fun r hr h win => ?_, fun r hr h win => ?_, fun h above => ?_, fun r hr h above => ?_, fun r hr h win => ?_⟩
    · have mem : r ∈ matrixRows f ∧ r.2 ≤ 0xC8 := by
        revert r
        simp [loads, products, matrixRows]
      exact trapped r mem.1 h _ (State.matrixBody_noWindow mem.2 win)
    · obtain ⟨mem, lo, hi⟩ := products_op hr
      refine ⟨fun bad => trapped r mem h _ ?_, fun ok above => trapped r mem h _ ?_⟩
      · rw [State.matrixBody_product win lo hi, bad]
        rfl
      · rw [State.matrixBody_product win lo hi, ok, Group.rowsFit, decide_eq_false (Nat.not_le.mpr above)]
        rfl
    · refine trapped (.mzero f, 0xC9) (by simp [matrixRows]) h _ ?_
      rw [State.matrixBody_mzero, Group.rowsFit, decide_eq_false (Nat.not_le.mpr above)]
      rfl
    · have mem : r ∈ matrixRows f ∧ 0xCA ≤ r.2 := by
        revert r
        simp [matrixRows]
      refine trapped r mem.1 h _ ?_
      obtain ⟨x, hx, habove⟩ := above
      have unfit : (s.lanesOf g f).all (fun l => g.rowsFit (l.th.val f.a.toNat 1) 1) = false := by
        refine List.all_eq_false.mpr ⟨x, hx, ?_⟩
        rw [Group.rowsFit, decide_eq_false (Nat.not_le.mpr habove)]
        exact Bool.false_ne_true
      rw [State.matrixBody_rows mem.2, unfit]
      rfl
    · obtain ⟨mem, hop⟩ := load r hr
      have body : s.matrixBody g (s.lanesOf g f) b (b.core.getD 0) r.2 f l.th =
          s.mloadPlan g (s.lanesOf g f) b (b.core.getD 0) f l.th := by
        rw [hop]
        exact State.matrixBody_mload win
      exact ⟨fun c hc => trapped r mem h c (body.trans hc), fun bad => trapped r mem h _ (body.trans (State.mloadPlan_reserved bad))⟩
  · rcases List.mem_append.mp (show r ∈ mwinRows f ++ matrixRows f from hr) with mem | mem
    · obtain ⟨hop, he⟩ := mwinRows_exec s f r mem
      rw [he]
      rw [hop] at h ⊢
      exact State.mwinIssue_convergence h hc
    · rw [matrixRows_exec s f r mem]
      exact State.matrixIssue_trap h (State.matrixFirst_convergence hc _)

end Sys2Proof.Proofs
end

section
/-! Attribute requests (R96, R97, R245, R252), Tarn operations and XLATE.INV (R104, R105, R116 to R124), shares (R127, R128), errors and
refreshes (R140 to R144), and the directory (R102, R133, R135). -/

namespace Sys2Proof.Machine

/-- For an instruction that goes on, attributes are asked for the page of the first of its lanes that await them. -/
theorem State.attributeFor_eq {s : State} {id : Nat} {o : Op} {l : LaneOp} (ho : s.op? id = some o) (hg : s.going id o)
    (hl : o.lanes.find? (fun l => l.stage == .attr) = some l) :
    s.attributeFor id =
      if 2 ^ 57 ≤ l.ea then s.faultNonCanon id 64
      else
        match s.askAttr (s.coreOfBlock o.block) (s.ctxOf o.block) (nameAsid (s.ctxOf o.block).asid l.ea) l.ea (opAccess o.opc) with
        | (s1, .error k) => s1.faultOrDrop id o (s1.lanesInPage (s.ctxOf o.block).asid o l) k
        | (s1, .ok a) => (s1.updOp id (fun u => { u with lanes := u.lanes.map (fun x =>
            if x.stage == .attr && covers a (nameAsid (s.ctxOf o.block).asid x.ea) x.ea then { x with stage := .ready, attr := some a } else x)
              })).setOut id := by
  unfold State.attributeFor
  simp only [ho, hg, hl, Bool.not_true, Bool.false_eq_true, if_false] <;> rfl

/-! ## Lines of a Tarn -/

section
variable {s : State} {l : Line}

theorem State.moveLine_busy (h : s.lineBusy l.asid l.va l.data.length) : s.moveLine l = s := if_pos h

theorem State.moveLine_draining (h : s.lineBusy l.asid l.va l.data.length = false) (hd : tdbState (s.tdb l.tarn) = 2) :
    s.moveLine l = s.evict l := by
  rw [State.moveLine, if_neg (by rw [h]; exact Bool.false_ne_true), if_pos hd]

theorem State.moveLine_placed (h : s.lineBusy l.asid l.va l.data.length = false) (hd : tdbState (s.tdb l.tarn) = 1)
    (hp : s.placedLine l) : s.moveLine l = s := by
  rw [State.moveLine, if_neg (by rw [h]; exact Bool.false_ne_true), if_neg (by rw [hd]; decide), if_pos hp]

theorem execTarnLineMove_moves (hl : s.lineAt s.sel.x s.sel.y s.sel.z = some l)
    (hd : tdbState (s.tdb l.tarn) = 1 ∨ tdbState (s.tdb l.tarn) = 2) : execTarnLineMove s = .next (s.moveLine l) := by
  have due : (decide (tdbState (s.tdb l.tarn) = 1) || decide (tdbState (s.tdb l.tarn) = 2)) = true := by simpa using hd
  simp only [execTarnLineMove, hl, due, if_true]

theorem execTarnLineMove_busy (hl : s.lineAt s.sel.x s.sel.y s.sel.z = some l) (h : s.lineBusy l.asid l.va l.data.length) :
    execTarnLineMove s = .next s := by
  simp only [execTarnLineMove, hl, State.moveLine_busy h, ite_self]

end

theorem execTarnResizeComplete_due {s : State} (hd : tdbState (s.tdb s.sel.x) = 1) (ht : s.sel.x ≠ 0)
    (hp : ∀ l ∈ s.m.lines, l.tarn = s.sel.x → s.placedLine l) :
    execTarnResizeComplete s = .next ((s.retree (s.drainAll.setTdb s.sel.x
      (entered_ (tdbPut (tdbPut (tdbPut (tdbPut (s.tdb s.sel.x) 224 8 (s.holesOf (s.tdb s.sel.x))) 320 72 0) 392 16 0) 408 16 0) 0
        (tdbField (s.tdb s.sel.x) 160 32)))).tarnDone s.sel.x) := by
  have placed : (s.m.lines.filter (fun l => l.tarn == s.sel.x)).all s.placedLine = true := by
    refine List.all_eq_true.mpr fun l hl => ?_
    obtain ⟨hl, htarn⟩ := List.mem_filter.mp hl
    exact hp l hl (beq_iff_eq.mp htarn)
  refine if_pos ?_
  rw [hd, placed, bne_iff_ne.mpr ht]
  rfl

theorem execTarnDrainComplete_due {s : State} (hd : tdbState (s.tdb s.sel.x) = 2) (ht : s.sel.x ≠ 0) :
    execTarnDrainComplete s = .next ((s.retree (((((s.m.lines.filter (fun l => l.tarn == s.sel.x)).foldl State.evict s).drainAll).setTdb
      s.sel.x (entered_ (s.tdb s.sel.x) 3 (tdbField (s.tdb s.sel.x) 160 32))).resendTarn s.sel.x)).tarnDone s.sel.x) := by
  refine if_pos ?_
  rw [hd, bne_iff_ne.mpr ht]
  rfl

/-! ## XLATE.INV -/

/-- A request of one of the names is on its way to a controller (R105). -/
def Req.underWay (names : List (Nat × Nat × Nat)) (q : Req) : Bool :=
  (q.stage == .controller || q.stage == .fill) && names.any (fun r => meetsName r q.attr.asid q.attr.va q.attr.size)

theorem Req.underWay_iff {names : List (Nat × Nat × Nat)} {q : Req} :
    q.underWay names ↔ (q.stage = .controller ∨ q.stage = .fill) ∧ names.any (fun r => meetsName r q.attr.asid q.attr.va q.attr.size) := by
  simp only [Req.underWay, Bool.and_eq_true, Bool.or_eq_true, beq_iff_eq]

/-- An XLATE.INV that has reached its unit, by whether its range ends, what is under way, and what holds it. -/
theorem execXlateInvComplete_eq {s : State} {o : Op} {m : Move} {l : LaneOp} (ho : s.op? s.sel.x = some o) (hop : o.opc = 0xA5)
    (hg : s.going s.sel.x o) (hm : o.move = some m) (hl : o.leader = some l) (hs : l.stage = .sent)
    {names : List (Nat × Nat × Nat)} (hn : xlateNames 0xA5 (Rule.sub o.f) m.src m.len m.dst = names) :
    execXlateInvComplete s =
      if Rule.sub o.f < 2 && m.len ≠ 0 && 2 ^ 57 < m.src + m.len then .next (s.faultLeader s.sel.x l .nonCanon m.src false)
      else if s.v.reqs.any (fun q => q.2.underWay names) then .next s
      else if names.any (fun r => s.ticketHolds r.1 r.2.1 (r.2.2 - r.2.1) none)
          || decide (Rule.sub o.f % 2 = 1) && names.any (fun r => s.holderIn (s.doomedByInv r)) then .next s
      else .next (((names.foldl (fun s r => s.invalidateName (decide (Rule.sub o.f % 2 = 1)) r) s).renewNames names).finishOp s.sel.x) := by
  subst hn
  simp only [execXlateInvComplete, ho, hop, hg, hm, hl, hs, ne_eq, not_true, decide_false, Bool.not_true, Bool.or_self,
    Bool.false_eq_true, if_false, bne_self_eq_false]
  rfl

/-! ## Shares -/

theorem State.ownMemory_memory {s : State} {pa off : Nat} (h : s.paClass pa = .memory off) : s.ownMemory pa = true := by
  simp only [State.ownMemory, h]

theorem State.ownMemory_other {s : State} {pa : Nat} (h : ∀ off, s.paClass pa ≠ .memory off) : s.ownMemory pa = false := by
  unfold State.ownMemory
  split
  · next off e => exact absurd e (h off)
  · rfl

theorem State.raiseIntr_pending (s : State) {n : Nat} (h : n < 64) : (s.raiseIntr n).r.intr.getLsbD n = true := by
  simp only [State.raiseIntr, State.setSys_r, BitVec.getLsbD_or, BitVec.getLsbD_shiftLeft, h, Nat.lt_irrefl, Nat.sub_self, decide_true,
    decide_false, Bool.not_false, Bool.true_and]
  exact Bool.or_true _

/-- At the end of its retirement a share is retired, and interrupt source 5 is pending (R127, R128). -/
theorem execShareRetirementComplete_retires {s : State} {share : Nat} {unreadable : List Nat} {p : Nat × Bool}
    (h : s.m.retiring.find? (fun p => p.1 == share) = some p) :
    ∃ t, execShareRetirementComplete share unreadable s = .next t ∧ share ∈ t.m.retired ∧ (∀ p ∈ t.m.retiring, p.1 ≠ share)
      ∧ t.r.intr.getLsbD 5 = true := by
  simp only [execShareRetirementComplete, h]
  generalize (s.m.lines.filter (fun l => 16 * l.bank + l.way == share)).foldl (fun s l => s.retireLine unreadable l) s = s1
  generalize hs2 : s1.setMem { s1.m with
    retired := insertNat share s1.m.retired
    retiring := s1.m.retiring.filter (fun q => q.1 != share) } = s2
  have retired : share ∈ s2.m.retired ∧ ∀ p ∈ s2.m.retiring, p.1 ≠ share := by
    subst hs2
    exact ⟨mem_insertNat.mpr (.inl rfl), fun p hp => bne_iff_ne.mp (List.mem_filter.mp hp).2⟩
  generalize hu : (if s.shareHolder share = 0 then s2 else s2.setTdb (s.shareHolder share)
    (tdbPut (s2.tdb (s.shareHolder share)) 224 8 (s2.holesOf (s2.tdb (s.shareHolder share))))) = u
  have kept : u.m.retired = s2.m.retired ∧ u.m.retiring = s2.m.retiring := by
    subst hu
    split <;> exact ⟨rfl, rfl⟩
  have marks : share ∈ (u.raiseIntr 5).m.retired ∧ ∀ p ∈ (u.raiseIntr 5).m.retiring, p.1 ≠ share := by
    rw [State.raiseIntr, State.setSys_m, kept.1, kept.2]
    exact retired
  refine ⟨_, rfl, ?_⟩
  split
  · exact ⟨marks.1, marks.2, u.raiseIntr_pending (by decide)⟩
  · exact ⟨marks.1, marks.2, u.raiseIntr_pending (by decide)⟩

/-! ## Refreshes -/

/-- While class-3 requests wait a refresh is postponed, until eight are owed (R143). -/
theorem execRefreshDue_class3 (s : State) (controller bank : Nat) :
    execRefreshDue controller bank true s =
      if Tab.get s.m.owedRefresh (controller * 4096 + bank) 0 < 8 then
        .next (s.setMem { s.m with
          owedRefresh := Tab.set s.m.owedRefresh (controller * 4096 + bank)
            (Tab.get s.m.owedRefresh (controller * 4096 + bank) 0 + 1) })
      else .next ((s.setMem { s.m with
        owedRefresh := s.m.owedRefresh.filter (fun p => p.1 / 4096 != controller) }).refreshStall controller) := rfl

/-! ## Directory and write-backs -/

/-- The directory entry of a slice at an address of an ASID. -/
def State.dirEntry (s : State) (va : Nat) : Option DirEntry :=
  s.m.dir.find? (fun e => e.slice == s.sel.x && e.asid == s.sel.y && e.va == va)

theorem execDirectoryMerge_none {s : State} (h : s.dirEntry s.sel.z = none) : execDirectoryMerge s = .next s := by
  rw [State.dirEntry] at h
  simp only [execDirectoryMerge, h]

theorem execDirectoryMerge_alone {s : State} {a : DirEntry} (ha : s.dirEntry s.sel.z = some a)
    (hb : s.dirEntry (a.va + a.size) = none) : execDirectoryMerge s = .next s := by
  rw [State.dirEntry] at ha hb
  simp only [execDirectoryMerge, ha, hb]

theorem execDirectoryMerge_siblings {s : State} {a b : DirEntry} (ha : s.dirEntry s.sel.z = some a)
    (hb : s.dirEntry (a.va + a.size) = some b) :
    (∀ e, mergeDir s.clock a b = some e → execDirectoryMerge s = .next
      (s.setMem { s.m with dir := (s.m.dir.filter (fun x => x != b)).map (fun x => if x == a then e else x) }))
    ∧ (mergeDir s.clock a b = none → execDirectoryMerge s = .next s) := by
  rw [State.dirEntry] at ha hb
  exact ⟨fun e he => by simp only [execDirectoryMerge, ha, hb, he], fun he => by simp only [execDirectoryMerge, ha, hb, he]⟩

/-- Two write-backs have a byte of a name in common. -/
def WriteBack.meets (w o : WriteBack) : Bool := o.asid == w.asid && o.va < w.va + w.data.length && w.va < o.va + o.data.length

theorem WriteBack.meets_iff {w o : WriteBack} :
    w.meets o ↔ o.asid = w.asid ∧ o.va < w.va + w.data.length ∧ w.va < o.va + o.data.length := by
  simp only [WriteBack.meets, Bool.and_eq_true, beq_iff_eq, decide_eq_true_eq, and_assoc]

theorem execWriteBack_eq {s : State} {w : WriteBack} (h : s.m.wbq[s.sel.x]? = some w) :
    execWriteBack s =
      if (s.m.wbq.take s.sel.x).any w.meets then .next s
      else .next ((s.setMem { s.m with wbq := s.m.wbq.eraseIdx s.sel.x }).doWriteBack w) := by
  simp only [execWriteBack, h]
  rfl

end Sys2Proof.Machine

namespace Sys2Proof.Proofs

open Sys2Proof.Machine

/-- Settles O19: by whether the address is canonical and by what the shard answers. -/
theorem attributesArrive : Obligations.AttributesArrive := by
  intro s o l ho hg hl core c asid asked refused
  dsimp -zeta only [exec, execAttributeRequest]
  rw [State.attributeFor_eq ho hg hl]
  refine ⟨fun hi => by rw [if_pos hi], fun lo s1 k ha => ?_, fun lo s1 a ha => ?_⟩
  · rw [if_neg (Nat.not_le.mpr lo), show s.askAttr .. = _ from ha]
    rfl
  · rw [if_neg (Nat.not_le.mpr lo), show s.askAttr .. = _ from ha]

/-- Settles O21: lines by the state of their Tarn, Tarns by theirs, XLATE.INV by what keeps it waiting. -/
theorem tarnSteps : Obligations.TarnSteps := by
  refine ⟨fun s => ?_, fun s o m l ho hop hg hm hl hs => ?_⟩
  · intro t d
    refine ⟨fun l hl free => ⟨fun hd => ?_, fun hd _ => ?_, fun hd hp => ?_⟩, fun l hl busy => execTarnLineMove_busy hl busy,
      fun hd ht hp => execTarnResizeComplete_due hd ht hp, fun hd ht => execTarnDrainComplete_due hd ht⟩
    · exact (execTarnLineMove_moves hl (.inr hd)).trans (by rw [State.moveLine_draining free hd])
    · exact execTarnLineMove_moves hl (.inl hd)
    · exact (execTarnLineMove_moves hl (.inl hd)).trans (by rw [State.moveLine_placed free hd hp])
  · intro sub names beyond underWay heldBack
    have eq := execXlateInvComplete_eq ho hop hg hm hl hs (names := names) rfl
    have under : s.v.reqs.any (fun q => q.2.underWay names) = true ↔ underWay := by
      simp only [List.any_eq_true, Req.underWay_iff, underWay]
    have ends : (decide (sub < 2) && decide (m.len ≠ 0) && decide (2 ^ 57 < m.src + m.len)) = true ↔ beyond := by
      simp only [Bool.and_eq_true, decide_eq_true_eq, and_assoc, beyond]
    have held : (names.any (fun r => s.ticketHolds r.1 r.2.1 (r.2.2 - r.2.1) none)
        || decide (sub % 2 = 1) && names.any (fun r => s.holderIn (s.doomedByInv r))) = true ↔ heldBack := by
      simp only [Bool.or_eq_true, Bool.and_eq_true, decide_eq_true_eq, heldBack]
    dsimp -zeta only [exec]
    rw [eq]
    refine ⟨fun hb => if_pos (ends.mpr hb), fun hb hw => ?_, fun hb hu hh => ?_⟩
    · rw [if_neg (mt ends.mp hb)]
      rcases hw with hu | hh
      · rw [if_pos (under.mpr hu)]
      · rw [if_pos (held.mpr hh), ite_self]
    · rw [if_neg (mt ends.mp hb), if_neg (mt under.mp hu), if_neg (mt held.mp hh)]

/-- Settles O22: SHARERET's writes by the share they name, errors by the time since the last, and the end of a retirement. -/
theorem sharesRetire : Obligations.SharesRetire := by
  intro s value share unreadable n
  dsimp -zeta only [exec]
  have idle (h : bit s.r.shareRet.toNat 31 = false) : ¬ bit s.r.shareRet.toNat 31 = true := Bool.eq_false_iff.mp h
  have gone (h : s.sel.x < 18432) (hg : s.shareGone s.sel.x = false) :
      ¬ (decide (SYS_SHARES ≤ s.sel.x) || s.shareGone s.sel.x) = true := by
    rw [hg, decide_eq_false (show ¬ SYS_SHARES ≤ s.sel.x from Nat.not_le.mpr h)]
    exact Bool.false_ne_true
  refine ⟨fun hb hn hr => ?_, fun hb hn hr => ?_, fun hb hn => ?_, fun hb => if_pos hb, fun asked h => ?_, fun hn hg old => ?_,
    fun hn hg t ht recent _ => ?_, fun h => ?_, fun h => ?_⟩
  · have fresh : ¬ s.m.retired.contains n = true := fun h => hr (List.contains_iff_mem.mp h)
    exact (if_neg (idle hb)).trans ((if_neg (Nat.not_le.mpr hn)).trans (if_neg fresh))
  · exact (if_neg (idle hb)).trans ((if_neg (Nat.not_le.mpr hn)).trans (if_pos (List.contains_iff_mem.mpr hr)))
  · exact (if_neg (idle hb)).trans (if_pos hn)
  · exact execShareRetirementComplete_retires h
  · refine (if_neg (gone hn hg)).trans ?_
    cases ht : Tab.look s.m.eccAt s.sel.x with
    | none => rfl
    | some t =>
      have late := old t ht
      simp only [decide_eq_false (show ¬ s.clock - t < 2 ^ 30 by omega), Bool.false_eq_true, if_false]
  · refine (if_neg (gone hn hg)).trans ?_
    simp only [ht, decide_eq_true (show s.clock - t < 2 ^ 30 by omega), if_true]
  · refine if_pos ?_
    rwa [Bool.or_eq_true, decide_eq_true_eq]
  · simp only [execShareRetirementComplete, h]

/-- Settles O23: by what lies at the address, by the kind of agent, and by the refreshes that are owed. -/
theorem errorsAndRefreshes : Obligations.ErrorsAndRefreshes := by
  refine ⟨fun s => ?_, fun s controller bank => ?_⟩
  · intro a
    dsimp -zeta only [exec]
    refine ⟨fun off h => ?_, fun h => ?_, fun h => ?_, fun h1 h2 => ?_, fun h => ?_⟩
    · rw [execMemoryUncorrectableError, State.ownMemory_memory h]
      rfl
    · rw [execMemoryUncorrectableError, State.ownMemory_other h]
      rfl
    · exact congrArg _ (if_pos h)
    · exact congrArg _ ((if_neg (Nat.not_lt.mpr h1)).trans (if_pos h2))
    · exact congrArg _ ((if_neg (by omega)).trans (if_neg (Nat.not_lt.mpr h)))
  · intro owed k stalled
    dsimp -zeta only [exec]
    refine ⟨rfl, fun h => ?_, fun h => ?_, fun h => if_neg h, fun h => if_pos h, rfl⟩
    · exact (execRefreshDue_class3 s controller bank).trans (if_pos h)
    · exact (execRefreshDue_class3 s controller bank).trans (if_neg (Nat.not_lt.mpr h))

/-- Settles O24: entries by whether they agree and rest, write-backs by what stands before them, snoops by the agent. -/
theorem directorySteps : Obligations.DirectorySteps := by
  refine ⟨fun s => ?_, fun s agent asid va invalidate => ?_⟩
  · intro entry
    dsimp -zeta only [exec]
    refine ⟨fun a b ha hb => execDirectoryMerge_siblings ha hb, fun h => execDirectoryMerge_none h,
      fun a ha hb => execDirectoryMerge_alone ha hb, fun w hw => ?_, fun h => ?_⟩
    · intro before
      have behind : (s.m.wbq.take s.sel.x).any w.meets = true ↔ before := by
        simp only [List.any_eq_true, WriteBack.meets_iff, before]
      rw [execWriteBack_eq hw]
      exact ⟨fun h => if_neg (mt behind.mp h), fun h => if_pos (behind.mpr h)⟩
    · simp only [execWriteBack, h]
  · intro pending again s0 s1
    have asked : (fun q : Req => q.asid == asid && q.va ≤ va && va < q.va + q.size && q.attr.home < 2
        && (match s.op? q.op with | some o => s.coreOfBlock o.block == agent | none => false)) = pending := by
      funext q
      simp only [pending]
      cases s.op? q.op <;> rfl
    have snooped : (if !invalidate then s0 else
        s0.dropCopies (fun c => c.agent == agent && c.attr.home != 3 && c.attr.asid == asid && c.va ≤ va && va < c.va + c.size)) = s1 := by
      cases invalidate <;> rfl
    have eq : exec (.snoopReceived agent asid va invalidate) s =
        .next (if 512 ≤ agent && agent < 576 then s1.snoopHart (agent - 512) asid va invalidate else s1) := by
      rw [← snooped]
      simp only [s0, ← asked]
      rfl
    rw [eq]
    refine ⟨fun h => ?_, fun h1 h2 => ?_⟩
    · exact congrArg _ (if_neg (by simp only [Bool.and_eq_true, decide_eq_true_eq]; omega))
    · exact congrArg _ (if_pos (by rw [decide_eq_true h1, decide_eq_true h2]; rfl))

end Sys2Proof.Proofs
end

section
/-! The stages of a request (R101), what an access does where it is served (R248, R255, R257, R258), and POLL's timers (R262, R263). -/

namespace Sys2Proof.Machine

/-- The request is at its home, and an earlier access of a lane's thread, or the saving of its block, holds it back. -/
def State.reqWaits (s : State) (o : Op) (q : Req) : Bool :=
  q.stage == .home && (!s.going q.op o || (o.lanesIn q).any (fun l => s.laneBlocked q.op o l))

/-- A CFLUSH's line is busy at its home, or its share is being retired. -/
def State.flushHeld (s : State) (q : Req) : Bool :=
  decide (q.attr.home < 2) && (s.lineBusy q.asid q.va q.size || (s.lineAt q.attr.tarn q.asid q.va).any (fun l => s.lineRetiring l))

/-- The first byte of a request's line is poisoned memory. -/
def State.reqPoisoned (s : State) (q : Req) : Bool :=
  match s.paClass (q.attr.frame + (q.va - q.attr.va)) with
  | .memory off => s.poisonedAt off q.size
  | _ => false

/-- A request that its home comes to hold waits there anew. -/
def State.backHome (s : State) (rid : Nat) : State :=
  s.updReq rid (fun q =>
    { q with
      stage := .home
      data := [] })

/-- What a request of an access does with the answer of its stage. -/
def State.afterStage (s : State) (rid : Nat) (o : Op) (q : Req) (given : List Byte) : State × Staged → State
  | (s1, .go q') => s1.updReq rid (fun _ => q')
  | (_, .hold) => s
  | (s1, .serve wh) =>
    if s1.heldLanes o q then s.backHome rid
    else if casHeld s1 (s1.servedReq rid o q wh given) o q then s1.backHome rid
    else s1.servedReq rid o q wh given
  | (s1, .fault k) => s1.faultReq o q k
  | (s1, .poisoned) =>
    if o.opc = 0x87 then s1.servedReq rid o q .zero []
    else (((s1.setReqs (Tab.del s1.v.reqs rid)).trapLanes q.op q.lanes (fun l => ⟨.poisoned, 0, some l.ea, recordWrite o.opc⟩)).repark
      q.op).tryPlans o.block

section
variable {s : State} {rid : Nat} {q : Req} {o : Op}

theorem State.advanceReq_eq (given : List Byte) (hq : s.req? rid = some q) (ho : s.op? q.op = some o) :
    s.advanceReq rid given =
      if s.reqWaits o q then s
      else if o.opc = 0x8F ∧ s.flushHeld q then s
      else if o.opc = 0x8F then
        (if s.reqPoisoned q || s.discardedNow q.attr then s
          else s.flushLine (s.coreOfBlock o.block) q.attr q.asid q.va (Rule.sub o.f == 1)).servedReq rid o q .zero []
      else if o.opc = 0x90 then (s.dropCopy (s.coreOfBlock o.block) q.asid q.va).servedReq rid o q .zero []
      else if o.opc = 0x87 ∧ 2 ≤ q.attr.home then s.servedReq rid o q .zero []
      else if q.stage == .home && s.heldLanes o q then s
      else s.afterStage rid o q given (s.stage (s.coreOfBlock o.block) (s.ctxOf o.block) q (needOf o q) given) := by
  unfold State.advanceReq
  simp only [hq, ho, State.reqWaits, State.flushHeld, Bool.and_eq_true, Bool.or_eq_true, decide_eq_true_eq, and_assoc]
  rfl

/-- A step for a request's stage advances it. -/
theorem State.atStage_due (given : List Byte) (hq : s.req? rid = some q) : s.atStage q.stage given rid = s.advanceReq rid given := by
  simp only [State.atStage, hq, beq_self_eq_true, if_true]

theorem State.reqWaits_of_not {s : State} {o : Op} {q : Req}
    (h : q.stage = .home → ¬(s.going q.op o = false ∨ (o.lanesIn q).any (fun l => s.laneBlocked q.op o l))) : s.reqWaits o q = false := by
  refine Bool.eq_false_iff.mpr fun hw => ?_
  obtain ⟨hs, hw⟩ := Bool.and_eq_true_iff.mp hw
  refine h (beq_iff_eq.mp hs) ?_
  simpa only [Bool.or_eq_true, Bool.not_eq_true'] using hw

theorem State.reqWaits_of (hs : q.stage = .home) (h : s.going q.op o = false ∨ (o.lanesIn q).any (fun l => s.laneBlocked q.op o l)) :
    s.reqWaits o q = true := by
  simp only [State.reqWaits, hs, beq_self_eq_true, Bool.true_and, Bool.or_eq_true, Bool.not_eq_true']
  exact h

theorem State.flushHeld_iff :
    s.flushHeld q ↔ q.attr.home < 2 ∧ (s.lineBusy q.asid q.va q.size ∨ (s.lineAt q.attr.tarn q.asid q.va).any (fun l => s.lineRetiring l)) := by
  simp only [State.flushHeld, Bool.and_eq_true, Bool.or_eq_true, decide_eq_true_eq]

end

/-! ## POLL's timers -/

theorem execPollBackoffEnd_eq {s : State} {o : Op} {l : LaneOp} (h : s.pollWaiting s.sel.x s.sel.y = some (o, l)) :
    execPollBackoffEnd s =
      if l.due ≤ s.clock || limitElapsed s.clock o.issued l then .next (s.pollAgain s.sel.x s.sel.y) else .next s := by
  simp only [execPollBackoffEnd, h]

theorem execPollLimitElapsed_eq {s : State} {o : Op} {l : LaneOp} (h : s.pollWaiting s.sel.x s.sel.y = some (o, l)) :
    execPollLimitElapsed s = if limitElapsed s.clock o.issued l then .next (s.pollAgain s.sel.x s.sel.y) else .next s := by
  simp only [execPollLimitElapsed, h]

/-! ## What an access does where it is served -/

section
variable (s : State) (id : Nat) {o : Op} (a : Attr) (wh : Where) (given : List Byte) (l : LaneOp)

/-- The words at the lane's address where its access is served, with the state after the read. -/
def State.laneRead (s : State) (o : Op) (a : Attr) (wh : Where) (given : List Byte) (l : LaneOp) : List Byte × State :=
  s.readAt s.regRead (s.coreOfBlock o.block) a wh (nameAsid (s.ctxOf o.block).asid l.ea) l.ea (opWidth o.opc o.f) given

/-- `t` after the lane's access of `s` has left a value at its address. -/
def State.laneLeaves (s : State) (o : Op) (a : Attr) (wh : Where) (l : LaneOp) (t : State) (v : Nat) : State :=
  t.writeAt ⟨false, (s.ctxOf o.block).secure⟩ (s.coreOfBlock o.block) a wh (nameAsid (s.ctxOf o.block).asid l.ea) l.ea
    (bytesOf (opWidth o.opc o.f) v) (some l.key)

/-- The lane's access has ended with these words. -/
def State.laneEnds (t : State) (id : Nat) (l : LaneOp) (res : List Word) : State :=
  t.updLane id l.lane (fun l =>
    { l with
      stage := .done
      res := res })

/-- What an atomic leaves, by what stood there and the lane's operand. -/
def Op.combined (o : Op) (l : LaneOp) (old : Nat) : Nat :=
  combineAtomic (Rule.sub o.f) (Rule.ty o.f) (Rule.msat o.f) old (ofWords l.b)

variable {s id a wh given l}

theorem State.performLane_load (h : o.opc = 0x80) :
    s.performLane id o a wh given l =
      (s.laneRead o a wh given l).2.laneEnds id l (loadWords (Rule.ty o.f) (s.laneRead o a wh given l).1) := by
  unfold State.performLane
  simp only [h, State.laneRead]
  rfl

theorem State.performLane_store (h : o.opc = 0x81) :
    s.performLane id o a wh given l = (s.laneLeaves o a wh l s (ofWords l.b)).laneEnds id l [] := by
  unfold State.performLane
  simp only [h, State.laneLeaves]
  rfl

theorem State.performLane_atom (h : o.opc = 0x88) :
    s.performLane id o a wh given l =
      (s.laneLeaves o a wh l (s.laneRead o a wh given l).2 (o.combined l (ofBytes (s.laneRead o a wh given l).1))).laneEnds id l
        (wordsOf (Rule.regs (Rule.ty o.f)) (ofBytes (s.laneRead o a wh given l).1)) := by
  unfold State.performLane
  simp only [h, State.laneLeaves, State.laneRead]
  rfl

theorem State.performLane_cas (h : o.opc = 0x89) :
    s.performLane id o a wh given l =
      (if ofBytes (s.laneRead o a wh given l).1 = ofWords l.b then
        s.laneLeaves o a wh l (s.laneRead o a wh given l).2 (ofWords l.c) else (s.laneRead o a wh given l).2).laneEnds id l
        (wordsOf (Rule.regs (Rule.ty o.f)) (ofBytes (s.laneRead o a wh given l).1)) := by
  unfold State.performLane
  simp only [h, State.laneLeaves, State.laneRead]
  rfl

theorem State.performLane_red (h : o.opc = 0x8A) :
    s.performLane id o a wh given l =
      (s.laneLeaves o a wh l (s.laneRead o a wh given l).2 (o.combined l (ofBytes (s.laneRead o a wh given l).1))).laneEnds id l [] := by
  unfold State.performLane
  simp only [h, State.laneLeaves, State.laneRead]
  rfl

/-- POISON.CLEAR leaves zeros over the whole line (R276). -/
theorem State.performLane_poisonClear (h : o.opc = 0xA6) :
    s.performLane id o a wh given l =
      (s.writeAt ⟨false, (s.ctxOf o.block).secure⟩ (s.coreOfBlock o.block) a wh (nameAsid (s.ctxOf o.block).asid l.ea)
        (l.ea / s.pageLine a * s.pageLine a) (bytesOf (s.pageLine a) 0) (some l.key)).laneEnds id l [] := by
  unfold State.performLane
  simp only [h]
  rfl

end

section
variable {s : State} {a : Attr} {asid va : Nat} {line : Line}

theorem State.readAt_home (regs : Nat → Nat) (agent n : Nat) (given : List Byte) (h : s.lineAt a.tarn asid va = some line) :
    s.readAt regs agent a .home asid va n given = (s.overlays asid va ((line.data.drop (va - line.va)).take n), s) := by
  simp only [State.readAt, h]

/-- Under write-back a line at its home takes the bytes written and is dirty (R112). -/
theorem State.writeAt_home (who : Writer) (agent : Nat) (data : List Byte) (own : Option Nat) (h : s.lineAt a.tarn asid va = some line)
    (hw : tdbWpol (s.tdb a.tarn) = 0) :
    s.writeAt who agent a .home asid va data own =
      ((s.setMem { s.m with images := cutImages s.m.images asid va data.length }).noteWrite (some (line.bank / 16)) asid va
        data.length own).updLine line (fun x =>
          { x with
            data := spliceBytes x.data (va - x.va) data
            dirty := true }) := by
  have hl : (s.setMem { s.m with images := cutImages s.m.images asid va data.length }).lineAt a.tarn asid va = some line := h
  have hwb : (tdbWpol ((s.setMem { s.m with images := cutImages s.m.images asid va data.length }).tdb a.tarn) == 0) = true :=
    beq_iff_eq.mpr hw
  simp only [State.writeAt, hl, hwb, Bool.or_true, if_true]

end

/-! ## Integer combinations -/

section
variable {ty : Nat} (sat : Bool) (x y : Nat)

theorem not_float_of_notMem (h : ty ∉ [13, 14, 20, 21]) :
    ¬(decide (ty = 13) || decide (ty = 14)) = true ∧ ¬(decide (ty = 20) || decide (ty = 21)) = true := by
  simp only [List.mem_cons, List.not_mem_nil, or_false, not_or] at h
  obtain ⟨h13, h14, h20, h21⟩ := h
  simp [h13, h14, h20, h21]

theorem combineAtomic_add (h : ty ∉ [13, 14, 20, 21]) :
    combineAtomic 0 ty sat x y = writeInt ty (satInt sat ty (readInt ty x + readInt ty y)) :=
  (if_neg (not_float_of_notMem h).1).trans (if_neg (not_float_of_notMem h).2)

theorem combineAtomic_min (h : ty ∉ [13, 14, 20, 21]) :
    combineAtomic 1 ty sat x y = writeInt ty (min (readInt ty x) (readInt ty y)) :=
  (if_neg (not_float_of_notMem h).1).trans (if_neg (not_float_of_notMem h).2)

theorem combineAtomic_max (h : ty ∉ [13, 14, 20, 21]) :
    combineAtomic 2 ty sat x y = writeInt ty (max (readInt ty x) (readInt ty y)) :=
  (if_neg (not_float_of_notMem h).1).trans (if_neg (not_float_of_notMem h).2)

end

end Sys2Proof.Machine

namespace Sys2Proof.Proofs

open Sys2Proof Sys2Proof.Machine Sys2Proof.Laws Sys2Proof.Claims

/-- Settles O18: a step for the stage at which a request stands advances it (`State.advanceReq_eq`, walked branch by branch); what a
lane's access leaves is said by opcode, what a line gives and takes at its home by `readAt_home` and `writeAt_home`. -/
theorem requestSteps : Obligations.RequestSteps := by
  unfold Obligations.RequestSteps
  refine ⟨?_, ?_, ?_, ?_⟩
  · intro s rid q o remote hq ho hsel given i core waits flushHeld done back poisoned
    have hstep : exec i s = .next (s.advanceReq rid given) := by
      cases hst : q.stage with
      | controller =>
        have hi : i = .memoryControllerAccess rid remote := by simp only [i, hst]
        have hg : given = remote := if_pos hst
        rw [hi, hg, ← State.atStage_due remote hq, hst]
        rfl
      | home | shard | fill =>
        have hg : given = [] := if_neg (by rw [hst]; decide)
        have hx : s.sel.x = rid := hsel (by rw [hst]; decide)
        rw [hg, ← State.atStage_due [] hq, hst, ← hx]
        simp only [i, hst]
        rfl
    rw [hstep, State.advanceReq_eq given hq ho]
    refine ⟨fun hs hw => congrArg _ (if_pos (State.reqWaits_of hs hw)), fun hw => ?_⟩
    rw [if_neg (by rw [State.reqWaits_of_not hw]; decide)]
    refine ⟨fun h8 hf => congrArg _ (if_pos ⟨h8, State.flushHeld_iff.mpr hf⟩), fun h8 hf => ?_, fun h9 => ?_, fun h7 hh => ?_,
      fun h8 h9 h7 => ?_⟩
    · rw [if_neg fun h => hf (State.flushHeld_iff.mp h.2), if_pos h8]
      rfl
    · rw [if_neg (by simp [h9]), if_neg (by simp [h9]), if_pos h9]
    · rw [if_neg (by simp [h7]), if_neg (by simp [h7]), if_neg (by simp [h7]), if_pos ⟨h7, hh⟩]
    rw [if_neg fun h => h8 h.1, if_neg h8, if_neg h9, if_neg fun h => absurd (h7 h.1) (Nat.not_lt.mpr h.2)]
    refine ⟨fun hs hh => congrArg _ (if_pos (by rw [hs, hh]; rfl)), fun hh => ?_⟩
    rw [if_neg fun h => by
      obtain ⟨hs, held⟩ := Bool.and_eq_true_iff.mp h
      exact absurd held (by rw [hh (beq_iff_eq.mp hs)]; decide)]
    refine ⟨fun s1 q' h => ?_, fun s1 h => ?_, fun s1 k h => ?_, fun s1 h => ?_, fun s1 wh h => ?_⟩ <;>
      rw [show s.stage (s.coreOfBlock o.block) (s.ctxOf o.block) q (needOf o q) given = _ from h]
    · rfl
    · rfl
    · rfl
    · exact ⟨fun h7 => congrArg _ (if_pos h7), fun h7 => congrArg _ (if_neg h7)⟩
    · refine ⟨fun hh => congrArg _ (if_pos hh), fun hh => ?_⟩
      have free : s.afterStage rid o q given (s1, .serve wh) = _ := if_neg (by rw [hh]; decide)
      rw [free]
      exact ⟨fun hc => congrArg _ (if_pos hc), fun hc => congrArg _ (if_neg (by rw [hc]; decide))⟩
  · intro s o l h
    refine ⟨fun hd => ?_, fun hd hl => ?_, fun hl => ?_, fun hl => ?_⟩
    · exact (execPollBackoffEnd_eq h).trans (if_pos (by simp [hd]))
    · exact (execPollBackoffEnd_eq h).trans (if_neg (by simp [hl, hd]))
    · exact (execPollLimitElapsed_eq h).trans (if_pos hl)
    · exact (execPollLimitElapsed_eq h).trans (if_neg (by rw [hl]; decide))
  · intro s id o a wh given l core who asid w ty got old whole left new ends
    refine ⟨State.performLane_load, State.performLane_store, State.performLane_atom, fun h e => ?_, fun h e => ?_, State.performLane_red,
      State.performLane_poisonClear, fun line va n agent data own hl => ⟨State.readAt_home _ _ _ _ hl, State.writeAt_home _ _ _ _ hl⟩⟩
    · exact (State.performLane_cas h).trans (congrArg (fun t => State.laneEnds t id l _) (if_pos e))
    · exact (State.performLane_cas h).trans (congrArg (fun t => State.laneEnds t id l _) (if_neg e))
  · intro ty sat x y h
    exact ⟨combineAtomic_add sat x y h, combineAtomic_min sat x y h, combineAtomic_max sat x y h, rfl, rfl, rfl, rfl⟩

end Sys2Proof.Proofs
end

section
/-! Outstanding instructions complete (R153, R248, R325); DISCARD (R137, R271) and the TARN instructions (R116 to R118, R273, R274) at their
units. -/

namespace Sys2Proof.Machine

open Sys2Proof.Laws

section
variable {s : State} {o : Op}

theorem execStoreAck_eq (h : s.op? s.sel.x = some o) (hr : s.residentOp o) :
    execStoreAck s = if ackOp o.opc then .next (s.endOp s.sel.x o) else .next s := by
  simp only [execStoreAck, h, hr, Bool.and_true]

/-- The cases of a step for an instruction of a resident block. -/
theorem State.complete_eq {id : Nat} (h : s.op? id = some o) (hr : s.residentOp o) :
    s.complete id =
      if o.opc = 0xB0 && !o.lanes.isEmpty then
        (if o.lanes.all (fun l => s.fenceMet id o l) then (s.finishOp id).tryPlans o.block else s)
      else if laneDone o && !ackOp o.opc then s.endOp id o
      else if s.going id o then s.unitOp id o
      else s := by
  simp only [State.complete, h, hr, Bool.not_true, Bool.false_eq_true, if_false]

/-- DISCARD and the TARN instructions reach their unit. -/
theorem State.complete_unit {id : Nat} (h : s.op? id = some o) (hr : s.residentOp o) (hl : s.live o.block) (hne : o.lanes ≠ [])
    (hopc : o.opc ∈ [0x8E, 0xA0, 0xA1, 0xA2, 0xA3, 0xA4]) : s.complete id = s.unitOp id o := by
  simp only [List.mem_cons, List.not_mem_nil, or_false] at hopc
  have nofence : ¬(decide (o.opc = 0xB0) && !o.lanes.isEmpty) = true := by
    have : o.opc ≠ 0xB0 := by omega
    simp [this]
  have whole : laneDone o = false := by
    have nonempty : o.lanes.isEmpty = false := by simpa using hne
    rcases hopc with e | e | e | e | e | e <;> simp [laneDone, nonempty, e]
  rw [State.complete_eq h hr, if_neg nofence, if_neg (by rw [whole]; exact Bool.false_ne_true), if_pos (State.going_of_live hl)]

theorem Op.lanes_ne_nil_of_leader {l : LaneOp} (h : o.leader = some l) : o.lanes ≠ [] := by
  rintro e
  simp [Op.leader, e, minBy] at h

end

/-! ## DISCARD -/

/-- An outstanding DISCARD notes how far it has come. -/
def State.discardReached (s : State) (id va : Nat) : State :=
  s.updOp id (fun o => { o with move := o.move.map (fun m => { m with dst := va }) })

/-- What an outstanding DISCARD does, by what the pages of its range end in. -/
def State.afterDiscard (id : Nat) (l : LaneOp) : State × Discarded → State
  | (s1, .done) => s1.finishOp id
  | (s1, .fault k va) => (s1.discardReached id va).faultLeader id l k va true
  | (s1, .held va) => s1.discardReached id va

theorem State.discardOp_eq {s : State} {id : Nat} {o : Op} {m : Move} {l : LaneOp} (h : s.op? id = some o) (hm : o.move = some m)
    (hl : o.leader = some l) (hs : l.stage = .sent) :
    s.discardOp id =
      if s.poBlocked id l.key true (fun p x => !opScratch p.opc && m.src / 512 ≤ x.ea / 512 && x.ea < m.src + m.len) then s
      else State.afterDiscard id l (s.discardPages (s.ctxOf o.block) m.dst (m.src + m.len)
        (s.pagesOfRange (s.ctxOf o.block) m.dst (m.src + m.len))) := by
  simp only [State.discardOp, h, hm, hl, hs, bne_self_eq_false, Bool.false_or]
  rfl

section
variable {s : State} {c : Ctx} {lo hi : Nat} {a : Attr} {rest : List Found}

theorem State.discardPages_outside (h : a.va < lo ∨ hi < a.va + a.size) :
    s.discardPages c lo hi (.page a :: rest) = s.discardPages c lo hi rest :=
  if_pos (by simpa using h)

theorem State.discardPages_inside (h1 : lo ≤ a.va) (h2 : a.va + a.size ≤ hi) :
    s.discardPages c lo hi (.page a :: rest) =
      match s.permit c a .write with
      | some k => (s, .fault k a.va)
      | none =>
        if s.ticketHolds a.asid a.va a.size none || s.holderIn (s.doomedIn a a.va a.size) then (s, .held a.va)
        else (s.discardPage a).discardPages c lo hi rest :=
  (if_neg (by simp [h1, h2])).trans rfl

end

/-! ## TARN instructions -/

/-- What a TARN instruction does with the verdict of R118. -/
def State.tarnActs (s : State) (id : Nat) (o : Op) (t : Nat) : TarnVerdict → State
  | .refused code => s.tarnResult id code t
  | .accepted d =>
    if o.opc = 0xA0 then (s.acceptTarn (tarnOpOf o.opc) d).tarnResult id 0 t
    else (s.acceptTarn (tarnOpOf o.opc) d).updOp id (fun o => { o with tag := t })

/-- What a TARN instruction does with its image. -/
def State.afterImage (s : State) (id : Nat) (o : Op) (l : LaneOp) : State × Except MemErr (List Byte) → State
  | (s1, .error (.page k a)) => s1.faultLeader id l k a false
  | (s1, .error (.poisoned a)) => s1.poisonLeader id o l a
  | (_, .error .held) => s
  | (s1, .ok b) =>
    s1.tarnActs id o (tdbField (BitVec.ofNat 512 (ofBytes b)) 0 10)
      (s1.judgeTarn (tarnOpOf o.opc) (s.ctxOf o.block).secure (BitVec.ofNat 512 (ofBytes b)))

section
variable {s : State} {id : Nat} {o : Op} {l : LaneOp}

theorem State.submitTarn_eq (h : s.op? id = some o) (htag : o.tag = 0) (hg : s.going id o) (hl : o.leader = some l) (hs : l.stage = .sent) :
    s.submitTarn id =
      if o.opc = 0xA4 then s.tarnActs id o (l.ea % 1024) (s.judgeRetire (s.ctxOf o.block).secure l.ea)
      else if s.poBlocked id l.key false (fun p x => !opScratch p.opc && opWrites p.opc && x.ea / 512 == l.ea / 512) then s
      else s.afterImage id o l (s.load (s.agentOf o.block l.key) l.ea 64) := by
  simp only [State.submitTarn, h, htag, hg, hl, hs, ne_eq, not_true, decide_false, Bool.not_true, Bool.or_self, Bool.false_eq_true,
    if_false, bne_self_eq_false]
  rfl

theorem State.unitOp_tarn (hopc : o.opc ∈ [0xA0, 0xA1, 0xA2, 0xA3, 0xA4]) (htag : o.tag = 0) : s.unitOp id o = s.submitTarn id := by
  simp only [List.mem_cons, List.not_mem_nil, or_false] at hopc
  rcases hopc with e | e | e | e | e <;> simp [State.unitOp, e, htag]

end

/-! ## Fields of a descriptor -/

/-- A field put into a number: what lies below it, the field, what lies above it. -/
theorem put_eq_parts (x lo len w : Nat) :
    x - bits x lo len * 2 ^ lo + w * 2 ^ lo = 2 ^ (lo + len) * (x / 2 ^ (lo + len)) + (2 ^ lo * w + x % 2 ^ lo) := by
  have split : x = 2 ^ (lo + len) * (x / 2 ^ (lo + len)) + (2 ^ lo * bits x lo len + x % 2 ^ lo) := by
    have low := Nat.div_add_mod x (2 ^ lo)
    have mid := Nat.div_add_mod (x / 2 ^ lo) (2 ^ len)
    rw [Nat.div_div_eq_div_mul, ← Nat.pow_add] at mid
    calc x = 2 ^ lo * (2 ^ len * (x / 2 ^ (lo + len)) + x / 2 ^ lo % 2 ^ len) + x % 2 ^ lo := by rw [mid, low]
      _ = _ := by rw [bits, Nat.shiftRight_eq_div_pow, Nat.mul_add, ← Nat.mul_assoc, ← Nat.pow_add, Nat.add_assoc]
  have field : bits x lo len * 2 ^ lo = 2 ^ lo * bits x lo len := Nat.mul_comm _ _
  have value : w * 2 ^ lo = 2 ^ lo * w := Nat.mul_comm _ _
  omega

theorem testBit_put {x lo len w : Nat} (hw : w < 2 ^ len) (j : Nat) :
    (x - bits x lo len * 2 ^ lo + w * 2 ^ lo).testBit j =
      if j < lo then x.testBit j else if j < lo + len then w.testBit (j - lo) else x.testBit j := by
  have low : x % 2 ^ lo < 2 ^ lo := Nat.mod_lt _ (Nat.two_pow_pos lo)
  have below : 2 ^ lo * w + x % 2 ^ lo < 2 ^ (lo + len) := by
    calc 2 ^ lo * w + x % 2 ^ lo < 2 ^ lo * w + 2 ^ lo := Nat.add_lt_add_left low _
      _ = 2 ^ lo * (w + 1) := (Nat.mul_succ _ _).symm
      _ ≤ 2 ^ lo * 2 ^ len := Nat.mul_le_mul_left _ hw
      _ = 2 ^ (lo + len) := (Nat.pow_add 2 lo len).symm
  rw [put_eq_parts, Nat.testBit_two_pow_mul_add _ below, Nat.testBit_two_pow_mul_add _ low, Nat.testBit_mod_two_pow,
    Nat.testBit_div_two_pow]
  by_cases hlo : j < lo
  · simp [hlo, Nat.lt_add_right len hlo]
  · by_cases hhi : j < lo + len
    · simp [hlo, hhi]
    · simp [hlo, hhi, Nat.sub_add_cancel (Nat.le_of_not_lt hhi)]

section
variable {d : BitVec 512} {lo len v lo' len' : Nat}

theorem testBit_tdbField (d : BitVec 512) (lo len j : Nat) : (tdbField d lo len).testBit j = (decide (j < len) && d.getLsbD (lo + j)) := by
  rw [tdbField, bits, Nat.testBit_mod_two_pow, Nat.testBit_shiftRight]
  rfl

theorem getLsbD_tdbPut (j : Nat) (hj : j < 512) :
    (tdbPut d lo len v).getLsbD j =
      if j < lo then d.getLsbD j else if j < lo + len then (v % 2 ^ len).testBit (j - lo) else d.getLsbD j := by
  rw [tdbPut, BitVec.getLsbD_ofNat, tdbField, testBit_put (Nat.mod_lt _ (Nat.two_pow_pos len)), decide_eq_true hj, Bool.true_and]
  rfl

@[simp] theorem tdbField_tdbPut_same (h : lo + len ≤ 512) : tdbField (tdbPut d lo len v) lo len = v % 2 ^ len := by
  refine Nat.eq_of_testBit_eq fun j => ?_
  rw [testBit_tdbField]
  by_cases hj : j < len
  · rw [getLsbD_tdbPut _ (by omega), if_neg (by omega), if_pos (by omega), Nat.add_sub_cancel_left, decide_eq_true hj, Bool.true_and]
  · simp [hj, Nat.testBit_mod_two_pow]

@[simp] theorem tdbField_tdbPut_apart (h : lo' + len' ≤ lo ∨ lo + len ≤ lo') (h' : lo' + len' ≤ 512) :
    tdbField (tdbPut d lo len v) lo' len' = tdbField d lo' len' := by
  refine Nat.eq_of_testBit_eq fun j => ?_
  rw [testBit_tdbField, testBit_tdbField]
  by_cases hj : j < len'
  · rw [getLsbD_tdbPut _ (by omega)]
    by_cases hlo : lo' + j < lo
    · rw [if_pos hlo]
    · rw [if_neg hlo, if_neg (by omega)]
  · simp [hj]

end

theorem tdbField_lt (d : BitVec 512) (lo len : Nat) : tdbField d lo len < 2 ^ len := Nat.mod_lt _ (Nat.two_pow_pos len)

theorem State.tdb_setTdb (s : State) (t : Nat) (d : BitVec 512) : (s.setTdb t d).tdb t = d :=
  (Tab.get_set ..).trans (if_pos rfl)

theorem State.tdb_retree (s0 s : State) (t : Nat) : (State.retree s0 s).tdb t = s.tdb t := rfl

/-- DEF makes the Tarn ACTIVE, with GEN one higher and the image's mapping (R116). -/
theorem State.acceptTarn_def (s : State) (d : BitVec 512) :
    tdbState ((s.acceptTarn .def_ d).tdb (tdbField d 0 10)) = 0
    ∧ tdbField ((s.acceptTarn .def_ d).tdb (tdbField d 0 10)) 160 32 = (tdbField (s.tdb (tdbField d 0 10)) 160 32 + 1) % 2 ^ 32
    ∧ mappingOf ((s.acceptTarn .def_ d).tdb (tdbField d 0 10)) = mappingOf d := by
  simp only [State.acceptTarn, State.tdb_retree, State.tdb_setTdb]
  refine ⟨?_, ?_, ?_⟩
  · simp [tdbState, entered_]
  · simp [entered_]
  · simp [mappingOf, entered_, withImage]

/-- GROW, SHRINK and MOVE make it RESIZING, with the image's mapping (R117). -/
theorem State.acceptTarn_resizes (s : State) (d : BitVec 512) {op : TarnOp} (h : op ∈ [TarnOp.grow, .shrink, .move]) :
    tdbState ((s.acceptTarn op d).tdb (tdbField d 0 10)) = 1
    ∧ tdbField ((s.acceptTarn op d).tdb (tdbField d 0 10)) 160 32 = tdbField (s.tdb (tdbField d 0 10)) 160 32
    ∧ mappingOf ((s.acceptTarn op d).tdb (tdbField d 0 10)) = mappingOf d := by
  have gen : tdbField (s.tdb (tdbField d 0 10)) 160 32 < 4294967296 := tdbField_lt _ _ _
  simp only [List.mem_cons, List.not_mem_nil, or_false] at h
  rcases h with rfl | rfl | rfl <;> simp only [State.acceptTarn, State.tdb_retree, State.tdb_setTdb] <;>
    refine ⟨by simp [tdbState], by simp [withImage, Nat.mod_eq_of_lt gen], by simp [mappingOf, withImage]⟩

end Sys2Proof.Machine

namespace Sys2Proof.Proofs

open Sys2Proof Sys2Proof.Machine Sys2Proof.Laws Sys2Proof.Claims

/-- Settles O25: what a step does with an instruction of a resident block is `State.complete_eq`; DISCARD and the TARN instructions reach
their units (`State.complete_unit`), which `discardOp_eq` and `submitTarn_eq` state; the descriptor's fields are those of `acceptTarn`. -/
theorem instructionsComplete : Obligations.InstructionsComplete := by
  unfold Obligations.InstructionsComplete
  refine ⟨?_, ?_, ?_, ?_⟩
  · intro s o h hr
    have complete : exec .variableLatencyComplete s = .next (s.stilled (s.complete s.sel.x)) := rfl
    have ack : exec .storeAck s = _ := execStoreAck_eq h hr
    rw [complete, ack, State.complete_eq h hr]
    have fence (he : o.opc = 0xB0) (hne : o.lanes ≠ []) : (decide (o.opc = 0xB0) && !o.lanes.isEmpty) = true := by simp [he, hne]
    refine ⟨fun ha hd => ?_, fun hn => ?_, fun he hne hm => ?_, fun ha hd hall hor => ?_, fun he hne hm => ?_⟩
    · rw [if_pos ha, State.endOp, if_pos hd]
    · split
      · next ha =>
        rcases hn with hn | hn
        · rw [hn] at ha
          exact absurd ha (by decide)
        · rw [State.endOp, if_neg (by rw [hn]; decide)]
      · rfl
    · rw [if_pos (fence he hne), if_neg (by rw [hm]; decide)]
    · have nofence : ¬(decide (o.opc = 0xB0) && !o.lanes.isEmpty) = true := by
        rcases hor with h | h <;> simp [h]
      rw [if_neg nofence, if_pos (by rw [hd, ha]; rfl), State.endOp, if_pos hall]
    · rw [if_pos (fence he hne), if_pos hm]
  · intro s o l id c ends h hr hlive hl hs
    have hne : o.lanes ≠ [] := Op.lanes_ne_nil_of_leader hl
    have step (hopc : o.opc ∈ [0x8E, 0xA0, 0xA1, 0xA2, 0xA3, 0xA4]) :
        exec .variableLatencyComplete s = .next (s.stilled (s.unitOp id o)) := by
      rw [← State.complete_unit h hr hlive hne hopc]
      rfl
    refine ⟨?_, ?_, ?_⟩
    · intro m hopc hm hi behind pages reached
      have unit : s.unitOp id o = s.discardOp id := by simp [State.unitOp, hopc]
      have ends_iff (t : State) (e : s.discardOp id = t) : ends t := by
        rw [← e, ← unit]
        exact step (by simp [hopc])
      have eq := State.discardOp_eq h hm hl hs
      refine ⟨fun hb => ends_iff _ (eq.trans (if_pos hb)), fun hb s1 hp => ?_, fun hb s1 k va hp => ?_, fun hb s1 va hp => ?_⟩ <;>
        exact ends_iff _ (eq.trans ((if_neg (by rw [show s.poBlocked _ _ _ _ = false from hb]; decide)).trans (congrArg _ hp)))
    · intro hopc htag t d u barred
      have eq := State.submitTarn_eq h htag (State.going_of_live hlive) hl hs
      rw [if_pos hopc] at eq
      have ends_iff (v : TarnVerdict) (hv : s.judgeRetire c.secure l.ea = v) : ends (s.tarnActs id o t v) := by
        have := step (by simp [hopc])
        rwa [State.unitOp_tarn (by simp [hopc]) htag, eq, hv] at this
      have bar : (!c.secure && tdbWorld d) = true ↔ barred := by simp only [Bool.and_eq_true, Bool.not_eq_true', barred]
      refine ⟨fun hb => ?_, fun hb he => ?_, fun hb hea ht hbusy => ?_, fun hb hea ht hbusy => ?_⟩
      · exact ends_iff (.refused 4) (if_pos (bar.mpr hb))
      · exact ends_iff (.refused 3) ((if_neg (mt bar.mp hb)).trans (if_pos (by simpa using he)))
      · exact ends_iff (.refused 1) ((if_neg (mt bar.mp hb)).trans ((if_neg (by simp [hea, show l.ea % 1024 ≠ 0 from ht])).trans (if_pos hbusy)))
      · have acts := ends_iff (.accepted d) ((if_neg (mt bar.mp hb)).trans ((if_neg (by simp [hea, show l.ea % 1024 ≠ 0 from ht])).trans (if_neg (by
          rw [show s.tarnBusy .retire _ = false from hbusy]
          decide))))
        have retire : tarnOpOf o.opc = .retire := by
          rw [hopc]
          rfl
        rw [show s.tarnActs id o t (.accepted d) = _ from if_neg (by rw [hopc]; decide), retire] at acts
        exact acts
    · intro hopc htag behind read
      have eq := State.submitTarn_eq h htag (State.going_of_live hlive) hl hs
      have image : o.opc ≠ 0xA4 := by
        rintro e
        simp [e] at hopc
      rw [if_neg image] at eq
      have any : o.opc ∈ [0x8E, 0xA0, 0xA1, 0xA2, 0xA3, 0xA4] ∧ o.opc ∈ [0xA0, 0xA1, 0xA2, 0xA3, 0xA4] := by
        simp only [List.mem_cons, List.not_mem_nil, or_false] at hopc ⊢
        omega
      obtain ⟨six, five⟩ := any
      have ends_iff (t : State) (e : s.submitTarn id = t) : ends t := by
        rw [← e, ← State.unitOp_tarn five htag]
        exact step six
      have goes (hb : behind = false) (r) (hr : read = r) : ends (s.afterImage id o l r) :=
        ends_iff _ (eq.trans ((if_neg (by rw [show s.poBlocked _ _ _ _ = false from hb]; decide)).trans (congrArg _ hr)))
      refine ⟨fun hb => ends_iff _ (eq.trans (if_pos hb)), fun hb s1 k a hr => goes hb _ hr, fun hb s1 a hr => goes hb _ hr,
        fun hb s1 hr => goes hb _ hr, ?_⟩
      intro hb s1 b hr d t verdict
      have judged (v : TarnVerdict) (hv : verdict = v) : ends (s1.tarnActs id o t v) := hv ▸ goes hb _ hr
      refine ⟨fun code hv => judged _ hv, fun e hv h0 => ?_, fun e hv h0 => ?_⟩
      · have acts := judged _ hv
        have define : tarnOpOf o.opc = .def_ := if_pos h0
        rw [show s1.tarnActs id o t (.accepted e) = _ from if_pos h0, define] at acts
        exact acts
      · have acts := judged _ hv
        rw [show s1.tarnActs id o t (.accepted e) = _ from if_neg h0] at acts
        exact acts
  · intro s c lo hi a rest page held
    refine ⟨rfl, fun k va => rfl, fun h => State.discardPages_outside h, fun h1 h2 => ?_, ?_⟩
    · have eq : page = _ := State.discardPages_inside h1 h2
      refine ⟨fun k hk => ?_, fun hn hh => ?_, fun hn hh => ?_⟩
      · rw [eq, hk]
      · rw [eq, hn]
        exact if_pos hh
      · rw [eq, hn]
        exact if_neg (by rw [show (_ || _) = false from hh]; decide)
    · intro s1 s2 mark known off hoff
      have hoff' : (((((s.dropLines a.asid a.va a.size).resend a.asid a.va a.size).invalidate a.asid a.va a.size).doom (s.doomedIn a a.va
        a.size)).snoopHarts a.asid a.va a.size none true).paClass a.leaf = .memory off := hoff
      simp only [State.discardPage, hoff']
      rfl
  · intro s d t gen defined
    obtain ⟨active, geN, mapping⟩ := s.acceptTarn_def d
    exact ⟨active, geN, mapping, fun op h => s.acceptTarn_resizes d h⟩

end Sys2Proof.Proofs
end

section
/-! The end of a save, and failed lane slices (R55, R246, R347, R403, R436, R438). -/

namespace Sys2Proof.Machine

section
variable {s : State} {blk : Nat} {b : Block} {r : Record}

/-- The state in which the image of a block is written: its aborts done, its instructions recorded, its counts stopped. -/
def State.saveReady (s : State) (blk : Nat) (b : Block) (r : Record) : State :=
  ((((s.endAborts blk).recordOps blk).freeze blk).dropDirty (b.core.getD 0) r.asid).updBlock blk (fun b => { b with saving := false })

/-- The write of a block's image. -/
def State.writesImage (s : State) (blk : Nat) (b : Block) (r : Record) : State × Bool :=
  (s.saveReady blk b r).saveBytes b.launch r blk (r.saveBase + 65536 + b.image * r.imageSize) r.imageSize

/-- A block whose image is written leaves its core. -/
def State.leftCore (s : State) (blk : Nat) (b : Block) : State :=
  (s.updBlock blk (fun b =>
    { b with
      core := none
      chunks := [] })).refreshLaunch b.launch

theorem State.endSave_none (h : s.block? blk = none) : s.endSave blk = s := by
  simp only [State.endSave, h]

theorem State.endSave_notDue (hb : s.block? blk = some b) (hr : s.record? blk = some r)
    (h : s.saveDue blk b = false ∨ s.saveHeld r b.image = true) : s.endSave blk = s := by
  have stays : (!s.saveDue blk b || s.saveHeld r b.image) = true := by rcases h with h | h <;> simp [h]
  simp only [State.endSave, hb, hr, stays, if_true]

/-- The end of a save that is due, by what its writes give. -/
theorem State.endSave_due (hb : s.block? blk = some b) (hr : s.record? blk = some r) (hd : s.saveDue blk b = true)
    (hh : s.saveHeld r b.image = false) {x : State × Bool}
    (hx : (if (s.writesImage blk b r).2 then (s.writesImage blk b r).1.saveWeirs b.launch r blk else s.writesImage blk b r) = x) :
    s.endSave blk =
      if !x.2 then x.1.remapCore (b.core.getD 0)
      else (if s.killedBlock b then (x.1.leftCore blk b).killLaunch b.launch else x.1.leftCore blk b).remapCore (b.core.getD 0) := by
  subst hx
  simp only [State.endSave, hb, hr, hd, hh, Bool.not_true, Bool.or_self, Bool.false_eq_true, if_false]
  rfl

end

end Sys2Proof.Machine

namespace Sys2Proof.Proofs

open Sys2Proof Sys2Proof.Machine Sys2Proof.Laws Sys2Proof.Claims

/-- Settles O39: the end of a save is `State.endSave_due`, by what the write of the image and that of the Weir contexts give. -/
theorem savesAndRemaps : Obligations.SavesAndRemaps := by
  unfold Obligations.SavesAndRemaps
  intro s core slice unreadable
  have step : exec .blockSaveComplete s = .next (s.endSave s.sel.x) := rfl
  rw [step]
  refine ⟨fun h => congrArg _ (State.endSave_none h), fun b r hb hr => ⟨fun h => congrArg _ (State.endSave_notDue hb hr h), ?_⟩, ?_⟩
  · intro hd hh home s1 image
    have wrote (w) (h : image = w) : s.writesImage s.sel.x b r = w := h
    refine ⟨fun w hw => ?_, fun w hw => ⟨fun x hx => ?_, fun x hx => ?_⟩⟩
    · exact congrArg _ (State.endSave_due hb hr hd hh (x := (w, false)) (by rw [wrote _ hw]; rfl))
    · exact congrArg _ (State.endSave_due hb hr hd hh (x := (x, false)) (by rw [wrote _ hw]; exact hx))
    · intro y
      have eq := State.endSave_due hb hr hd hh (x := (x, true)) (by rw [wrote _ hw]; exact hx)
      refine ⟨fun hk => ?_, fun hk => ?_⟩
      · rw [hk] at eq
        exact congrArg _ eq
      · rw [hk] at eq
        exact congrArg _ eq
  · intro fails vs s1 s2
    have stays : (512 ≤ core || 65 ≤ slice || (s.coreOf core).stopped || decide ((s.coreOf core).mode = 2)) = true ↔ ¬fails := by
      simp only [fails, Bool.or_eq_true, decide_eq_true_eq, not_and_or, Nat.not_lt, ne_eq, not_not, Bool.not_eq_false, or_assoc]
    exact ⟨fun h => if_neg (mt stays.mp (not_not_intro h)), fun h => if_pos (stays.mpr h)⟩

end Sys2Proof.Proofs
end

section
/-! Line entry (R148, R149, R152, R154, R178, R492) and the timers of groups (R35, R39 to R41, R50, R203). -/

namespace Sys2Proof.Machine

section
variable {s : State} {g : Group}

/-- The state in which the group `sel.x` enters a line. -/
def State.atEntry (s : State) : State := s.setCur ⟨s.sel.x, none, false, none, 0⟩

/-- A line with bad parity is dropped, to be fetched again (R148). -/
def State.awaitRefetch (s : State) (gid : Nat) (g : Group) : State :=
  (s.dropInst (s.coreOfBlock g.block) (nameAsid (s.ctxOf g.block).asid (lineOf g.pc.toNat)) (lineOf g.pc.toNat)).updGroup gid (fun g =>
    { g with refetch := true })

theorem execLineEntry_none (h : s.atEntry.entering s.sel.x = none) : execLineEntry s = .next s := by
  simp only [execLineEntry, show (s.setCur _).entering s.sel.x = none from h]

theorem execParityRefetch_none (h : s.atEntry.entering s.sel.x = none) : execParityRefetch s = .next s := by
  simp only [execParityRefetch, show (s.setCur _).entering s.sel.x = none from h]

theorem execLineEntry_holds {b : BitVec 512} (h : s.atEntry.entering s.sel.x = some g) (hl : g.heldLine = some b) :
    execLineEntry s = .next (s.atEntry.meetWait s.sel.x b) := by
  simp only [execLineEntry, show (s.setCur _).entering s.sel.x = some g from h, hl]
  rfl

theorem execLineEntry_fetches (h : s.atEntry.entering s.sel.x = some g) (hl : g.heldLine = none) :
    execLineEntry s = .next (s.atEntry.entryFetch s.sel.x g s.atEntry (fun s1 b =>
      if lineParityOk b then s1.enterLine s.sel.x g b else s1.awaitRefetch s.sel.x g)) := by
  simp only [execLineEntry, show (s.setCur _).entering s.sel.x = some g from h, hl]
  rfl

theorem execParityRefetch_fetches (h : s.atEntry.entering s.sel.x = some g) (hr : g.refetch = true) :
    execParityRefetch s = .next ((s.atEntry.updGroup s.sel.x (fun g => { g with refetch := false })).entryFetch s.sel.x g s.atEntry
      (fun s1 b => if lineParityOk b then s1.enterLine s.sel.x g b else s1.entryTrap s.sel.x g .parity)) := by
  simp only [execParityRefetch, show (s.setCur _).entering s.sel.x = some g from h, hr, Bool.not_true, Bool.false_eq_true, if_false]
  rfl

/-- What the fetch of the line being entered comes to (R492). -/
theorem State.entryFetch_eq {gid : Nat} {again : State} {ok : State → BitVec 512 → State} {r : State × Except MemErr (BitVec 512)}
    (h : s.fetch (s.coreOfBlock g.block) (s.ctxOf g.block) (lineOf g.pc.toNat) = r) :
    (∀ s1 k a, r = (s1, .error (.page k a)) →
      s.entryFetch gid g again ok = s1.groupFault gid g lineOf false ((s1.lanesAt g).map (fun l => (l.key, a, k))))
    ∧ (∀ s1 a, r = (s1, .error (.poisoned a)) → s.entryFetch gid g again ok = s1.entryLanes gid g ⟨.poisoned, 0, some a, false⟩)
    ∧ (∀ s1, r = (s1, .error .held) → s.entryFetch gid g again ok = again)
    ∧ (∀ s1 b, r = (s1, .ok b) → s.entryFetch gid g again ok = ok s1 b) := by
  simp only [State.entryFetch, h]
  exact ⟨fun s1 k a e => by rw [e], fun s1 a e => by rw [e], fun s1 e => by rw [e], fun s1 b e => by rw [e]⟩

theorem State.enterLine_badTarget {gid : Nat} {b : BitVec 512} (hf : g.fresh) (hb : bit (lineTargets b) (slotNo g.pc.toNat) = false) :
    s.enterLine gid g b = s.entryLanes gid g ⟨.target, 0, none, false⟩ :=
  if_pos (by rw [hf, hb]; rfl)

theorem State.enterLine_badWord {gid : Nat} {b : BitVec 512} (hf : g.fresh = false) (hb : lineWordOk b = false) :
    s.enterLine gid g b = (s.updGroup gid (fun g => { g with fresh := false })).entryTrap gid g .illegal := by
  simp only [State.enterLine, hf, hb, Bool.false_and, Bool.false_eq_true, if_false, Bool.not_false, if_true]

end

/-! ## Timers and waits -/

section
variable {s : State} {g : Group} (h : s.group? s.sel.x = some g)
include h

theorem execRegroupFlagWaitEnd_eq (hl : s.live g.block) :
    execRegroupFlagWaitEnd s =
      if g.parks.contains .regroup ∧ s.groupIdle s.sel.x g then
        (if g.plan.isSome then .next (s.tryPlan s.sel.x) else .next (s.unpark s.sel.x (fun p => p == .regroup)))
      else .next s := by
  simp only [execRegroupFlagWaitEnd, h, hl, Bool.not_true, Bool.or_false, Bool.or_eq_true, Bool.not_eq_true']
  by_cases hi : s.groupIdle s.sel.x g <;> by_cases hp : Park.regroup ∈ g.parks <;> simp [hi, hp]

theorem execCoveAgeTimeout_eq (hl : s.live g.block) :
    execCoveAgeTimeout s = if s.coveFree g ∧ g.due ≤ s.clock then .next (s.issueCove s.sel.x) else .next s := by
  simp only [execCoveAgeTimeout, h, hl, Bool.and_true, Bool.and_eq_true, decide_eq_true_eq]

theorem execYieldReleaseTimeout_eq (hl : s.live g.block) :
    execYieldReleaseTimeout s =
      if g.st = .cove then .next ((s.updGroup s.sel.x (fun g =>
        { g with releases := g.releases.map (fun r => if r.due ≤ s.clock then { r with groups := [] } else r) })).checkCoves g.block)
      else .next s := by
  simp only [execYieldReleaseTimeout, h, hl, Bool.and_true, beq_iff_eq]

end

/-! ## Held threads -/

/-- The threads of a group that are held, each with its PC. -/
def State.heldOf (s : State) (g : Group) : List (Held × Pc) :=
  g.members.filterMap (fun k => (s.thread? k).bind (fun t => t.held.map (fun h => (h, t.pc))))

/-- The group is in a Backwater wait, of a block that runs. -/
def State.inBackwater (s : State) (g : Group) : Prop :=
  g.st = .backwater ∧ g.plan = none ∧ g.awaited = [] ∧ g.parks.contains .regroup = false ∧ s.live g.block

@[simp] theorem State.updThread_coreOf (s : State) (k : Nat) (u : Thread → Thread) (core : Nat) :
    (s.updThread k u).coreOf core = s.coreOf core := rfl

/-- The threads at a PC go on, and the others of the group are held (R39). -/
theorem State.setCurrent_eq (s : State) (core gid : Nat) (pc : Pc) (members : List Nat) {limit : Nat} (hl : s.ageTimeout core = limit) :
    s.setCurrent core gid pc members false =
      (members.foldl (fun s k => s.updThread k (fun t =>
        { t with held := if t.pc == pc then none else some (t.held.getD ⟨s.clock, limit⟩) })) s).updGroup gid (fun g =>
          { g with
            pc := pc
            line := none }) := by
  have each : ∀ (t : State), t.ageTimeout core = limit → members.foldl (fun s k => s.updThread k (fun t =>
      if t.pc == pc then { t with held := none } else { t with held := some (t.held.getD ⟨s.clock, s.ageTimeout core⟩) })) t =
      members.foldl (fun s k => s.updThread k (fun t =>
        { t with held := if t.pc == pc then none else some (t.held.getD ⟨s.clock, limit⟩) })) t := by
    induction members with
    | nil => exact fun _ _ => rfl
    | cons k ks ih =>
      intro t ht
      have one : t.updThread k (fun u =>
          if u.pc == pc then { u with held := none } else { u with held := some (u.held.getD ⟨t.clock, t.ageTimeout core⟩) }) =
          t.updThread k (fun u => { u with held := if u.pc == pc then none else some (u.held.getD ⟨t.clock, limit⟩) }) := by
        refine congrArg _ (funext fun u => ?_)
        rw [ht]
        split <;> rfl
      rw [List.foldl_cons, List.foldl_cons, one]
      exact ih _ ht
  unfold State.setCurrent
  rw [each s hl]
  rfl

section
variable {s : State} {gid : Nat} {g : Group} (hg : s.group? gid = some g)
include hg

theorem State.expireHeld_none (h : minBy (fun p => p.1.since) (s.heldOf g) = none) : s.expireHeld gid = s := by
  simp only [State.expireHeld, hg, show minBy _ (g.members.filterMap _) = none from h]

theorem State.expireHeld_some {h : Held} {pc : Pc} (hm : minBy (fun p => p.1.since) (s.heldOf g) = some (h, pc)) :
    s.expireHeld gid =
      if g.st == .backwater && g.plan.isNone && g.awaited.isEmpty && !g.parks.contains .regroup && s.live g.block
        && h.since + h.timeout ≤ s.clock then
        (s.setCurrent (s.coreOfBlock g.block) gid pc g.members false).unpark gid (fun p => p == .wait || p == .barrier || p == .stage)
      else s := by
  simp only [State.expireHeld, hg, show minBy _ (g.members.filterMap _) = some (h, pc) from hm]

omit hg in
theorem State.inBackwater_iff :
    (g.st == .backwater && g.plan.isNone && g.awaited.isEmpty && !g.parks.contains .regroup && s.live g.block) = true ↔ s.inBackwater g := by
  simp only [State.inBackwater, Bool.and_eq_true, beq_iff_eq, Option.isNone_iff_eq_none, List.isEmpty_iff, Bool.not_eq_true', and_assoc]

end

end Sys2Proof.Machine

namespace Sys2Proof.Proofs

open Sys2Proof Sys2Proof.Machine Sys2Proof.Laws Sys2Proof.Claims

/-- Settles O41: line entry by what the group holds and what its fetch comes to (`State.entryFetch_eq`); the timers by their conditions;
of the held threads the one held longest decides (`State.expireHeld_some`). -/
theorem lineAndTimerSteps : Obligations.LineAndTimerSteps := by
  unfold Obligations.LineAndTimerSteps
  refine ⟨?_, fun s h => ⟨execLineEntry_none h, execParityRefetch_none h⟩, ?_, ?_⟩
  · intro s g gid s0 line hent
    refine ⟨fun b hb => execLineEntry_holds hent hb, fun i again hi => ?_, fun s1 b hb hf => State.enterLine_badWord hf hb,
      fun s1 b hf hb => State.enterLine_badTarget hf hb⟩
    intro fetched
    rcases hi with ⟨rfl, hl, rfl⟩ | ⟨rfl, hr, rfl⟩
    · have step : exec .lineEntry s = _ := execLineEntry_fetches hent hl
      rw [step]
      obtain ⟨page, poisoned, held, ok⟩ := State.entryFetch_eq (gid := gid) (again := s.atEntry) (ok := fun s1 b =>
        if lineParityOk b then s1.enterLine gid g b else s1.awaitRefetch gid g) (show _ = fetched from rfl)
      refine ⟨fun s1 b h hp => congrArg _ ((ok s1 b h).trans (if_pos hp)), fun s1 k a h => congrArg _ (page s1 k a h),
        fun s1 a h => congrArg _ (poisoned s1 a h), fun s1 h => congrArg _ (held s1 h), fun s1 b h hp => ⟨fun _ => ?_, nofun⟩⟩
      exact congrArg _ ((ok s1 b h).trans (if_neg (by rw [hp]; decide)))
    · have step : exec .parityRefetch s = _ := execParityRefetch_fetches hent hr
      rw [step]
      obtain ⟨page, poisoned, held, ok⟩ := State.entryFetch_eq (gid := gid) (again := s.atEntry) (ok := fun s1 b =>
        if lineParityOk b then s1.enterLine gid g b else s1.entryTrap gid g .parity) (show _ = fetched from rfl)
      refine ⟨fun s1 b h hp => congrArg _ ((ok s1 b h).trans (if_pos hp)), fun s1 k a h => congrArg _ (page s1 k a h),
        fun s1 a h => congrArg _ (poisoned s1 a h), fun s1 h => congrArg _ (held s1 h), fun s1 b h hp => ⟨nofun, fun _ => ?_⟩⟩
      exact congrArg _ ((ok s1 b h).trans (if_neg (by rw [hp]; decide)))
  · intro s g hg hl
    have regroup : exec .regroupFlagWaitEnd s = _ := execRegroupFlagWaitEnd_eq hg hl
    have cove : exec .coveAgeTimeout s = _ := execCoveAgeTimeout_eq hg hl
    have release : exec .yieldReleaseTimeout s = _ := execYieldReleaseTimeout_eq hg hl
    rw [regroup, cove, release]
    refine ⟨fun hp hi hs => (if_pos ⟨hp, hi⟩).trans (if_pos hs), fun hp hi hn => (if_pos ⟨hp, hi⟩).trans (if_neg (by rw [hn]; decide)),
      fun hi => if_neg (by simp [hi]), fun hf hd => if_pos ⟨hf, hd⟩, fun hn => if_neg ?_, fun hc => if_pos hc, fun hc => if_neg hc⟩
    rintro ⟨hf, hd⟩
    rcases hn with hn | hn
    · rw [hn] at hf
      exact absurd hf (by decide)
    · omega
  · intro s g hg gid held longest waits limit
    have step : exec .heldThreadAgeTimeout s = .next (s.expireHeld gid) := rfl
    rw [step]
    refine ⟨fun h pc hm hw hd => ?_, fun hn => ?_, fun h pc hm hd => ?_⟩
    · intro chosen
      refine congrArg _ ((State.expireHeld_some hg hm).trans ((if_pos ?_).trans ?_))
      · rw [State.inBackwater_iff.mpr hw, decide_eq_true hd]
        rfl
      · rw [State.setCurrent_eq s _ _ _ _ (show _ = limit from rfl)]
    · rcases hm : longest with _ | ⟨h, pc⟩
      · exact congrArg _ (State.expireHeld_none hg hm)
      · have hw : ¬waits := hn.resolve_left (by rw [hm]; exact nofun)
        refine congrArg _ ((State.expireHeld_some hg hm).trans (if_neg fun e => hw ?_))
        exact State.inBackwater_iff.mp (Bool.and_eq_true_iff.mp e).1
    · refine congrArg _ ((State.expireHeld_some hg hm).trans (if_neg fun e => ?_))
      exact absurd (of_decide_eq_true (Bool.and_eq_true_iff.mp e).2) (Nat.not_le.mpr hd)

end Sys2Proof.Proofs
end

section
/-! The collective instructions at issue and at their unit (R240, R467, R468, R473, R474). -/

namespace Sys2Proof.Machine

open Sys2Proof.Laws

/-! ## At issue -/

section
variable {s : State} {op : Nat} {f : Slot} {g : Group} {l : LaneV} {rest : List LaneV}

/-- The lanes of COLL.ALLRED and COLL.BCAST, with the leader's address, length and word. -/
def collLanes (f : Slot) (l : LaneV) (run : List LaneV) : List LaneOp :=
  (sentLanes run (l.th.val f.a.toNat 2)).map (fun x =>
    { x with
      b := [BitVec.ofNat 32 (l.th.val f.b.toNat 1)]
      c := [l.th.reg f.c.toNat] })

variable (ho : outsideTx s g f) (hr : running s g f = l :: rest) (h : issues s op f g)
include ho hr h

theorem State.collStart_sets (ha : l.th.val f.a.toNat 2 % 16 = 0) (hn : l.th.val f.b.toNat 1 % 16 = 0)
    (hle : l.th.val f.b.toNat 1 ≤ 16777216) :
    s.collStart op f = .next (kept s op f g (if 2 ^ 57 ≤ l.th.val f.a.toNat 2 then
      (setOff s op f g (collLanes f l (l :: rest))).faultLanes s.nextId [l.lane] .nonCanon true
      else setOff s op f g (collLanes f l (l :: rest)))) := by
  refine State.groupWide_after h ho hr ?_
  refine (if_neg (not_not_intro ha)).trans ((if_neg ?_).trans rfl)
  simp [hn, hle]

theorem State.collStart_misaligned (ha : l.th.val f.a.toNat 2 % 16 ≠ 0) :
    s.collStart op f = .next (s.settleSlot (s.finish s.cur.group g (s.lanesOf g f)
      ⟨[], [], [(l.key, ⟨.misaligned, 0, some (l.th.val f.a.toNat 2), true⟩)], []⟩) s.cur.group g op f) :=
  State.groupWide_leaderTrap h ho hr (if_pos ha)

theorem State.collStart_badLength (ha : l.th.val f.a.toNat 2 % 16 = 0)
    (hn : l.th.val f.b.toNat 1 % 16 ≠ 0 ∨ 16777216 < l.th.val f.b.toNat 1) :
    s.collStart op f = .next (s.settleSlot (s.finish s.cur.group g (s.lanesOf g f)
      ⟨[], [], [(l.key, ⟨.copyLen, 0, none, false⟩)], []⟩) s.cur.group g op f) :=
  State.groupWide_leaderTrap h ho hr ((if_neg (not_not_intro ha)).trans (if_pos (by simpa using hn)))

end

/-! ## The way to the unit -/

theorem execVariableLatencyComplete_coll {s : State} {o : Op} (h : s.op? s.sel.x = some o) (hr : s.residentOp o) (hl : s.live o.block)
    (hne : o.lanes ≠ []) (hopc : o.opc ∈ [0xF4, 0xF5, 0xF6, 0xF7]) :
    execVariableLatencyComplete s = .next (s.stilled (s.collOp s.sel.x o)) := by
  have whole : laneDone o = false ∧ o.opc ≠ 0xB0 ∧ s.unitOp s.sel.x o = s.collOp s.sel.x o := by
    have nonempty : o.lanes.isEmpty = false := by simpa using hne
    simp only [List.mem_cons, List.not_mem_nil, or_false] at hopc
    rcases hopc with e | e | e | e <;> simp [laneDone, nonempty, State.unitOp, e]
  obtain ⟨whole, nofence, unit⟩ := whole
  simp [execVariableLatencyComplete, State.complete_eq h hr, whole, nofence, State.going_of_live hl, unit]

/-! ## Acceptance (R468) -/

theorem State.readPiece_atTurn (s : State) (g acc va n) : (s.readPiece g acc va n).1.atTurn = s.atTurn := by
  unfold State.readPiece
  grind [State.checkAddr_atTurn, State.readAt_atTurn, State.stages_atTurn, State.countDemand_atTurn, State.keepLine_atTurn]

theorem State.readPieces_atTurn (s : State) (g acc l) : (s.readPieces g acc l).1.atTurn = s.atTurn := by
  fun_induction State.readPieces <;> grind [State.readPiece_atTurn]

theorem State.load_atTurn (s : State) (g va n) : (s.load g va n).1.atTurn = s.atTurn := s.readPieces_atTurn _ _ _

theorem State.commEpoch_congr {s t : State} (h : s.atTurn = t.atTurn) (n : Nat) : s.commEpoch n = t.commEpoch n := by
  have other : s.r.other = t.r.other := congrArg (fun x => x.2.2) h
  rw [State.commEpoch, State.comm, other]
  rfl

/-- The slot that a lane's word names. -/
def LaneOp.collSlot (l : LaneOp) : Nat := (l.c.getD 0 0).toNat % 16

/-- The header of a round (R468): what every member must agree on. -/
def Op.collHeader (o : Op) (l : LaneOp) : CollHeader :=
  ⟨o.opc == 0xF5, if o.opc = 0xF5 then 0 else Rule.sub o.f, if o.opc = 0xF5 then 0 else Rule.ty o.f, (l.b.getD 0 0).toNat,
    if o.opc = 0xF5 then bits (l.c.getD 0 0).toNat 8 3 else 0⟩

/-- The round that an accepted instruction begins. -/
def State.newRound (s : State) (o : Op) (l : LaneOp) : Round :=
  { epoch := s.commEpoch l.collSlot
    seq := (s.slot l.collSlot).next
    header := o.collHeader l
    ring := s.commAlive l.collSlot
    addr := l.ea
    asid := (s.ctxOf o.block).asid
    priv := (s.ctxOf o.block).priv
    secure := (s.ctxOf o.block).secure
    sent := false
    due := s.clock + s.commTimeout l.collSlot
    input := []
    parts := []
    outcome := none }

/-- `t` with the round of slot `n` accepted, and its token written. -/
def Round.takenIn (r : Round) (n id : Nat) (t : State) : State :=
  (t.updSlot n (fun x =>
    { x with
      next := if r.seq = 65535 then 1 else r.seq + 1
      rounds := x.rounds.filter (fun q => q.seq != r.seq) ++ [r] })).finishWith id
    [BitVec.ofNat 32 (n * 2 ^ 28 + r.epoch % 4096 * 65536 + r.seq % 65536)]

/-- What an accepted round's input brings. -/
def State.afterInput (s : State) (r : Round) (n id : Nat) : State × Except MemErr (List Byte) → State
  | (s1, .ok b) => (r.takenIn n id s1).beginRound n r b
  | (_, .error .held) => s
  | (s1, .error _) => (r.takenIn n id s1).roundFault n r

theorem tokenOf_lt {n : Nat} (h : n < 16) (epoch seq : Nat) : tokenOf n epoch seq = n * 2 ^ 28 + epoch % 4096 * 65536 + seq % 65536 := by
  rw [tokenOf, Nat.mod_eq_of_lt h]

theorem LaneOp.collSlot_lt (l : LaneOp) : l.collSlot < 16 := Nat.mod_lt _ (by decide)

section
variable {s : State} {id : Nat} {o : Op} {l : LaneOp} (hl : o.leader = some l) (hs : l.stage = .sent)
include hl hs

/-- ALLRED or BCAST at its unit: it waits, faults, is refused, or its round is accepted. -/
theorem State.collAccept_eq {r : Round} (hr : s.newRound o l = r) :
    s.collAccept id o =
      if s.flowReady id { o with lanes := [l] } = false then s
      else if 2 ^ 57 ≤ l.ea then s.faultLanes id [l.lane] .nonCanon true
      else
        match s.collRefusal l.collSlot with
        | some code => s.finishWith id [BitVec.ofNat 32 (l.collSlot * 2 ^ 28 + code % 4096 * 65536)]
        | none =>
          if o.opc = 0xF5 ∧ bit r.ring r.header.root = false then (r.takenIn l.collSlot id s).endRound l.collSlot r.seq 6 0
          else if o.opc = 0xF5 ∧ r.header.root ≠ s.r.pkg then (r.takenIn l.collSlot id s).beginRound l.collSlot r []
          else s.afterInput r l.collSlot id (s.load r.agent l.ea (l.b.getD 0 0).toNat) := by
  subst hr
  have slot : (l.c.getD 0 0).toNat % 16 = l.collSlot := rfl
  have token (epoch seq : Nat) : tokenOf l.collSlot epoch seq = l.collSlot * 2 ^ 28 + epoch % 4096 * 65536 + seq % 65536 :=
    tokenOf_lt l.collSlot_lt _ _
  simp only [State.collAccept, hl, hs, slot, token, bne_self_eq_false, Bool.false_or, Bool.not_eq_true', Nat.zero_mod, Nat.add_zero,
    Bool.and_eq_true, beq_iff_eq, bne_iff_ne, ne_eq]
  refine ite_congr rfl (fun _ => rfl) fun _ => ite_congr rfl (fun _ => rfl) fun _ => ?_
  cases s.collRefusal l.collSlot with
  | some code => rfl
  | none =>
    refine ite_congr rfl (fun _ => rfl) fun _ => ite_congr rfl (fun _ => rfl) fun _ => ?_
    have epoch := State.commEpoch_congr (s.load_atTurn (s.newRound o l).agent l.ea (l.b.getD 0 0).toNat) l.collSlot
    split
    · next s1 b read =>
      have read : s.load (s.newRound o l).agent l.ea (l.b.getD 0 0).toNat = (s1, .ok b) := read
      rw [read] at epoch ⊢
      rw [epoch]
      rfl
    · next read =>
      have read : s.load (s.newRound o l).agent l.ea (l.b.getD 0 0).toNat = (_, .error .held) := read
      rw [read]
      rfl
    · next s1 e goes read =>
      have read : s.load (s.newRound o l).agent l.ea (l.b.getD 0 0).toNat = (s1, .error e) := read
      rw [read] at epoch ⊢
      rw [epoch]
      cases e with
      | held => exact (goes rfl).elim
      | page | poisoned => rfl

end

/-- The order of the refusals (R468). -/
theorem State.collRefusal_cases (s : State) (n : Nat) :
    (((s.reforming n).isSome ∨ (s.slot n).reformed = some s.clock) → s.collRefusal n = some 3)
    ∧ (¬((s.reforming n).isSome ∨ (s.slot n).reformed = some s.clock) →
      (bit (s.commAlive n) s.r.pkg = false → s.collRefusal n = some 1)
      ∧ (bit (s.commAlive n) s.r.pkg →
        (¬(s.slot n).open_.length < 16 → s.collRefusal n = some 2) ∧ ((s.slot n).open_.length < 16 → s.collRefusal n = none))) := by
  have first : ((s.reforming n).isSome || (s.slot n).reformed == some s.clock) = true ↔
      (s.reforming n).isSome ∨ (s.slot n).reformed = some s.clock := by simp only [Bool.or_eq_true, beq_iff_eq]
  unfold State.collRefusal
  refine ⟨fun h => if_pos (first.mpr h), fun h => ?_⟩
  rw [if_neg (mt first.mp h)]
  refine ⟨fun hm => if_pos (by rw [hm]; rfl), fun hm => ?_⟩
  rw [if_neg (by rw [hm]; decide)]
  exact ⟨fun hr => if_pos (Nat.not_lt.mp hr), fun hr => if_neg (Nat.not_le.mpr hr)⟩

/-! ## COLL.WAIT (R473) -/

/-- What a COLL.WAIT whose round has this status word gives. -/
def State.collGives (s : State) (id : Nat) (o : Op) (l : LaneOp) (w : Nat) : State :=
  if Rule.sub o.f = 1 ∨ w % 256 = 0 then s.finishWith id [BitVec.ofNat 32 w]
  else ((s.trapLanes id [l.lane] (fun _ => ⟨.peerLost, 0, none, false⟩)).finishOp id).tryPlans o.block

theorem State.collWaitOp_eq {s : State} {id : Nat} {o : Op} {l : LaneOp} (hl : o.leader = some l) :
    s.collWaitOp id o = ((s.roundWord (l.b.getD 0 0).toNat).map (s.collGives id o l)).getD s := by
  simp only [State.collWaitOp, hl]
  cases s.roundWord (l.b.getD 0 0).toNat with
  | none => rfl
  | some w => simp only [State.collGives, Option.map_some, Option.getD_some, Bool.or_eq_true, decide_eq_true_eq]

section
variable {s : State} {token : Nat}

theorem State.roundWord_stale (h : token % 65536 = 0 ∨ bits token 16 12 ≠ s.commEpoch (bits token 28 4) % 4096) :
    s.roundWord token = some 3 :=
  if_pos (by simpa using h)

theorem State.roundWord_current (h : ¬(token % 65536 = 0 ∨ bits token 16 12 ≠ s.commEpoch (bits token 28 4) % 4096)) :
    s.roundWord token =
      ((s.slot (bits token 28 4)).rounds.find? (fun r => r.seq == token % 65536)).bind (fun r =>
        r.outcome.map (fun o => o.2 * 256 + o.1)) := by
  refine (if_neg (by simpa using h)).trans ?_
  cases (s.slot (bits token 28 4)).rounds.find? (fun r => r.seq == token % 65536) <;> rfl

end

/-! ## COLL.REFORM (R474) -/

theorem State.collReformOp_eq {s : State} {id n : Nat} {o : Op} {l : LaneOp} (hl : o.leader = some l) (hn : (l.b.getD 0 0).toNat % 16 = n) :
    s.collReformOp id o =
      if (s.reforming n).isSome then s
      else ((s.updSlot n (fun c =>
        { c with
          reform := some ⟨id, Nat.xor (s.commAlive n) (Nat.land (s.commAlive n) (s.commSuspect n)), [], 0, s.clock + s.commTimeout n⟩
          reformed := some s.clock })).tell (Nat.xor (s.commAlive n) (Nat.land (s.commAlive n) (s.commSuspect n))) 3 n 0
            (bytesOf 1 (Nat.xor (s.commAlive n) (Nat.land (s.commAlive n) (s.commSuspect n))))).stepReform n false 65 := by
  subst hn
  simp only [State.collReformOp, hl]

end Sys2Proof.Machine

namespace Sys2Proof.Proofs

open Sys2Proof Sys2Proof.Machine Sys2Proof.Laws Sys2Proof.Claims

/-- Settles O42: the checks at issue one by one; at the unit the acceptance of a round (`State.collAccept_eq`), the word that a token's
round has (`State.collWaitOp_eq`), and the beginning of a reform. -/
theorem collectiveIssues : Obligations.CollectiveIssues := by
  unfold Obligations.CollectiveIssues
  refine ⟨?_, ?_⟩
  · intro s f g l rest ho hr addr len word trapped
    refine ⟨fun r hm h => ?_, fun i hi h => ?_, fun h => ?_⟩
    · have form : exec r.1 s = s.collStart r.2 f := by
        rcases List.mem_cons.mp hm with rfl | hm
        · rfl
        · rw [List.mem_singleton.mp hm]
          rfl
      intro begun
      rw [form]
      refine ⟨fun ha hn hle hlt => ?_, fun ha hn hle hge => ?_, State.collStart_misaligned ho hr h, State.collStart_badLength ho hr h⟩
      · rw [State.collStart_sets ho hr h ha hn hle, if_neg (Nat.not_le.mpr hlt)]
        rfl
      · rw [State.collStart_sets ho hr h ha hn hle, if_pos hge]
        rfl
    · have form : exec i s = s.collWaitIssue f := by
        rcases List.mem_cons.mp hi with rfl | hi
        · rfl
        · rw [List.mem_singleton.mp hi]
          rfl
      rw [form, State.collWaitIssue]
      exact State.groupWide_after h ho hr rfl
    · dsimp -zeta only [exec, execCollReform]
      exact State.groupWide_after h ho hr rfl
  · intro s o l id ends h hr hlive hl
    have hne : o.lanes ≠ [] := Op.lanes_ne_nil_of_leader hl
    have step (hopc : o.opc ∈ [0xF4, 0xF5, 0xF6, 0xF7]) (t : State) (ht : s.collOp id o = t) : ends t :=
      ht ▸ execVariableLatencyComplete_coll h hr hlive hne hopc
    refine ⟨?accept, ?wait, ?reform⟩
    case accept =>
      intro hopc hs word n len bcast root ready refused reforming member room
      have accepts : s.collOp id o = s.collAccept id o := by
        rcases hopc with e | e <;> simp [State.collOp, e]
      have goes (t : State) (ht : s.collAccept id o = t) : ends t :=
        step (by rcases hopc with e | e <;> simp [e]) t (accepts.trans ht)
      have eq := State.collAccept_eq (s := s) (id := id) hl hs rfl
      obtain ⟨first, others⟩ := s.collRefusal_cases l.collSlot
      have busy : s.flowReady id { o with lanes := [l] } = true → ¬s.flowReady id { o with lanes := [l] } = false := by simp
      refine ⟨fun hn => goes _ (eq.trans (if_pos hn)), fun hy hge => goes _ (eq.trans ((if_neg (busy hy)).trans (if_pos hge))), ?_⟩
      have past (hy : ready = true) (hlt : l.ea < 2 ^ 57) := eq.trans ((if_neg (busy hy)).trans (if_neg (Nat.not_le.mpr hlt)))
      refine ⟨fun hy hlt hf => ?_, fun hy hlt hf hm => ?_, fun hy hlt hf hm hroom => ?_, ?_⟩
      · have e := past hy hlt
        rw [first hf] at e
        exact goes _ e
      · have e := past hy hlt
        rw [(others hf).1 hm] at e
        exact goes _ e
      · have e := past hy hlt
        rw [((others hf).2 hm).1 hroom] at e
        exact goes _ e
      · intro hy hlt hf hm hroom c seq ring r read taken reads
        have e := past hy hlt
        rw [((others hf).2 hm).2 hroom] at e
        have header : o.collHeader l = r.header := by
          simp only [Op.collHeader, r, root, bcast, len, word, beq_eq_decide]
        have round : s.newRound o l = r := by
          rw [show r = { r with header := o.collHeader l } by rw [header]]
          rfl
        rw [round] at e
        have asked (h : reads) : s.collAccept id o = s.afterInput r n id read :=
          e.trans ((if_neg fun ⟨hb, hm⟩ => absurd (h hb).1 (by rw [show bit ring root = false from hm]; decide)).trans
            (if_neg fun ⟨hb, hne⟩ => hne (h hb).2))
        have brought (h : reads) (x) (hx : read = x) : s.collAccept id o = s.afterInput r n id x := hx ▸ asked h
        refine ⟨fun hb hm => goes _ (e.trans (if_pos ⟨hb, hm⟩)), fun hb hm hne => goes _ (e.trans ((if_neg ?_).trans (if_pos ⟨hb, hne⟩))),
          fun hin s1 b hx => goes _ (brought hin _ hx), fun hin s1 hx => goes _ (brought hin _ hx), fun hin s1 x hne hx => ?_⟩
        · rintro ⟨-, hm'⟩
          exact absurd hm (by rw [show bit ring root = false from hm']; decide)
        · have fault := brought hin _ hx
          cases x with
          | held => exact absurd rfl hne
          | page | poisoned => exact goes _ fault
    case wait =>
      intro hopc token n stale round given
      have goes (t : State) (ht : s.collWaitOp id o = t) : ends t :=
        step (by simp [hopc]) t ((by simp only [State.collOp, hopc] : s.collOp id o = s.collWaitOp id o).trans ht)
      have gives (code suspect : Nat) (hw : s.roundWord token = some (suspect * 256 + code)) : given code suspect := by
        have e : s.collWaitOp id o = s.collGives id o l (suspect * 256 + code) := by
          rw [State.collWaitOp_eq hl, show s.roundWord _ = _ from hw]
          rfl
        exact ⟨fun h => goes _ (e.trans (if_pos h)), fun h1 h2 => goes _ (e.trans (if_neg (not_or_intro h1 h2)))⟩
      refine ⟨fun hs => gives 3 0 (State.roundWord_stale hs), fun hs hr => goes _ ?_, fun hs r code suspect hr ho => gives _ _ ?_⟩
      · have running : s.roundWord token = none := by
          rw [State.roundWord_current hs]
          rcases hr with hr | ⟨r, hr, ho⟩ <;> rw [show List.find? _ _ = _ from hr]
          · rfl
          · exact congrArg (Option.map _) ho
        rw [State.collWaitOp_eq hl, show s.roundWord _ = none from running]
        rfl
      · rw [State.roundWord_current hs, show List.find? _ _ = some r from hr]
        exact congrArg (Option.map _) ho
    case reform =>
      intro hopc n set
      have goes (t : State) (ht : s.collReformOp id o = t) : ends t :=
        step (by simp [hopc]) t ((by simp only [State.collOp, hopc] : s.collOp id o = s.collReformOp id o).trans ht)
      have eq := State.collReformOp_eq (s := s) (id := id) hl (show _ = n from rfl)
      exact ⟨fun h => goes _ (eq.trans (if_pos h)), fun h => goes _ (eq.trans (if_neg (by rw [h]; exact nofun)))⟩

end Sys2Proof.Proofs
end

section
/-! The instructions of the host cores outside transactions, and the interrupt (R175, R231 to R237, R309, R451, R452, R478, R493). -/

namespace Sys2Proof.Machine

/-! ## What accesses of a hart leave of its turn -/

theorem State.doom_atTurn (s : State) (keys) : (s.doom keys).atTurn = s.atTurn := foldl_atTurn fun _ _ => rfl

theorem State.noteWrite_atTurn (s : State) (slice asid va len own) : (s.noteWrite slice asid va len own).atTurn = s.atTurn :=
  (State.snoopHarts_atTurn _ _ _ _ _ _).trans ((State.doom_atTurn _ _).trans (s.invalidate_atTurn _ _ _))

theorem State.writeAt_atTurn (s : State) (who agent a w asid va data own) : (s.writeAt who agent a w asid va data own).atTurn = s.atTurn := by
  unfold State.writeAt
  grind [State.noteWrite_atTurn, State.updLine_atTurn, State.drain_atTurn, State.translate_atTurn, State.ctrlWrite_atTurn,
    State.reclaimRecord_atTurn, State.setMem_atTurn]

theorem State.cleanLine_atTurn (s : State) (a asid va len) : (s.cleanLine a asid va len).atTurn = s.atTurn := by
  unfold State.cleanLine State.cleanRange
  grind [State.setMem_atTurn]

theorem State.writePiece_atTurn (s : State) (g va data full) : (s.writePiece g va data full).1.atTurn = s.atTurn := by
  unfold State.writePiece
  grind [State.checkAddr_atTurn, State.writeAt_atTurn, State.stages_atTurn, State.countDemand_atTurn, State.keepLine_atTurn,
    State.cleanLine_atTurn]

theorem State.writePieces_atTurn (s : State) (g full l data) : (s.writePieces g full l data).1.atTurn = s.atTurn := by
  fun_induction State.writePieces <;> grind [State.writePiece_atTurn]

theorem State.checkRange_atTurn (s : State) (g acc l) : (s.checkRange g acc l).1.atTurn = s.atTurn := by
  fun_induction State.checkRange <;> grind [State.checkAddr_atTurn]

theorem State.physRead_atTurn {s s1 : State} {pa n : Nat} {b : List Byte} (h : s.physRead pa n = .ok s1 b) : s1.atTurn = s.atTurn := by
  unfold State.physRead at h
  grind [State.freeBytes_atTurn, State.ctrlRead_atTurn]

theorem State.physWrite_atTurn {s s1 : State} {who : Writer} {pa : Nat} {data b : List Byte} (h : s.physWrite who pa data = .ok s1 b) :
    s1.atTurn = s.atTurn := by
  unfold State.physWrite at h
  grind [State.ctrlWrite_atTurn]

section
variable {s s1 : State} {h va : Nat} (ht : (s.hart h).tx = none)
include ht

theorem State.hostRead_atTurn {n : Nat} {acc : Access} {b : List Byte} (hr : s.hostRead h va n acc = .ok s1 b) : s1.atTurn = s.atTurn := by
  simp only [State.hostRead, ht, Option.isSome_none, Bool.false_eq_true, if_false] at hr
  grind [State.physRead_atTurn, State.checkRange_atTurn, State.readPieces_atTurn]

theorem State.hostWrite_atTurn {data b : List Byte} (hw : s.hostWrite h va data = .ok s1 b) : s1.atTurn = s.atTurn := by
  simp only [State.hostWrite, ht, Option.isSome_none, Bool.false_eq_true, if_false] at hw
  grind [State.physWrite_atTurn, State.checkRange_atTurn, State.writePieces_atTurn]

end

theorem State.updMe_eq {s t : State} (h : t.atTurn = s.atTurn) (u : Hart → Hart) : t.updHart s.cur.hart u = t.updMe u := by
  rw [State.updMe, show t.cur = s.cur from congrArg Prod.fst h]

/-! ## What checks leave of the harts -/

/-- The harts, and the worlds of their requests (R460). -/
def State.hartSide (s : State) : Tab Hart × Dword := (s.harts, s.r.world)

theorem State.setMem_hartSide (s : State) (m : MemSys) : (s.setMem m).hartSide = s.hartSide := rfl

theorem State.forgetAttr_hartSide (s : State) (agent asid va) : (s.forgetAttr agent asid va).hartSide = s.hartSide := rfl

theorem State.translate_hartSide (s : State) (secure asid va) : (s.translate secure asid va).1.hartSide = s.hartSide := by
  unfold State.translate
  grind [State.setMem_hartSide]

theorem State.requestAttr_hartSide (s : State) (agent secure asid va) : (s.requestAttr agent secure asid va).1.hartSide = s.hartSide := by
  unfold State.requestAttr
  grind [State.translate_hartSide, State.setMem_hartSide]

theorem State.askAttr_hartSide (s : State) (agent c asid va acc) : (s.askAttr agent c asid va acc).1.hartSide = s.hartSide := by
  unfold State.askAttr
  grind [State.forgetAttr_hartSide, State.requestAttr_hartSide, State.setMem_hartSide]

theorem State.checkAddr_hartSide (s : State) (g va acc inst) : (s.checkAddr g va acc inst).1.hartSide = s.hartSide := by
  unfold State.checkAddr
  grind [State.askAttr_hartSide]

theorem State.checkRange_hartSide (s : State) (g acc l) : (s.checkRange g acc l).1.hartSide = s.hartSide := by
  fun_induction State.checkRange <;> grind [State.checkAddr_hartSide]

theorem State.hartAgent_congr {s t : State} (h : t.hartSide = s.hartSide) (k : Nat) : t.hartAgent k = s.hartAgent k := by
  have harts : t.harts = s.harts := congrArg Prod.fst h
  have world : t.r.world = s.r.world := congrArg Prod.snd h
  unfold State.hartAgent State.hartCtx State.hart
  rw [harts, world]

/-! ## Outside transactions -/

section
variable {s : State} {h : Nat} (ht : (s.hart h).tx = none)
include ht

/-- An exception outside a transaction is raised (R349). -/
theorem State.raise_outside (cause tval : Nat) : s.raise h cause tval = s.updHart h (fun k => k.trap cause tval false) := by
  simp only [State.raise, ht, Option.isSome_none, Bool.false_eq_true, if_false]

theorem State.splits_outside {va n : Nat} : s.splits h va n = true ↔ va / 16 ≠ (va + n - 1) / 16 ∧ s.translating := by
  simp only [State.splits, ht, Option.isNone_none, Bool.true_and, Bool.and_eq_true, bne_iff_ne]
  exact and_comm

end

theorem State.notInTx_none {s : State} {body : Result} (h : s.me.tx = none) : s.notInTx body = body := by
  simp only [State.notInTx, h, Option.isSome_none, Bool.false_eq_true, if_false]

@[simp] theorem Hart.setX_pc (k : Hart) (r : BitVec 5) (v : Nat) : (k.setX r v).pc = k.pc := by
  rw [Hart.setX]
  split <;> rfl

theorem bytesOf_length (n v : Nat) : (bytesOf n v).length = n := by
  induction n generalizing v with
  | zero => rfl
  | succ n ih => rw [bytesOf, List.length_cons, ih]

/-! ## Loads and stores that cross a granule (R493) -/

/-- One part of a load. -/
def State.loadPart (s : State) (h : Nat) (p : Nat × Nat) : HostRead :=
  match s.readPieces (s.hartAgent h) .read [p] with
  | (s1, .ok b) => .ok s1 b
  | (_, .error e) => .fail e

/-- One part of a store. -/
def State.storePart (s : State) (h : Nat) (p : Nat × Nat) (data : List Byte) : HostRead :=
  match s.writePieces (s.hartAgent h) false [p] data with
  | (s1, .ok _) => .ok s1 []
  | (_, .error e) => .fail e

/-- The part of an access that comes first where `upper` is its number. -/
def halfOf (va n : Nat) (upper : Bool) : Nat × Nat := if upper then (halves va n).2 else (halves va n).1

/-- Its bytes of a store's data. -/
def halfBytes (va n : Nat) (data : List Byte) (upper : Bool) : List Byte :=
  if upper then data.drop (halves va n).1.2 else data.take (halves va n).1.2

section
variable {s : State} {h va n : Nat}

theorem State.loadPart_ok {p : Nat × Nat} {s1 : State} {b : List Byte} (e : s.readPieces (s.hartAgent h) .read [p] = (s1, .ok b)) :
    s.loadPart h p = .ok s1 b := by
  rw [State.loadPart, e]

theorem State.loadPart_fail {p : Nat × Nat} {s1 : State} {x : MemErr} (e : s.readPieces (s.hartAgent h) .read [p] = (s1, .error x)) :
    s.loadPart h p = .fail x := by
  rw [State.loadPart, e]

theorem State.storePart_ok {p : Nat × Nat} {data : List Byte} {s1 : State} {u : Unit}
    (e : s.writePieces (s.hartAgent h) false [p] data = (s1, .ok u)) : s.storePart h p data = .ok s1 [] := by
  rw [State.storePart, e]

theorem State.storePart_fail {p : Nat × Nat} {data : List Byte} {s1 : State} {x : MemErr}
    (e : s.writePieces (s.hartAgent h) false [p] data = (s1, .error x)) : s.storePart h p data = .fail x := by
  rw [State.storePart, e]

/-- The first part of an access is made once all of it has been checked. -/
theorem State.firstHalf_cases {acc : Access} {part : State → Bool → HostRead} {s1 : State} :
    (∀ e, s.checkRange (s.hartAgent h) acc (pieces va n 16) = (s1, some e) → s.firstHalf h va n acc part = s.hostFail h (acc != .read) e)
    ∧ (s.checkRange (s.hartAgent h) acc (pieces va n 16) = (s1, none) →
      (∀ s2 b, part { s1 with fresh := s1.fresh + 1 } ((Config.freeDword s1.fresh).getLsbD 0) = .ok s2 b →
        s.firstHalf h va n acc part = s2.updHart h (fun k => { k with wait := some (.half ((Config.freeDword s1.fresh).getLsbD 0) b) }))
      ∧ (∀ e, part { s1 with fresh := s1.fresh + 1 } ((Config.freeDword s1.fresh).getLsbD 0) = .fail e →
        s.firstHalf h va n acc part = s.hostFail h (acc != .read) e)) := by
  unfold State.firstHalf
  refine ⟨fun e he => by rw [he], fun hc => ⟨fun s2 b hp => ?_, fun e hp => ?_⟩⟩ <;> simp only [hc, hp]
  rfl

section
variable {ok : State → List Byte → State}

/-- A load that is made at once. -/
theorem State.hostLoad_whole (hs : s.splits h va n = false) :
    (∀ s1 b, s.hostRead h va n .read = .ok s1 b → s.hostLoad h va n ok = ok s1 b)
    ∧ (∀ e, s.hostRead h va n .read = .fail e → s.hostLoad h va n ok = s.hostFail h false e) := by
  refine ⟨fun s1 b hr => ?_, fun e hr => ?_⟩ <;>
    simp only [State.hostLoad, hs, hr, Bool.not_false, if_true]
  rfl

theorem State.hostLoad_first (hs : s.splits h va n = true) (hw : ¬∃ upper b, (s.hart h).wait = some (.half upper b)) :
    s.hostLoad h va n ok = s.firstHalf h va n .read (fun t upper => t.loadPart h (halfOf va n upper)) := by
  simp only [State.hostLoad, hs, Bool.not_true, Bool.false_eq_true, if_false]
  split
  · next upper got e => exact absurd ⟨upper, got, e⟩ hw
  · rfl

theorem State.hostLoad_second (hs : s.splits h va n = true) {upper : Bool} {first : List Byte}
    (hw : (s.hart h).wait = some (.half upper first)) :
    (∀ s1 b, s.loadPart h (halfOf va n (!upper)) = .ok s1 b → s.hostLoad h va n ok = ok s1 (if upper then b ++ first else first ++ b))
    ∧ (∀ e, s.loadPart h (halfOf va n (!upper)) = .fail e → s.hostLoad h va n ok = s.hostFail h false e) := by
  have form : s.hostLoad h va n ok =
      match s.loadPart h (halfOf va n (!upper)) with
      | .ok s1 b => ok s1 (if upper then b ++ first else first ++ b)
      | r => s.hostStop h false r := by
    simp only [State.hostLoad, hs, hw, Bool.not_true, Bool.false_eq_true, if_false] <;> rfl
  exact ⟨fun s1 b hr => by rw [form, hr], fun e hr => by rw [form, hr]; rfl⟩

end

section
variable {data : List Byte} {ok : State → State} (hd : data.length = n)
include hd

/-- A store that is made at once. -/
theorem State.hostStore_whole (hs : s.splits h va n = false) :
    (∀ s1 b, s.hostWrite h va data = .ok s1 b → s.hostStore h va data ok = ok s1)
    ∧ (∀ e, s.hostWrite h va data = .fail e → s.hostStore h va data ok = s.hostFail h true e) := by
  subst hd
  refine ⟨fun s1 b hr => ?_, fun e hr => ?_⟩ <;>
    simp only [State.hostStore, hs, hr, Bool.not_false, if_true]
  rfl

theorem State.hostStore_first (hs : s.splits h va n = true) (hw : ¬∃ upper b, (s.hart h).wait = some (.half upper b)) :
    s.hostStore h va data ok =
      s.firstHalf h va n .write (fun t upper => t.storePart h (halfOf va n upper) (halfBytes va n data upper)) := by
  subst hd
  simp only [State.hostStore, hs, Bool.not_true, Bool.false_eq_true, if_false]
  split
  · next upper got e => exact absurd ⟨upper, got, e⟩ hw
  · rfl

theorem State.hostStore_second (hs : s.splits h va n = true) {upper : Bool} {first : List Byte}
    (hw : (s.hart h).wait = some (.half upper first)) :
    (∀ s1 b, s.storePart h (halfOf va n (!upper)) (halfBytes va n data (!upper)) = .ok s1 b → s.hostStore h va data ok = ok s1)
    ∧ (∀ e, s.storePart h (halfOf va n (!upper)) (halfBytes va n data (!upper)) = .fail e →
      s.hostStore h va data ok = s.hostFail h true e) := by
  subst hd
  have form : s.hostStore h va data ok =
      match s.storePart h (halfOf va data.length (!upper)) (halfBytes va data.length data (!upper)) with
      | .ok s1 _ => ok s1
      | r => s.hostStop h true r := by
    simp only [State.hostStore, hs, hw, Bool.not_true, Bool.false_eq_true, if_false] <;> rfl
  exact ⟨fun s1 b hr => by rw [form, hr], fun e hr => by rw [form, hr]; rfl⟩

end

end

/-! ## Atomics and the Ivesh extension -/

theorem State.hostAfter_ok {s s1 : State} {store : Bool} {r : HostRead} {b : List Byte} {ok : State → List Byte → Result}
    (h : r = .ok s1 b) : s.hostAfter store r ok = ok s1 b := by
  rw [h]
  rfl

theorem State.hostAfter_fail {s : State} {store : Bool} {r : HostRead} {e : MemErr} {ok : State → List Byte → Result}
    (h : r = .fail e) : s.hostAfter store r ok = .next (s.hostFail s.cur.hart store e) := by
  rw [h]
  rfl

/-- The size of an AMO's, LR's or SC's operand. -/
def atomicSize (wide : Bool) : Nat := if wide then 8 else 4

section
variable {s : State} {aq rl wide : Bool} {rd rs1 rs2 : BitVec 5}

theorem execHostAtomic_misaligned (f5 : BitVec 5) (h : s.me.x rs1 % atomicSize wide ≠ 0) :
    execHostAtomic f5 aq rl wide rd rs1 rs2 s = .next (s.raise s.cur.hart (if f5 = 2 then 4 else 6) (s.me.x rs1)) := by
  have lr : f5.toNat = 2 ↔ f5 = 2 := BitVec.toNat_inj (y := 2)
  refine (if_pos h).trans ?_
  simp only [lr]

variable (h : s.me.x rs1 % atomicSize wide = 0)
include h

/-- LR reserves the bytes that it reads. -/
theorem execHostAtomic_lr :
    execHostAtomic 2 aq rl wide rd rs1 rs2 s =
      s.hostAfter false (s.hostRead s.cur.hart (s.me.x rs1) (atomicSize wide) .read) (fun s1 b => .next (s1.updMe (fun k =>
        { k.went rd (signExtend (8 * atomicSize wide) (ofBytes b)) with
          reservation := some (nameAsid (s.hartCtx s.cur.hart).asid (s.me.x rs1), s.me.x rs1, atomicSize wide) }))) :=
  (if_neg (not_not_intro h)).trans (if_pos rfl)

/-- SC stores where its reservation stands. -/
theorem execHostAtomic_sc :
    execHostAtomic 3 aq rl wide rd rs1 rs2 s =
      if s.me.reservation = some (nameAsid (s.hartCtx s.cur.hart).asid (s.me.x rs1), s.me.x rs1, atomicSize wide) then
        s.hostAfter true (s.hostWrite s.cur.hart (s.me.x rs1) (bytesOf (atomicSize wide) (s.me.x rs2))) (fun s1 _ =>
          .next (s1.updMe (fun k => { k.went rd 0 with reservation := none })))
      else .next (s.updMe (fun k => { k.went rd 1 with reservation := none })) :=
  (if_neg (not_not_intro h)).trans ((if_neg (by decide)).trans (if_pos rfl))

theorem execHostAtomic_amo {f5 : BitVec 5} (h2 : f5 ≠ 2) (h3 : f5 ≠ 3) :
    execHostAtomic f5 aq rl wide rd rs1 rs2 s =
      s.hostAfter true (s.hostRead s.cur.hart (s.me.x rs1) (atomicSize wide) .both) (fun s1 b =>
        s.hostAfter true (s1.hostWrite s.cur.hart (s.me.x rs1)
          (bytesOf (atomicSize wide) (amoValue f5.toNat (8 * atomicSize wide) (ofBytes b) (s.me.x rs2)))) (fun s2 _ =>
            .next (s2.updMe (fun k => k.went rd (signExtend (8 * atomicSize wide) (ofBytes b)))))) := by
  have not2 : ¬f5.toNat = 2 := mt (BitVec.toNat_inj (y := 2)).mp h2
  have not3 : ¬f5.toNat = 3 := mt (BitVec.toNat_inj (y := 3)).mp h3
  exact (if_neg (not_not_intro h)).trans ((if_neg not2).trans (if_neg not3))

end

/-- Reads that an XPOLL has made. -/
def Hart.pollReads (k : Hart) : Nat := match k.wait with | some (.poll _ _ _ n _) => n | _ => 0

/-- An XPOLL backs off. -/
def State.pollEarly (s : State) : Bool := match s.me.wait with | some (.poll _ _ _ _ due) => decide (s.clock < due) | _ => false

section
variable {s : State} {rd rs1 rs2 : BitVec 5} (h : s.me.tx = none)
include h

theorem execXlaunch_outside :
    execXlaunch rd rs1 s =
      if s.me.x rs1 % 128 ≠ 0 then .next (s.updMe (fun k => k.went rd 4))
      else s.hostAfter false (s.hostRead s.cur.hart (s.me.x rs1) 128 .read) (fun s1 b =>
        .next ((s1.submitRecord (ofBytes b) (s.hartCtx s.cur.hart).asid (s.hartCtx s.cur.hart).priv (s.hartCtx s.cur.hart).secure).1.updMe
          (fun k => k.went rd (s1.submitRecord (ofBytes b) (s.hartCtx s.cur.hart).asid (s.hartCtx s.cur.hart).priv
            (s.hartCtx s.cur.hart).secure).2))) :=
  State.notInTx_none h

theorem execXlwait_outside :
    execXlwait rd rs1 s =
      match s.waitWord 256 (s.me.x rs1 % 2 ^ 32) with
      | some w => .next (s.updMe (fun k => k.went rd w))
      | none => .next (s.updMe (fun k => { k with wait := some (.launch rd.toNat (s.me.x rs1 % 2 ^ 32)) })) :=
  (State.notInTx_none h).trans rfl

theorem execXpoll_outside :
    execXpoll rd rs1 rs2 s =
      if s.me.x rs1 % 8 ≠ 0 then .next (s.raise s.cur.hart 4 (s.me.x rs1))
      else if s.pollEarly then .next s
      else s.hostAfter false (s.hostRead s.cur.hart (s.me.x rs1) 8 .read) (fun s1 b =>
        if ofBytes b ≠ s.me.x rs2 then .next (s1.updMe (fun k => k.went rd (ofBytes b)))
        else .next (s1.updMe (fun k => { k with wait := some (.poll rd.toNat (s.me.x rs1) (BitVec.ofNat 64 (s.me.x rs2))
          (s.me.pollReads + 1) (s.clock + 64 * 2 ^ min s.me.pollReads 6)) }))) :=
  (State.notInTx_none h).trans rfl

/-- What XDISCARD does with what the pages of its range end in. -/
def State.afterXdiscard (s : State) : State × Discarded → Result
  | (s1, .done) => .next (s1.updMe (fun k => { k with pc := k.pc + 4 }))
  | (_, .fault _ va) => .next (s.raise s.cur.hart 15 va)
  | (_, .held _) => .next s

theorem execXdiscard_outside :
    execXdiscard rs1 rs2 s =
      if s.me.x rs2 = 0 || !s.translating then .next (s.updMe (fun k => { k with pc := k.pc + 4 }))
      else if 2 ^ 57 < s.me.x rs1 + s.me.x rs2 then .next (s.raise s.cur.hart 15 (s.me.x rs1))
      else s.afterXdiscard (s.discardPages (s.hartCtx s.cur.hart) (s.me.x rs1) (s.me.x rs1 + s.me.x rs2)
        (s.pagesOfRange (s.hartCtx s.cur.hart) (s.me.x rs1) (s.me.x rs1 + s.me.x rs2))) :=
  (State.notInTx_none h).trans rfl

end

end Sys2Proof.Machine

namespace Sys2Proof.Proofs

open Sys2Proof Sys2Proof.Machine Sys2Proof.Laws Sys2Proof.Claims

/-- Settles O44: loads and stores by whether they cross a granule and which part has been made (`hostLoad_*`, `hostStore_*`), atomics by
their form, the Ivesh extension by its outcome, and the interrupt by whether the hart takes it. -/
theorem hostResults : Obligations.HostResults := by
  unfold Obligations.HostResults
  intro s rd rs1 rs2 f3 imm f5 aq rl wide word
  refine ⟨fun ht => ?_, ?_⟩
  · intro h went past trapped failed va n at_ w name atomic access loaded stored data cut piece piecesOf me get put held waiting
    have htx : (s.hart h).tx = none := ht
    have raises (cause tval : Nat) : s.raise h cause tval = trapped cause tval := State.raise_outside htx cause tval
    have fails (store : Bool) (e : MemErr) : s.hostFail h store e = failed store e := by
      cases e with
      | page | poisoned => exact raises _ _
      | held => rfl
    have length : data.length = n := bytesOf_length _ _
    have loads (t : State) (e : s.hostLoad h va n (fun s1 b => s1.updHart h (fun k =>
        { k.setX rd (if f3.toNat < 4 then signExtend (8 * n) (ofBytes b) else ofBytes b) with
          pc := (k.setX rd (if f3.toNat < 4 then signExtend (8 * n) (ofBytes b) else ofBytes b)).pc + 4
          wait := none })) = t) : access false t := congrArg _ e
    have stores (t : State) (e : s.hostStore h va data (fun s1 => s1.updHart h (fun k =>
        { k with
          pc := k.pc + 4
          wait := none })) = t) : access true t := congrArg _ e
    have ran (t : State) (b : List Byte) (same : t.atTurn = s.atTurn) : t.updHart h (fun k =>
        { k.setX rd (if f3.toNat < 4 then signExtend (8 * n) (ofBytes b) else ofBytes b) with
          pc := (k.setX rd (if f3.toNat < 4 then signExtend (8 * n) (ofBytes b) else ofBytes b)).pc + 4
          wait := none }) = loaded t b := by
      rw [State.updMe_eq same]
      simp only [Hart.setX_pc]
      rfl
    have wrote (t : State) (same : t.atTurn = s.atTurn) : t.updHart h (fun k =>
        { k with
          pc := k.pc + 4
          wait := none }) = stored t := State.updMe_eq same _
    have crosses := State.splits_outside (va := va) (n := n) htx
    refine ⟨fun hn => ?whole, fun hx htr hw => ?first, fun hx htr upper first hw => ?second, ?misaligned, fun hal => ?atomics, ?rest⟩
    case whole =>
      have one : s.splits h va n = false := Bool.eq_false_iff.mpr fun e => by
        obtain ⟨hx, htr⟩ := crosses.mp e
        exact hn.elim hx fun hoff => absurd htr (by rw [hoff]; decide)
      obtain ⟨lok, lfail⟩ := State.hostLoad_whole (h := h) (va := va) (n := n) one
      obtain ⟨sok, sfail⟩ := State.hostStore_whole (h := h) (va := va) length one
      exact ⟨fun s1 b hr => loads _ ((lok s1 b hr).trans (ran s1 b (State.hostRead_atTurn htx hr))),
        fun e hr => loads _ ((lfail e hr).trans (fails false e)),
        fun s1 b hr => stores _ ((sok s1 b hr).trans (wrote s1 (State.hostWrite_atTurn htx hr))),
        fun e hr => stores _ ((sfail e hr).trans (fails true e))⟩
    case first =>
      have two := crosses.mpr ⟨hx, htr⟩
      have load := State.hostLoad_first (ok := fun s1 b => s1.updHart h (fun k =>
        { k.setX rd (if f3.toNat < 4 then signExtend (8 * n) (ofBytes b) else ofBytes b) with
          pc := (k.setX rd (if f3.toNat < 4 then signExtend (8 * n) (ofBytes b) else ofBytes b)).pc + 4
          wait := none })) two hw
      have store := State.hostStore_first (ok := fun s1 => s1.updHart h (fun k =>
        { k with
          pc := k.pc + 4
          wait := none })) length two hw
      have agent (acc) (s1 : State) (x) (hc : s.checkRange me acc piecesOf = (s1, x)) :
          ({ s1 with fresh := s1.fresh + 1 } : State).hartAgent h = me :=
        State.hartAgent_congr (s := s) (by
          have side := s.checkRange_hartSide me acc piecesOf
          rw [hc] at side
          exact side) h
      refine ⟨fun s1 e hc => ?_, fun s1 e hc => ?_, fun s1 hc => ?_, fun s1 hc => ?_⟩
      · exact loads _ (load.trans ((State.firstHalf_cases.1 e hc).trans (fails false e)))
      · exact stores _ (store.trans ((State.firstHalf_cases.1 e hc).trans (fails true e)))
      · intro upper
        refine ⟨fun s2 b hg => loads _ (load.trans ((State.firstHalf_cases.2 hc).1 s2 b (State.loadPart_ok ?_))),
          fun s2 e hg => loads _ (load.trans (((State.firstHalf_cases.2 hc).2 e (State.loadPart_fail (s1 := s2) ?_)).trans (fails false e)))⟩ <;>
          rw [agent _ _ _ hc] <;> exact hg
      · intro upper
        refine ⟨fun s2 u hp => stores _ (store.trans ((State.firstHalf_cases.2 hc).1 s2 [] (State.storePart_ok (u := u) ?_))),
          fun s2 e hp => stores _ (store.trans (((State.firstHalf_cases.2 hc).2 e (State.storePart_fail (s1 := s2) ?_)).trans
            (fails true e)))⟩ <;>
          rw [agent _ _ _ hc] <;> exact hp
    case second =>
      have two := crosses.mpr ⟨hx, htr⟩
      obtain ⟨lok, lfail⟩ := State.hostLoad_second (va := va) (n := n) two hw
      obtain ⟨sok, sfail⟩ := State.hostStore_second (va := va) length two hw
      have turn (s1 : State) (x) (hg : get s (!upper) = (s1, x)) : s1.atTurn = s.atTurn := by
        have same : (get s (!upper)).1.atTurn = s.atTurn := s.readPieces_atTurn _ _ _
        rwa [hg] at same
      have turnPut (s1 : State) (x) (hp : put s (!upper) = (s1, x)) : s1.atTurn = s.atTurn := by
        have same : (put s (!upper)).1.atTurn = s.atTurn := s.writePieces_atTurn _ _ _ _
        rwa [hp] at same
      exact ⟨fun s1 b hg => loads _ ((lok s1 b (State.loadPart_ok hg)).trans (ran s1 _ (turn s1 _ hg))),
        fun s1 e hg => loads _ ((lfail e (State.loadPart_fail hg)).trans (fails false e)),
        fun s1 u hp => stores _ ((sok s1 [] (State.storePart_ok hp)).trans (wrote s1 (turnPut s1 _ hp))),
        fun s1 e hp => stores _ ((sfail e (State.storePart_fail hp)).trans (fails true e))⟩
    case misaligned =>
      intro hal
      have step : exec (.hostAtomic f5 aq rl wide rd rs1 rs2) s = _ :=
        execHostAtomic_misaligned (aq := aq) (rl := rl) (wide := wide) (rd := rd) (rs2 := rs2) f5 hal
      exact step.trans (congrArg _ (raises _ _))
    case atomics =>
      have lr : exec (.hostAtomic 2 aq rl wide rd rs1 rs2) s = _ := execHostAtomic_lr (aq := aq) (rl := rl) hal
      have sc : exec (.hostAtomic 3 aq rl wide rd rs1 rs2) s = _ := execHostAtomic_sc (aq := aq) (rl := rl) hal
      refine ⟨fun s1 b hr => lr.trans (State.hostAfter_ok hr), fun e hr => lr.trans ((State.hostAfter_fail hr).trans (congrArg _ (fails _ _))),
        fun hn => sc.trans (if_neg hn), fun hres => ⟨fun s1 b hr => (sc.trans (if_pos hres)).trans (State.hostAfter_ok hr),
          fun e hr => (sc.trans (if_pos hres)).trans ((State.hostAfter_fail hr).trans (congrArg _ (fails _ _)))⟩, fun h2 h3 => ?_⟩
      have amo : exec (.hostAtomic f5 aq rl wide rd rs1 rs2) s = _ := execHostAtomic_amo (aq := aq) (rl := rl) hal h2 h3
      refine ⟨fun e hr => amo.trans ((State.hostAfter_fail hr).trans (congrArg _ (fails _ _))), fun s1 b hr => ?_⟩
      exact ⟨fun s2 c hp => (amo.trans (State.hostAfter_ok hr)).trans (State.hostAfter_ok hp),
        fun e hp => (amo.trans (State.hostAfter_ok hr)).trans ((State.hostAfter_fail hp).trans (congrArg _ (fails _ _)))⟩
    case rest =>
      have launch : exec (.xlaunch rd rs1) s = _ := execXlaunch_outside ht
      have lwait : exec (.xlwait rd rs1) s = _ := execXlwait_outside ht
      have poll : exec (.xpoll rd rs1 rs2) s = _ := execXpoll_outside ht
      have discard : exec (.xdiscard rs1 rs2) s = _ := execXdiscard_outside ht
      refine ⟨fun a b c => rfl, fun a b => State.notInTx_none ht, congrArg _ (raises _ _), fun hm => if_neg hm,
        fun hm => (if_pos hm).trans (congrArg _ (raises _ _)), fun hal => launch.trans (if_pos hal),
        fun hal s1 b hr => (launch.trans (if_neg (not_not_intro hal))).trans (State.hostAfter_ok hr),
        fun hal e hr => (launch.trans (if_neg (not_not_intro hal))).trans ((State.hostAfter_fail hr).trans (congrArg _ (fails _ _))),
        fun v hv => by rw [lwait, hv], fun hv => by rw [lwait, hv], fun hal => (poll.trans (if_pos hal)).trans (congrArg _ (raises _ _)),
        fun hal => ?_, ?_⟩
      · intro reads early
        have aligned := poll.trans (if_neg (not_not_intro hal))
        refine ⟨fun he => aligned.trans (if_pos he), fun he => ?_⟩
        have due := aligned.trans (if_neg (by rw [show s.pollEarly = false from he]; decide))
        exact ⟨fun e hr => due.trans ((State.hostAfter_fail hr).trans (congrArg _ (fails _ _))),
          fun s1 b hr => ⟨fun hne => (due.trans (State.hostAfter_ok hr)).trans (if_pos hne),
            fun heq => (due.trans (State.hostAfter_ok hr)).trans (if_neg (not_not_intro heq))⟩⟩
      · intro len dropped
        refine ⟨fun hn => discard.trans (if_pos (by simpa using hn)), fun hlen htr hgt => ?_, fun hlen htr hle => ?_⟩
        · exact (discard.trans ((if_neg (by rw [htr]; simpa using hlen)).trans (if_pos hgt))).trans (congrArg _ (raises _ _))
        · have drops := discard.trans ((if_neg (by rw [htr]; simpa using hlen)).trans (if_neg (Nat.not_lt.mpr hle)))
          rw [show s.discardPages _ _ _ _ = dropped from rfl] at drops
          refine ⟨fun s1 hd => ?_, fun s1 k a hd => ?_, fun s1 a hd => ?_⟩ <;> rw [drops, hd]
          · rfl
          · exact congrArg _ (raises _ _)
          · rfl
  · intro k pending s1 taken
    have step : exec .hostInterrupt s =
        if !s.intrLine k then .next s
        else if !(s1.hart k).running || !(s1.hart k).takesIntr then .next s1
        else .next ((if (s1.hart k).tx.isSome then s1.abortHost k .preempt 0 else s1).updHart k (fun h => h.trap 9 0 true)) := rfl
    rw [step]
    have stays : (!(s1.hart k).running || !(s1.hart k).takesIntr) = true ↔ ¬taken := by
      simp only [taken, Bool.or_eq_true, Bool.not_eq_true', not_and_or, Bool.not_eq_true]
    refine ⟨fun hi => if_pos (by rw [hi]; rfl), fun hi hn => ?_, fun hi hy hx => ?_, fun hi hy hx => ?_⟩ <;>
      rw [if_neg (by rw [hi]; decide)]
    · exact if_pos (stays.mpr hn)
    · rw [if_neg (mt stays.mp (not_not_intro hy)), if_neg (by rw [hx]; exact nofun)]
    · rw [if_neg (mt stays.mp (not_not_intro hy)), if_pos (Option.isSome_iff_ne_none.mpr hx)]

end Sys2Proof.Proofs
end

section
/-! Writes of device registers, lost packages, and stacks and dies out of service (R53, R109, R430, R434, R451, R453 to R459, R464, R465,
R486, R487). -/

namespace Sys2Proof.Machine

open Sys2Proof.Laws

/-! ## Folds over states -/

/-- What one element of a list brings about, and no step takes away, holds after them all. -/
theorem foldl_reaches {α : Type} {f : State → α → State} {Q P : State → Prop} {l : List α} {a : α} {s : State} (hq : Q s)
    (step : ∀ t b, Q t → Q (f t b)) (ha : a ∈ l) (est : ∀ t, Q t → P (f t a)) (keep : ∀ t b, P t → P (f t b)) : P (l.foldl f s) := by
  induction l generalizing s with
  | nil => exact absurd ha List.not_mem_nil
  | cons b bs ih =>
    rw [List.foldl_cons]
    rcases List.mem_cons.mp ha with rfl | ha
    · exact List.foldlRecOn bs f (est s hq) fun t ht c _ => keep t c ht
    · exact ih (step s b hq) ha

/-! ## What dropping lines of a lost package leaves -/

/-- What neither drops nor poison change. -/
def State.untouched (s : State) := (s.r, s.c, s.m.mem, s.m.remoteHeld, s.m.remoteLines, s.m.attrs, s.m.tlb)

/-- Lines go and granules are poisoned, and no more. -/
structure Drops (s t : State) : Prop where
  untouched : t.untouched = s.untouched
  poison : s.m.poison ⊆ t.m.poison
  lines : t.m.lines ⊆ s.m.lines

theorem Drops.refl (s : State) : Drops s s := ⟨rfl, fun _ h => h, fun _ h => h⟩

theorem Drops.trans {s t u : State} (h1 : Drops s t) (h2 : Drops t u) : Drops s u :=
  ⟨h2.untouched.trans h1.untouched, fun _ h => h2.poison (h1.poison h), fun _ h => h1.lines (h2.lines h)⟩

theorem foldl_drops {α : Type} {f : State → α → State} (l : List α) (s : State) (h : ∀ t a, Drops t (f t a)) : Drops s (l.foldl f s) :=
  List.foldlRecOn (motive := Drops s) l f (Drops.refl s) fun t ht a _ => ht.trans (h t a)

theorem State.invalidate_drops (s : State) (asid va len : Nat) : Drops s (s.invalidate asid va len) := ⟨rfl, fun _ h => h, fun _ h => h⟩

theorem State.snoopHarts_drops (s : State) (asid va len : Nat) (own : Option Nat) (reads : Bool) :
    Drops s (s.snoopHarts asid va len own reads) :=
  foldl_drops _ s fun _ _ => ⟨rfl, fun _ h => h, fun _ h => h⟩

theorem State.dropCopies_drops (s : State) (pick : Copy → Bool) : Drops s (s.dropCopies pick) :=
  Drops.trans (t := s.setMem { s.m with copies := s.m.copies.filter (fun c => !pick c) }) ⟨rfl, fun _ h => h, fun _ h => h⟩
    (foldl_drops (f := fun (s : State) (c : Copy) => s.wakePolls (some c.agent) c.attr.asid c.va c.size) _ _ fun _ _ =>
      ⟨rfl, fun _ h => h, fun _ h => h⟩)

theorem mem_foldl_insertNat {x : Nat} (start : Nat) : ∀ (l : List Nat) (base : List Nat),
    x ∈ l.foldl (fun l i => insertNat (start + i) l) base ↔ x ∈ base ∨ ∃ i ∈ l, x = start + i
  | [], base => by simp
  | i :: is, base => by
    rw [List.foldl_cons, mem_foldl_insertNat start is, mem_insertNat]
    simp only [List.mem_cons, exists_eq_or_imp]
    tauto

theorem State.poisonRange_memory {s : State} {pa off : Nat} (len : Nat) (h : s.paClass pa = .memory off) :
    (s.poisonRange pa len).m.poison = (List.range (len / 64)).foldl (fun l i => insertNat (off / 64 + i) l) s.m.poison := by
  simp only [State.poisonRange, h]
  rfl

theorem State.poisonRange_drops (s : State) (pa len : Nat) : Drops s (s.poisonRange pa len) := by
  rw [State.poisonRange]
  split
  · exact ⟨rfl, fun x hx => (mem_foldl_insertNat _ _ _).mpr (.inl hx), fun _ h => h⟩
  · exact Drops.refl s

theorem State.filterLines_drops (s : State) (keep : Line → Bool) : Drops s (s.setMem { s.m with lines := s.m.lines.filter keep }) :=
  ⟨rfl, fun _ h => h, fun _ h => List.mem_of_mem_filter h⟩

theorem State.loseMemory_drops (s : State) (pa : Nat) : Drops (s.poisonRange (pa / 64 * 64) 64) (s.loseMemory pa) :=
  (State.dropCopies_drops _ _).trans (foldl_drops _ _ fun t _ =>
    ((t.invalidate_drops _ _ _).trans ((State.snoopHarts_drops _ _ _ _ _ _).trans (State.poisonRange_drops _ _ _))).trans
      (State.filterLines_drops _ _))

theorem State.dropFrame_drops (s : State) (asid va : Nat) : Drops s (s.dropFrame asid va) :=
  ((s.invalidate_drops _ _ _).trans (State.snoopHarts_drops _ _ _ _ _ _)).trans (State.filterLines_drops _ _)

/-- The classes of physical addresses hang on the registers alone. -/
theorem State.paClass_congr {s t : State} (h : t.r = s.r) (pa : Nat) : t.paClass pa = s.paClass pa := by
  unfold State.paClass State.stackOut
  rw [h]

theorem Drops.sys {s t : State} (h : Drops s t) : t.r = s.r := congrArg (fun x => x.1) h.untouched

theorem Drops.mem {s t : State} (h : Drops s t) : t.m.mem = s.m.mem := congrArg (fun x => x.2.2.1) h.untouched

theorem Drops.remoteLines {s t : State} (h : Drops s t) : t.m.remoteLines = s.m.remoteLines := congrArg (fun x => x.2.2.2.2.1) h.untouched

theorem Drops.remoteHeld {s t : State} (h : Drops s t) : t.m.remoteHeld = s.m.remoteHeld := congrArg (fun x => x.2.2.2.1) h.untouched

/-- The granules of a package's memory that is lost are poisoned (R140). -/
theorem State.loseMemory_poisons {s : State} {g off : Nat} (h : s.paClass (s.r.pkg * 2 ^ 48 + 64 * g) = .memory off) :
    (s.loseMemory (s.r.pkg * 2 ^ 48 + 64 * g)).poisonedAt off 64 := by
  have whole : (s.r.pkg * 2 ^ 48 + 64 * g) / 64 * 64 = s.r.pkg * 2 ^ 48 + 64 * g := by omega
  have first : off / 64 ∈ (s.poisonRange ((s.r.pkg * 2 ^ 48 + 64 * g) / 64 * 64) 64).m.poison := by
    rw [whole, State.poisonRange_memory 64 h, mem_foldl_insertNat]
    exact .inr ⟨0, by simp, rfl⟩
  have kept := (s.loseMemory_drops (s.r.pkg * 2 ^ 48 + 64 * g)).poison first
  refine List.any_eq_true.mpr ⟨off / 64, kept, ?_⟩
  rw [Bool.and_eq_true, decide_eq_true_eq, decide_eq_true_eq]
  exact ⟨le_rfl, Nat.div_le_div_right (by omega)⟩

theorem Drops.poisonedAt {s t : State} (h : Drops s t) {off len : Nat} (hp : s.poisonedAt off len) : t.poisonedAt off len := by
  obtain ⟨g, hg, hin⟩ := List.any_eq_true.mp hp
  exact List.any_eq_true.mpr ⟨g, h.poison hg, hin⟩

/-! ## A lost package's hold on this one's memory -/

/-- The granules that a package has owned. -/
def State.ownedBy (s : State) (q : Nat) : List (Nat × BitVec 8 × Bool) := s.m.remoteHeld.filter (fun e => e.2.2 && e.2.1.getLsbD q)

/-- What other packages hold once `q` holds nothing. -/
def State.heldWithout (s : State) (q : Nat) : List (Nat × BitVec 8 × Bool) :=
  s.m.remoteHeld.filterMap (fun e =>
    if e.2.1 &&& ~~~(1#8 <<< q) = 0 then none
    else some (e.1, e.2.1 &&& ~~~(1#8 <<< q), if e.2.1.getLsbD q then false else e.2.2))

/-- The memory that a package has owned is lost. -/
def State.loseOwned (s : State) (q : Nat) : State :=
  (s.ownedBy q).foldl (fun (s : State) (e : Nat × BitVec 8 × Bool) => s.loseMemory (s.r.pkg * 2 ^ 48 + 64 * e.1)) s

theorem State.loseMemory_step (s : State) (pa : Nat) : Drops s (s.loseMemory pa) :=
  (s.poisonRange_drops _ _).trans (s.loseMemory_drops pa)

theorem State.loseOwned_drops (s : State) (q : Nat) : Drops s (s.loseOwned q) := foldl_drops _ s fun t _ => t.loseMemory_step _

theorem State.loseOwned_poisons {s : State} {q off : Nat} {e : Nat × BitVec 8 × Bool} (he : e ∈ s.ownedBy q)
    (h : s.paClass (s.r.pkg * 2 ^ 48 + 64 * e.1) = .memory off) : (s.loseOwned q).poisonedAt off 64 := by
  refine foldl_reaches (Q := Drops s) (P := fun t => t.poisonedAt off 64) (Drops.refl s) (fun t b ht => ht.trans (t.loseMemory_step _)) he
    (fun t ht => ?_) (fun t b ht => (t.loseMemory_step _).poisonedAt ht)
  refine State.loseMemory_poisons ?_
  rw [State.paClass_congr ht.sys, ht.sys]
  exact h

theorem State.dropHolder_eq (s : State) (q : Nat) :
    s.dropHolder q = (s.loseOwned q).setMem { (s.loseOwned q).m with remoteHeld := s.heldWithout q } := rfl

theorem heldWithout_holds {s : State} {q : Nat} (hq : q < 8) : ∀ e ∈ s.heldWithout q, e.2.1.getLsbD q = false := by
  intro e he
  obtain ⟨e0, -, he⟩ := List.mem_filterMap.mp he
  split at he
  · exact absurd he nofun
  · obtain rfl := Option.some.inj he
    simp [hq]

/-! ## Its frames -/

/-- The frames of a lost package go. -/
def State.dropFrames (s : State) (q : Nat) : State :=
  (s.m.remoteLines.filter (fun (e : Nat × Nat × Nat) => e.1 / 2 ^ 48 == q)).foldl
    (fun (s : State) (e : Nat × Nat × Nat) => s.dropFrame e.2.1 e.2.2) s

theorem State.dropFrames_drops (s : State) (q : Nat) : Drops s (s.dropFrames q) := foldl_drops _ s fun t _ => t.dropFrame_drops _ _

theorem State.dropFrame_lines {s : State} {asid va : Nat} :
    ∀ l ∈ (s.dropFrame asid va).m.lines, l.asid = asid → ¬(l.va < va + 4096 ∧ va < l.va + l.data.length) := by
  rintro l hl rfl ⟨h1, h2⟩
  have keeps := (List.mem_filter.mp hl).2
  simp [h1, h2] at keeps

/-- None of their lines stays (R465). -/
theorem State.dropFrames_lines {s : State} {q : Nat} {e : Nat × Nat × Nat} (he : e ∈ s.m.remoteLines) (hq : e.1 / 2 ^ 48 = q) :
    ∀ l ∈ (s.dropFrames q).m.lines, l.asid = e.2.1 → ¬(l.va < e.2.2 + 4096 ∧ e.2.2 < l.va + l.data.length) :=
  foldl_reaches (Q := fun _ => True)
    (P := fun t => ∀ l ∈ t.m.lines, l.asid = e.2.1 → ¬(l.va < e.2.2 + 4096 ∧ e.2.2 < l.va + l.data.length)) trivial
    (fun _ _ _ => trivial) (List.mem_filter.mpr ⟨he, beq_iff_eq.mpr hq⟩) (fun _ _ => State.dropFrame_lines)
    (fun t _ ht l hl => ht l ((t.dropFrame_drops _ _).lines hl))

/-! ## Its rounds -/

/-- Rounds end: memory, requests and the registers that concern them stay. -/
structure RoundsEnd (s t : State) : Prop where
  m : t.m = s.m
  v : t.v = s.v
  pkg : t.r.pkg = s.r.pkg
  alive : t.r.alive = s.r.alive
  intr : t.r.intr = s.r.intr

theorem RoundsEnd.refl (s : State) : RoundsEnd s s := ⟨rfl, rfl, rfl, rfl, rfl⟩

theorem RoundsEnd.trans {s t u : State} (h1 : RoundsEnd s t) (h2 : RoundsEnd t u) : RoundsEnd s u :=
  ⟨h2.m.trans h1.m, h2.v.trans h1.v, h2.pkg.trans h1.pkg, h2.alive.trans h1.alive, h2.intr.trans h1.intr⟩

/-- The open rounds of a slot that count a package end with PEERLOST (R472). -/
def State.loseSlot (s : State) (q n : Nat) : State :=
  ((s.slot n).open_.filter (fun r => bit r.ring q)).foldl (fun (s : State) r =>
    (s.addSuspect n (2 ^ q)).endRound n r.seq 1 ((s.addSuspect n (2 ^ q)).commSuspect n)) s

theorem State.loseRounds_eq (s : State) (q : Nat) : s.loseRounds q = (List.range 16).foldl (fun s n => s.loseSlot q n) s := rfl

theorem State.loseSlot_ends (s : State) (q n : Nat) : RoundsEnd s (s.loseSlot q n) :=
  List.foldlRecOn (motive := RoundsEnd s) _ _ (RoundsEnd.refl s) fun _ ht _ _ => ht.trans ⟨rfl, rfl, rfl, rfl, rfl⟩

theorem State.loseRounds_ends (s : State) (q : Nat) : RoundsEnd s (s.loseRounds q) :=
  List.foldlRecOn (motive := RoundsEnd s) _ _ (RoundsEnd.refl s) fun t ht n _ => ht.trans (t.loseSlot_ends q n)

theorem State.slot_updSlot (s : State) (n i : Nat) (h : CollSlot → CollSlot) :
    (s.updSlot n h).slot i = if n = i then h (s.slot n) else s.slot i := by
  simp only [State.updSlot, State.slot, Tab.get_set]

/-- A round that is open after the end of others was open before, and is none of those. -/
theorem State.endRound_open {s : State} {n seq code suspect i : Nat} {r : Round} (h : r ∈ ((s.endRound n seq code suspect).slot i).open_) :
    r ∈ (s.slot i).open_ ∧ (n = i → r.seq ≠ seq) := by
  rw [State.endRound, State.updRound, State.slot_updSlot] at h
  split at h
  · next hn =>
    subst hn
    obtain ⟨hr, hopen⟩ := List.mem_filter.mp h
    obtain ⟨r0, hr0, e⟩ := List.mem_map.mp hr
    split at e
    · subst e
      exact absurd hopen (by simp)
    · next hne =>
      subst e
      exact ⟨List.mem_filter.mpr ⟨hr0, hopen⟩, fun _ hs => hne (by simp [hs, hopen])⟩
  · next hn => exact ⟨h, fun e => absurd e hn⟩

theorem State.addSuspect_slot (s : State) (n mask i : Nat) : (s.addSuspect n mask).slot i = s.slot i := rfl

theorem foldl_endRound_open {s : State} {q n i : Nat} {r : Round} (l : List Round)
    (h : r ∈ ((l.foldl (fun (s : State) r =>
      (s.addSuspect n (2 ^ q)).endRound n r.seq 1 ((s.addSuspect n (2 ^ q)).commSuspect n)) s).slot i).open_) :
    r ∈ (s.slot i).open_ ∧ (n = i → ∀ r' ∈ l, r.seq ≠ r'.seq) := by
  induction l generalizing s with
  | nil => exact ⟨h, fun _ _ hr => absurd hr List.not_mem_nil⟩
  | cons a as ih =>
    obtain ⟨before, others⟩ := ih h
    obtain ⟨first, own⟩ := State.endRound_open before
    exact ⟨first, fun hn => List.forall_mem_cons.mpr ⟨own hn, others hn⟩⟩

theorem State.loseSlot_open {s : State} {q n i : Nat} {r : Round} (h : r ∈ ((s.loseSlot q n).slot i).open_) :
    r ∈ (s.slot i).open_ ∧ (n = i → bit r.ring q = false) := by
  obtain ⟨before, others⟩ := foldl_endRound_open _ h
  refine ⟨before, fun hn => Bool.eq_false_iff.mpr fun hb => ?_⟩
  subst hn
  exact others rfl r (List.mem_filter.mpr ⟨before, hb⟩) rfl

/-- No open round counts the lost package (R465). -/
theorem State.loseRounds_open (s : State) (q : Nat) {i : Nat} (hi : i < 16) : ∀ r ∈ ((s.loseRounds q).slot i).open_, bit r.ring q = false :=
  foldl_reaches (f := fun (s : State) n => s.loseSlot q n) (Q := fun _ => True)
    (P := fun t => ∀ r ∈ (t.slot i).open_, bit r.ring q = false) trivial (fun _ _ _ => trivial) (List.mem_range.mpr hi)
    (fun _ _ _ hr => (State.loseSlot_open hr).2 rfl) (fun _ _ ht r hr => ht r (State.loseSlot_open hr).1)

/-! ## The loss of a package (R465) -/

/-- A package is no longer ALIVE, and interrupt source 2 is pending. -/
def State.noteLoss (s : State) (q : Nat) : State := (s.setSys { s.r with alive := Nat.xor s.r.alive (2 ^ q) }).raiseIntr 2

/-- The frames, copies, attributes and translations of a package are forgotten. -/
def State.forgetPackage (s : State) (q : Nat) : State :=
  s.setMem { s.m with
    remoteLines := s.m.remoteLines.filter (fun (e : Nat × Nat × Nat) => e.1 / 2 ^ 48 != q)
    copies := s.m.copies.filter (fun c => c.attr.frame / 2 ^ 48 != q)
    attrs := s.m.attrs.filter (fun p => p.2.frame / 2 ^ 48 != q)
    tlb := s.m.tlb.filter (fun p => p.2.frame / 2 ^ 48 != q) }

/-- The state in which a lost package holds nothing here, and nothing of its frames stays. -/
def State.dropPackage (s : State) (q : Nat) : State := ((s.noteLoss q).dropHolder q).dropFrames q

/-- What the loss of a package leaves. -/
@[irreducible] def State.packageLost (s : State) (q : Nat) : State := (((s.dropPackage q).forgetPackage q).dropFills q).loseRounds q

section
variable {s : State} {q : Nat}

theorem State.losePackage_passed (h : q = s.r.pkg ∨ 8 ≤ q ∨ bit s.r.alive q = false) : s.losePackage q = s := by
  refine if_pos ?_
  simpa only [Bool.or_eq_true, decide_eq_true_eq, Bool.not_eq_true', or_assoc] using h

theorem State.losePackage_lost (hp : q ≠ s.r.pkg) (h8 : q < 8) (ha : bit s.r.alive q) : s.losePackage q = s.packageLost q := by
  unfold State.packageLost
  exact if_neg (by simp [hp, h8, ha])

variable (s q)

theorem State.packageLost_ends : RoundsEnd (((s.dropPackage q).forgetPackage q).dropFills q) (s.packageLost q) := by
  unfold State.packageLost
  exact State.loseRounds_ends _ _

@[simp] theorem State.dropFills_m : (s.dropFills q).m = s.m := rfl
@[simp] theorem State.dropFills_r : (s.dropFills q).r = s.r := rfl
@[simp] theorem State.forgetPackage_r : (s.forgetPackage q).r = s.r := rfl
@[simp] theorem State.forgetPackage_mem : (s.forgetPackage q).m.mem = s.m.mem := rfl
@[simp] theorem State.forgetPackage_poison : (s.forgetPackage q).m.poison = s.m.poison := rfl
@[simp] theorem State.forgetPackage_lines : (s.forgetPackage q).m.lines = s.m.lines := rfl
@[simp] theorem State.forgetPackage_remoteHeld : (s.forgetPackage q).m.remoteHeld = s.m.remoteHeld := rfl

theorem State.packageLost_m : (s.packageLost q).m = ((s.dropPackage q).forgetPackage q).m := by
  rw [(s.packageLost_ends q).m, State.dropFills_m]

/-- Once its hold is gone, only frames go. -/
theorem State.dropPackage_drops : Drops ((s.noteLoss q).dropHolder q) (s.dropPackage q) := State.dropFrames_drops _ _

@[simp] theorem State.dropHolder_r : (s.dropHolder q).r = s.r := by
  rw [State.dropHolder_eq, State.setMem_r, (s.loseOwned_drops q).sys]

/-- The registers but SYS.COMM are as they were noted. -/
theorem State.dropPackage_r : (s.dropPackage q).r = (s.noteLoss q).r := by
  rw [(s.dropPackage_drops q).sys, State.dropHolder_r]

theorem State.packageLost_pkg : (s.packageLost q).r.pkg = s.r.pkg := by
  rw [(s.packageLost_ends q).pkg, State.dropFills_r, State.forgetPackage_r, State.dropPackage_r]
  rfl

theorem State.packageLost_alive : (s.packageLost q).r.alive = Nat.xor s.r.alive (2 ^ q) := by
  rw [(s.packageLost_ends q).alive, State.dropFills_r, State.forgetPackage_r, State.dropPackage_r]
  rfl

theorem State.packageLost_pending : (s.packageLost q).r.intr.getLsbD 2 = true := by
  rw [(s.packageLost_ends q).intr, State.dropFills_r, State.forgetPackage_r, State.dropPackage_r]
  exact State.raiseIntr_pending _ (by decide)

theorem State.packageLost_mem : (s.packageLost q).m.mem = s.m.mem := by
  have owned : ((s.noteLoss q).dropHolder q).m.mem = (s.noteLoss q).m.mem := by
    rw [State.dropHolder_eq, State.setMem_m, ((s.noteLoss q).loseOwned_drops q).mem]
  rw [State.packageLost_m, State.forgetPackage_mem, (s.dropPackage_drops q).mem, owned]
  rfl

variable {s q}

theorem bit_xor_self {a q : Nat} (h : bit a q) (j : Nat) : bit (Nat.xor a (2 ^ q)) j = (bit a j && j != q) := by
  have each : (Nat.xor a (2 ^ q)).testBit j = (a.testBit j ^^ (2 ^ q).testBit j) := Nat.testBit_xor ..
  rw [bit, each, Nat.testBit_two_pow]
  by_cases hj : q = j
  · subst hj
    rw [show a.testBit q = true from h]
    simp [bit]
  · simp [bit, hj, bne_iff_ne.mpr (Ne.symm hj)]

/-- What a lost package backed is backed no more (R465). -/
theorem State.packageLost_paClass (hp : q ≠ s.r.pkg) (ha : bit s.r.alive q) {pa : Nat} (h : pa / 2 ^ 48 = q) :
    (s.packageLost q).paClass pa = .unbacked := by
  have dead : bit (s.packageLost q).r.alive q = false := by
    rw [s.packageLost_alive q, bit_xor_self ha]
    simp
  unfold State.paClass
  rw [h, s.packageLost_pkg q, if_pos hp, if_neg (by simp [dead])]

/-- What it has owned is poisoned (R140). -/
theorem State.packageLost_poisons {e : Nat × BitVec 8 × Bool} {off : Nat} (he : e ∈ s.ownedBy q)
    (h : s.paClass (s.r.pkg * 2 ^ 48 + 64 * e.1) = .memory off) : (s.packageLost q).poisonedAt off 64 := by
  have own : (s.r.pkg * 2 ^ 48 + 64 * e.1) / 2 ^ 48 = s.r.pkg := by
    by_contra hne
    simp only [State.paClass, ne_eq, hne, not_false_eq_true, if_true] at h
    split at h <;> exact absurd h nofun
  have here : (s.noteLoss q).paClass (s.r.pkg * 2 ^ 48 + 64 * e.1) = .memory off := by
    simp only [State.paClass, own, ne_eq, not_true, if_false] at h
    exact (if_neg (not_not_intro own)).trans h
  have owned : ((s.noteLoss q).dropHolder q).poisonedAt off 64 := by
    rw [State.dropHolder_eq]
    exact State.loseOwned_poisons (s := s.noteLoss q) he here
  have dropped := (s.dropPackage_drops q).poisonedAt owned
  rwa [State.poisonedAt, State.packageLost_m, State.forgetPackage_poison]

theorem State.packageLost_holds (hq : q < 8) : ∀ e ∈ (s.packageLost q).m.remoteHeld, e.2.1.getLsbD q = false := by
  have held : (s.packageLost q).m.remoteHeld = (s.noteLoss q).heldWithout q := by
    rw [State.packageLost_m, State.forgetPackage_remoteHeld, (s.dropPackage_drops q).remoteHeld, State.dropHolder_eq, State.setMem_m]
  rw [held]
  exact heldWithout_holds hq

/-- No line of its frames stays. -/
theorem State.packageLost_lines {e : Nat × Nat × Nat} (he : e ∈ s.m.remoteLines) (hq : e.1 / 2 ^ 48 = q) :
    ∀ l ∈ (s.packageLost q).m.lines, l.asid = e.2.1 → ¬(l.va < e.2.2 + 4096 ∧ e.2.2 < l.va + l.data.length) := by
  have there : e ∈ ((s.noteLoss q).dropHolder q).m.remoteLines := by
    rw [State.dropHolder_eq, State.setMem_m, ((s.noteLoss q).loseOwned_drops q).remoteLines]
    exact he
  rw [State.packageLost_m, State.forgetPackage_lines]
  exact State.dropFrames_lines there hq

theorem State.packageLost_forgets :
    (∀ e ∈ (s.packageLost q).m.remoteLines, e.1 / 2 ^ 48 ≠ q) ∧ (∀ c ∈ (s.packageLost q).m.copies, c.attr.frame / 2 ^ 48 ≠ q)
    ∧ (∀ p ∈ (s.packageLost q).m.attrs, p.2.frame / 2 ^ 48 ≠ q) ∧ (∀ p ∈ (s.packageLost q).m.tlb, p.2.frame / 2 ^ 48 ≠ q) := by
  rw [State.packageLost_m]
  exact ⟨fun _ h => bne_iff_ne.mp (List.mem_filter.mp h).2, fun _ h => bne_iff_ne.mp (List.mem_filter.mp h).2,
    fun _ h => bne_iff_ne.mp (List.mem_filter.mp h).2, fun _ h => bne_iff_ne.mp (List.mem_filter.mp h).2⟩

theorem State.packageLost_open (s : State) (q : Nat) {i : Nat} (hi : i < 16) :
    ∀ r ∈ ((s.packageLost q).slot i).open_, bit r.ring q = false := by
  unfold State.packageLost
  exact State.loseRounds_open _ q hi

/-- Requests for its frames stand before their home (R465). -/
theorem State.packageLost_reqs : ∀ p ∈ (s.packageLost q).v.reqs, p.2.attr.frame / 2 ^ 48 = q → p.2.stage = .home := by
  intro p hp hq
  rw [(s.packageLost_ends q).v] at hp
  obtain ⟨p0, -, rfl⟩ := List.mem_map.mp hp
  dsimp only at hq ⊢
  split at hq
  · next h => rw [if_pos h]
  · next h =>
    rw [if_neg h]
    simpa only [hq, beq_self_eq_true, Bool.true_and, bne_iff_ne, ne_eq, not_not] using h

end

/-! ## Stacks and dies out of service (R486, R487) -/

section
variable {s : State} {k : Nat}

/-- The controllers of a stack stand for those of another. -/
def stackMap (m : Tab Nat) (t k : Nat) : Tab Nat := (List.range 4).foldl (fun m i => Tab.set m (4 * t + i) (4 * k + i)) m

theorem stackMap_get (m : Tab Nat) (t k : Nat) {i : Nat} (hi : i < 4) : Tab.get (stackMap m t k) (4 * t + i) 0 = 4 * k + i := by
  have four : List.range 4 = [0, 1, 2, 3] := rfl
  simp only [stackMap, four, List.foldl_cons, List.foldl_nil, Tab.get_set]
  interval_cases i <;> simp

/-- A stack's translations go to the next one in service. -/
def State.stackTaken (s : State) (k : Nat) (shards : Tab Nat) : State :=
  (s.setSys { s.r with stackCtl := Tab.set s.r.stackCtl k 1 }).setMem { s.m with
    shardMap := shards
    tlb := s.m.tlb.filter (fun p => !((List.range 4).map (fun i => Tab.get s.m.shardMap (4 * k + i) (4 * k + i))).contains p.1) }

theorem State.stackTaken_out (s : State) (k : Nat) (shards : Tab Nat) : (s.stackTaken k shards).stackOut k = true := by
  simp only [State.stackTaken, State.stackOut, State.setMem_r, State.setSys_r, Tab.get_set, if_true]
  decide

theorem execStackTakeout_takes (hk : s.sel.x = k) (h12 : k < 12) (ho : s.stackOut k = false) :
    execStackTakeout s = .next (s.stackTaken k (match (s.setSys { s.r with stackCtl := Tab.set s.r.stackCtl k 1 }).nextStack k with
      | some j => stackMap s.m.shardMap k j
      | none => s.m.shardMap)) := by
  subst hk
  refine (if_neg ?_).trans rfl
  simp [ho, h12]

/-- The shares of a die. -/
def dieShares (d : Nat) : List Nat := (List.range 4096).map (fun i => 4096 * d + i)

/-- A die's shares begin to retire, unless they are retired already. -/
def State.retireShares (s : State) (d : Nat) : State :=
  (dieShares d).foldl (fun (s : State) sh => if s.m.retired.contains sh then s else s.startRetiring sh false) s

/-- The cores of a die hold no block any more. -/
def State.closeCores (s : State) (d : Nat) : State :=
  (List.range 128).foldl (fun (s : State) i => s.updCore (128 * d + i) (fun c => { c with mode := 2 })) s

theorem State.startRetiring_r (s : State) (sh : Nat) (asked : Bool) : (s.startRetiring sh asked).r = s.r := by
  rw [State.startRetiring]
  split <;> rfl

theorem State.retireShares_r (s : State) (d : Nat) : (s.retireShares d).r = s.r :=
  List.foldlRecOn (motive := fun t : State => t.r = s.r) _ _ rfl fun t ht sh _ => by
    split
    · exact ht
    · exact (t.startRetiring_r sh false).trans ht

theorem State.closeCores_r (s : State) (d : Nat) : (s.closeCores d).r = s.r :=
  List.foldlRecOn (motive := fun t : State => t.r = s.r) _ _ rfl fun _ ht _ _ => ht

theorem State.coreOf_updCore (s : State) (c i : Nat) (u : CoreSt → CoreSt) :
    (s.updCore c u).coreOf i = if c = i then u (s.coreOf c) else s.coreOf i := by
  simp only [State.updCore, State.coreOf, State.setCores_cores, Tab.get_set]

theorem State.closeCores_mode (s : State) (d : Nat) {i : Nat} (hi : i < 128) : ((s.closeCores d).coreOf (128 * d + i)).mode = 2 := by
  refine foldl_reaches (f := fun (s : State) i => s.updCore (128 * d + i) (fun c => { c with mode := 2 })) (Q := fun _ => True)
    (P := fun t => (t.coreOf (128 * d + i)).mode = 2) trivial (fun _ _ _ => trivial) (List.mem_range.mpr hi) (fun t _ => ?_)
    fun t j ht => ?_
  · rw [State.coreOf_updCore, if_pos rfl]
  · rw [State.coreOf_updCore]
    split
    · rfl
    · exact ht

/-- A die isolated. -/
def State.dieIsolated (s : State) (d : Nat) : State :=
  ((s.setSys { s.r with dieCtl := Tab.set s.r.dieCtl d 8 }).retireShares d).closeCores d

theorem State.dieIsolated_ctl (s : State) (d : Nat) : Tab.get (s.dieIsolated d).r.dieCtl d 0 = 8#64 := by
  rw [State.dieIsolated, State.closeCores_r, State.retireShares_r, State.setSys_r, Tab.get_set, if_pos rfl]
  rfl

theorem execDieIsolate_eq (hk : s.sel.x = k) :
    execDieIsolate s =
      if 4 ≤ k ∨ bits (Tab.get s.r.dieCtl k 0).toNat 2 2 = 2 then .next s
      else if s.isolateStatus k ≠ 0 then .next (s.setSys { s.r with
        dieCtl := Tab.set s.r.dieCtl k (BitVec.ofNat 64 (s.isolateStatus k * 16 + (Tab.get s.r.dieCtl k 0).toNat % 16)) })
      else .next (s.dieIsolated k) := by
  subst hk
  simp only [execDieIsolate, Bool.or_eq_true, decide_eq_true_eq]
  rfl

end

/-! ## Writes of registers -/

section
variable {s : State} {value : Dword} {who : Writer} {n : Nat}

theorem State.writeRegister_secRange (h : n < 8) :
    s.writeRegister (0x80 + 8 * n) value who = if who.controller then (s.setSys { s.r with
      secRange := Tab.set s.r.secRange n (BitVec.ofNat 64 (bits value.toNat 63 1 * 2 ^ 63 + bits value.toNat 52 6 * 2 ^ 52
        + bits value.toNat 16 36 * 65536)) }).forgetSecure else s := by
  have place : (0x80 + 8 * n - 0x80) / 8 = n := by omega
  have upper : 0x80 + 8 * n < 0xC0 := by omega
  simp only [State.writeRegister, place, upper, show ¬0x80 + 8 * n = 0 by omega, show ¬0x80 + 8 * n = 0x30 by omega,
    show ¬0x80 + 8 * n = 0x38 by omega, show ¬0x80 + 8 * n = 0x48 by omega, show ¬0x80 + 8 * n = 0x58 by omega,
    show ¬0x80 + 8 * n = 0x60 by omega, show 0x80 ≤ 0x80 + 8 * n by omega, if_false, decide_true, Bool.and_self, if_true]

/-- A write of a register of a core, by its place among them (R454). -/
def State.writeCoreRow (s : State) (value : Dword) (who : Writer) (core row : Nat) : State :=
  match row with
  | 8 => s.updCore core (fun c => { c with coveAge := value.toNat % 65536 })
  | 16 => if who.controller && bits value.toNat 24 2 < 3 && (s.blocksOn core).isEmpty then s.updCore core (laneMapOf value.toNat) else s
  | _ => s

/-- Offsets from 0x2000 on, by the rows of R454. -/
theorem State.writeRegister_high {off : Nat} (h : 0x2000 ≤ off) :
    s.writeRegister off value who =
      if 0x2000 ≤ off && off < 0x4000 then
        s.setSys { s.r with c3budget := Tab.set s.r.c3budget ((off - 0x2000) / 8) (value.toNat % 65536) }
      else if 0x10000 ≤ off && off < 0x18000 then s.writeCoreRow value who ((off - 0x10000) / 64) (off % 64)
      else if 0x20000 ≤ off && off < 0x21000 && off % 64 = 0 then
        s.updHart ((off - 0x20000) / 64) (fun h => h.setCsr 0x5C0 (value.toNat % 4096))
      else s := by
  have ranges : ¬(decide (0x80 ≤ off) && decide (off < 0xC0)) = true := by
    simp only [Bool.and_eq_true, decide_eq_true_eq]
    omega
  unfold State.writeRegister
  exact (if_neg (by omega)).trans ((if_neg (by omega)).trans ((if_neg (by omega)).trans ((if_neg (by omega)).trans
    ((if_neg (by omega)).trans ((if_neg (by omega)).trans ((if_neg ranges).trans rfl))))))

theorem within_iff {a b off : Nat} : (decide (a ≤ off) && decide (off < b)) = true ↔ a ≤ off ∧ off < b := by
  simp only [Bool.and_eq_true, decide_eq_true_eq]

theorem State.writeRegister_c3budget (h : n < 1024) :
    s.writeRegister (0x2000 + 8 * n) value who = s.setSys { s.r with c3budget := Tab.set s.r.c3budget n (value.toNat % 65536) } := by
  have place : (0x2000 + 8 * n - 0x2000) / 8 = n := by omega
  rw [State.writeRegister_high (by omega), if_pos (within_iff.mpr (by omega)), place]

/-- A write of a core's register. -/
theorem State.writeRegister_core (h : n < 512) {row : Nat} (hr : row < 64) :
    s.writeRegister (0x10000 + 64 * n + row) value who = s.writeCoreRow value who n row := by
  have place : (0x10000 + 64 * n + row - 0x10000) / 64 = n := by omega
  have own : (0x10000 + 64 * n + row) % 64 = row := by omega
  rw [State.writeRegister_high (by omega), if_neg (mt within_iff.mp (by omega)), if_pos (within_iff.mpr (by omega)), place, own]

theorem State.writeRegister_hostAsid (h : n < 64) :
    s.writeRegister (0x20000 + 64 * n) value who = s.updHart n (fun h => h.setCsr 0x5C0 (value.toNat % 4096)) := by
  have place : (0x20000 + 64 * n - 0x20000) / 64 = n := by omega
  have own : (decide (0x20000 ≤ 0x20000 + 64 * n) && decide (0x20000 + 64 * n < 0x21000) && decide ((0x20000 + 64 * n) % 64 = 0)) = true := by
    rw [within_iff.mpr (by omega), Bool.true_and]
    exact decide_eq_true (by omega)
  rw [State.writeRegister_high (by omega), if_neg (mt within_iff.mp (by omega)), if_neg (mt within_iff.mp (by omega)), if_pos own, place]

theorem State.writeRegister_unassigned (h : 0x21000 ≤ n) : s.writeRegister n value who = s := by
  rw [State.writeRegister_high (by omega), if_neg (mt within_iff.mp (by omega)), if_neg (mt within_iff.mp (by omega)),
    if_neg fun own => absurd (within_iff.mp (Bool.and_eq_true_iff.mp own).1) (by omega)]

end

theorem execLinkDownTimeout_due {s : State} {t : Nat} (hd : (s.port s.sel.x).down = some t) (h7 : s.sel.x < 7)
    (h : t + 3000000 ≤ s.clock) : execLinkDownTimeout s = .next (s.losePackage ((s.r.pkg + s.sel.x + 1) % 8)) := by
  simp only [execLinkDownTimeout, hd]
  exact if_pos (by rw [Bool.and_eq_true, decide_eq_true_eq, decide_eq_true_eq]; exact ⟨h7, h⟩)

theorem execLinkDownTimeout_stays {s : State} (h : 7 ≤ s.sel.x ∨ ∀ t, (s.port s.sel.x).down = some t → s.clock < t + 3000000) :
    execLinkDownTimeout s = .next s := by
  unfold execLinkDownTimeout
  split
  · next t hd =>
    refine if_neg fun due => ?_
    obtain ⟨h7, hclock⟩ := Bool.and_eq_true_iff.mp due
    exact h.elim (fun h => absurd (of_decide_eq_true h7) (Nat.not_lt.mpr h)) fun h =>
      absurd (of_decide_eq_true hclock) (Nat.not_le.mpr (h t hd))
  · rfl

end Sys2Proof.Machine

namespace Sys2Proof.Proofs

open Sys2Proof Sys2Proof.Machine Sys2Proof.Laws Sys2Proof.Claims

/-- Settles O46: a register's write by its row, a lost package by what `State.packageLost` leaves of it, stacks and dies by the
conditions of R486 and R487. -/
theorem registerWrites : Obligations.RegisterWrites := by
  unfold Obligations.RegisterWrites
  intro s value who n packages v write k
  have row (off : Nat) (w : Writer) (t : State) (h : s.writeRegister off value w = t) : write off w = .next t := congrArg _ h
  refine ⟨rfl, rfl, rfl, rfl, rfl, rfl, fun hn => row _ _ _ (State.writeRegister_secRange hn),
    fun hn => row _ _ _ (State.writeRegister_c3budget hn), fun hn => row _ _ _ (State.writeRegister_core hn (by decide)),
    fun hn => row _ _ _ (State.writeRegister_core hn (by decide)), fun hn => row _ _ _ (State.writeRegister_hostAsid hn),
    fun hn _ => row _ _ _ (State.writeRegister_unassigned hn), fun h => if_neg (by rw [h]; decide), fun h => if_pos h,
    fun h64 hr => congrArg _ (if_neg (by simp [h64, hr])), fun hr => congrArg _ (if_pos (by simp [hr])),
    fun h64 => congrArg _ (if_pos (by simp [h64])), rfl, rfl, State.losePackage_passed, fun hp h8 ha => ?lost,
    fun t hd h7 h => execLinkDownTimeout_due hd h7 h, execLinkDownTimeout_stays, fun h12 ho => ?taken,
    fun h => if_pos (by simpa using h), ?_, ?_, ?_, fun h => if_neg h, fun h => if_pos h⟩
  case lost =>
    rw [State.losePackage_lost hp h8 ha]
    intro t far
    obtain ⟨frames, copies, attrs, tlb⟩ := State.packageLost_forgets (s := s) (q := k)
    refine ⟨fun j => ?_, s.packageLost_pending k, s.packageLost_mem k, fun pa h => State.packageLost_paClass hp ha h,
      fun e he howned hheld off hoff => ?_, State.packageLost_holds h8, fun e he hk => State.packageLost_lines he hk, frames, copies, attrs,
      tlb, State.packageLost_reqs, fun i hi => s.packageLost_open k hi⟩
    · rw [show t.r.alive = _ from s.packageLost_alive k]
      exact bit_xor_self ha j
    · exact State.packageLost_poisons (List.mem_filter.mpr ⟨he, by simp [howned, hheld]⟩) hoff
  case taken =>
    refine ⟨_, execStackTakeout_takes rfl h12 ho, State.stackTaken_out _ _ _, rfl, rfl, fun j hj i hi => ?_, fun hnone => ?_⟩
    · rw [hj]
      exact stackMap_get _ _ _ hi
    · rw [hnone]
      rfl
  all_goals have step : exec .dieIsolate s = _ := execDieIsolate_eq (k := k) rfl
  · exact fun h => step.trans (if_pos h)
  · exact fun h4 hc hs => step.trans ((if_neg (not_or_intro (Nat.not_le.mpr h4) hc)).trans (if_pos hs))
  · exact fun h4 hc hs => ⟨_, step.trans ((if_neg (not_or_intro (Nat.not_le.mpr h4) hc)).trans (if_neg (not_not_intro hs))),
      fun i hi => State.closeCores_mode _ k hi, s.dieIsolated_ctl k⟩

end Sys2Proof.Proofs
end
